-- ==== Sys2Proof/Word.lean ====
section
/-!
DEFINITION. The word type of the machine and the byte: R66 (an instruction word is 64 bits), R90 (scalar
registers of 64 bits), R3 (memory is made of bytes).
-/
namespace Sys2Proof

/-- A 64-bit word (R66, R90). -/
abbrev Word := BitVec 64

/-- A byte of memory (R3). -/
abbrev Byte := BitVec 8

end Sys2Proof
end

