-- ==== Sys2Proof/Config.lean ====
section
/-!
DEFINITION. What one implementation fixes and the values the spec leaves open: constants without a body, so that no
proof can see what they are (R65; DESIGN CHOICE, notes/assumptions/8.md and 12.md). Each is applied to the counter `fresh` or to
`clock` of the state, or to the data it depends on.
-/
namespace Sys2Proof.Config

/-- How many of the hart's accepted vector stores have performed when a later relaxed scalar access performs: R107
leaves the number open. -/
opaque settled : Nat → Nat

/-- Device time in nanoseconds since reset at a count of steps (R234, R238, R429). -/
opaque deviceTime : Nat → BitVec 64

/-- The cycles a bound read or write waited for its strip (R305): timing. -/
opaque stallCycles : Nat → Nat

/-- Whether the host completes a PCIe AtomicOp with an error status (R102). -/
opaque hostAtomicError : Nat → Bool

/-- Whether a peer refuses an access for want of a live context (R420): the peer's own state. -/
opaque peerRefuses : Nat → Bool

/-- Whether a peer's own checks find a bad line on a read (R420, R377, R370): 0 none, 1 poison, 2 integrity. -/
opaque peerLineState : Nat → Nat

/-- IDENT.REV, the silicon revision (R444). -/
opaque siliconRev : BitVec 16

/-- Whether an SLH-DSA signature verifies over an image under the vendor key fused into Ovune (R442). -/
opaque verifies : List Byte → List Byte → Bool

/-- The bytes of a signature under the device key that Ovune holds (R239, R443), before the cut to 29,792. -/
opaque signature : List Byte → List Byte

/-- A `tval` that no rule gives (R237: STEP names none). -/
opaque unstated : Nat → BitVec 64

/-- The ciphertext a host read outside any readable key returns, byte by byte (R437, R370). -/
opaque unreadable : Nat → Byte

/-- A byte of a vector register that lost its lanes (R179, R211: a cheap save and a lane change keep none). -/
opaque lostLane : Nat → Byte

/-- Whether an aligned 8-byte word of a residual write that faults stands written (R448: old or new). -/
opaque wroteWord : Nat → Bool

/-- The docids a query has consumed so far (R403): timing (R65). -/
opaque docidsDone : Nat → Nat

/-- Which of the free ids a posting engine gives a query (R402). -/
opaque queryId : Nat → Nat

/-- A byte of a flit whose contents R417 leaves to the layer that sends it (payload, slice). -/
opaque flitByte : Nat → Byte

/-- How many of a port's oldest unacknowledged flits a response flit acknowledges: R417 gives acknowledgements no
layout. -/
opaque flitAcks : List Byte → Nat

/-- Whether a response flit asks for the flits that are still unacknowledged to be sent again (R417 gives replay requests
no layout). -/
opaque flitReplay : List Byte → Bool

/-- The device to which a flit is addressed, a DEVNO (R413): R417 gives no place for it. -/
opaque flitDest : List Byte → BitVec 6

/-- Whether a response flit acknowledges a remote store of an identity (R417 gives acknowledgements no layout, R419). -/
opaque acksStore : List Byte → Nat → Bool

/-- How many elements after the first a part of `VAMO` applies before other agents may act (R157, R412). -/
opaque vamoPart : Nat → Nat

/-- Whether the first receivers have acknowledged every contributed element before LOC (R427). -/
opaque sourceAcked : Nat → Bool

/-- Whether a lost member's report of a call had arrived before its loss was declared (R428). -/
opaque reportArrived : Nat → Bool

/-- The S runtime image that Ovune measures as a context is created (R441): no rule gives its extent. -/
opaque runtimeImage : Nat → List Byte

/-- The sections of the fatal dump that R239 gives no layout: engine state (type 7) and error logs (type 8), by type and
unit, and how many units write one. -/
opaque dumpUnits : Nat → Nat
opaque dumpSection : Nat → Nat → List Byte

/-- The voltage in mV that an island's loop chooses (R439). -/
opaque islandVoltage : Nat → Nat

/-- HOURS of RAKECTL after a write above 8760, which R377 does not give. -/
opaque rakeHours : Nat → BitVec 16

/-- Which of a core's free hart slots stands first for the next group (R198 names no order). -/
opaque slotOrder : Nat → Nat

/-- Whether a descriptor record with a nonzero reserved bit is malformed: R240 wants zero there and does not say what
`DLD` does with another value (R7). -/
opaque strayBits : Bool

end Sys2Proof.Config
end

