-- ==== Sys2Proof/Syntax.lean ====
section
/-!
DEFINITION. The instruction formats of R68 to R80 and the one inductive `Instr`: a constructor for every row of
spec/opcode_table.json. A constructor of an instruction holds the fields of its format; a constructor of an event
(a step of an engine, of the scheduler, of the host or of a link) holds what names the work it acts on and the data
that come from outside the device.
-/
namespace Sys2Proof

/-- Format S (R68); bits [23:0] are reserved and zero. -/
structure FmtS where
  sd : BitVec 6
  sa : BitVec 6
  sb : BitVec 6
  sc : BitVec 6
  deriving DecidableEq, Repr

/-- Format I (R69). -/
structure FmtI where
  sd  : BitVec 6
  sa  : BitVec 6
  imm : BitVec 44
  deriving DecidableEq, Repr

/-- Format B (R70). -/
structure FmtB where
  cnd : BitVec 4
  sa  : BitVec 6
  sb  : BitVec 6
  off : BitVec 40
  deriving DecidableEq, Repr

/-- Format J (R71). -/
structure FmtJ where
  sd  : BitVec 6
  off : BitVec 50
  deriving DecidableEq, Repr

/-- Format M (R72). -/
structure FmtM where
  sz    : BitVec 3
  sd    : BitVec 6
  sa    : BitVec 6
  ord   : BitVec 3
  scope : BitVec 3
  imm   : BitVec 35
  deriving DecidableEq, Repr

/-- Format V (R73); bits [2:0] are reserved and zero. -/
structure FmtV where
  vd  : BitVec 6
  va  : BitVec 6
  vb  : BitVec 6
  vc  : BitVec 6
  msk : BitVec 4
  ch  : BitVec 3
  ovr : BitVec 4
  mod : BitVec 5
  rm  : BitVec 3
  sat : BitVec 1
  z   : BitVec 1
  deriving DecidableEq, Repr

/-- Format VM (R76). -/
structure FmtVM where
  vd  : BitVec 6
  sa  : BitVec 6
  sb  : BitVec 6
  msk : BitVec 4
  e   : BitVec 1
  o   : BitVec 1
  ff  : BitVec 1
  ch  : BitVec 1
  sp  : BitVec 3
  ovr : BitVec 4
  imm : BitVec 17
  deriving DecidableEq, Repr

/-- Format A (R77); bits [5:0] are reserved and zero. -/
structure FmtA where
  dd : BitVec 5
  da : BitVec 5
  db : BitVec 5
  ka : BitVec 4
  kb : BitVec 4
  ax : BitVec 4
  wd : BitVec 5
  fl : BitVec 4
  sa : BitVec 6
  deriving DecidableEq, Repr

/-- Format X (R78); bits [11:0] are reserved and zero. -/
structure FmtX where
  xd  : BitVec 6
  xa  : BitVec 6
  xb  : BitVec 6
  at_ : BitVec 1
  ch  : BitVec 2
  msk : BitVec 4
  ovr : BitVec 4
  rm  : BitVec 3
  sat : BitVec 1
  q   : BitVec 3
  deriving DecidableEq, Repr

/-- Format C (R79). -/
structure FmtC where
  sd  : BitVec 6
  sa  : BitVec 6
  sb  : BitVec 6
  vt  : BitVec 6
  lm  : BitVec 4
  imm : BitVec 20
  deriving DecidableEq, Repr

/-- Format Y (R80); bits [26:24] are reserved and zero. -/
structure FmtY where
  sd    : BitVec 6
  sa    : BitVec 6
  sb    : BitVec 6
  scope : BitVec 3
  cn    : BitVec 12
  imm   : BitVec 12
  deriving DecidableEq, Repr

/-- What an access needs of its page (R98, R150, R66): a fetch, a load, a store, or both load and store. -/
inductive Access where
  | fetch
  | load
  | store
  | both
  deriving DecidableEq, Repr

/-- What the patrol scrubber finds in a line (R377). -/
inductive Scrub where
  | clean
  | corrected
  | uncorrectable
  deriving DecidableEq, Repr

/-- An access of the host through an HDM decoder (R437). -/
inductive HostReq where
  | read (n : Nat)
  | write (data : List Byte)
  deriving DecidableEq, Repr

/-- What a peer does to a barrier record in this device's memory (R420): an arrival of `BAR`, its withdrawal from a generation,
a fault arrival with its cause and party, or `BINIT.SET` (R353). -/
inductive BarUpdate where
  | arrive
  | withdraw (gen : BitVec 32)
  | fault (cause : BitVec 6) (hart dev : Nat)
  | set (target : BitVec 32)
  deriving DecidableEq, Repr

/-- An access of a peer to this device's memory (R420): the operation codes of `amo` are those of R72. -/
inductive RemoteReq where
  | load (n : Nat)
  | store (data : List Byte)
  | amo (aop size : Nat) (v e : Word)
  | barrier (u : BarUpdate)
  deriving DecidableEq, Repr

/-- The fields of a collective record that the members' records must agree in (R428), and the member's rank. -/
structure CallTerms where
  kindc : Nat
  op    : Nat
  mtag  : Nat
  count : Nat
  nm1   : Nat
  wc    : Bool
  root  : Nat
  rank  : Nat
  memb  : List Nat
  deriving DecidableEq, Repr

/-- The instructions of R85 and the events of the other agents: one constructor per row of
spec/opcode_table.json, with the row's rule. -/
inductive Instr where
  /-- ADD (R92). -/
  | add (f : FmtS)
  /-- SUB (R92). -/
  | sub (f : FmtS)
  /-- AND (R92). -/
  | andS (f : FmtS)
  /-- OR (R92). -/
  | orS (f : FmtS)
  /-- XOR (R92). -/
  | xorS (f : FmtS)
  /-- ANDN (R92). -/
  | andn (f : FmtS)
  /-- MIN (R92). -/
  | minS (f : FmtS)
  /-- MAX (R92). -/
  | maxS (f : FmtS)
  /-- MINU (R92). -/
  | minu (f : FmtS)
  /-- MAXU (R92). -/
  | maxu (f : FmtS)
  /-- SEL (R92). -/
  | sel (f : FmtS)
  /-- LEA (R92). -/
  | lea (f : FmtS)
  /-- MUL (R93). -/
  | mul (f : FmtS)
  /-- MULH (R93). -/
  | mulh (f : FmtS)
  /-- MULHU (R93). -/
  | mulhu (f : FmtS)
  /-- DIV (R93). -/
  | div (f : FmtS)
  /-- DIVU (R93). -/
  | divu (f : FmtS)
  /-- REM (R93). -/
  | rem (f : FmtS)
  /-- REMU (R93). -/
  | remu (f : FmtS)
  /-- MADD (R93). -/
  | madd (f : FmtS)
  /-- SHL (R94). -/
  | shl (f : FmtS)
  /-- SHR (R94). -/
  | shr (f : FmtS)
  /-- SRA (R94). -/
  | sra (f : FmtS)
  /-- ROL (R94). -/
  | rol (f : FmtS)
  /-- CLZ (R94). -/
  | clz (f : FmtS)
  /-- CTZ (R94). -/
  | ctz (f : FmtS)
  /-- POPC (R94). -/
  | popc (f : FmtS)
  /-- SEXT (R94). -/
  | sext (f : FmtS)
  /-- ZEXT (R94). -/
  | zext (f : FmtS)
  /-- SLT (R95). -/
  | slt (f : FmtS)
  /-- SLTU (R95). -/
  | sltu (f : FmtS)
  /-- SEQ (R95). -/
  | seq (f : FmtS)
  /-- SNE (R95). -/
  | sne (f : FmtS)
  /-- ADDI (R96). -/
  | addi (f : FmtI)
  /-- ANDI (R96). -/
  | andi (f : FmtI)
  /-- ORI (R96). -/
  | ori (f : FmtI)
  /-- XORI (R96). -/
  | xori (f : FmtI)
  /-- SHLI (R96). -/
  | shli (f : FmtI)
  /-- SHRI (R96). -/
  | shri (f : FmtI)
  /-- SRAI (R96). -/
  | srai (f : FmtI)
  /-- LI (R96). -/
  | li (f : FmtI)
  /-- LIH (R96). -/
  | lih (f : FmtI)
  /-- SLTI (R96). -/
  | slti (f : FmtI)
  /-- SLTIU (R96). -/
  | sltiu (f : FmtI)
  /-- BR (R97). -/
  | br (f : FmtB)
  /-- JMP (R97). -/
  | jmp (f : FmtJ)
  /-- CALL (R97). -/
  | call (f : FmtJ)
  /-- JR (R97). -/
  | jr (f : FmtI)
  /-- LOOP (R97). -/
  | loop (f : FmtB)
  /-- LD (R100). -/
  | ld (f : FmtM)
  /-- ST (R100). -/
  | st (f : FmtM)
  /-- AMO (R101). -/
  | amo (f : FmtM)
  /-- FENCE (R103). -/
  | fence (f : FmtM)
  /-- VADD (R118). -/
  | vadd (f : FmtV)
  /-- VSUB (R118). -/
  | vsub (f : FmtV)
  /-- VMUL (R118). -/
  | vmul (f : FmtV)
  /-- VMULH (R118). -/
  | vmulh (f : FmtV)
  /-- VDIV (R118). -/
  | vdiv (f : FmtV)
  /-- VREM (R118). -/
  | vrem (f : FmtV)
  /-- VMIN (R118). -/
  | vmin (f : FmtV)
  /-- VMAX (R118). -/
  | vmax (f : FmtV)
  /-- VABS (R118). -/
  | vabs (f : FmtV)
  /-- VNEG (R118). -/
  | vneg (f : FmtV)
  /-- VABSD (R118). -/
  | vabsd (f : FmtV)
  /-- VAVG (R118). -/
  | vavg (f : FmtV)
  /-- VFMA (R118). -/
  | vfma (f : FmtV)
  /-- VFMS (R118). -/
  | vfms (f : FmtV)
  /-- VFNMA (R118). -/
  | vfnma (f : FmtV)
  /-- VCLAMP (R118). -/
  | vclamp (f : FmtV)
  /-- VSQRT (R119). -/
  | vsqrt (f : FmtV)
  /-- VEXP2 (R119). -/
  | vexp2 (f : FmtV)
  /-- VLOG2 (R119). -/
  | vlog2 (f : FmtV)
  /-- VRCPE (R120). -/
  | vrcpe (f : FmtV)
  /-- VRCPS (R121). -/
  | vrcps (f : FmtV)
  /-- VRSQE (R120). -/
  | vrsqe (f : FmtV)
  /-- VRSQS (R121). -/
  | vrsqs (f : FmtV)
  /-- VAND (R122). -/
  | vand (f : FmtV)
  /-- VOR (R122). -/
  | vor (f : FmtV)
  /-- VXOR (R122). -/
  | vxor (f : FmtV)
  /-- VNOT (R122). -/
  | vnot (f : FmtV)
  /-- VSHL (R122). -/
  | vshl (f : FmtV)
  /-- VSHR (R122). -/
  | vshr (f : FmtV)
  /-- VROL (R122). -/
  | vrol (f : FmtV)
  /-- VPOPC (R122). -/
  | vpopc (f : FmtV)
  /-- VCLZ (R122). -/
  | vclz (f : FmtV)
  /-- VCMP (R123). -/
  | vcmp (f : FmtV)
  /-- VSEL (R124). -/
  | vsel (f : FmtV)
  /-- VCLASS (R125). -/
  | vclass (f : FmtV)
  /-- VCVT (R126). -/
  | vcvt (f : FmtV)
  /-- VQNT (R127). -/
  | vqnt (f : FmtV)
  /-- VPXUNP (R128). -/
  | vpxunp (f : FmtV)
  /-- VPXPAK (R128). -/
  | vpxpak (f : FmtV)
  /-- VRED (R132). -/
  | vred (f : FmtV)
  /-- VSCAN (R133). -/
  | vscan (f : FmtV)
  /-- VPERM (R134). -/
  | vperm (f : FmtV)
  /-- VSLIDEUP (R134). -/
  | vslideup (f : FmtV)
  /-- VSLIDEDN (R134). -/
  | vslidedn (f : FmtV)
  /-- VCOMPRESS (R135). -/
  | vcompress (f : FmtV)
  /-- VEXPAND (R135). -/
  | vexpand (f : FmtV)
  /-- VIOTA (R135). -/
  | viota (f : FmtV)
  /-- VID (R135). -/
  | vid (f : FmtV)
  /-- VSPLAT (R136). -/
  | vsplat (f : FmtV)
  /-- VMV (R136). -/
  | vmv (f : FmtV)
  /-- VEXTR (R136). -/
  | vextr (f : FmtV)
  /-- VINS (R136). -/
  | vins (f : FmtV)
  /-- VKEY (R137). -/
  | vkey (f : FmtV)
  /-- VSORTK (R138). -/
  | vsortk (f : FmtV)
  /-- VMERGEK (R138). -/
  | vmergek (f : FmtV)
  /-- VTOPK (R138). -/
  | vtopk (f : FmtV)
  /-- VUNKEY (R139). -/
  | vunkey (f : FmtV)
  /-- MAND (R141). -/
  | mand (f : FmtV)
  /-- MOR (R141). -/
  | mor (f : FmtV)
  /-- MXOR (R141). -/
  | mxor (f : FmtV)
  /-- MANDN (R141). -/
  | mandn (f : FmtV)
  /-- MNOT (R141). -/
  | mnot (f : FmtV)
  /-- MPOPC (R141). -/
  | mpopc (f : FmtV)
  /-- MFIRST (R141). -/
  | mfirst (f : FmtV)
  /-- MSET (R141). -/
  | mset (f : FmtV)
  /-- MGET (R141). -/
  | mget (f : FmtV)
  /-- MWAIT (R142). -/
  | mwait (f : FmtV)
  /-- MWAIT_COMPLETE (R142). -/
  | mwaitComplete (h : Nat)
  /-- SETVL (R116). -/
  | setvl (f : FmtV)
  /-- SETTAG (R115). -/
  | settag (f : FmtV)
  /-- VLD (R147). -/
  | vld (f : FmtVM)
  /-- VLDS (R147). -/
  | vlds (f : FmtVM)
  /-- VLDX (R147). -/
  | vldx (f : FmtVM)
  /-- VLDT (R155). -/
  | vldt (f : FmtVM)
  /-- VLDL (R156). -/
  | vldl (f : FmtVM)
  /-- VLDC (R318). -/
  | vldc (f : FmtVM)
  /-- VST (R147). -/
  | vst (f : FmtVM)
  /-- VSTS (R147). -/
  | vsts (f : FmtVM)
  /-- VSTX (R147). -/
  | vstx (f : FmtVM)
  /-- VSTT (R155). -/
  | vstt (f : FmtVM)
  /-- VSTL (R156). -/
  | vstl (f : FmtVM)
  /-- VAMO (R160). -/
  | vamo (f : FmtVM)
  /-- VPF (R161). -/
  | vpf (f : FmtVM)
  /-- CPY (R162). -/
  | cpy (f : FmtVM)
  /-- TILE_COPY_CHUNK_DONE (R163). -/
  | tileCopyChunkDone (t : Nat)
  /-- TILE_COPY_FAULT (R164). -/
  | tileCopyFault (t : Nat)
  /-- DLD (R251). -/
  | dld (f : FmtA)
  /-- DSTR (R251). -/
  | dstr (f : FmtA)
  /-- DGET (R252). -/
  | dget (f : FmtA)
  /-- DSETX (R252). -/
  | dsetx (f : FmtA)
  /-- DRESH (R253). -/
  | dresh (f : FmtA)
  /-- DTRANS (R251). -/
  | dtrans (f : FmtA)
  /-- DTAKE (R254). -/
  | dtake (f : FmtA)
  /-- AADD (R255). -/
  | aadd (f : FmtA)
  /-- ASUB (R255). -/
  | asub (f : FmtA)
  /-- AMUL (R255). -/
  | amul (f : FmtA)
  /-- ADIV (R255). -/
  | adiv (f : FmtA)
  /-- AMIN (R255). -/
  | amin (f : FmtA)
  /-- AMAX (R255). -/
  | amax (f : FmtA)
  /-- AFMA (R255). -/
  | afma (f : FmtA)
  /-- ACLAMP (R257). -/
  | aclamp (f : FmtA)
  /-- ACMP (R256). -/
  | acmp (f : FmtA)
  /-- ASEL (R255). -/
  | asel (f : FmtA)
  /-- ACVT (R255). -/
  | acvt (f : FmtA)
  /-- AAND (R255). -/
  | aand (f : FmtA)
  /-- AOR (R255). -/
  | aor (f : FmtA)
  /-- AXOR (R255). -/
  | axor (f : FmtA)
  /-- ANOT (R255). -/
  | anot (f : FmtA)
  /-- AABS (R255). -/
  | aabs (f : FmtA)
  /-- ANEG (R255). -/
  | aneg (f : FmtA)
  /-- ASQRT (R255). -/
  | asqrt (f : FmtA)
  /-- AEXP2 (R255). -/
  | aexp2 (f : FmtA)
  /-- ALOG2 (R255). -/
  | alog2 (f : FmtA)
  /-- AQNT (R255). -/
  | aqnt (f : FmtA)
  /-- AIOTA (R275). -/
  | aiota (f : FmtA)
  /-- AFILL (R275). -/
  | afill (f : FmtA)
  /-- ACOPY (R275). -/
  | acopy (f : FmtA)
  /-- AROT (R276). -/
  | arot (f : FmtA)
  /-- AREV (R276). -/
  | arev (f : FmtA)
  /-- ATAKE (R276). -/
  | atake (f : FmtA)
  /-- ARESH (R275). -/
  | aresh (f : FmtA)
  /-- ACAT (R277). -/
  | acat (f : FmtA)
  /-- AGATH (R278). -/
  | agath (f : FmtA)
  /-- ACOMP (R272). -/
  | acomp (f : FmtA)
  /-- AEXPD (R273). -/
  | aexpd (f : FmtA)
  /-- AGRADE (R269). -/
  | agrade (f : FmtA)
  /-- AOUTER (R279). -/
  | aouter (f : FmtA)
  /-- AINNER (R280). -/
  | ainner (f : FmtA)
  /-- ATOPK (R270). -/
  | atopk (f : FmtA)
  /-- ARED (R265). -/
  | ared (f : FmtA)
  /-- ASCAN (R266). -/
  | ascan (f : FmtA)
  /-- AMED (R267). -/
  | amed (f : FmtA)
  /-- WADJ (R327). -/
  | wadj (f : FmtA)
  /-- WCHK (R329). -/
  | wchk (f : FmtA)
  /-- WCHK_SEAL (R329). -/
  | wchkSeal (f : FmtA)
  /-- WREL (R330). -/
  | wrel (f : FmtA)
  /-- MMODE_ON (R286). -/
  | mmodeOn (f : FmtX)
  /-- MMODE_OFF (R286). -/
  | mmodeOff (f : FmtX)
  /-- MSHAPE (R287). -/
  | mshape (f : FmtX)
  /-- MZERO (R288). -/
  | mzero (f : FmtX)
  /-- MACT (R289). -/
  | mact (f : FmtX)
  /-- MACTS (R289). -/
  | macts (f : FmtX)
  /-- MMOVN (R291). -/
  | mmovn (f : FmtX)
  /-- MMOVW (R292). -/
  | mmovw (f : FmtX)
  /-- MVMAC (R292). -/
  | mvmac (f : FmtX)
  /-- BIND (R315). -/
  | bind (f : FmtC)
  /-- UNBIND (R316). -/
  | unbind (f : FmtC)
  /-- SSTAT (R317). -/
  | sstat (f : FmtC)
  /-- STREAM_UNIT_READ (R304). -/
  | streamUnitRead (h vt : Nat)
  /-- WRITE_STRIP_PERFORM (R305). -/
  | writeStripPerform (h vt : Nat)
  /-- DECODER_BLOCK (R310). -/
  | decoderBlock (h vt : Nat)
  /-- XTAB (R387). -/
  | xtab (f : FmtC)
  /-- TABLE_REPLACE (R387). -/
  | tableReplace (ch : Nat)
  /-- XRUN (R388). -/
  | xrun (f : FmtC)
  /-- XSTAT (R389). -/
  | xstat (f : FmtC)
  /-- RUN_START (R385). -/
  | runStart (ch : Nat)
  /-- TRANSDUCER_STEP (R381). -/
  | transducerStep (r : Nat)
  /-- RUN_END (R383). -/
  | runEnd (r : Nat)
  /-- PQRY (R402). -/
  | pqry (f : FmtC)
  /-- PSTAT (R403). -/
  | pstat (f : FmtC)
  /-- QUERY_START (R400). -/
  | queryStart (q : Nat)
  /-- QUERY_END (R399). -/
  | queryEnd (q : Nat)
  /-- CSTAT (R433). -/
  | cstat (f : FmtC)
  /-- CABORT (R434). -/
  | cabort (f : FmtC)
  /-- BAR (R355). -/
  | bar (f : FmtY)
  /-- BARRIER_RECHECK (R355). -/
  | barrierRecheck (h : Nat)
  /-- BINIT_SET (R358). -/
  | binitSet (f : FmtY)
  /-- BINIT_FAULT (R358). -/
  | binitFault (f : FmtY)
  /-- QPOST (R190). -/
  | qpost (f : FmtY)
  /-- QPOLL (R191). -/
  | qpoll (f : FmtY)
  /-- LAUNCH (R201). -/
  | launch (f : FmtY)
  /-- KEXIT (R202). -/
  | kexit (f : FmtY)
  /-- KEXIT_ABORT (R202). -/
  | kexitAbort (f : FmtY)
  /-- CWAIT (R203). -/
  | cwait (f : FmtY)
  /-- CWAIT_RECHECK (R203). -/
  | cwaitRecheck (h : Nat)
  /-- EVWAIT (R221). -/
  | evwait (f : FmtY)
  /-- EVWAIT_WAKE (R221). -/
  | evwaitWake (h : Nat)
  /-- YIELD (R222). -/
  | yield (f : FmtY)
  /-- GETC (R233). -/
  | getc (f : FmtY)
  /-- SETC (R233). -/
  | setc (f : FmtY)
  /-- SYSC (R234). -/
  | sysc (f : FmtY)
  /-- BRK (R234). -/
  | brk (f : FmtY)
  /-- TRET (R234). -/
  | tret (f : FmtY)
  /-- TLBB (R367). -/
  | tlbb (f : FmtY)
  /-- TLBU (R368). -/
  | tlbu (f : FmtY)
  /-- TLBI (R369). -/
  | tlbi (f : FmtY)
  /-- PMIG (R373). -/
  | pmig (f : FmtY)
  /-- NOP (R235). -/
  | nop (f : FmtY)
  /-- HINT_NOP (R87). -/
  | hintNop (bits : BitVec 56)
  /-- PREEMPT_REQUEST (R213). -/
  | preemptRequest (g : Nat)
  /-- LANE_GROWTH_OFFER (R211). -/
  | laneGrowthOffer (g : Nat)
  /-- RECLAIM_DEADLINE (R212). -/
  | reclaimDeadline (g : Nat)
  /-- GROUP_RESUME (R215). -/
  | groupResume (g : Nat)
  /-- GROUP_PLACE (R198). -/
  | groupPlace 
  /-- KERNEL_DISPATCH (R197). -/
  | kernelDispatch (k : Nat)
  /-- KERNEL_RETIRE (R197). -/
  | kernelRetire (k : Nat)
  /-- CREATE (R169). -/
  | create (asid : Nat)
  /-- SWITCH_OUT (R169). -/
  | switchOut (asid : Nat)
  /-- SWITCH_IN (R169). -/
  | switchIn (asid : Nat)
  /-- TEARDOWN (R169). -/
  | teardown (asid : Nat)
  /-- RESUME (R169). -/
  | resume (asid : Nat)
  /-- BAD_OP (R168). -/
  | badOp (op asid : Nat)
  /-- ZEROISATION_CONFIRMED (R169). -/
  | zeroisationConfirmed (asid : Nat)
  /-- CONTEXT_COMMAND_COMPLETE (R168). -/
  | contextCommandComplete 
  /-- ATTACH (R181). -/
  | attach (q : Nat)
  /-- DETACH (R181). -/
  | detach (q : Nat)
  /-- RESET (R186). -/
  | reset (q : Nat)
  /-- TAIL (R182). -/
  | tail (q : Nat) (v : Word)
  /-- QUEUE_SCHEDULE (R189). -/
  | queueSchedule 
  /-- COUNTER_WAIT_RECHECK (R184). -/
  | counterWaitRecheck (q : Nat)
  /-- QUEUE_COPY_DONE (R184). -/
  | queueCopyDone (t : Nat)
  /-- QUEUE_AGING (R189). -/
  | queueAging (q : Nat)
  /-- QUEUE_SWITCH_IN (R188). -/
  | queueSwitchIn (q : Nat)
  /-- EVENT_POST (R238). -/
  | eventPost (asid : Nat)
  /-- PAGE_WALK (R365). -/
  | pageWalk (h : Nat) (va : Word) (acc : Access)
  /-- MIGRATION (R374). -/
  | migration (m : Nat)
  /-- MIGRATION_TIMEOUT (R374). -/
  | migrationTimeout (m : Nat)
  /-- HOT_WINDOW (R375). -/
  | hotWindow 
  /-- RAKE_SCRUB (R377). -/
  | rakeScrub (pa : Nat) (found : Scrub)
  /-- BANK_REFRESH (R376). -/
  | bankRefresh (bank : Nat)
  /-- HOST_MEMORY_ACCESS (R437). -/
  | hostMemoryAccess (pa : Nat) (rq : HostReq)
  /-- LINK_ENABLE (R416). -/
  | linkEnable (p : Nat)
  /-- LINK_DISABLE (R416). -/
  | linkDisable (p : Nat)
  /-- DRAIN (R416). -/
  | drain (p : Nat)
  /-- TRAINING_END (R416). -/
  | trainingEnd (p lanes peer peerPort : Nat)
  /-- LANE_LOST (R416). -/
  | laneLost (p : Nat)
  /-- REPLAY_LIMIT (R416). -/
  | replayLimit (p : Nat)
  /-- DEAD_TIME (R416). -/
  | deadTime (p : Nat)
  /-- DRAIN_DONE (R416). -/
  | drainDone (p : Nat)
  /-- HEARTBEAT (R419). -/
  | heartbeat 
  /-- FLIT_RECEIVE (R417). -/
  | flitReceive (p : Nat) (flit : List Byte)
  /-- DEVICE_LOST (R419). -/
  | deviceLost (d : Nat)
  /-- ROUTE_ENTRY_WRITE (R414). -/
  | routeEntryWrite (d : Nat) (v : Word)
  /-- REMOTE_ACCESS (R420): the peer, its ASID, the address here, and the buffer and declared mode (codes of R194, 0 for
  none) under which its agent reaches the page. -/
  | remoteAccess (dev asid pa buf mode : Nat) (rq : RemoteReq)
  /-- CALL_START (R428). -/
  | callStart (c : Nat) (others : List CallTerms)
  /-- COLLECTIVE_CHUNK_DONE (R423). -/
  | collectiveChunkDone (c chunk : Nat) (contrib : List (List Byte))
  /-- CALL_LOCAL (R427). -/
  | callLocal (c : Nat)
  /-- CALL_DONE (R428). -/
  | callDone (c : Nat)
  /-- CALL_ABORT (R431). -/
  | callAbort (c status lost : Nat)
  /-- ISLAND_DVFS (R439). -/
  | islandDvfs (i mhz : Nat)
  /-- DROOP_STRETCH (R439). -/
  | droopStretch (i : Nat)
  /-- POWER_CAP_TICK (R440). -/
  | powerCapTick (draw : Nat)
  /-- ATTCMD (R443). -/
  | attcmd 
  /-- ATTESTATION_REPORT (R443). -/
  | attestationReport 
  /-- DEVRST (R444). -/
  | devrst 
  /-- FIRMWARE_BOOT (R442). -/
  | firmwareBoot (images : List (List Byte × List Byte))
  /-- FATAL_ERROR (R239). -/
  | fatalError (cause cls unit detail : Nat)
  /-- DEBUG_REGISTER_WRITE (R236). -/
  | debugRegisterWrite (h off : Nat) (v : Word)
  /-- REGISTER_WRITE (R6). -/
  | registerWrite (bar off : Nat) (v : Word)
  /-- LANE_RECLAIM (R211). -/
  | laneReclaim (core : Nat)
  /-- QUERY_FAULT (R400). -/
  | queryFault (q : Nat)
  /-- QCMD_BAD_OP (R181). -/
  | qcmdBadOp (op q : Nat)
  deriving DecidableEq, Repr

end Sys2Proof
end

