-- ==== Sys2Proof/WellFormed.lean ====
section
/-!
DEFINITION. Which field values make a legal instruction word: the reserved, unused and illegal field values of R70 to
R82, R87 and of each instruction's entry. What a word's legality leaves to the executing hart's level (R83, R86) is
decided when it executes. An event of another agent has no word and is always well formed.
-/
namespace Sys2Proof

/-- The AOP field of `AMO`, IMM35 [34:31] (R72). -/
def FmtM.aop (f : FmtM) : BitVec 4 := BitVec.ofNat 4 (f.imm.toNat / 2 ^ 31)

/-- The SV field of `AMO`, IMM35 [30:25] (R72). -/
def FmtM.sv (f : FmtM) : BitVec 6 := BitVec.ofNat 6 (f.imm.toNat / 2 ^ 25)

/-- The SE field of `AMO`, IMM35 [24:19] (R72). -/
def FmtM.se (f : FmtM) : BitVec 6 := BitVec.ofNat 6 (f.imm.toNat / 2 ^ 19)

/-- Rounding codes 6 and 7 trap ILLEGAL on an instruction that is no conversion (R50). -/
abbrev FmtV.rmOk (f : FmtV) : Prop := f.rm.toNat ≤ 5

/-- MOD kind 15 and MOD = 0x10 trap ILLEGAL (R75). -/
abbrev FmtV.modOk (f : FmtV) : Prop := f.mod.toNat % 16 ≠ 15 ∧ f.mod.toNat ≠ 16

/-- Every control field of format V is zero, as majors 0x46 and 0x47 need them (R115, R141). -/
abbrev FmtV.bare (f : FmtV) : Prop :=
  f.msk = 0 ∧ f.ch = 0 ∧ f.ovr = 0 ∧ f.mod = 0 ∧ f.rm = 0 ∧ f.sat = 0 ∧ f.z = 0

/-- The spaces of `VLDS`, `VSTS`, `VLDX` and `VSTX` (R148). -/
abbrev FmtVM.spMem (f : FmtVM) : Prop := f.sp = 0 ∨ f.sp = 1 ∨ f.sp = 2 ∨ f.sp = 4 ∨ f.sp = 5

/-- The spaces of `VLDT`, `VSTT` and `VAMO` (R148, R160). -/
abbrev FmtVM.spTile (f : FmtVM) : Prop := f.sp = 0 ∨ f.sp = 1 ∨ f.sp = 2 ∨ f.sp = 5

/-- The AOP field of `VAMO`, IMM17 [16:13] (R76). -/
def FmtVM.aop (f : FmtVM) : BitVec 4 := BitVec.ofNat 4 (f.imm.toNat / 2 ^ 13)

/-- The rounding field FL [14:12] of majors 0x71 and 0x73 (R77). -/
def FmtA.rm (f : FmtA) : BitVec 3 := BitVec.ofNat 3 f.fl.toNat

/-- The SAT bit FL [15] of majors 0x71 and 0x73 (R77). -/
def FmtA.sat (f : FmtA) : Bool := decide (8 ≤ f.fl.toNat)

/-- Rounding codes 6 and 7 trap ILLEGAL on an array instruction that is no conversion (R50, R255). -/
abbrev FmtA.rmOk (f : FmtA) : Prop := f.rm.toNat ≤ 5

/-- A bound pair names an even register from s2 to s62 (R257, R265). -/
abbrev FmtA.pairOk (f : FmtA) : Prop := f.sa.toNat % 2 = 0 ∧ f.sa ≠ 0

/-- The functions `AOUTER` and `AINNER` accept in SA (R279). -/
abbrev FmtA.funOk (f : FmtA) : Prop := f.sa.toNat ≤ 5 ∨ (11 ≤ f.sa.toNat ∧ f.sa.toNat ≤ 13)

/-- The instruction's fields are legal (R87). CN of `TLBI`, which R369 neither uses nor names as unused, must be zero (DESIGN
CHOICE, notes/assumptions/50.md). -/
def wf : Instr → Bool
  | .add f => decide (f.sc = 0)
  | .sub f => decide (f.sc = 0)
  | .andS f => decide (f.sc = 0)
  | .orS f => decide (f.sc = 0)
  | .xorS f => decide (f.sc = 0)
  | .andn f => decide (f.sc = 0)
  | .minS f => decide (f.sc = 0)
  | .maxS f => decide (f.sc = 0)
  | .minu f => decide (f.sc = 0)
  | .maxu f => decide (f.sc = 0)
  | .sel _ => true
  | .lea f => decide (f.sc.toNat < 8)
  | .mul f => decide (f.sc = 0)
  | .mulh f => decide (f.sc = 0)
  | .mulhu f => decide (f.sc = 0)
  | .div f => decide (f.sc = 0)
  | .divu f => decide (f.sc = 0)
  | .rem f => decide (f.sc = 0)
  | .remu f => decide (f.sc = 0)
  | .madd _ => true
  | .shl f => decide (f.sc = 0)
  | .shr f => decide (f.sc = 0)
  | .sra f => decide (f.sc = 0)
  | .rol f => decide (f.sc = 0)
  | .clz f => decide (f.sb = 0 ∧ f.sc = 0)
  | .ctz f => decide (f.sb = 0 ∧ f.sc = 0)
  | .popc f => decide (f.sb = 0 ∧ f.sc = 0)
  | .sext f => decide (f.sc = 0)
  | .zext f => decide (f.sc = 0)
  | .slt f => decide (f.sc = 0)
  | .sltu f => decide (f.sc = 0)
  | .seq f => decide (f.sc = 0)
  | .sne f => decide (f.sc = 0)
  | .addi _ => true
  | .andi _ => true
  | .ori _ => true
  | .xori _ => true
  | .shli f => decide (f.imm.toNat < 64)
  | .shri f => decide (f.imm.toNat < 64)
  | .srai f => decide (f.imm.toNat < 64)
  | .li f => decide (f.sa = 0)
  | .lih f => decide (f.imm.toNat < 0x100000)
  | .slti _ => true
  | .sltiu _ => true
  | .br f => decide (f.cnd.toNat < 6)
  | .jmp f => decide (f.sd = 0)
  | .call _ => true
  | .jr _ => true
  | .loop f => decide (f.cnd = 0 ∧ f.sb = 0 ∧ f.sa ≠ 0)
  | .ld f => decide (f.sz.toNat ≤ 6 ∧ f.ord.toNat ≤ 1 ∧ f.scope.toNat ≤ 5)
  | .st f => decide (f.sz.toNat ≤ 3 ∧ (f.ord = 0 ∨ f.ord = 2) ∧ f.scope.toNat ≤ 5)
  | .amo f => decide ((f.sz = 2 ∨ f.sz = 3) ∧ f.ord.toNat ≤ 3 ∧ f.scope.toNat ≤ 5 ∧ f.aop.toNat ≤ 9 ∧ (f.aop = 2 ∨ f.se = 0))
  | .fence f => decide (f.sz = 0 ∧ f.sd = 0 ∧ f.sa = 0 ∧ f.ord = 0 ∧ f.scope.toNat ≤ 5 ∧ f.imm.toNat < 4)
  | .vadd f => decide (f.rmOk ∧ f.modOk ∧ f.vc = 0)
  | .vsub f => decide (f.rmOk ∧ f.modOk ∧ f.vc = 0)
  | .vmul f => decide (f.rmOk ∧ f.modOk ∧ f.vc = 0)
  | .vmulh f => decide (f.rmOk ∧ f.modOk ∧ f.vc = 0)
  | .vdiv f => decide (f.rmOk ∧ f.modOk ∧ f.vc = 0)
  | .vrem f => decide (f.rmOk ∧ f.modOk ∧ f.vc = 0)
  | .vmin f => decide (f.rmOk ∧ f.modOk ∧ f.vc = 0)
  | .vmax f => decide (f.rmOk ∧ f.modOk ∧ f.vc = 0)
  | .vabs f => decide (f.rmOk ∧ f.mod = 0 ∧ f.vb = 0 ∧ f.vc = 0)
  | .vneg f => decide (f.rmOk ∧ f.mod = 0 ∧ f.vb = 0 ∧ f.vc = 0)
  | .vabsd f => decide (f.rmOk ∧ f.modOk ∧ f.vc = 0)
  | .vavg f => decide (f.rmOk ∧ f.modOk ∧ f.vc = 0)
  | .vfma f => decide (f.rmOk ∧ f.modOk)
  | .vfms f => decide (f.rmOk ∧ f.modOk)
  | .vfnma f => decide (f.rmOk ∧ f.modOk)
  | .vclamp f => decide (f.rmOk ∧ f.modOk)
  | .vsqrt f => decide (f.rmOk ∧ f.mod = 0 ∧ f.vb = 0 ∧ f.vc = 0)
  | .vexp2 f => decide (f.rmOk ∧ f.mod = 0 ∧ f.vb = 0 ∧ f.vc = 0)
  | .vlog2 f => decide (f.rmOk ∧ f.mod = 0 ∧ f.vb = 0 ∧ f.vc = 0)
  | .vrcpe f => decide (f.rm = 0 ∧ f.mod = 0 ∧ f.vb = 0 ∧ f.vc = 0)
  | .vrcps f => decide (f.rmOk ∧ f.modOk ∧ f.vc = 0)
  | .vrsqe f => decide (f.rm = 0 ∧ f.mod = 0 ∧ f.vb = 0 ∧ f.vc = 0)
  | .vrsqs f => decide (f.rmOk ∧ f.modOk ∧ f.vc = 0)
  | .vand f => decide (f.rmOk ∧ f.modOk ∧ f.vc = 0)
  | .vor f => decide (f.rmOk ∧ f.modOk ∧ f.vc = 0)
  | .vxor f => decide (f.rmOk ∧ f.modOk ∧ f.vc = 0)
  | .vnot f => decide (f.rmOk ∧ f.mod = 0 ∧ f.vb = 0 ∧ f.vc = 0)
  | .vshl f => decide (f.rmOk ∧ f.modOk ∧ f.vc = 0)
  | .vshr f => decide (f.rmOk ∧ f.modOk ∧ f.vc = 0)
  | .vrol f => decide (f.rmOk ∧ f.modOk ∧ f.vc = 0)
  | .vpopc f => decide (f.rmOk ∧ f.mod = 0 ∧ f.vb = 0 ∧ f.vc = 0)
  | .vclz f => decide (f.rmOk ∧ f.mod = 0 ∧ f.vb = 0 ∧ f.vc = 0)
  | .vcmp f => decide (f.rm = 0 ∧ f.sat = 0 ∧ f.modOk ∧ f.vc.toNat < 8)
  | .vsel f => decide (f.rmOk ∧ f.modOk)
  | .vclass f => decide (f.rm = 0 ∧ f.sat = 0 ∧ f.mod = 0 ∧ f.vb = 0 ∧ f.vc = 0)
  | .vcvt f => decide (f.ovr = 0 ∧ f.rm ≠ 7 ∧ f.mod = 0 ∧ f.vb = 0 ∧ f.vc = 0)
  | .vqnt f => decide (f.ovr = 0 ∧ f.rm ≠ 7 ∧ f.mod = 0 ∧ f.vc = 0)
  | .vpxunp f => decide (f.ovr = 0 ∧ f.rm = 0 ∧ f.sat = 0 ∧ f.mod = 0 ∧ f.vb = 0 ∧ f.vc.toNat < 3)
  | .vpxpak f => decide (f.ovr = 0 ∧ f.rm = 0 ∧ f.sat = 0 ∧ f.mod = 0 ∧ f.vb = 0 ∧ f.vc.toNat < 3)
  | .vred f => decide (f.rmOk ∧ f.mod = 0 ∧ f.vb = 0 ∧ f.vc.toNat < 7)
  | .vscan f => decide (f.rmOk ∧ f.mod = 0 ∧ f.vb = 0 ∧ f.vc.toNat < 16 ∧ f.vc.toNat % 8 < 7)
  | .vperm f => decide (f.rm = 0 ∧ f.sat = 0 ∧ f.mod = 0 ∧ f.vc = 0)
  | .vslideup f => decide (f.rm = 0 ∧ f.sat = 0 ∧ f.mod = 0 ∧ f.vc = 0)
  | .vslidedn f => decide (f.rm = 0 ∧ f.sat = 0 ∧ f.mod = 0 ∧ f.vc = 0)
  | .vcompress f => decide (f.rm = 0 ∧ f.sat = 0 ∧ f.mod = 0 ∧ f.vb = 0 ∧ f.vc = 0)
  | .vexpand f => decide (f.rm = 0 ∧ f.sat = 0 ∧ f.mod = 0 ∧ f.vb = 0 ∧ f.vc = 0)
  | .viota f => decide (f.rm = 0 ∧ f.mod = 0 ∧ f.z = 0 ∧ f.va = 0 ∧ f.vb = 0 ∧ f.vc = 0)
  | .vid f => decide (f.rm = 0 ∧ f.mod = 0 ∧ f.va = 0 ∧ f.vb = 0 ∧ f.vc = 0)
  | .vsplat f => decide (f.rm = 0 ∧ f.sat = 0 ∧ f.mod = 0 ∧ f.vb = 0 ∧ f.vc = 0)
  | .vmv f => decide (f.rm = 0 ∧ f.sat = 0 ∧ f.modOk ∧ f.va = 0 ∧ f.vc = 0)
  | .vextr f => decide (f.rm = 0 ∧ f.sat = 0 ∧ f.mod = 0 ∧ f.msk = 0 ∧ f.z = 0 ∧ f.vc = 0)
  | .vins f => decide (f.rm = 0 ∧ f.sat = 0 ∧ f.mod = 0 ∧ f.msk = 0 ∧ f.z = 0 ∧ f.vc = 0)
  | .vkey f => decide (f.rm = 0 ∧ f.sat = 0 ∧ f.mod = 0 ∧ f.vc = 0)
  | .vsortk f => decide (f.rm = 0 ∧ f.sat = 0 ∧ f.z = 0 ∧ f.mod = 0 ∧ f.vb = 0 ∧ f.vc = 0)
  | .vmergek f => decide (f.rm = 0 ∧ f.sat = 0 ∧ f.z = 0 ∧ f.mod = 0 ∧ f.vc.toNat < 14)
  | .vtopk f => decide (f.rm = 0 ∧ f.sat = 0 ∧ f.z = 0 ∧ f.mod = 0 ∧ f.vc ≠ 0)
  | .vunkey f => decide (f.rmOk ∧ f.mod = 0 ∧ f.vb = 0 ∧ f.vc.toNat < 3)
  | .mand f => decide (f.bare ∧ f.vc = 0 ∧ f.vd.toNat < 16 ∧ f.va.toNat < 16 ∧ f.vb.toNat < 16)
  | .mor f => decide (f.bare ∧ f.vc = 0 ∧ f.vd.toNat < 16 ∧ f.va.toNat < 16 ∧ f.vb.toNat < 16)
  | .mxor f => decide (f.bare ∧ f.vc = 0 ∧ f.vd.toNat < 16 ∧ f.va.toNat < 16 ∧ f.vb.toNat < 16)
  | .mandn f => decide (f.bare ∧ f.vc = 0 ∧ f.vd.toNat < 16 ∧ f.va.toNat < 16 ∧ f.vb.toNat < 16)
  | .mnot f => decide (f.bare ∧ f.vc = 0 ∧ f.vb = 0 ∧ f.vd.toNat < 16 ∧ f.va.toNat < 16)
  | .mpopc f => decide (f.bare ∧ f.vc = 0 ∧ f.vb = 0 ∧ f.va.toNat < 16)
  | .mfirst f => decide (f.bare ∧ f.vc = 0 ∧ f.vb = 0 ∧ f.va.toNat < 16)
  | .mset f => decide (f.bare ∧ f.vc = 0 ∧ f.vb = 0 ∧ f.vd.toNat < 16)
  | .mget f => decide (f.bare ∧ f.vc = 0 ∧ f.vb = 0 ∧ f.va.toNat < 16)
  | .mwait f => decide (f.bare ∧ f.vc = 0 ∧ f.vd.toNat < 16)
  | .mwaitComplete _ => true
  | .setvl f => decide (f.msk = 0 ∧ f.ch = 0 ∧ f.mod = 0 ∧ f.rm = 0 ∧ f.sat = 0 ∧ f.z = 0 ∧ f.vc = 0)
  | .settag f => decide (f.bare ∧ f.va = 0 ∧ f.vb.toNat < 16 ∧ f.vd.toNat + f.vc.toNat ≤ 63)
  | .vld f => decide (f.sb = 0 ∧ f.sp.toNat ≤ 5)
  | .vlds f => decide (f.spMem)
  | .vldx f => decide (f.spMem)
  | .vldt f => decide (f.sb = 0 ∧ f.ff = 0 ∧ f.vd.toNat % 8 = 0 ∧ f.spTile)
  | .vldl f => decide (f.ff = 0 ∧ f.sp = 0)
  | .vldc f => decide (f.sp.toNat ≤ 1 ∧ f.msk = 0 ∧ f.e = 0 ∧ f.ff = 0 ∧ f.ch = 0)
  | .vst f => decide (f.sb = 0 ∧ f.ff = 0 ∧ f.sp.toNat ≤ 5)
  | .vsts f => decide (f.ff = 0 ∧ f.spMem)
  | .vstx f => decide (f.ff = 0 ∧ f.spMem)
  | .vstt f => decide (f.sb = 0 ∧ f.ff = 0 ∧ f.vd.toNat % 8 = 0 ∧ f.spTile)
  | .vstl f => decide (f.ff = 0 ∧ f.sp = 0)
  | .vamo f => decide (f.ff = 0 ∧ f.spTile ∧ f.aop.toNat ≤ 9 ∧ f.aop ≠ 2)
  | .vpf f => decide (f.vd = 0 ∧ f.msk = 0 ∧ f.e = 0 ∧ f.o = 0 ∧ f.ff = 0 ∧ f.ch = 0 ∧ f.sp = 0 ∧ f.ovr = 0)
  | .cpy f => decide (1 ≤ f.vd.toNat ∧ f.vd.toNat < 16 ∧ f.sa.toNat % 2 = 0 ∧ f.sa ≠ 0 ∧ (f.sp = 1 ∨ f.sp = 2) ∧ f.msk = 0 ∧ f.e = 0 ∧ f.o = 0 ∧ f.ff = 0 ∧ f.ch = 0 ∧ f.ovr = 0 ∧ f.imm.toNat % 4096 = 0 ∧ f.imm.toNat / 4096 % 16 ≤ 11)
  | .tileCopyChunkDone _ => true
  | .tileCopyFault _ => true
  | .dld f => decide (f.da = 0 ∧ f.db = 0 ∧ f.ka = 0 ∧ f.kb = 0 ∧ f.ax = 0 ∧ f.wd = 0 ∧ f.fl = 0)
  | .dstr f => decide (f.dd = 0 ∧ f.db = 0 ∧ f.ka = 0 ∧ f.kb = 0 ∧ f.ax = 0 ∧ f.wd = 0 ∧ f.fl = 0)
  | .dget f => decide (f.dd = 0 ∧ f.ka = 0 ∧ f.kb = 0 ∧ f.wd = 0 ∧ f.fl = 0 ∧ f.db.toNat < 8 ∧ f.ax.toNat < 8)
  | .dsetx f => decide (f.da = 0 ∧ f.ka = 0 ∧ f.kb = 0 ∧ f.wd = 0 ∧ f.fl = 0 ∧ f.db.toNat < 7 ∧ f.ax.toNat < 8)
  | .dresh f => decide (f.ka = 0 ∧ f.kb = 0 ∧ f.ax = 0 ∧ f.wd = 0 ∧ f.fl = 0 ∧ f.sa = 0)
  | .dtrans f => decide (f.ka = 0 ∧ f.kb = 0 ∧ f.wd = 0 ∧ f.fl = 0 ∧ f.sa = 0 ∧ f.db.toNat < 8 ∧ f.ax.toNat < 8)
  | .dtake f => decide (f.db = 0 ∧ f.ka = 0 ∧ f.kb = 0 ∧ f.wd = 0 ∧ f.fl = 0 ∧ f.ax.toNat < 8)
  | .aadd f => decide (f.ax = 0 ∧ f.wd = 0 ∧ f.sa = 0 ∧ f.rmOk)
  | .asub f => decide (f.ax = 0 ∧ f.wd = 0 ∧ f.sa = 0 ∧ f.rmOk)
  | .amul f => decide (f.ax = 0 ∧ f.wd = 0 ∧ f.sa = 0 ∧ f.rmOk)
  | .adiv f => decide (f.ax = 0 ∧ f.wd = 0 ∧ f.sa = 0 ∧ f.rmOk)
  | .amin f => decide (f.ax = 0 ∧ f.sa = 0 ∧ f.rmOk)
  | .amax f => decide (f.ax = 0 ∧ f.sa = 0 ∧ f.rmOk)
  | .afma f => decide (f.ax = 0 ∧ f.sa = 0 ∧ f.rmOk ∧ f.wd ≠ 0)
  | .aclamp f => decide (f.db = 0 ∧ f.ka = 0 ∧ f.kb = 0 ∧ f.ax = 0 ∧ f.rmOk ∧ f.pairOk)
  | .acmp f => decide (f.ax = 0 ∧ f.wd = 0 ∧ f.rmOk ∧ f.sa.toNat < 8)
  | .asel f => decide (f.ax = 0 ∧ f.sa = 0 ∧ f.rmOk ∧ f.wd ≠ 0)
  | .acvt f => decide (f.db = 0 ∧ f.ka = 0 ∧ f.kb = 0 ∧ f.ax = 0 ∧ f.wd = 0 ∧ f.sa = 0 ∧ f.rm ≠ 7)
  | .aand f => decide (f.ax = 0 ∧ f.wd = 0 ∧ f.sa = 0 ∧ f.rmOk)
  | .aor f => decide (f.ax = 0 ∧ f.wd = 0 ∧ f.sa = 0 ∧ f.rmOk)
  | .axor f => decide (f.ax = 0 ∧ f.wd = 0 ∧ f.sa = 0 ∧ f.rmOk)
  | .anot f => decide (f.db = 0 ∧ f.ka = 0 ∧ f.kb = 0 ∧ f.ax = 0 ∧ f.wd = 0 ∧ f.sa = 0 ∧ f.rmOk)
  | .aabs f => decide (f.db = 0 ∧ f.ka = 0 ∧ f.kb = 0 ∧ f.ax = 0 ∧ f.wd = 0 ∧ f.sa = 0 ∧ f.rmOk)
  | .aneg f => decide (f.db = 0 ∧ f.ka = 0 ∧ f.kb = 0 ∧ f.ax = 0 ∧ f.wd = 0 ∧ f.sa = 0 ∧ f.rmOk)
  | .asqrt f => decide (f.db = 0 ∧ f.ka = 0 ∧ f.kb = 0 ∧ f.ax = 0 ∧ f.wd = 0 ∧ f.sa = 0 ∧ f.rmOk)
  | .aexp2 f => decide (f.db = 0 ∧ f.ka = 0 ∧ f.kb = 0 ∧ f.ax = 0 ∧ f.wd = 0 ∧ f.sa = 0 ∧ f.rmOk)
  | .alog2 f => decide (f.db = 0 ∧ f.ka = 0 ∧ f.kb = 0 ∧ f.ax = 0 ∧ f.wd = 0 ∧ f.sa = 0 ∧ f.rmOk)
  | .aqnt f => decide (f.ax = 0 ∧ f.wd = 0 ∧ f.sa = 0 ∧ f.rm ≠ 7)
  | .aiota f => decide (f.da = 0 ∧ f.db = 0 ∧ f.ka = 0 ∧ f.kb = 0 ∧ f.wd = 0 ∧ f.ax.toNat < 8 ∧ f.fl.toNat < 2)
  | .afill f => decide (f.da = 0 ∧ f.db = 0 ∧ f.ka = 0 ∧ f.kb = 0 ∧ f.ax = 0 ∧ f.wd = 0 ∧ f.fl = 0)
  | .acopy f => decide (f.db = 0 ∧ f.ka = 0 ∧ f.kb = 0 ∧ f.ax = 0 ∧ f.wd = 0 ∧ f.fl = 0 ∧ f.sa = 0)
  | .arot f => decide (f.db = 0 ∧ f.kb = 0 ∧ f.wd = 0 ∧ f.fl = 0 ∧ f.ax.toNat < 8)
  | .arev f => decide (f.db = 0 ∧ f.kb = 0 ∧ f.wd = 0 ∧ f.fl = 0 ∧ f.sa = 0 ∧ f.ax.toNat < 8)
  | .atake f => decide (f.db = 0 ∧ f.kb = 0 ∧ f.wd = 0 ∧ f.fl = 0 ∧ f.ax.toNat < 8)
  | .aresh f => decide (f.db = 0 ∧ f.ka = 0 ∧ f.kb = 0 ∧ f.ax = 0 ∧ f.wd = 0 ∧ f.fl = 0 ∧ f.sa = 0)
  | .acat f => decide (f.wd = 0 ∧ f.fl = 0 ∧ f.sa = 0 ∧ f.ax.toNat < 8)
  | .agath f => decide (f.ka = 0 ∧ f.kb = 0 ∧ f.wd = 0 ∧ f.fl = 0 ∧ f.sa = 0 ∧ f.ax.toNat < 8)
  | .acomp f => decide (f.ax = 0 ∧ f.wd = 0 ∧ f.fl = 0)
  | .aexpd f => decide (f.ka = 0 ∧ f.kb = 0 ∧ f.ax = 0 ∧ f.wd = 0 ∧ f.fl = 0)
  | .agrade f => decide (f.db = 0 ∧ f.kb = 0 ∧ f.wd = 0 ∧ f.sa = 0 ∧ f.ax.toNat < 8 ∧ f.fl.toNat < 2)
  | .aouter f => decide (f.ka = 0 ∧ f.kb = 0 ∧ f.ax = 0 ∧ f.wd = 0 ∧ f.rmOk ∧ f.funOk)
  | .ainner f => decide (f.ka = 0 ∧ f.kb = 0 ∧ f.wd = 0 ∧ f.rmOk ∧ f.funOk ∧ f.ax.toNat < 7)
  | .atopk f => decide (f.db = 0 ∧ f.kb = 0 ∧ f.fl = 0 ∧ f.ax.toNat < 8)
  | .ared f => decide (f.kb = 0 ∧ f.ax.toNat < 8 ∧ f.rmOk ∧ f.db.toNat < 10 ∧ (if f.db = 9 then f.pairOk else f.sa = 0) ∧ (f.wd = 0 ∨ f.db = 2 ∨ f.db = 3 ∨ f.db = 9 ∨ (f.db = 0 ∧ f.sat)))
  | .ascan f => decide (f.kb = 0 ∧ f.wd = 0 ∧ f.sa = 0 ∧ f.ax.toNat < 8 ∧ f.rmOk ∧ f.db.toNat < 7)
  | .amed f => decide (f.db = 0 ∧ f.kb = 0 ∧ f.sa = 0 ∧ f.ax.toNat < 8 ∧ f.rmOk)
  | .wadj f => decide (f.db = 0 ∧ f.ka = 0 ∧ f.kb = 0 ∧ f.ax = 0 ∧ f.sa = 0 ∧ f.wd ≠ 0 ∧ f.fl.toNat < 8 ∧ f.fl.toNat % 4 ≠ 3)
  | .wchk f => decide (f.dd = 0 ∧ f.da = 0 ∧ f.db = 0 ∧ f.ka = 0 ∧ f.kb = 0 ∧ f.ax = 0 ∧ f.fl = 0 ∧ f.wd ≠ 0)
  | .wchkSeal f => decide (f.dd = 0 ∧ f.db = 0 ∧ f.ka = 0 ∧ f.kb = 0 ∧ f.ax = 0 ∧ f.wd ≠ 0 ∧ f.fl = 1)
  | .wrel f => decide (f.dd = 0 ∧ f.da = 0 ∧ f.db = 0 ∧ f.ka = 0 ∧ f.kb = 0 ∧ f.ax = 0 ∧ f.fl = 0 ∧ f.sa = 0 ∧ f.wd ≠ 0)
  | .mmodeOn f => decide (f.xd = 0 ∧ f.xa = 0 ∧ f.xb = 0 ∧ f.at_ = 0 ∧ f.ch = 0 ∧ f.msk = 0 ∧ f.ovr = 0 ∧ f.rm = 0 ∧ f.sat = 0 ∧ f.q = 1)
  | .mmodeOff f => decide (f.xd = 0 ∧ f.xa = 0 ∧ f.xb = 0 ∧ f.at_ = 0 ∧ f.ch = 0 ∧ f.msk = 0 ∧ f.ovr = 0 ∧ f.rm = 0 ∧ f.sat = 0 ∧ f.q = 0)
  | .mshape f => decide (f.at_ = 0 ∧ f.ch = 0 ∧ f.msk = 0 ∧ f.rm = 0 ∧ f.sat = 0 ∧ f.q = 0)
  | .mzero f => decide (f.xd = 0 ∧ f.xa = 0 ∧ f.xb = 0 ∧ f.ch = 0 ∧ f.msk = 0 ∧ f.ovr = 0 ∧ f.rm = 0 ∧ f.sat = 0 ∧ f.q = 0)
  | .mact f => decide (f.xd = 0 ∧ f.rm = 0 ∧ f.sat = 0 ∧ f.q = 0 ∧ f.xb.toNat % 8 = 0)
  | .macts f => decide (f.xd = 0 ∧ f.rm = 0 ∧ f.sat = 0 ∧ f.q = 0 ∧ f.xb.toNat % 8 = 0)
  | .mmovn f => decide (f.xb = 0 ∧ f.ch = 0 ∧ f.q = 0 ∧ f.rm ≠ 7)
  | .mmovw f => decide (f.xb = 0 ∧ f.rm = 0 ∧ f.sat = 0 ∧ f.q = 0)
  | .mvmac f => decide (f.rm = 0 ∧ f.sat = 0 ∧ f.q = 0)
  | .bind f => decide (f.sd = 0 ∧ f.sb = 0 ∧ f.imm = 0)
  | .unbind f => decide (f.sa = 0 ∧ f.sb = 0 ∧ f.lm = 0 ∧ f.imm = 0)
  | .sstat f => decide (f.sa = 0 ∧ f.sb = 0 ∧ f.lm = 0 ∧ f.imm.toNat < 16 ∧ f.imm ≠ 7)
  | .streamUnitRead _ _ => true
  | .writeStripPerform _ _ => true
  | .decoderBlock _ _ => true
  | .xtab f => decide (f.vt = 0 ∧ f.lm = 0 ∧ f.imm.toNat % 512 < 416 ∧ f.imm.toNat / 512 < 7)
  | .tableReplace _ => true
  | .xrun f => decide (f.sb = 0 ∧ f.vt = 0 ∧ f.imm.toNat < 416)
  | .xstat f => decide (f.sb = 0 ∧ f.vt = 0 ∧ f.lm = 0 ∧ f.imm = 0)
  | .runStart _ => true
  | .transducerStep _ => true
  | .runEnd _ => true
  | .pqry f => decide (f.sb = 0 ∧ f.vt = 0 ∧ f.lm ≠ 0 ∧ f.imm.toNat < 16384)
  | .pstat f => decide (f.sb = 0 ∧ f.vt = 0 ∧ f.lm = 0 ∧ f.imm = 0)
  | .queryStart _ => true
  | .queryEnd _ => true
  | .cstat f => decide (f.sa = 0 ∧ f.sb = 0 ∧ f.vt = 0 ∧ f.lm = 0 ∧ f.imm.toNat < 0x40000)
  | .cabort f => decide (f.sa = 0 ∧ f.sb = 0 ∧ f.vt = 0 ∧ f.lm = 0 ∧ f.imm.toNat < 0x10000)
  | .bar f => decide (f.sb = 0 ∧ f.cn = 0 ∧ f.imm = 0 ∧ f.scope.toNat ≤ 5)
  | .barrierRecheck _ => true
  | .binitSet f => decide (f.cn = 0 ∧ f.imm = 0 ∧ f.scope.toNat ≤ 5 ∧ f.sa ≠ 0)
  | .binitFault f => decide (f.cn = 0 ∧ f.scope.toNat ≤ 5 ∧ f.sa ≠ 0 ∧ f.imm = 1)
  | .qpost f => decide (f.scope = 0 ∧ f.cn = 0 ∧ f.imm.toNat < 2)
  | .qpoll f => decide (f.scope = 0 ∧ f.cn = 0 ∧ f.imm.toNat < 2)
  | .launch f => decide (f.sb = 0 ∧ f.scope = 0 ∧ f.cn = 0 ∧ f.imm = 0)
  | .kexit f => decide (f.sd = 0 ∧ f.sa = 0 ∧ f.sb = 0 ∧ f.scope = 0 ∧ f.cn = 0 ∧ f.imm = 0)
  | .kexitAbort f => decide (f.sd = 0 ∧ f.sa = 0 ∧ f.sb = 0 ∧ f.scope = 0 ∧ f.cn = 0 ∧ f.imm = 1)
  | .cwait f => decide (f.scope = 0 ∧ f.cn = 0 ∧ f.imm.toNat < 3)
  | .cwaitRecheck _ => true
  | .evwait f => decide (f.sb = 0 ∧ f.scope = 0 ∧ f.cn = 0)
  | .evwaitWake _ => true
  | .yield f => decide (f.sd = 0 ∧ f.sa = 0 ∧ f.sb = 0 ∧ f.scope = 0 ∧ f.cn = 0 ∧ f.imm = 0)
  | .getc f => decide (f.sa = 0 ∧ f.sb = 0 ∧ f.scope = 0 ∧ f.imm = 0)
  | .setc f => decide (f.sd = 0 ∧ f.sb = 0 ∧ f.scope = 0 ∧ f.imm = 0)
  | .sysc f => decide (f.sb = 0 ∧ f.scope = 0 ∧ f.cn = 0)
  | .brk f => decide (f.sd = 0 ∧ f.sa = 0 ∧ f.sb = 0 ∧ f.scope = 0 ∧ f.cn = 0)
  | .tret f => decide (f.sd = 0 ∧ f.sa = 0 ∧ f.sb = 0 ∧ f.scope = 0 ∧ f.cn = 0 ∧ f.imm = 0)
  | .tlbb f => decide (f.scope = 0 ∧ f.cn = 0 ∧ f.imm = 0)
  | .tlbu f => decide (f.sb = 0 ∧ f.scope = 0 ∧ f.cn = 0 ∧ f.imm = 0)
  | .tlbi f => decide (f.sd = 0 ∧ f.cn = 0 ∧ 3 ≤ f.scope.toNat ∧ f.scope.toNat ≤ 5 ∧ f.imm.toNat < 2)
  | .pmig f => decide (f.sb = 0 ∧ f.scope = 0 ∧ f.cn = 0 ∧ f.imm = 0)
  | .nop f => decide (f.sd = 0 ∧ f.sa = 0 ∧ f.sb = 0 ∧ f.scope = 0 ∧ f.cn = 0 ∧ f.imm = 0)
  | .hintNop _ => true
  | .preemptRequest _ => true
  | .laneGrowthOffer _ => true
  | .reclaimDeadline _ => true
  | .groupResume _ => true
  | .groupPlace => true
  | .kernelDispatch _ => true
  | .kernelRetire _ => true
  | .create _ => true
  | .switchOut _ => true
  | .switchIn _ => true
  | .teardown _ => true
  | .resume _ => true
  | .badOp _ _ => true
  | .zeroisationConfirmed _ => true
  | .contextCommandComplete => true
  | .attach _ => true
  | .detach _ => true
  | .reset _ => true
  | .tail _ _ => true
  | .queueSchedule => true
  | .counterWaitRecheck _ => true
  | .queueCopyDone _ => true
  | .queueAging _ => true
  | .queueSwitchIn _ => true
  | .eventPost _ => true
  | .pageWalk _ _ _ => true
  | .migration _ => true
  | .migrationTimeout _ => true
  | .hotWindow => true
  | .rakeScrub _ _ => true
  | .bankRefresh _ => true
  | .hostMemoryAccess _ _ => true
  | .linkEnable _ => true
  | .linkDisable _ => true
  | .drain _ => true
  | .trainingEnd _ _ _ _ => true
  | .laneLost _ => true
  | .replayLimit _ => true
  | .deadTime _ => true
  | .drainDone _ => true
  | .heartbeat => true
  | .flitReceive _ _ => true
  | .deviceLost _ => true
  | .routeEntryWrite _ _ => true
  | .remoteAccess _ _ _ _ _ _ => true
  | .callStart _ _ => true
  | .collectiveChunkDone _ _ _ => true
  | .callLocal _ => true
  | .callDone _ => true
  | .callAbort _ _ _ => true
  | .islandDvfs _ _ => true
  | .droopStretch _ => true
  | .powerCapTick _ => true
  | .attcmd => true
  | .attestationReport => true
  | .devrst => true
  | .firmwareBoot _ => true
  | .fatalError _ _ _ _ => true
  | .debugRegisterWrite _ _ _ => true
  | .registerWrite _ _ _ => true
  | .laneReclaim _ => true
  | .queryFault _ => true
  | .qcmdBadOp _ _ => true

end Sys2Proof
end

