-- ==== Sys2Proof/Decode.lean ====
section
/-!
DEFINITION. The decoder, total on every word, which refuses a word by the row of R87 it meets, and the encoder, from
the same format and opcode tables (R66 to R80, R85).
-/
namespace Sys2Proof

/-- Why a word is no instruction: the rows of R87 that the word alone decides. -/
inductive Reject where
  | allZero
  | major
  | function
  | reserved
  | field
  deriving DecidableEq, Repr

/-- Bits [lo + n − 1 : lo] of a word. -/
def bitsOf (w : Word) (lo n : Nat) : BitVec n := BitVec.ofNat n (w.toNat / 2 ^ lo)

/-- The fields of format S (R68). -/
def unpackS (w : Word) : FmtS :=
  { sd := bitsOf w 42 6, sa := bitsOf w 36 6, sb := bitsOf w 30 6, sc := bitsOf w 24 6 }

/-- The word of format S with these fields (R68). -/
def packS (major fn : Nat) (f : FmtS) : Word :=
  BitVec.ofNat 64 (major * 2 ^ 56 + fn * 2 ^ 48 + f.sd.toNat * 2 ^ 42 + f.sa.toNat * 2 ^ 36 + f.sb.toNat * 2 ^ 30 + f.sc.toNat * 2 ^ 24)

/-- The fields of format I (R69). -/
def unpackI (w : Word) : FmtI :=
  { sd := bitsOf w 50 6, sa := bitsOf w 44 6, imm := bitsOf w 0 44 }

/-- The word of format I with these fields (R69). -/
def packI (major : Nat) (f : FmtI) : Word :=
  BitVec.ofNat 64 (major * 2 ^ 56 + f.sd.toNat * 2 ^ 50 + f.sa.toNat * 2 ^ 44 + f.imm.toNat)

/-- The fields of format B (R70). -/
def unpackB (w : Word) : FmtB :=
  { cnd := bitsOf w 52 4, sa := bitsOf w 46 6, sb := bitsOf w 40 6, off := bitsOf w 0 40 }

/-- The word of format B with these fields (R70). -/
def packB (major : Nat) (f : FmtB) : Word :=
  BitVec.ofNat 64 (major * 2 ^ 56 + f.cnd.toNat * 2 ^ 52 + f.sa.toNat * 2 ^ 46 + f.sb.toNat * 2 ^ 40 + f.off.toNat)

/-- The fields of format J (R71). -/
def unpackJ (w : Word) : FmtJ :=
  { sd := bitsOf w 50 6, off := bitsOf w 0 50 }

/-- The word of format J with these fields (R71). -/
def packJ (major : Nat) (f : FmtJ) : Word :=
  BitVec.ofNat 64 (major * 2 ^ 56 + f.sd.toNat * 2 ^ 50 + f.off.toNat)

/-- The fields of format M (R72). -/
def unpackM (w : Word) : FmtM :=
  { sz := bitsOf w 53 3, sd := bitsOf w 47 6, sa := bitsOf w 41 6, ord := bitsOf w 38 3, scope := bitsOf w 35 3, imm := bitsOf w 0 35 }

/-- The word of format M with these fields (R72). -/
def packM (major : Nat) (f : FmtM) : Word :=
  BitVec.ofNat 64 (major * 2 ^ 56 + f.sz.toNat * 2 ^ 53 + f.sd.toNat * 2 ^ 47 + f.sa.toNat * 2 ^ 41 + f.ord.toNat * 2 ^ 38 + f.scope.toNat * 2 ^ 35 + f.imm.toNat)

/-- The fields of format V (R73). -/
def unpackV (w : Word) : FmtV :=
  { vd := bitsOf w 42 6, va := bitsOf w 36 6, vb := bitsOf w 30 6, vc := bitsOf w 24 6, msk := bitsOf w 20 4, ch := bitsOf w 17 3, ovr := bitsOf w 13 4, mod := bitsOf w 8 5, rm := bitsOf w 5 3, sat := bitsOf w 4 1, z := bitsOf w 3 1 }

/-- The word of format V with these fields (R73). -/
def packV (major fn : Nat) (f : FmtV) : Word :=
  BitVec.ofNat 64 (major * 2 ^ 56 + fn * 2 ^ 48 + f.vd.toNat * 2 ^ 42 + f.va.toNat * 2 ^ 36 + f.vb.toNat * 2 ^ 30 + f.vc.toNat * 2 ^ 24 + f.msk.toNat * 2 ^ 20 + f.ch.toNat * 2 ^ 17 + f.ovr.toNat * 2 ^ 13 + f.mod.toNat * 2 ^ 8 + f.rm.toNat * 2 ^ 5 + f.sat.toNat * 2 ^ 4 + f.z.toNat * 2 ^ 3)

/-- The fields of format VM (R76). -/
def unpackVM (w : Word) : FmtVM :=
  { vd := bitsOf w 44 6, sa := bitsOf w 38 6, sb := bitsOf w 32 6, msk := bitsOf w 28 4, e := bitsOf w 27 1, o := bitsOf w 26 1, ff := bitsOf w 25 1, ch := bitsOf w 24 1, sp := bitsOf w 21 3, ovr := bitsOf w 17 4, imm := bitsOf w 0 17 }

/-- The word of format VM with these fields (R76). -/
def packVM (major fn : Nat) (f : FmtVM) : Word :=
  BitVec.ofNat 64 (major * 2 ^ 56 + fn * 2 ^ 50 + f.vd.toNat * 2 ^ 44 + f.sa.toNat * 2 ^ 38 + f.sb.toNat * 2 ^ 32 + f.msk.toNat * 2 ^ 28 + f.e.toNat * 2 ^ 27 + f.o.toNat * 2 ^ 26 + f.ff.toNat * 2 ^ 25 + f.ch.toNat * 2 ^ 24 + f.sp.toNat * 2 ^ 21 + f.ovr.toNat * 2 ^ 17 + f.imm.toNat)

/-- The fields of format A (R77). -/
def unpackA (w : Word) : FmtA :=
  { dd := bitsOf w 43 5, da := bitsOf w 38 5, db := bitsOf w 33 5, ka := bitsOf w 29 4, kb := bitsOf w 25 4, ax := bitsOf w 21 4, wd := bitsOf w 16 5, fl := bitsOf w 12 4, sa := bitsOf w 6 6 }

/-- The word of format A with these fields (R77). -/
def packA (major fn : Nat) (f : FmtA) : Word :=
  BitVec.ofNat 64 (major * 2 ^ 56 + fn * 2 ^ 48 + f.dd.toNat * 2 ^ 43 + f.da.toNat * 2 ^ 38 + f.db.toNat * 2 ^ 33 + f.ka.toNat * 2 ^ 29 + f.kb.toNat * 2 ^ 25 + f.ax.toNat * 2 ^ 21 + f.wd.toNat * 2 ^ 16 + f.fl.toNat * 2 ^ 12 + f.sa.toNat * 2 ^ 6)

/-- The fields of format X (R78). -/
def unpackX (w : Word) : FmtX :=
  { xd := bitsOf w 42 6, xa := bitsOf w 36 6, xb := bitsOf w 30 6, at_ := bitsOf w 29 1, ch := bitsOf w 27 2, msk := bitsOf w 23 4, ovr := bitsOf w 19 4, rm := bitsOf w 16 3, sat := bitsOf w 15 1, q := bitsOf w 12 3 }

/-- The word of format X with these fields (R78). -/
def packX (major fn : Nat) (f : FmtX) : Word :=
  BitVec.ofNat 64 (major * 2 ^ 56 + fn * 2 ^ 48 + f.xd.toNat * 2 ^ 42 + f.xa.toNat * 2 ^ 36 + f.xb.toNat * 2 ^ 30 + f.at_.toNat * 2 ^ 29 + f.ch.toNat * 2 ^ 27 + f.msk.toNat * 2 ^ 23 + f.ovr.toNat * 2 ^ 19 + f.rm.toNat * 2 ^ 16 + f.sat.toNat * 2 ^ 15 + f.q.toNat * 2 ^ 12)

/-- The fields of format C (R79). -/
def unpackC (w : Word) : FmtC :=
  { sd := bitsOf w 42 6, sa := bitsOf w 36 6, sb := bitsOf w 30 6, vt := bitsOf w 24 6, lm := bitsOf w 20 4, imm := bitsOf w 0 20 }

/-- The word of format C with these fields (R79). -/
def packC (major fn : Nat) (f : FmtC) : Word :=
  BitVec.ofNat 64 (major * 2 ^ 56 + fn * 2 ^ 48 + f.sd.toNat * 2 ^ 42 + f.sa.toNat * 2 ^ 36 + f.sb.toNat * 2 ^ 30 + f.vt.toNat * 2 ^ 24 + f.lm.toNat * 2 ^ 20 + f.imm.toNat)

/-- The fields of format Y (R80). -/
def unpackY (w : Word) : FmtY :=
  { sd := bitsOf w 42 6, sa := bitsOf w 36 6, sb := bitsOf w 30 6, scope := bitsOf w 27 3, cn := bitsOf w 12 12, imm := bitsOf w 0 12 }

/-- The word of format Y with these fields (R80). -/
def packY (major fn : Nat) (f : FmtY) : Word :=
  BitVec.ofNat 64 (major * 2 ^ 56 + fn * 2 ^ 48 + f.sd.toNat * 2 ^ 42 + f.sa.toNat * 2 ^ 36 + f.sb.toNat * 2 ^ 30 + f.scope.toNat * 2 ^ 27 + f.cn.toNat * 2 ^ 12 + f.imm.toNat)

/-- The functions of major 0x01 in FN order (R85). -/
def major01 : List (FmtS → Instr) :=
  [.add, .sub, .andS, .orS, .xorS, .andn, .minS, .maxS, .minu, .maxu, .sel, .lea]

/-- The functions of major 0x02 in FN order (R85). -/
def major02 : List (FmtS → Instr) :=
  [.mul, .mulh, .mulhu, .div, .divu, .rem, .remu, .madd]

/-- The functions of major 0x03 in FN order (R85). -/
def major03 : List (FmtS → Instr) :=
  [.shl, .shr, .sra, .rol, .clz, .ctz, .popc, .sext, .zext]

/-- The functions of major 0x04 in FN order (R85). -/
def major04 : List (FmtS → Instr) :=
  [.slt, .sltu, .seq, .sne]

/-- The functions of major 0x40 in FN order (R85). -/
def major40 : List (FmtV → Instr) :=
  [.vadd, .vsub, .vmul, .vmulh, .vdiv, .vrem, .vmin, .vmax, .vabs, .vneg, .vabsd, .vavg, .vfma, .vfms, .vfnma,
   .vclamp, .vsqrt, .vexp2, .vlog2, .vrcpe, .vrcps, .vrsqe, .vrsqs]

/-- The functions of major 0x41 in FN order (R85). -/
def major41 : List (FmtV → Instr) :=
  [.vand, .vor, .vxor, .vnot, .vshl, .vshr, .vrol, .vpopc, .vclz]

/-- The functions of major 0x42 in FN order (R85). -/
def major42 : List (FmtV → Instr) :=
  [.vcmp, .vsel, .vclass]

/-- The functions of major 0x43 in FN order (R85). -/
def major43 : List (FmtV → Instr) :=
  [.vcvt, .vqnt, .vpxunp, .vpxpak]

/-- The functions of major 0x44 in FN order (R85). -/
def major44 : List (FmtV → Instr) :=
  [.vred, .vscan, .vperm, .vslideup, .vslidedn, .vcompress, .vexpand, .viota, .vid, .vsplat, .vmv, .vextr, .vins]

/-- The functions of major 0x45 in FN order (R85). -/
def major45 : List (FmtV → Instr) :=
  [.vkey, .vsortk, .vmergek, .vtopk, .vunkey]

/-- The functions of major 0x46 in FN order (R85). -/
def major46 : List (FmtV → Instr) :=
  [.mand, .mor, .mxor, .mandn, .mnot, .mpopc, .mfirst, .mset, .mget, .mwait]

/-- The functions of major 0x47 in FN order (R85). -/
def major47 : List (FmtV → Instr) :=
  [.setvl, .settag]

/-- The functions of major 0x60 in FN order (R85). -/
def major60 : List (FmtVM → Instr) :=
  [.vld, .vlds, .vldx, .vldt, .vldl, .vldc]

/-- The functions of major 0x61 in FN order (R85). -/
def major61 : List (FmtVM → Instr) :=
  [.vst, .vsts, .vstx, .vstt, .vstl]

/-- The functions of major 0x62 in FN order (R85). -/
def major62 : List (FmtVM → Instr) :=
  [.vamo, .vpf]

/-- The functions of major 0x63 in FN order (R85). -/
def major63 : List (FmtVM → Instr) :=
  [.cpy]

/-- The functions of major 0x70 in FN order (R85). -/
def major70 : List (FmtA → Instr) :=
  [.dld, .dstr, .dget, .dsetx, .dresh, .dtrans, .dtake]

/-- The functions of major 0x71 in FN order (R85). -/
def major71 : List (FmtA → Instr) :=
  [.aadd, .asub, .amul, .adiv, .amin, .amax, .afma, .aclamp, .acmp, .asel, .acvt, .aand, .aor, .axor, .anot, .aabs,
   .aneg, .asqrt, .aexp2, .alog2, .aqnt]

/-- The functions of major 0x72 in FN order (R85). -/
def major72 : List (FmtA → Instr) :=
  [.aiota, .afill, .acopy, .arot, .arev, .atake, .aresh, .acat, .agath, .acomp, .aexpd, .agrade, .aouter, .ainner,
   .atopk]

/-- The functions of major 0x73 in FN order (R85). -/
def major73 : List (FmtA → Instr) :=
  [.ared, .ascan, .amed]

/-- The functions of major 0x75 in FN order (R85). -/
def major75 : List (FmtA → Instr) :=
  [.wadj, fun f => if f.fl = 1 then .wchkSeal f else .wchk f, .wrel]

/-- The functions of major 0x80 in FN order (R85). -/
def major80 : List (FmtX → Instr) :=
  [fun f => if f.q = 1 then .mmodeOn f else .mmodeOff f, .mshape, .mzero, .mact, .macts, .mmovn, .mmovw, .mvmac]

/-- The functions of major 0x88 in FN order (R85). -/
def major88 : List (FmtC → Instr) :=
  [.bind, .unbind, .sstat]

/-- The functions of major 0x90 in FN order (R85). -/
def major90 : List (FmtC → Instr) :=
  [.xtab, .xrun, .xstat, .pqry, .pstat, .cstat, .cabort]

/-- The functions of major 0xA0 in FN order (R85). -/
def majorA0 : List (FmtY → Instr) :=
  [.bar, fun f => if f.imm = 1 then .binitFault f else .binitSet f, .qpost, .qpoll, .launch,
   fun f => if f.imm = 1 then .kexitAbort f else .kexit f, .cwait, .evwait, .yield]

/-- The functions of major 0xF0 in FN order (R85). -/
def majorF0 : List (FmtY → Instr) :=
  [.getc, .setc, .sysc, .tret, .brk, .tlbb, .tlbu, .tlbi, .pmig, .nop]

/-- A word of a major with function codes, by FN; `rsv` are its reserved bits. -/
def byFn {α : Type} (table : List (α → Instr)) (fn rsv : Nat) (f : α) : Except Reject Instr :=
  match table[fn]? with
  | none => .error .function
  | some mk => if rsv = 0 then .ok (mk f) else .error .reserved

/-- The instruction a word's major and function name, before its field values are checked (R67, R85, R87). -/
def candidate (w : Word) : Except Reject Instr :=
  if w = 0 then .error .allZero else
  let fn := w.toNat / 2 ^ 48 % 2 ^ 8
  match w.toNat / 2 ^ 56 with
  | 0x01 => byFn major01 fn (w.toNat % 2 ^ 24) (unpackS w)
  | 0x02 => byFn major02 fn (w.toNat % 2 ^ 24) (unpackS w)
  | 0x03 => byFn major03 fn (w.toNat % 2 ^ 24) (unpackS w)
  | 0x04 => byFn major04 fn (w.toNat % 2 ^ 24) (unpackS w)
  | 0x10 => .ok (.addi (unpackI w))
  | 0x11 => .ok (.andi (unpackI w))
  | 0x12 => .ok (.ori (unpackI w))
  | 0x13 => .ok (.xori (unpackI w))
  | 0x14 => .ok (.shli (unpackI w))
  | 0x15 => .ok (.shri (unpackI w))
  | 0x16 => .ok (.srai (unpackI w))
  | 0x17 => .ok (.li (unpackI w))
  | 0x18 => .ok (.lih (unpackI w))
  | 0x19 => .ok (.slti (unpackI w))
  | 0x1A => .ok (.sltiu (unpackI w))
  | 0x20 => .ok (.br (unpackB w))
  | 0x21 => .ok (.jmp (unpackJ w))
  | 0x22 => .ok (.call (unpackJ w))
  | 0x23 => .ok (.jr (unpackI w))
  | 0x24 => .ok (.loop (unpackB w))
  | 0x30 => .ok (.ld (unpackM w))
  | 0x31 => .ok (.st (unpackM w))
  | 0x32 => .ok (.amo (unpackM w))
  | 0x33 => .ok (.fence (unpackM w))
  | 0x40 => byFn major40 fn (w.toNat % 2 ^ 3) (unpackV w)
  | 0x41 => byFn major41 fn (w.toNat % 2 ^ 3) (unpackV w)
  | 0x42 => byFn major42 fn (w.toNat % 2 ^ 3) (unpackV w)
  | 0x43 => byFn major43 fn (w.toNat % 2 ^ 3) (unpackV w)
  | 0x44 => byFn major44 fn (w.toNat % 2 ^ 3) (unpackV w)
  | 0x45 => byFn major45 fn (w.toNat % 2 ^ 3) (unpackV w)
  | 0x46 => byFn major46 fn (w.toNat % 2 ^ 3) (unpackV w)
  | 0x47 => byFn major47 fn (w.toNat % 2 ^ 3) (unpackV w)
  | 0x60 => byFn major60 (w.toNat / 2 ^ 50 % 2 ^ 6) 0 (unpackVM w)
  | 0x61 => byFn major61 (w.toNat / 2 ^ 50 % 2 ^ 6) 0 (unpackVM w)
  | 0x62 => byFn major62 (w.toNat / 2 ^ 50 % 2 ^ 6) 0 (unpackVM w)
  | 0x63 => byFn major63 (w.toNat / 2 ^ 50 % 2 ^ 6) 0 (unpackVM w)
  | 0x70 => byFn major70 fn (w.toNat % 2 ^ 6) (unpackA w)
  | 0x71 => byFn major71 fn (w.toNat % 2 ^ 6) (unpackA w)
  | 0x72 => byFn major72 fn (w.toNat % 2 ^ 6) (unpackA w)
  | 0x73 => byFn major73 fn (w.toNat % 2 ^ 6) (unpackA w)
  | 0x75 => byFn major75 fn (w.toNat % 2 ^ 6) (unpackA w)
  | 0x80 => byFn major80 fn (w.toNat % 2 ^ 12) (unpackX w)
  | 0x88 => byFn major88 fn 0 (unpackC w)
  | 0x90 => byFn major90 fn 0 (unpackC w)
  | 0xA0 => byFn majorA0 fn (w.toNat / 2 ^ 24 % 2 ^ 3) (unpackY w)
  | 0xF0 => byFn majorF0 fn (w.toNat / 2 ^ 24 % 2 ^ 3) (unpackY w)
  | 0xFE => .ok (.hintNop (bitsOf w 0 56))
  | _ => .error .major

/-- Decoding a word (R66 to R87): the instruction, or the row of R87 that refuses the word. -/
def decodeWord (w : Word) : Except Reject Instr :=
  match candidate w with
  | .error r => .error r
  | .ok i => if wf i then .ok i else .error .field

/-- The number that bytes in ascending addresses form (R3). -/
def leNat : List Byte → Nat
  | [] => 0
  | b :: bs => b.toNat + 256 * leNat bs

/-- The `n` bytes of a number in ascending addresses (R3). -/
def leBytes : Nat → Nat → List Byte
  | 0, _ => []
  | n + 1, x => BitVec.ofNat 8 x :: leBytes n (x / 256)

/-- Decoding the eight bytes of a word as they stand in memory (R66). -/
def decodeBytes (bs : List Byte) : Except Reject Instr := decodeWord (BitVec.ofNat 64 (leNat bs))

/-- The word of an instruction (R66 to R80, R85); an event of another agent has none. -/
def encode : Instr → Option Word
  | .add f => some (packS 0x01 0x00 f)
  | .sub f => some (packS 0x01 0x01 f)
  | .andS f => some (packS 0x01 0x02 f)
  | .orS f => some (packS 0x01 0x03 f)
  | .xorS f => some (packS 0x01 0x04 f)
  | .andn f => some (packS 0x01 0x05 f)
  | .minS f => some (packS 0x01 0x06 f)
  | .maxS f => some (packS 0x01 0x07 f)
  | .minu f => some (packS 0x01 0x08 f)
  | .maxu f => some (packS 0x01 0x09 f)
  | .sel f => some (packS 0x01 0x0A f)
  | .lea f => some (packS 0x01 0x0B f)
  | .mul f => some (packS 0x02 0x00 f)
  | .mulh f => some (packS 0x02 0x01 f)
  | .mulhu f => some (packS 0x02 0x02 f)
  | .div f => some (packS 0x02 0x03 f)
  | .divu f => some (packS 0x02 0x04 f)
  | .rem f => some (packS 0x02 0x05 f)
  | .remu f => some (packS 0x02 0x06 f)
  | .madd f => some (packS 0x02 0x07 f)
  | .shl f => some (packS 0x03 0x00 f)
  | .shr f => some (packS 0x03 0x01 f)
  | .sra f => some (packS 0x03 0x02 f)
  | .rol f => some (packS 0x03 0x03 f)
  | .clz f => some (packS 0x03 0x04 f)
  | .ctz f => some (packS 0x03 0x05 f)
  | .popc f => some (packS 0x03 0x06 f)
  | .sext f => some (packS 0x03 0x07 f)
  | .zext f => some (packS 0x03 0x08 f)
  | .slt f => some (packS 0x04 0x00 f)
  | .sltu f => some (packS 0x04 0x01 f)
  | .seq f => some (packS 0x04 0x02 f)
  | .sne f => some (packS 0x04 0x03 f)
  | .addi f => some (packI 0x10 f)
  | .andi f => some (packI 0x11 f)
  | .ori f => some (packI 0x12 f)
  | .xori f => some (packI 0x13 f)
  | .shli f => some (packI 0x14 f)
  | .shri f => some (packI 0x15 f)
  | .srai f => some (packI 0x16 f)
  | .li f => some (packI 0x17 f)
  | .lih f => some (packI 0x18 f)
  | .slti f => some (packI 0x19 f)
  | .sltiu f => some (packI 0x1A f)
  | .br f => some (packB 0x20 f)
  | .jmp f => some (packJ 0x21 f)
  | .call f => some (packJ 0x22 f)
  | .jr f => some (packI 0x23 f)
  | .loop f => some (packB 0x24 f)
  | .ld f => some (packM 0x30 f)
  | .st f => some (packM 0x31 f)
  | .amo f => some (packM 0x32 f)
  | .fence f => some (packM 0x33 f)
  | .vadd f => some (packV 0x40 0x00 f)
  | .vsub f => some (packV 0x40 0x01 f)
  | .vmul f => some (packV 0x40 0x02 f)
  | .vmulh f => some (packV 0x40 0x03 f)
  | .vdiv f => some (packV 0x40 0x04 f)
  | .vrem f => some (packV 0x40 0x05 f)
  | .vmin f => some (packV 0x40 0x06 f)
  | .vmax f => some (packV 0x40 0x07 f)
  | .vabs f => some (packV 0x40 0x08 f)
  | .vneg f => some (packV 0x40 0x09 f)
  | .vabsd f => some (packV 0x40 0x0A f)
  | .vavg f => some (packV 0x40 0x0B f)
  | .vfma f => some (packV 0x40 0x0C f)
  | .vfms f => some (packV 0x40 0x0D f)
  | .vfnma f => some (packV 0x40 0x0E f)
  | .vclamp f => some (packV 0x40 0x0F f)
  | .vsqrt f => some (packV 0x40 0x10 f)
  | .vexp2 f => some (packV 0x40 0x11 f)
  | .vlog2 f => some (packV 0x40 0x12 f)
  | .vrcpe f => some (packV 0x40 0x13 f)
  | .vrcps f => some (packV 0x40 0x14 f)
  | .vrsqe f => some (packV 0x40 0x15 f)
  | .vrsqs f => some (packV 0x40 0x16 f)
  | .vand f => some (packV 0x41 0x00 f)
  | .vor f => some (packV 0x41 0x01 f)
  | .vxor f => some (packV 0x41 0x02 f)
  | .vnot f => some (packV 0x41 0x03 f)
  | .vshl f => some (packV 0x41 0x04 f)
  | .vshr f => some (packV 0x41 0x05 f)
  | .vrol f => some (packV 0x41 0x06 f)
  | .vpopc f => some (packV 0x41 0x07 f)
  | .vclz f => some (packV 0x41 0x08 f)
  | .vcmp f => some (packV 0x42 0x00 f)
  | .vsel f => some (packV 0x42 0x01 f)
  | .vclass f => some (packV 0x42 0x02 f)
  | .vcvt f => some (packV 0x43 0x00 f)
  | .vqnt f => some (packV 0x43 0x01 f)
  | .vpxunp f => some (packV 0x43 0x02 f)
  | .vpxpak f => some (packV 0x43 0x03 f)
  | .vred f => some (packV 0x44 0x00 f)
  | .vscan f => some (packV 0x44 0x01 f)
  | .vperm f => some (packV 0x44 0x02 f)
  | .vslideup f => some (packV 0x44 0x03 f)
  | .vslidedn f => some (packV 0x44 0x04 f)
  | .vcompress f => some (packV 0x44 0x05 f)
  | .vexpand f => some (packV 0x44 0x06 f)
  | .viota f => some (packV 0x44 0x07 f)
  | .vid f => some (packV 0x44 0x08 f)
  | .vsplat f => some (packV 0x44 0x09 f)
  | .vmv f => some (packV 0x44 0x0A f)
  | .vextr f => some (packV 0x44 0x0B f)
  | .vins f => some (packV 0x44 0x0C f)
  | .vkey f => some (packV 0x45 0x00 f)
  | .vsortk f => some (packV 0x45 0x01 f)
  | .vmergek f => some (packV 0x45 0x02 f)
  | .vtopk f => some (packV 0x45 0x03 f)
  | .vunkey f => some (packV 0x45 0x04 f)
  | .mand f => some (packV 0x46 0x00 f)
  | .mor f => some (packV 0x46 0x01 f)
  | .mxor f => some (packV 0x46 0x02 f)
  | .mandn f => some (packV 0x46 0x03 f)
  | .mnot f => some (packV 0x46 0x04 f)
  | .mpopc f => some (packV 0x46 0x05 f)
  | .mfirst f => some (packV 0x46 0x06 f)
  | .mset f => some (packV 0x46 0x07 f)
  | .mget f => some (packV 0x46 0x08 f)
  | .mwait f => some (packV 0x46 0x09 f)
  | .mwaitComplete _ => none
  | .setvl f => some (packV 0x47 0x00 f)
  | .settag f => some (packV 0x47 0x01 f)
  | .vld f => some (packVM 0x60 0x00 f)
  | .vlds f => some (packVM 0x60 0x01 f)
  | .vldx f => some (packVM 0x60 0x02 f)
  | .vldt f => some (packVM 0x60 0x03 f)
  | .vldl f => some (packVM 0x60 0x04 f)
  | .vldc f => some (packVM 0x60 0x05 f)
  | .vst f => some (packVM 0x61 0x00 f)
  | .vsts f => some (packVM 0x61 0x01 f)
  | .vstx f => some (packVM 0x61 0x02 f)
  | .vstt f => some (packVM 0x61 0x03 f)
  | .vstl f => some (packVM 0x61 0x04 f)
  | .vamo f => some (packVM 0x62 0x00 f)
  | .vpf f => some (packVM 0x62 0x01 f)
  | .cpy f => some (packVM 0x63 0x00 f)
  | .tileCopyChunkDone _ => none
  | .tileCopyFault _ => none
  | .dld f => some (packA 0x70 0x00 f)
  | .dstr f => some (packA 0x70 0x01 f)
  | .dget f => some (packA 0x70 0x02 f)
  | .dsetx f => some (packA 0x70 0x03 f)
  | .dresh f => some (packA 0x70 0x04 f)
  | .dtrans f => some (packA 0x70 0x05 f)
  | .dtake f => some (packA 0x70 0x06 f)
  | .aadd f => some (packA 0x71 0x00 f)
  | .asub f => some (packA 0x71 0x01 f)
  | .amul f => some (packA 0x71 0x02 f)
  | .adiv f => some (packA 0x71 0x03 f)
  | .amin f => some (packA 0x71 0x04 f)
  | .amax f => some (packA 0x71 0x05 f)
  | .afma f => some (packA 0x71 0x06 f)
  | .aclamp f => some (packA 0x71 0x07 f)
  | .acmp f => some (packA 0x71 0x08 f)
  | .asel f => some (packA 0x71 0x09 f)
  | .acvt f => some (packA 0x71 0x0A f)
  | .aand f => some (packA 0x71 0x0B f)
  | .aor f => some (packA 0x71 0x0C f)
  | .axor f => some (packA 0x71 0x0D f)
  | .anot f => some (packA 0x71 0x0E f)
  | .aabs f => some (packA 0x71 0x0F f)
  | .aneg f => some (packA 0x71 0x10 f)
  | .asqrt f => some (packA 0x71 0x11 f)
  | .aexp2 f => some (packA 0x71 0x12 f)
  | .alog2 f => some (packA 0x71 0x13 f)
  | .aqnt f => some (packA 0x71 0x14 f)
  | .aiota f => some (packA 0x72 0x00 f)
  | .afill f => some (packA 0x72 0x01 f)
  | .acopy f => some (packA 0x72 0x02 f)
  | .arot f => some (packA 0x72 0x03 f)
  | .arev f => some (packA 0x72 0x04 f)
  | .atake f => some (packA 0x72 0x05 f)
  | .aresh f => some (packA 0x72 0x06 f)
  | .acat f => some (packA 0x72 0x07 f)
  | .agath f => some (packA 0x72 0x08 f)
  | .acomp f => some (packA 0x72 0x09 f)
  | .aexpd f => some (packA 0x72 0x0A f)
  | .agrade f => some (packA 0x72 0x0B f)
  | .aouter f => some (packA 0x72 0x0C f)
  | .ainner f => some (packA 0x72 0x0D f)
  | .atopk f => some (packA 0x72 0x0E f)
  | .ared f => some (packA 0x73 0x00 f)
  | .ascan f => some (packA 0x73 0x01 f)
  | .amed f => some (packA 0x73 0x02 f)
  | .wadj f => some (packA 0x75 0x00 f)
  | .wchk f => some (packA 0x75 0x01 f)
  | .wchkSeal f => some (packA 0x75 0x01 f)
  | .wrel f => some (packA 0x75 0x02 f)
  | .mmodeOn f => some (packX 0x80 0x00 f)
  | .mmodeOff f => some (packX 0x80 0x00 f)
  | .mshape f => some (packX 0x80 0x01 f)
  | .mzero f => some (packX 0x80 0x02 f)
  | .mact f => some (packX 0x80 0x03 f)
  | .macts f => some (packX 0x80 0x04 f)
  | .mmovn f => some (packX 0x80 0x05 f)
  | .mmovw f => some (packX 0x80 0x06 f)
  | .mvmac f => some (packX 0x80 0x07 f)
  | .bind f => some (packC 0x88 0x00 f)
  | .unbind f => some (packC 0x88 0x01 f)
  | .sstat f => some (packC 0x88 0x02 f)
  | .streamUnitRead _ _ => none
  | .writeStripPerform _ _ => none
  | .decoderBlock _ _ => none
  | .xtab f => some (packC 0x90 0x00 f)
  | .tableReplace _ => none
  | .xrun f => some (packC 0x90 0x01 f)
  | .xstat f => some (packC 0x90 0x02 f)
  | .runStart _ => none
  | .transducerStep _ => none
  | .runEnd _ => none
  | .pqry f => some (packC 0x90 0x03 f)
  | .pstat f => some (packC 0x90 0x04 f)
  | .queryStart _ => none
  | .queryEnd _ => none
  | .cstat f => some (packC 0x90 0x05 f)
  | .cabort f => some (packC 0x90 0x06 f)
  | .bar f => some (packY 0xA0 0x00 f)
  | .barrierRecheck _ => none
  | .binitSet f => some (packY 0xA0 0x01 f)
  | .binitFault f => some (packY 0xA0 0x01 f)
  | .qpost f => some (packY 0xA0 0x02 f)
  | .qpoll f => some (packY 0xA0 0x03 f)
  | .launch f => some (packY 0xA0 0x04 f)
  | .kexit f => some (packY 0xA0 0x05 f)
  | .kexitAbort f => some (packY 0xA0 0x05 f)
  | .cwait f => some (packY 0xA0 0x06 f)
  | .cwaitRecheck _ => none
  | .evwait f => some (packY 0xA0 0x07 f)
  | .evwaitWake _ => none
  | .yield f => some (packY 0xA0 0x08 f)
  | .getc f => some (packY 0xF0 0x00 f)
  | .setc f => some (packY 0xF0 0x01 f)
  | .sysc f => some (packY 0xF0 0x02 f)
  | .brk f => some (packY 0xF0 0x04 f)
  | .tret f => some (packY 0xF0 0x03 f)
  | .tlbb f => some (packY 0xF0 0x05 f)
  | .tlbu f => some (packY 0xF0 0x06 f)
  | .tlbi f => some (packY 0xF0 0x07 f)
  | .pmig f => some (packY 0xF0 0x08 f)
  | .nop f => some (packY 0xF0 0x09 f)
  | .hintNop bits => some (BitVec.ofNat 64 (0xFE * 2 ^ 56 + bits.toNat))
  | .preemptRequest _ => none
  | .laneGrowthOffer _ => none
  | .reclaimDeadline _ => none
  | .groupResume _ => none
  | .groupPlace => none
  | .kernelDispatch _ => none
  | .kernelRetire _ => none
  | .create _ => none
  | .switchOut _ => none
  | .switchIn _ => none
  | .teardown _ => none
  | .resume _ => none
  | .badOp _ _ => none
  | .zeroisationConfirmed _ => none
  | .contextCommandComplete => none
  | .attach _ => none
  | .detach _ => none
  | .reset _ => none
  | .tail _ _ => none
  | .queueSchedule => none
  | .counterWaitRecheck _ => none
  | .queueCopyDone _ => none
  | .queueAging _ => none
  | .queueSwitchIn _ => none
  | .eventPost _ => none
  | .pageWalk _ _ _ => none
  | .migration _ => none
  | .migrationTimeout _ => none
  | .hotWindow => none
  | .rakeScrub _ _ => none
  | .bankRefresh _ => none
  | .hostMemoryAccess _ _ => none
  | .linkEnable _ => none
  | .linkDisable _ => none
  | .drain _ => none
  | .trainingEnd _ _ _ _ => none
  | .laneLost _ => none
  | .replayLimit _ => none
  | .deadTime _ => none
  | .drainDone _ => none
  | .heartbeat => none
  | .flitReceive _ _ => none
  | .deviceLost _ => none
  | .routeEntryWrite _ _ => none
  | .remoteAccess _ _ _ _ _ _ => none
  | .callStart _ _ => none
  | .collectiveChunkDone _ _ _ => none
  | .callLocal _ => none
  | .callDone _ => none
  | .callAbort _ _ _ => none
  | .islandDvfs _ _ => none
  | .droopStretch _ => none
  | .powerCapTick _ => none
  | .attcmd => none
  | .attestationReport => none
  | .devrst => none
  | .firmwareBoot _ => none
  | .fatalError _ _ _ _ => none
  | .debugRegisterWrite _ _ _ => none
  | .registerWrite _ _ _ => none
  | .laneReclaim _ => none
  | .queryFault _ => none
  | .qcmdBadOp _ _ => none

/-- The decoder on a word numbered as spec/opcode_table.json numbers it: one 64-bit word, bits from `nbits` on zero. -/
def decodeTableWord (nbits w : Nat) : Option Instr :=
  match decodeBytes (leBytes 8 (w % 2 ^ nbits)) with
  | .ok i => some i
  | .error _ => none

end Sys2Proof
end

