-- ==== Sys2Proof/Machine/State.lean ====
section
/-!
DEFINITION. The machine state: every piece of state that spec/ names, as plain data (INVENTORY.md, '## State',
names each with its rule), the reasons a step can stop, and the state after reset (R444).
-/
namespace Sys2Proof.Machine

open Sys2Proof

/-- A finite map kept as an association list with strictly rising keys; a key that is not listed has the default
value its reader gives. -/
abbrev Sparse (α : Type) := List (Nat × α)

/-- Bytes at addresses in canonical form: addresses strictly rise, and no listed byte is 0, which is what an
unlisted address reads as (DESIGN CHOICE, notes/assumptions/4.md). -/
abbrev ByteStore := List Host.Cell

/-- The element tags of R39, in code order. -/
inductive Tag where
  | u8 | i8 | u16 | i16 | u32 | i32 | u64 | i64 | f16 | bf16 | f32 | f64 | sx2 | sx4 | sx7 | kx
  deriving DecidableEq, Repr

/-- The two levels at which a hart executes (R9). -/
inductive Level where
  | u | s
  deriving DecidableEq, Repr

/-- A byte of the machine by the place that holds it: device memory and host memory by physical address (R360), a
peer's memory (R420), a core's scratchpad, scalar data memory and lane-private SRAM (R15). -/
inductive Loc where
  | dev (pa : Nat)
  | host (pa : Nat)
  | peer (d pa : Nat)
  | spad (core off : Nat)
  | sdata (core off : Nat)
  | lpriv (core lane off : Nat)
  deriving DecidableEq, Repr

/-- How a line of a page with HS = 0 is reached (R173, R449, R437): the mode in which the accessing kernel declared
the page's buffer, no kernel at all, or Ovune's own key with line counters. -/
inductive Mode where
  | ro | wo | rw | none | ovune
  deriving DecidableEq, Repr

/-- Under what key and counters an access reaches device memory (R370): the context, the page's buffer and the mode. -/
structure Cry where
  asid : Nat
  buf  : Nat
  mode : Mode
  deriving DecidableEq, Repr

/-- The agent of an access: its context, its kernel (0: none, R449), the group whose bolted ranges bind it, its level,
its cluster, and the core and lane groups that translate a vector access (R364). -/
structure Who where
  asid    : Nat
  serial  : Nat
  group   : Option Nat
  sup     : Bool
  cluster : Nat
  slices  : Option (Nat × BitVec 8)
  deriving DecidableEq, Repr

/-- Bytes of a vector store that the memory side has accepted and not yet performed (R107, R218, R302). -/
structure PStore where
  loc   : Loc
  data  : List Byte
  cry   : Cry
  /-- for a strip of a write binding, its register and the strip's number (R305) -/
  strip : Option (Nat × Nat)
  deriving DecidableEq, Repr

/-- A descriptor record (R240). -/
structure Desc where
  base  : Word
  ext   : Vector (BitVec 32) 8
  str   : Vector (BitVec 40) 8
  cap   : Word
  rank  : BitVec 4
  tag   : BitVec 4
  space : BitVec 3
  deriving DecidableEq, Repr

/-- The null record (R242): an empty vector of u8. -/
def Desc.null : Desc :=
  { base := 0, ext := Vector.replicate 8 0, str := Vector.replicate 8 0, cap := 0, rank := 1, tag := 0, space := 0 }

/-- The states of a binding (R313). -/
inductive BindState where
  | active | ended | failed | held
  deriving DecidableEq, Repr

/-- A block whose bytes the decoder has written: its stream elements and compressed bytes, and the failure that shows when
it is verified (R311, R312). -/
structure Wrote where
  elems : Nat
  size  : Nat
  bad   : Option (BitVec 6 × Word)
  deriving DecidableEq, Repr

/-- A binding of a vector register to a stream (R297, R301, R302, R305, R309, R312 to R314, R424). -/
structure Binding where
  /-- the bound vector register -/
  vt      : Nat
  /-- the louver mask register, 0 for none -/
  lm      : Nat
  /-- address of the stream record -/
  addr    : Word
  /-- the record as `BIND` read it -/
  record  : BitVec 512
  /-- elements consumed or sent (SPOS of a COLL binding) -/
  pos     : Nat
  /-- RPOS of a COLL binding -/
  rpos    : Nat
  st      : BindState
  /-- cause and `tval` of the held fault or of the failure -/
  cause   : BitVec 6
  tval    : Word
  /-- STALL of R305 -/
  stall   : BitVec 64
  /-- the elements from POS on that the stream unit has read ahead (R304): their raw bits in memory -/
  ahead   : List Nat
  /-- strips written so far (R305) and the length of the last one read (R305) -/
  sent    : Nat
  lastN   : Nat
  /-- byte offset from SRC of the decoder's next block -/
  decOff  : Nat
  /-- stream elements in verified blocks -/
  decElems : Nat
  /-- compressed bytes of verified blocks, and their count -/
  vbytes  : Nat
  vblocks : Nat
  /-- the event slot and the call of a COLL binding -/
  slot    : Nat
  call    : Nat
  /-- bound at level S: its engine's accesses are made at level S (R362) -/
  sup     : Bool
  /-- what the decoder has written of its next block and not verified yet (R311) -/
  wrote   : Option Wrote
  deriving DecidableEq, Repr

/-- The held work that latches its cause for a louver mask register (R447). -/
inductive Work where
  | copy (t : Nat)
  | block (vt : Nat)
  | run (r : Nat)
  | query (q : Nat)
  deriving DecidableEq, Repr

/-- A latched fault of engine work (R447). -/
structure Latch where
  lm        : Nat
  cause     : BitVec 6
  tval      : Word
  work      : Work
  delivered : Bool
  deriving DecidableEq, Repr

/-- What an operand delivers: its tag, its raw elements (blocks under an sx tag, and how many elements of the first
block come before the strip), and the flags of the conversions. -/
structure Strip where
  tag   : Tag
  vals  : List Nat
  skew  : Nat
  flags : BitVec 6
  deriving DecidableEq, Repr

/-- What an instruction that has not completed keeps: its level, its PC and the position at which it goes on; under element
steps its sources as they stood before it (R109, R237) and the results so far that a bound destination still has to send
(R302); between the strips of an array instruction a number: the header line that `WADJ` read before its loop (R327), or
the selecting positions that `AEXPD` has passed beyond DA's last element (R273). -/
structure Kept where
  level  : Level
  pc     : Word
  next   : Nat
  strips : List Strip
  outs   : List (Option Nat)
  head   : Option Nat
  deriving DecidableEq, Repr

/-- What a hart waits for at its PC (R142, R203, R221, R355, R211, R286), with the fields of the instruction. -/
inductive Wait where
  | mwait (f : FmtV)
  | cwait (f : FmtY)
  | evwait (f : FmtY)
  /-- `BAR` after its arrival in generation `gen`: at the latch, or at the record at an address -/
  | bar (f : FmtY) (latch : Bool) (gen : BitVec 32)
  | setvl (f : FmtV)
  | mmode (f : FmtX)
  deriving DecidableEq, Repr

/-- The debug registers of a hart (R236). -/
structure Dbg where
  ctl    : Word
  watch0 : Word
  watch1 : Word
  deriving DecidableEq, Repr

/-- A remote store of a hart: the peer, the address it named, and whether a vector access made it (R419, R420, R344); its
identity, which its request carries (R417), and whether a link port discarded that request, so that it is never acknowledged
(R416). -/
structure Remote where
  dev  : Nat
  va   : Word
  vec  : Bool
  id   : Nat
  gone : Bool
  deriving DecidableEq, Repr

/-- The state of one hart. -/
structure Hart where
  /-- `s0` to `s63` of level U; entry 0 stays 0 (R90) -/
  sreg    : Vector Word 64
  /-- `s56` to `s63` of level S (R224) -/
  sbank   : Vector Word 8
  pc      : Word
  level   : Level
  /-- `v0` to `v63` as bytes of the register's element space (R40, R108) -/
  vreg    : Vector ByteStore 64
  /-- `m0` to `m15`; entry 0 stays 0 and reads all ones through the accessor (R140) -/
  mreg    : Vector (BitVec 16384) 16
  /-- `d0` to `d31` (R242) -/
  dreg    : Vector Desc 32
  vl      : BitVec 15
  /-- VW of `grant` (R208) -/
  vw      : Bool
  epr     : Word
  carry   : Word
  mshape  : Word
  rowcnt  : BitVec 4
  rowpitch : Word
  tagtab  : Vector Word 4
  frm     : BitVec 3
  fflags  : BitVec 6
  seed    : Word
  ev      : BitVec 32
  status  : BitVec 3
  cause   : Word
  tval    : Word
  epc     : Word
  /-- the matrix-mode bit (R282) -/
  matrix  : Bool
  /-- FS of the hart area (R171, R178) -/
  fs      : Bool
  /-- the hart has executed `KEXIT` (R202) -/
  exited  : Bool
  /-- a forced save is due at the hart's `TRET` (R231), or the hart stands saved -/
  saveDue : Bool
  saved   : Bool
  binds   : List Binding
  latches : List Latch
  /-- vector stores accepted and not yet performed (R107) -/
  pend    : List PStore
  /-- remote stores not yet acknowledged, and those that a lost device dropped, oldest first (R419, R420) -/
  unacked : List Remote
  dropped : List Remote
  wait    : Option Wait
  /-- the hart stands between two strips of the array instruction at its PC (R210, R248) -/
  strip   : Bool
  /-- the hart has resumed and not yet executed the instruction at its PC (R230) -/
  resumed : Bool
  /-- at most one for each level -/
  kept    : List Kept
  /-- debug registers as the host wrote them, and as in effect (R236) -/
  dbgReg  : Dbg
  dbg     : Dbg
  /-- the placed group that holds the hart (R204) -/
  group   : Option Nat
  deriving DecidableEq, Repr

/-- Debug registers at reset (R236). -/
def Dbg.reset : Dbg := { ctl := 0, watch0 := 0, watch1 := 0 }

/-- A hart at reset (R199 "every other control register at its reset value"; registers without a reset value of the
spec: DESIGN CHOICE, notes/assumptions/6.md). -/
def Hart.reset : Hart :=
  { sreg := Vector.replicate 64 0, sbank := Vector.replicate 8 0, pc := 0, level := .u
    vreg := Vector.replicate 64 [], mreg := Vector.replicate 16 0, dreg := Vector.replicate 32 Desc.null
    vl := 0, vw := false, epr := 0, carry := 0, mshape := 0, rowcnt := 1, rowpitch := 0
    tagtab := Vector.replicate 4 0xAAAAAAAAAAAAAAAA#64
    frm := 1, fflags := 0, seed := 0x9E3779B97F4A7C15#64, ev := 0, status := 0
    cause := 0, tval := 0, epc := 0, matrix := false, fs := false, exited := false
    saveDue := false, saved := false
    binds := [], latches := [], pend := [], unacked := [], dropped := [], wait := none
    strip := false, resumed := false, kept := []
    dbgReg := Dbg.reset, dbg := Dbg.reset, group := none }

/-- The SRAMs of a core whose words can be marked poisoned (R15, R150). -/
inductive Sram where
  | spad | sdata
  | lpriv (lane : Nat)
  deriving DecidableEq, Repr

/-- The state of one core's own memories and units (R12, R15, R282). -/
structure Core where
  spad    : ByteStore
  /-- SRAM words (byte offset / 8) marked poisoned (R150, R164) -/
  poison  : List (Sram × Nat)
  sdata   : ByteStore
  lpriv   : Vector ByteStore 32
  /-- `acc0` and `acc1`, element (i, j) at byte 4 × (128i + j) (R282) -/
  acc     : Vector ByteStore 2
  /-- the group that holds the matrix array (R282) -/
  mholder : Option Nat
  /-- per lane group, the last group that held it (R146) -/
  lastHeld : Vector (Option Nat) 8
  /-- the hart and register of the binding whose block holds the inline decoder (R310) -/
  decoder : Option (Nat × Nat)
  deriving DecidableEq, Repr

/-- A core at reset. -/
def Core.reset : Core :=
  { spad := [], poison := [], sdata := [], lpriv := Vector.replicate 32 [], acc := Vector.replicate 2 []
    mholder := none, lastHeld := Vector.replicate 8 none, decoder := none }

/-- The states of a barrier (R351, R353); a latch never becomes faulted (R352). -/
inductive BarState where
  | idle | filling | opened | faulted
  deriving DecidableEq, Repr

/-- The states of a group (R215). -/
inductive GroupState where
  | placed | running | ready | waiting | preempted | retired
  deriving DecidableEq, Repr

/-- How a pre-empted group was saved (R213). -/
inductive SaveKind where
  | trap | cheap | full
  deriving DecidableEq, Repr

/-- A translation held by a TLB (R364, R365): `base` is the page's first address / 65536, `pages` its size in 64 KiB
parts, `leaf` the level-0 or level-1 entry with FRAME of the page's first part. -/
structure Leaf where
  asid  : Nat
  base  : Nat
  pages : Nat
  leaf  : Word
  deriving DecidableEq, Repr

/-- A bolted range of a group with its bolted entries (R366). -/
structure Bolt where
  slot    : Nat
  start   : Nat
  len     : Nat
  entries : List Leaf
  deriving DecidableEq, Repr

/-- A placed group (R204). -/
structure Group where
  serial    : Nat
  asid      : Nat
  /-- group number of the kernel, `groupid`.GROUP (R205) -/
  num       : Nat
  core      : Nat
  /-- hart slots of the core held, in hart order -/
  slots     : List Nat
  quads     : BitVec 8
  next      : BitVec 8
  pre       : Bool
  rcl       : Bool
  lmin      : Nat
  lmax      : Nat
  /-- queue priority after the ceiling (R176) -/
  prio      : Nat
  spadBase  : Nat
  spadSize  : Nat
  frame     : Nat
  lstate    : BarState
  lgen      : BitVec 32
  lcount    : BitVec 32
  bolts     : List Bolt
  st        : GroupState
  saveKind  : SaveKind
  saveQuads : BitVec 8
  /-- lane-private SRAM by lane, and the accumulators, that a full save holds (R146, R179) -/
  saveLp    : Sparse ByteStore
  saveAcc   : Option (Vector ByteStore 2)
  deriving DecidableEq, Repr

/-- The states of a kernel (R197). -/
inductive KernelState where
  | queued | dispatching | running | draining | retired | aborted
  deriving DecidableEq, Repr

/-- A kernel (R193 to R200). -/
structure Kernel where
  asid     : Nat
  code     : Word
  args     : Word
  ctr      : Word
  ngroups  : Nat
  hpg      : Nat
  lmin     : Nat
  lmax     : Nat
  spad     : Nat
  affinity : BitVec 16
  notify   : BitVec 10
  vec      : Nat
  /-- declarations: MODE (1 RO, 2 WO, 3 RW-inplace) and buffer id (R194) -/
  decls    : List (Nat × Nat)
  st       : KernelState
  queue    : Option Nat
  prio     : Nat
  devMade  : Bool
  next     : Nat
  lastCl   : Option Nat
  retired  : Nat
  /-- per core that received a group: groups placed and groups retired (R200) -/
  cores    : Sparse (Nat × Nat)
  doneCores    : List Nat
  doneClusters : List Nat
  doneDies     : List Nat
  /-- the device and kernel levels have completed (R200) -/
  finished     : Bool
  deriving DecidableEq, Repr

/-- The states of a context (R169). -/
inductive CtxState where
  | absent | created | resident | switchedOut | faulted | tornDown
  deriving DecidableEq, Repr

/-- A buffer table entry (R172). -/
structure Buf where
  ver     : BitVec 32
  hold    : BitVec 2
  readers : BitVec 12
  lc      : Bool
  deriving DecidableEq, Repr

/-- A free buffer at version 0 (R169). -/
def Buf.free : Buf := { ver := 0, hold := 0, readers := 0, lc := false }

/-- A context (R165 to R175). -/
structure Ctx where
  st     : CtxState
  /-- a fault held through a switch-out (R170) -/
  held   : Bool
  root   : Nat
  btab   : Nat
  save   : Nat
  sentry : Word
  evq    : Nat
  prio   : Nat
  lq     : Nat
  nbuf   : Nat
  nframe : Nat
  /-- generation of the key pair in the ASID's slot (R166) -/
  key    : Nat
  bufs   : Sparse Buf
  /-- event records that wait for the context's ring, oldest first (R238, R446) -/
  events : List (BitVec 512)
  /-- calls bound per TAG since creation (R422) -/
  calls  : Sparse Nat
  /-- a device post found the ring's access failing: events wait for RESUME (R446) -/
  ringBad : Bool
  deriving DecidableEq, Repr

/-- An ABSENT context. -/
def Ctx.absent : Ctx :=
  { st := .absent, held := false, root := 0, btab := 0, save := 0, sentry := 0, evq := 0, prio := 0, lq := 0
    nbuf := 0, nframe := 0, key := 0, bufs := [], events := [], calls := [], ringBad := false }

/-- The metadata of a 64-byte line (R173) and what it was last encrypted under (R370): key generation (`none`: never
written), counter domain (true: line domain) and counter; and the bittern mark (R377). -/
structure Line where
  ip     : Bool
  cnt    : BitVec 31
  key    : Option Nat
  dom    : Bool
  ctr    : BitVec 32
  poison : Bool
  deriving DecidableEq, Repr

/-- A line that nothing has written. -/
def Line.fresh : Line := { ip := false, cnt := 0, key := none, dom := false, ctr := 0, poison := false }

/-- A TLB that holds a translation (R364): a cluster's second-level TLB or the slice of a core's lane group. -/
inductive TlbAt where
  | second (cluster : Nat)
  | slice (core quad : Nat)
  deriving DecidableEq, Repr

/-- A running migration (R373, R374). -/
structure Mig where
  id      : Nat
  asid    : Nat
  /-- the kernel and cluster of the `PMIG`, the address of the migration record, and the record's channel -/
  serial  : Nat
  cluster : Nat
  record  : Word
  chan    : Nat
  /-- VA, DEST, SIZE and TIER of the record -/
  va      : Nat
  dest    : Nat
  size    : Nat
  tier    : Nat
  /-- physical addresses of the page's leaves with the values read, in ascending order; none before the first step -/
  leaves  : List (Nat × Word)
  deriving DecidableEq, Repr

/-- A tile copy transfer (R162 to R164), of a hart's `CPY` or of a COPY entry (R184). -/
structure Copy where
  id      : Nat
  /-- the hart and its mask register, for a `CPY` -/
  hart    : Option (Nat × Nat)
  /-- the queue and the done counter, for a COPY entry -/
  queue   : Option (Nat × Word)
  asid    : Nat
  /-- the engine: cluster and 0 or 1 -/
  cluster : Nat
  engine  : Nat
  dirOut  : Bool
  main    : Word
  /-- core and scratchpad offset; destination VA for a COPY entry -/
  core    : Nat
  off     : Nat
  dst     : Word
  len     : Nat
  chunk   : Nat
  next    : Nat
  /-- issued at level S -/
  sup     : Bool
  stopped : Bool
  deriving DecidableEq, Repr

/-- A transducer table in a slot of a channel (R378). -/
structure Table where
  ch      : Nat
  slot    : Nat
  asid    : Nat
  entries : List (BitVec 32)
  deriving DecidableEq, Repr

/-- The states of a transducer run (R385); `ending` is RUNNING with its code decided and R383 still to come, `replaying` is
RUNNING with its pit still to be replayed (R384). -/
inductive RunState where
  | queued | running | ending | replaying | held | pitted
  deriving DecidableEq, Repr

/-- A transducer run (R380 to R385). -/
structure Run where
  id    : Nat
  ch    : Nat
  seq   : Nat
  hart  : Nat
  asid  : Nat
  serial : Nat
  entry : BitVec 512
  lm    : Nat
  st    : RunState
  code  : Nat
  s     : Nat
  w     : Nat
  acc   : Word
  k     : Nat
  prev  : Word
  n     : Nat
  pos   : Nat
  /-- brine pit: address, value and cause, in emission order (R384) -/
  pit   : List (Word × Word × BitVec 6)
  /-- queued at level S -/
  sup   : Bool
  deriving DecidableEq, Repr

/-- An entry of a channel's queue (R387, R388): a table to load or a run. -/
inductive ChItem where
  | table (t : Table)
  | run (r : Nat)
  deriving DecidableEq, Repr

/-- The states of a posting query held by an engine (R400). -/
inductive QueryState where
  | queued | running | held
  deriving DecidableEq, Repr

/-- A posting query (R400 to R403). -/
structure Query where
  id       : Nat
  cluster  : Nat
  /-- the query id of R402, 0 to 31 -/
  qid      : Nat
  hart     : Nat
  asid     : Nat
  serial   : Nat
  addr     : Word
  lm       : Nat
  bit      : Nat
  st       : QueryState
  /-- K and RES, once the engine has read the record's header; 0 before -/
  k        : Nat
  res      : Nat
  /-- queued at level S -/
  sup      : Bool
  deriving DecidableEq, Repr

/-- What a collective engine tells another member of a call (R425, R427, R428, R430, R434): that it has bound the call;
own elements or the partial value of a ring for a chunk; a chunk's final value; its report of LOC; its abort. Data are
elements in MTAG, or sx2 blocks where the call compresses. -/
inductive CallMsg where
  | bound (record : BitVec 512) (memb : List Nat)
  | part (chunk : Nat) (data : List Nat)
  | final (chunk : Nat) (data : List Nat)
  | report
  | abort (status lost : Nat)
  deriving DecidableEq, Repr

/-- A message of a collective engine: the member it goes to and the call it belongs to (R422). -/
structure Mail where
  dest : Nat
  die  : Nat
  asid : Nat
  tag  : Nat
  seq  : Nat
  msg  : CallMsg
  deriving DecidableEq, Repr

/-- The states of a collective call (R428). -/
inductive CallState where
  | setup | running | loc | done | aborted
  deriving DecidableEq, Repr

/-- A collective call at this member (R421 to R432). -/
structure Call where
  id      : Nat
  die     : Nat
  tag     : Nat
  asid    : Nat
  serial  : Nat
  hart    : Nat
  lm      : Nat
  slot    : Nat
  record  : BitVec 512
  seq     : Nat
  memb    : List Nat
  st      : CallState
  status  : Nat
  lost    : Nat
  /-- own contributed elements, raw bits in MTAG (R424) -/
  sent    : List (BitVec 64)
  /-- delivered chunks, chunks of own elements sent on, and chunks passed on in a ring -/
  chunks  : List Nat
  out     : List Nat
  hops    : List Nat
  count   : Nat
  time    : Word
  order   : Word
  srcDone : Bool
  /-- the call stays named until its hart binds the TAG again or exits (R433) -/
  named   : Bool
  /-- bound at level S -/
  sup     : Bool
  deriving DecidableEq, Repr

/-- A queue record and its counts (R180 to R191). -/
structure Queue where
  asid    : Nat
  ring    : Word
  depth   : Nat
  prio    : Nat
  kind    : Nat
  sqdb    : Word
  cq      : Word
  cqdb    : Word
  cqdm1   : Nat
  tail    : Word
  prog    : Word
  tails   : Word
  progs   : Word
  latch   : Option Word
  /-- STATE of R180 -/
  state   : Nat
  /-- the state to re-evaluate at switch-in (R186) -/
  was     : Nat
  err     : Nat
  cqhead  : Nat
  sqhead  : Nat
  phase   : Bool
  boost   : Nat
  /-- turn at which the queue was last taken (R188, R189) -/
  taken   : Nat
  /-- candidate for switch-in (R188) -/
  cand    : Bool
  /-- kernels and copies of taken entries that are not complete (R184) -/
  kernels : List Nat
  copies  : List Nat
  deriving DecidableEq, Repr

/-- The states of a link port (R415, R416). -/
inductive PortState where
  | down | training | up | degraded | draining | failed
  deriving DecidableEq, Repr

/-- A flit that a port has sent and that is not acknowledged yet, and the remote store whose request it is (R417, R419). -/
structure Sent where
  flit  : List Byte
  store : Option Nat
  deriving DecidableEq, Repr

/-- A link port (R415 to R417). -/
structure Port where
  peer     : BitVec 16
  peerPort : BitVec 5
  replay   : BitVec 8
  lanes    : BitVec 4
  st       : PortState
  drain    : Bool
  en       : Bool
  attempt  : Nat
  txSeq    : BitVec 12
  rxSeq    : BitVec 12
  /-- flits sent and not acknowledged, and every flit that left, oldest first -/
  unacked  : List Sent
  wire     : List (List Byte)
  /-- flits delivered to the layer above, oldest first -/
  got      : List (List Byte)
  /-- a replay has been requested from this SEQ -/
  wantSeq  : Option (BitVec 12)
  deriving DecidableEq, Repr

/-- A flit that waits to leave: through a port, or by the route of a device (R414); its type, lane slice and payload
(R417), and the remote store whose request it is (R419). -/
structure OutFlit where
  port    : Option Nat
  dest    : Nat
  ty      : Nat
  slice   : Nat
  payload : List Byte
  store   : Option Nat
  deriving DecidableEq, Repr

/-- A port at reset. -/
def Port.reset : Port :=
  { peer := 0, peerPort := 0, replay := 0, lanes := 0, st := .down, drain := false, en := false, attempt := 0
    txSeq := 0, rxSeq := 0, unacked := [], wire := [], got := [], wantSeq := none }

/-- The device registers of BAR0 that hold state (R168, R181, R212, R239, R375, R377, R413, R414, R437, R440, R441,
R443, R444). -/
structure Regs where
  boot     : BitVec 2
  ctxAddr  : Word
  ctxGo    : Bool
  ctxOp    : BitVec 3
  ctxStatus : BitVec 8
  ctxAsid  : BitVec 11
  qtab     : Word
  qGo      : Bool
  qOp      : BitVec 3
  qStatus  : BitVec 8
  qQueue   : BitVec 16
  rcldl    : BitVec 14
  hotRing  : Word
  hotTh    : BitVec 32
  hotTail  : Word
  hotHead  : Word
  rakeCtl  : Word
  slogRing : Word
  slogTail : Word
  linkCfg  : Word
  hdmCtx   : Word
  pwrLimit : BitVec 16
  pwrDraw  : BitVec 16
  capped   : Bool
  attAddr  : Word
  attGo    : Bool
  /-- head of the measurement chain (R441) -/
  chain    : BitVec 256
  deriving DecidableEq, Repr

/-- The registers at reset. -/
def Regs.reset : Regs :=
  { boot := 0, ctxAddr := 0, ctxGo := false, ctxOp := 0, ctxStatus := 0, ctxAsid := 0, qtab := 0, qGo := false
    qOp := 0, qStatus := 0, qQueue := 0, rcldl := 50, hotRing := 0, hotTh := 65536, hotTail := 0, hotHead := 0
    rakeCtl := 0x180001, slogRing := 0, slogTail := 0, linkCfg := 0x7D0000, hdmCtx := 0x800
    pwrLimit := 4500, pwrDraw := 0, capped := false, attAddr := 0, attGo := false, chain := 0 }

/-- An island: its frequency in MHz and voltage in mV, the step whose cycle a droop stretches (R439), and by how many MHz
the power cap has lowered it (R440). -/
structure Island where
  mhz     : Nat
  mv      : Nat
  stretch : Option Nat
  cut     : Nat
  deriving DecidableEq, Repr

/-- An engine's write that a MIGRATING page holds back after its step has ended (R374): the agent, the address and the
bytes, and the call whose completion record it is with the vector that follows it (R427). -/
structure HeldWrite where
  who  : Who
  va   : Nat
  data : List Byte
  call : Option (Nat × Option Nat)
  deriving DecidableEq, Repr

/-- A write of the host through an HDM decoder that a MIGRATING page holds back, under the key and counters that HDMCTX named
as it arrived (R374, R437). -/
structure HostWrite where
  cry  : Cry
  pa   : Nat
  data : List Byte
  deriving DecidableEq, Repr

/-- A turn on the agenda: a step of a hart, the step of a hart that its own `YIELD` has held up to here (R222), or an event
of another agent (DESIGN CHOICE, notes/assumptions/1.md). -/
inductive Turn where
  | hart (h : Nat)
  | back (h : Nat)
  | event (i : Instr)
  deriving DecidableEq, Repr

/-- The state of the machine. -/
structure State where
  harts    : Sparse Hart
  cores    : Sparse Core
  groups   : Sparse Group
  kernels  : Sparse Kernel
  ctxs     : Sparse Ctx
  queues   : Sparse Queue
  /-- device memory by physical address, as plaintext (R360; DEDUCED, notes/assumptions/5.md) -/
  mem      : ByteStore
  /-- line metadata by PA / 64 (R173) -/
  lines    : Sparse Line
  hostMem  : ByteStore
  /-- memory of the peers by device number (R420) -/
  peerMem  : Sparse ByteStore
  /-- lines of host memory (none) and of peers that an engine has written as the bittern pattern (R164) -/
  outMarks : List (Option Nat × Nat)
  tlb      : List (TlbAt × Leaf)
  migs     : List Mig
  copies   : List Copy
  tables   : List Table
  /-- per channel, its queue of tables and runs, oldest first (R387, R388) -/
  chq      : Sparse (List ChItem)
  /-- per channel, the next sequence number (R388) -/
  chseq    : Sparse Nat
  runs     : List Run
  queries  : List Query
  calls    : List Call
  regs     : Regs
  routes   : Vector Word 64
  /-- devices declared lost (R419) -/
  lostDevs : List Nat
  ports    : Vector Port 24
  /-- flits that wait to leave, and the messages that collective engines have sent, oldest first (R417, R425) -/
  outq     : List OutFlit
  mail     : List Mail
  /-- engine writes that wait for a MIGRATING page, oldest first (R374) -/
  held     : List HeldWrite
  /-- host writes that wait for a MIGRATING page, oldest first (R374, R437) -/
  heldHost : List HostWrite
  islands  : Sparse Island
  /-- accesses per 2 MiB region (PA / 2^21) in the current window, with the VA, where one is known, and the ASID of the
  last (R375) -/
  hot      : Sparse (Nat × Option Nat × Nat)
  /-- MSI-X vectors raised, oldest first (R438) -/
  msix     : List Nat
  /-- PCIe writes that left the device for drives' doorbells: address and value, oldest first (R190, R191) -/
  pcie     : List (Word × Nat)
  /-- the data the last host access through an HDM decoder, or a peer's access, returned (R437, R420) -/
  reply    : List Byte
  /-- a FATAL error has stopped the device (R239) -/
  fatal    : Bool
  /-- next launch serial (R197), next identities of groups, engine work and calls, next key generation (R166) -/
  serial   : Nat
  nextId   : Nat
  keyGen   : Nat
  /-- turns of the queue scheduler so far (R189) -/
  qturn    : Nat
  /-- the hart whose turn it is, and the turns still to come (DESIGN CHOICE, notes/assumptions/1.md) -/
  cur      : Nat
  agenda   : List Turn
  /-- steps since reset, and the count of free values taken (DESIGN CHOICE, notes/assumptions/8.md) -/
  clock    : Nat
  fresh    : Nat
  deriving DecidableEq, Repr

/-- The machine right after reset (R444): nothing placed, no context, no queue, memory with nothing listed. -/
def State.reset : State :=
  { harts := [], cores := [], groups := [], kernels := [], ctxs := [], queues := [], mem := [], lines := []
    hostMem := [], peerMem := [], outMarks := [], tlb := [], migs := [], copies := [], tables := [], chq := [], chseq := []
    runs := [], queries := [], calls := [], regs := Regs.reset, routes := Vector.replicate 64 0, lostDevs := []
    ports := Vector.replicate 24 Port.reset, outq := [], mail := [], held := [], heldHost := [], islands := [], hot := [], msix := [], pcie := [], reply := []
    fatal := false, serial := 1, nextId := 0, keyGen := 0, qturn := 0, cur := 0, agenda := [], clock := 0
    fresh := 0 }

/-- Why the machine stops. -/
inductive Fault where
  /-- Raised by `step` alone: a FATAL error has stopped every hart and engine (R239) and nothing is left on the
  agenda. Safe: the manual says the device accepts nothing but a reset. -/
  | fatalStop
  deriving DecidableEq, Repr

/-- Why the model gives an instruction no meaning. -/
inductive Refusal where
  /-- Raised by `exec` for an instruction without a meaning yet. Safe: no claim about its effect can be proved. -/
  | notModelled (mnemonic : String)
  deriving DecidableEq, Repr

end Sys2Proof.Machine
end

