-- ==== Sys2Proof/Machine/Bits.lean ====
section
/-!
DEFINITION. Finite maps and byte stores in canonical form, fields of wide records, and small bit helpers.
-/
namespace Sys2Proof.Machine

open Sys2Proof

/-- The value listed at a key. -/
def smGet? {α : Type} : Sparse α → Nat → Option α
  | [], _ => none
  | (j, v) :: m, k => if j = k then some v else smGet? m k

/-- The value at a key, or `d` where none is listed. -/
def smGet {α : Type} (d : α) (m : Sparse α) (k : Nat) : α := (smGet? m k).getD d

/-- The map with the value at a key replaced or inserted in key order. -/
def smPut {α : Type} : Sparse α → Nat → α → Sparse α
  | [], k, v => [(k, v)]
  | (j, w) :: m, k, v =>
    if k < j then (k, v) :: (j, w) :: m else if k = j then (k, v) :: m else (j, w) :: smPut m k v

/-- The map without a key. -/
def smDel {α : Type} (m : Sparse α) (k : Nat) : Sparse α := m.filter fun p => p.1 != k

/-- The byte at an address: 0 where none is listed (DESIGN CHOICE, notes/assumptions/4.md). -/
def bsGet : ByteStore → Nat → Byte
  | [], _ => 0
  | (j, b) :: m, a => if j = a then b else bsGet m a

/-- The store with one byte written, kept in canonical form. -/
def bsPut : ByteStore → Nat → Byte → ByteStore
  | [], a, b => if b = 0 then [] else [(a, b)]
  | (j, c) :: m, a, b =>
    if a < j then (if b = 0 then (j, c) :: m else (a, b) :: (j, c) :: m)
    else if a = j then (if b = 0 then m else (a, b) :: m)
    else (j, c) :: bsPut m a b

/-- `n` bytes from an address on. -/
def bsRead (m : ByteStore) (a : Nat) : Nat → List Byte
  | 0 => []
  | n + 1 => bsGet m a :: bsRead m (a + 1) n

/-- The store with bytes written from an address on. -/
def bsWrite (m : ByteStore) (a : Nat) : List Byte → ByteStore
  | [] => m
  | b :: bs => bsWrite (bsPut m a b) (a + 1) bs

/-- The canonical form: addresses strictly rise and no listed byte is 0. -/
def Memory.wf : ByteStore → Bool
  | [] => true
  | [(_, b)] => b != 0
  | (a, b) :: (c, d) :: m => b != 0 && decide (a < c) && Memory.wf ((c, d) :: m)

/-- The little-endian number of `n` bytes from an address on (R3). -/
def bsNat (m : ByteStore) (a n : Nat) : Nat := leNat (bsRead m a n)

/-- Bits [lo + n − 1 : lo] of a number. -/
def nbits (x lo n : Nat) : Nat := x / 2 ^ lo % 2 ^ n

/-- Bits [lo + n − 1 : lo] of a record held as a bit vector, as a number. -/
def fld {w : Nat} (x : BitVec w) (lo n : Nat) : Nat := nbits x.toNat lo n

/-- Bit i of a bit vector. -/
def bit {w : Nat} (x : BitVec w) (i : Nat) : Bool := x.getLsbD i

/-- A word from a number. -/
def wd (x : Nat) : Word := BitVec.ofNat 64 x

/-- A word from an integer, modulo 2^64. -/
def wi (x : Int) : Word := BitVec.ofInt 64 x

/-- All ones (R190, R201 and others: "all ones"). -/
def ones : Word := BitVec.allOnes 64

/-- A truth value as 1 or 0. -/
def b2n (b : Bool) : Nat := if b then 1 else 0

/-- An n-bit number read as two's complement. -/
def signed (n x : Nat) : Int := if x % 2 ^ n < 2 ^ (n - 1) then (x % 2 ^ n : Nat) else (x % 2 ^ n : Nat) - (2 ^ n : Nat)

/-- The low n bits of an integer. -/
def lowBits (n : Nat) (x : Int) : Nat := (x % (2 ^ n : Nat)).toNat

/-- Rounding a number up to a multiple. -/
def roundUp (x k : Nat) : Nat := (x + k - 1) / k * k

/-- The number of set bits of a bit vector. -/
def popCount {w : Nat} (x : BitVec w) : Nat := (List.range w).foldl (fun n i => n + b2n (x.getLsbD i)) 0

/-- A bit vector with bit i set or cleared. -/
def setBit {w : Nat} (x : BitVec w) (i : Nat) (b : Bool) : BitVec w :=
  if b then x ||| BitVec.ofNat w (2 ^ i) else x &&& ~~~ BitVec.ofNat w (2 ^ i)

/-- A mask of set bits from `lo` on, `n` of them. -/
def bitRun (w lo n : Nat) : BitVec w := BitVec.ofNat w ((2 ^ n - 1) * 2 ^ lo)

/-- The list of indices below a bound whose bit is set. -/
def setBits {w : Nat} (x : BitVec w) (n : Nat) : List Nat := (List.range n).filter fun i => x.getLsbD i

/-- A list with the element at an index replaced, where there is one. -/
def listSet {α : Type} : List α → Nat → α → List α
  | [], _, _ => []
  | _ :: l, 0, v => v :: l
  | x :: l, n + 1, v => x :: listSet l n v

/-- Bytes of a number of `n` bytes with `k` bytes replaced from byte `at_` on. -/
def bytesOf (n : Nat) (x : Word) : List Byte := leBytes n x.toNat

/-- Applies a function `n` times with the index counting up, stopping at the first answer of `some` from the second
component: the element loops of the entries, and what stopped them. -/
def loopFrom {σ τ : Type} (f : Nat → σ → σ × Option τ) : Nat → Nat → σ → σ × Option τ
  | 0, _, s => (s, none)
  | n + 1, i, s =>
    match f i s with
    | (s', none) => loopFrom f n (i + 1) s'
    | (s', some t) => (s', some t)

/-- The product of a list of extents. -/
def prodL (l : List Nat) : Nat := l.foldl (· * ·) 1

end Sys2Proof.Machine
end

