-- ==== Sys2Proof/Machine/Numbers.lean ====
section
/-!
DEFINITION. Exact numbers, rounding and flags: R41, R42, R50 to R56, R119 to R121. An exact value is a sign, a
magnitude and a power of two; a `sticky` value lies strictly between its magnitude and the next one, far below any
rounding boundary.
-/
namespace Sys2Proof.Machine

/-- The rounding modes of R50 without DYN. -/
inductive Rm where
  | rne | rtz | rdn | rup | rna | rsto
  deriving DecidableEq, Repr

/-- A mode from its code (R50); codes 0 and 7 never reach here and read as RNE. -/
def Rm.ofCode : Nat → Rm
  | 2 => .rtz | 3 => .rdn | 4 => .rup | 5 => .rna | 6 => .rsto | _ => .rne

/-- The mode with RSTO read as RNE (R50, R149, R301). -/
def Rm.det : Rm → Rm
  | .rsto => .rne
  | r => r

/-- A set of flags, laid out as `fflags` (R54). -/
abbrev Flags := BitVec 6

/-- Inexact (R54). -/
def fNX : Flags := 1
/-- Underflow (R54). -/
def fUF : Flags := 2
/-- Overflow (R54). -/
def fOF : Flags := 4
/-- Divide-by-zero (R54). -/
def fDZ : Flags := 8
/-- Invalid (R54). -/
def fNV : Flags := 16
/-- Saturation (R54). -/
def fSAT : Flags := 32

/-- An exact floating value: NaN (signalling or quiet), an infinity, or (−1)^neg × (m + δ) × 2^e with δ = 0, or
0 < δ < 1 when `sticky`. -/
inductive FVal where
  | nan (sig : Bool)
  | inf (neg : Bool)
  | num (neg : Bool) (m : Nat) (e : Int) (sticky : Bool)
  deriving DecidableEq, Repr

/-- An exact integer as a floating value. -/
def FVal.ofInt (x : Int) : FVal := .num (decide (x < 0)) x.natAbs 0 false

/-- Zero with a sign. -/
def FVal.zero (neg : Bool) : FVal := .num neg 0 0 false

/-- The value is a NaN. -/
def FVal.isNan : FVal → Bool
  | .nan _ => true
  | _ => false

/-- The value is a signalling NaN. -/
def FVal.isSig : FVal → Bool
  | .nan s => s
  | _ => false

/-- The value is ±0. -/
def FVal.isZero : FVal → Bool
  | .num _ m _ st => decide (m = 0) && !st
  | _ => false

/-- The sign bit of a value. -/
def FVal.neg? : FVal → Bool
  | .nan _ => false
  | .inf n => n
  | .num n _ _ _ => n

/-- The value with its sign exchanged. -/
def FVal.flip : FVal → FVal
  | .nan s => .nan s
  | .inf n => .inf (!n)
  | .num n m e st => .num (!n) m e st

/-- The magnitude of a value. -/
def FVal.mag : FVal → FVal
  | .nan s => .nan s
  | .inf _ => .inf false
  | .num _ m e st => .num false m e st

/-- An IEEE interchange format: exponent bits and fraction bits (R41). -/
structure FFmt where
  eb : Nat
  mb : Nat
  deriving DecidableEq, Repr

/-- Exponent bias (R41). -/
def FFmt.bias (f : FFmt) : Nat := 2 ^ (f.eb - 1) - 1
/-- Width in bits. -/
def FFmt.width (f : FFmt) : Nat := 1 + f.eb + f.mb
/-- The bits of infinity without the sign. -/
def FFmt.infBits (f : FFmt) : Nat := (2 ^ f.eb - 1) * 2 ^ f.mb
/-- The canonical quiet NaN (R42). -/
def FFmt.nanBits (f : FFmt) : Nat := f.infBits + 2 ^ (f.mb - 1)
/-- The sign bit. -/
def FFmt.signBit (f : FFmt) (n : Bool) : Nat := if n then 2 ^ (f.eb + f.mb) else 0

/-- The value that bits of a format stand for (R41). -/
def FFmt.decode (f : FFmt) (x : Nat) : FVal :=
  let neg := decide (x / 2 ^ (f.eb + f.mb) % 2 = 1)
  let ex := nbits x f.mb f.eb
  let fr := nbits x 0 f.mb
  if ex = 2 ^ f.eb - 1 then
    if fr = 0 then .inf neg else .nan (decide (fr < 2 ^ (f.mb - 1)))
  else if ex = 0 then .num neg fr (1 - (f.bias : Int) - f.mb) false
  else .num neg (fr + 2 ^ f.mb) ((ex : Int) - f.bias - f.mb) false

/-- Whether the magnitude m + δ, cut at `sh` bits, is rounded away from zero (R50, R52); `u` is the 16-bit draw of
RSTO. -/
def roundsUp (rm : Rm) (u : Nat) (neg : Bool) (m sh : Nat) (sticky : Bool) : Bool :=
  let q := m / 2 ^ sh
  let r := m % 2 ^ sh
  let inexact := decide (r ≠ 0) || sticky
  match rm with
  | .rne => decide (2 * r > 2 ^ sh) || (decide (2 * r = 2 ^ sh) && (sticky || decide (q % 2 = 1)))
  | .rtz => false
  | .rdn => neg && inexact
  | .rup => !neg && inexact
  | .rna => decide (2 * r ≥ 2 ^ sh ∧ 0 < sh)
  | .rsto => decide (u < r * 65536 / 2 ^ sh)

/-- The magnitude (m + δ) × 2^e as a whole number of 2^q, rounded, and whether it was inexact. -/
def roundAt (rm : Rm) (u : Nat) (neg : Bool) (m : Nat) (e q : Int) (sticky : Bool) : Nat × Bool :=
  if q ≤ e then (m * 2 ^ (e - q).toNat, sticky)
  else
    let sh := (q - e).toNat
    (m / 2 ^ sh + b2n (roundsUp rm u neg m sh sticky), decide (m % 2 ^ sh ≠ 0) || sticky)

/-- Rounding a finite nonzero value into a format (R41, R50, R54, R56), where an overflow gives what the mode gives. -/
def FFmt.roundNum (f : FFmt) (rm : Rm) (sat : Bool) (u : Nat) (neg : Bool) (m : Nat) (e : Int) (sticky : Bool) :
    Nat × Flags × Bool :=
  let top := e + (Nat.log2 m : Int)
  let emin := 1 - (f.bias : Int)
  let q := max (top - f.mb) (emin - f.mb)
  let r := roundAt rm u neg m e q sticky
  let bits := if r.1 < 2 ^ f.mb then r.1 else (q + f.mb + f.bias).toNat * 2 ^ f.mb + (r.1 - 2 ^ f.mb)
  if f.infBits ≤ bits then
    let toMax := sat || rm == .rtz || (rm == .rdn && !neg) || (rm == .rup && neg)
    (f.signBit neg + (if toMax then f.infBits - 1 else f.infBits), fOF ||| fNX ||| (if sat then fSAT else 0), true)
  else
    let tiny := decide (top < emin) &&
      (decide (top < emin - 1) || decide ((roundAt rm u neg m e (top - f.mb) sticky).1 < 2 ^ (f.mb + 1)))
    (f.signBit neg + bits,
      (if r.2 then fNX else 0) ||| (if r.2 && tiny then fUF else 0), false)

/-- `Round` into a format (R38, R42, R50, R56): bits and flags. A signalling NaN raises nothing here; what consumes
it does. Where RSTO overflows, RNE's result comes with RNE's flags (DEDUCED, notes/assumptions/48.md). -/
def FFmt.round (f : FFmt) (rm : Rm) (sat : Bool) (u : Nat) (v : FVal) : Nat × Flags :=
  match v with
  | .nan _ => (f.nanBits, 0)
  | .inf n => (f.signBit n + f.infBits, 0)
  | .num n m e st =>
    if m = 0 && !st then (f.signBit n, 0)
    else
      let r := f.roundNum rm sat u n m e st
      if r.2.2 && rm == .rsto then let r2 := f.roundNum .rne sat u n m e st; (r2.1, r2.2.1) else (r.1, r.2.1)

/-- Rounding a value to an integer by a mode: the integer and whether it was inexact (R50, R58). -/
def FVal.toInt (rm : Rm) (u : Nat) (neg : Bool) (m : Nat) (e : Int) (sticky : Bool) : Int × Bool :=
  let r := roundAt rm u neg m (max e (-5000)) 0 (sticky || (decide (e < -5000) && decide (m ≠ 0)))
  (if neg then -(r.1 : Int) else r.1, r.2)

/-- The exact sum; the sign of a zero sum is that of the operands, or − under RDN only (R42). -/
def FVal.add (rm : Rm) (a b : FVal) : FVal × Flags :=
  let sigF : Flags := if a.isSig || b.isSig then fNV else 0
  match a, b with
  | .nan _, _ => (.nan false, sigF)
  | _, .nan _ => (.nan false, sigF)
  | .inf x, .inf y => if x = y then (.inf x, 0) else (.nan false, fNV)
  | .inf x, _ => (.inf x, 0)
  | _, .inf y => (.inf y, 0)
  | .num n1 m1 e1 _, .num n2 m2 e2 _ =>
    if m1 = 0 && m2 = 0 then (FVal.zero (if n1 = n2 then n1 else rm == .rdn), 0)
    else if m1 = 0 then (b, 0) else if m2 = 0 then (a, 0) else
    let e := min e1 e2
    let x : Int := (m1 * 2 ^ (e1 - e).toNat : Nat)
    let y : Int := (m2 * 2 ^ (e2 - e).toNat : Nat)
    let z := (if n1 then -x else x) + (if n2 then -y else y)
    if z = 0 then (FVal.zero (rm == .rdn), 0) else (.num (decide (z < 0)) z.natAbs e false, 0)

/-- The exact product (R42, R54). -/
def FVal.mul (a b : FVal) : FVal × Flags :=
  let sigF : Flags := if a.isSig || b.isSig then fNV else 0
  match a, b with
  | .nan _, _ => (.nan false, sigF)
  | _, .nan _ => (.nan false, sigF)
  | .inf x, y => if y.isZero then (.nan false, fNV) else (.inf (x != y.neg?), 0)
  | x, .inf y => if x.isZero then (.nan false, fNV) else (.inf (x.neg? != y), 0)
  | .num n1 m1 e1 _, .num n2 m2 e2 _ => (.num (n1 != n2) (m1 * m2) (e1 + e2) false, 0)

/-- a × b + c, exact; a NaN c hides the invalid product, as no NaN is then made from non-NaN inputs (R54). -/
def FVal.fma (rm : Rm) (a b c : FVal) : FVal × Flags :=
  let sigF : Flags := if a.isSig || b.isSig || c.isSig then fNV else 0
  if a.isNan || b.isNan || c.isNan then (.nan false, sigF)
  else
    let p := a.mul b
    if p.1.isNan then p else p.1.add rm c

/-- The quotient to far more bits than any format holds (R118, R54). -/
def FVal.div (a b : FVal) : FVal × Flags :=
  let sigF : Flags := if a.isSig || b.isSig then fNV else 0
  match a, b with
  | .nan _, _ => (.nan false, sigF)
  | _, .nan _ => (.nan false, sigF)
  | .inf _, .inf _ => (.nan false, fNV)
  | .inf x, y => (.inf (x != y.neg?), 0)
  | x, .inf y => (FVal.zero (x.neg? != y), 0)
  | .num n1 m1 e1 _, .num n2 m2 e2 _ =>
    if m2 = 0 then (if m1 = 0 then (.nan false, fNV) else (.inf (n1 != n2), fDZ))
    else if m1 = 0 then (FVal.zero (n1 != n2), 0)
    else
      let k := 200 + Nat.log2 m2
      (.num (n1 != n2) (m1 * 2 ^ k / m2) (e1 - e2 - k) (decide (m1 * 2 ^ k % m2 ≠ 0)), 0)

/-- The integer square root, digit by digit, over `n` binary digits. -/
def isqrtAux (x : Nat) : Nat → Nat → Nat
  | 0, r => r
  | n + 1, r => let c := r + 2 ^ n; isqrtAux x n (if c * c ≤ x then c else r)

/-- The integer square root of a number. -/
def isqrt (x : Nat) : Nat := isqrtAux x (Nat.log2 x / 2 + 1) 0

/-- The square root (R119). -/
def FVal.sqrt (a : FVal) : FVal × Flags :=
  match a with
  | .nan s => (.nan false, if s then fNV else 0)
  | .inf n => if n then (.nan false, fNV) else (.inf false, 0)
  | .num n m e _ =>
    if m = 0 then (FVal.zero n, 0) else if n then (.nan false, fNV)
    else
      let k := 300 + (e % 2).toNat
      let x := m * 2 ^ k
      let r := isqrt x
      (.num false r ((e - k) / 2) (decide (r * r ≠ x)), 0)

/-- ln 2 × 2^320, cut. -/
def ln2Fix : Nat := 1480553391661173448385607439722553250922680800745876974795605978609098082859138712941075737848984

/-- The terms x^k / k! of the exponential series, in units of 2^−320, summed over `n` terms. -/
def expTerms (x : Nat) : Nat → Nat → Nat → Nat → Nat
  | 0, _, _, sum => sum
  | n + 1, k, t, sum => let t' := t * x / 2 ^ 320 / k; expTerms x n (k + 1) t' (sum + t')

/-- 2^a (R119): exact for a whole a, else to 320 bits; the value of a non-whole exponent is irrational, so it is never
a rounding boundary. -/
def FVal.exp2 (a : FVal) : FVal × Flags :=
  match a with
  | .nan s => (.nan false, if s then fNV else 0)
  | .inf n => if n then (FVal.zero false, 0) else (.inf false, 0)
  | .num n m e _ =>
    if m = 0 then (.num false 1 0 false, 0)
    else if 12 < e + (Nat.log2 m : Int) then (.num false 1 (if n then -4096 else 4096) false, 0)
    else if 0 ≤ e then
      let x : Int := (m * 2 ^ e.toNat : Nat)
      (.num false 1 (if n then -x else x) false, 0)
    else
      let d : Nat := 2 ^ (-e).toNat
      let x : Int := if n then -(m : Int) else m
      let whole := x / (d : Int)
      let frac := (x % (d : Int)).toNat
      if frac = 0 then (.num false 1 whole false, 0)
      else
        let y : Nat := frac * ln2Fix / d
        (.num false (expTerms y 90 1 (2 ^ 320) (2 ^ 320)) (whole - 320) true, 0)

/-- The terms z^(2k+1) / (2k+1) in units of 2^−320, summed over `n` terms. -/
def atanhTerms (z2 : Nat) : Nat → Nat → Nat → Nat → Nat
  | 0, _, _, sum => sum
  | n + 1, k, t, sum => atanhTerms z2 n (k + 2) (t * z2 / 2 ^ 320) (sum + t / k)

/-- log2 a (R119): exact for a power of two, else to 320 bits. -/
def FVal.log2 (a : FVal) : FVal × Flags :=
  match a with
  | .nan s => (.nan false, if s then fNV else 0)
  | .inf n => if n then (.nan false, fNV) else (.inf false, 0)
  | .num n m e _ =>
    if m = 0 then (.inf true, fDZ) else if n then (.nan false, fNV)
    else
      let l := Nat.log2 m
      let ex : Int := e + l
      if m = 2 ^ l then (FVal.ofInt ex, 0)
      else
        let z := (m - 2 ^ l) * 2 ^ 320 / (m + 2 ^ l)
        let ln := 2 * atanhTerms (z * z / 2 ^ 320) 110 1 z 0
        let r : Int := ex * (2 ^ 320 : Nat) + (ln * 2 ^ 320 / ln2Fix : Nat)
        (.num (decide (r < 0)) r.natAbs (-320) true, 0)

/-- The top 12 bits of the fraction of a normalised magnitude, and its exponent (R120). -/
def estParts (m : Nat) (e : Int) : Nat × Int :=
  let l := Nat.log2 m
  (if 12 ≤ l then m / 2 ^ (l - 12) - 4096 else m * 2 ^ (12 - l) - 4096, e + l)

/-- The reciprocal estimate before the last rounding (R120). -/
def FVal.rcpe (a : FVal) : FVal × Flags :=
  match a with
  | .nan s => (.nan false, if s then fNV else 0)
  | .inf n => (FVal.zero n, 0)
  | .num n m e _ =>
    if m = 0 then (.inf n, fDZ)
    else
      let p := estParts m e
      let d := 8193 + 2 * p.1
      let q := (16384 * 8192 * 2 + d) / (2 * d)
      (.num n q (-14 - p.2) false, 0)

/-- The reciprocal square root estimate before the last rounding (R120). -/
def FVal.rsqe (a : FVal) : FVal × Flags :=
  match a with
  | .nan s => (.nan false, if s then fNV else 0)
  | .inf n => if n then (.nan false, fNV) else (FVal.zero false, 0)
  | .num n m e _ =>
    if m = 0 then (.inf n, fDZ) else if n then (.nan false, fNV)
    else
      let p := estParts m e
      let odd := (p.2 % 2).toNat
      let den := (8193 + 2 * p.1) * 2 ^ odd
      let num := 2 ^ 28 * 8192
      let q := isqrt (num / den)
      let q' := if (2 * q + 1) * (2 * q + 1) * den ≤ 4 * num then q + 1 else q
      (.num false q' (-14 - (p.2 - odd) / 2) false, 0)

/-- One of two operands is infinite and the other zero or below the smallest normal (R121). -/
def stepCorner (emin : Int) (a b : FVal) : Bool :=
  let small : FVal → Bool := fun v => match v with
    | .num _ m e _ => decide (m = 0) || decide (e + (Nat.log2 m : Int) < emin)
    | _ => false
  match a, b with
  | .inf _, v => small v
  | v, .inf _ => small v
  | _, _ => false

/-- 2 − a × b, exact (R121). -/
def FVal.rcps (emin : Int) (rm : Rm) (a b : FVal) : FVal × Flags :=
  if stepCorner emin a b then (.num false 2 0 false, 0) else FVal.fma rm a.flip b (.num false 2 0 false)

/-- (3 − a × b × b) / 2, exact (R121). -/
def FVal.rsqs (emin : Int) (rm : Rm) (a b : FVal) : FVal × Flags :=
  if stepCorner emin a b then (.num false 3 (-1) false, 0)
  else
    let bb := b.mul b
    let r := FVal.fma rm a.flip bb.1 (.num false 3 0 false)
    match r.1 with
    | .num n m e st => (.num n m (e - 1) st, r.2 ||| bb.2)
    | v => (v, r.2 ||| bb.2)

/-- The order of two values that are not NaN; −0 is below +0 when `strict` (R118), equal to it otherwise (R123). -/
def FVal.lt (strict : Bool) (a b : FVal) : Bool :=
  match a, b with
  | .nan _, _ => false
  | _, .nan _ => false
  | .inf x, .inf y => x && !y
  | .inf x, _ => x
  | _, .inf y => !y
  | .num n1 m1 e1 _, .num n2 m2 e2 _ =>
    if m1 = 0 && m2 = 0 then strict && n1 && !n2
    else
      let e := min e1 e2
      let x : Int := (m1 * 2 ^ (e1 - e).toNat : Nat)
      let y : Int := (m2 * 2 ^ (e2 - e).toNat : Nat)
      decide ((if n1 then -x else x) < (if n2 then -y else y))

/-- The next state of the stochastic rounding generator (R52). -/
def seedNext (x : BitVec 64) : BitVec 64 :=
  let x1 := x ^^^ (x <<< 13)
  let x2 := x1 ^^^ (x1 >>> 7)
  x2 ^^^ (x2 <<< 17)

end Sys2Proof.Machine
end

