-- ==== Sys2Proof/Machine/Elem.lean ====
section
/-!
DEFINITION. Elements by tag: R39 to R49 (formats, keys, shared-exponent blocks, pixels), R57 to R59 (integer edges,
conversions, promotion), and the block quantiser of R48.
-/
namespace Sys2Proof.Machine

/-- The code of a tag (R39). -/
def Tag.code : Tag → Nat
  | .u8 => 0 | .i8 => 1 | .u16 => 2 | .i16 => 3 | .u32 => 4 | .i32 => 5 | .u64 => 6 | .i64 => 7
  | .f16 => 8 | .bf16 => 9 | .f32 => 10 | .f64 => 11 | .sx2 => 12 | .sx4 => 13 | .sx7 => 14 | .kx => 15

/-- The tag of a 4-bit code (R39). -/
def Tag.ofCode (n : Nat) : Tag :=
  match n % 16 with
  | 0 => .u8 | 1 => .i8 | 2 => .u16 | 3 => .i16 | 4 => .u32 | 5 => .i32 | 6 => .u64 | 7 => .i64
  | 8 => .f16 | 9 => .bf16 | 10 => .f32 | 11 => .f64 | 12 => .sx2 | 13 => .sx4 | 14 => .sx7 | _ => .kx

/-- An integer tag (R40). -/
def Tag.isInt (t : Tag) : Bool := decide (t.code ≤ 7)
/-- A signed integer tag. -/
def Tag.isSigned (t : Tag) : Bool := t.isInt && decide (t.code % 2 = 1)
/-- An IEEE floating tag (R41). -/
def Tag.isFloat (t : Tag) : Bool := decide (8 ≤ t.code ∧ t.code ≤ 11)
/-- A shared-exponent tag (R45). -/
def Tag.isSx (t : Tag) : Bool := decide (12 ≤ t.code ∧ t.code ≤ 14)

/-- Element bytes of a tag that is not sx (R39). -/
def Tag.bytes : Tag → Nat
  | .u8 | .i8 => 1
  | .u16 | .i16 | .f16 | .bf16 => 2
  | .u32 | .i32 | .f32 => 4
  | _ => 8

/-- Element width in bits of a tag that is not sx. -/
def Tag.width (t : Tag) : Nat := 8 * t.bytes

/-- The magnitude bits m of an sx element (R45). -/
def Tag.sxM : Tag → Nat
  | .sx2 => 2 | .sx4 => 4 | _ => 7

/-- Block bytes in memory (R39, R45). -/
def Tag.blockBytes : Tag → Nat
  | .sx2 => 8 | .sx4 => 12 | _ => 18

/-- Bytes of a block's slot in a register (R47). -/
def Tag.slotBytes : Tag → Nat
  | .sx2 => 8 | .sx4 => 16 | _ => 24

/-- Sixteen times the element size that the maximum vector length uses (R209, R47). -/
def Tag.size16 (t : Tag) : Nat := if t.isSx then t.slotBytes else 16 * t.bytes

/-- The alignment and size of a unit access in memory: an element, or a block under an sx tag (R150). -/
def Tag.unitBytes (t : Tag) : Nat := if t.isSx then t.blockBytes else t.bytes

/-- The IEEE format of a floating tag (R41). -/
def Tag.ffmt : Tag → FFmt
  | .f16 => ⟨5, 10⟩ | .bf16 => ⟨8, 7⟩ | .f64 => ⟨11, 52⟩ | _ => ⟨8, 23⟩

/-- The least value of an integer tag (R40). -/
def Tag.lo (t : Tag) : Int := if t.isSigned then -(2 ^ (t.width - 1) : Nat) else 0
/-- The greatest value of an integer tag (R40). -/
def Tag.hi (t : Tag) : Int := if t.isSigned then (2 ^ (t.width - 1) : Nat) - 1 else (2 ^ t.width : Nat) - 1

/-- What an element stands for: an integer, a floating value, or the raw bits of a kx pair. -/
inductive Val where
  | int (x : Int)
  | flt (x : FVal)
  | key (x : Nat)
  deriving DecidableEq, Repr

/-- The value of raw element bits under a tag that is not sx. -/
def Tag.decode (t : Tag) (x : Nat) : Val :=
  if t.isInt then .int (if t.isSigned then signed t.width x else (x % 2 ^ t.width : Nat))
  else if t.isFloat then .flt (t.ffmt.decode x)
  else .key x

/-- A value as a floating value. -/
def Val.toF : Val → FVal
  | .int x => FVal.ofInt x
  | .flt v => v
  | .key x => FVal.ofInt x

/-- A value as an integer (0 for a floating one). -/
def Val.toI : Val → Int
  | .int x => x
  | .key x => x
  | .flt _ => 0

/-- The flag a consumed signalling NaN raises (R42). -/
def Val.sigFlag : Val → Flags
  | .flt v => if v.isSig then fNV else 0
  | _ => 0

/-- An exact integer written under an integer tag: wrapped, or clamped with SATF under SAT (R57, R58). -/
def Tag.fromInt (t : Tag) (sat : Bool) (x : Int) : Nat × Flags :=
  if sat && decide (x < t.lo) then (lowBits t.width t.lo, fSAT)
  else if sat && decide (t.hi < x) then (lowBits t.width t.hi, fSAT)
  else (lowBits t.width x, 0)

/-- A floating value written under an integer tag (R58): rounded, clamped with `clampFlag`; NaN gives 0 with NV. A
clamped value raises `clampFlag` alone, no NX beside it (DEDUCED, notes/assumptions/48.md). -/
def Tag.fromFlt (t : Tag) (rm : Rm) (u : Nat) (clampFlag : Flags) (v : FVal) : Nat × Flags :=
  match v with
  | .nan _ => (0, fNV)
  | .inf n => (lowBits t.width (if n then t.lo else t.hi), clampFlag)
  | .num n m e st =>
    let big := decide (200 < e + (Nat.log2 m : Int)) && decide (m ≠ 0)
    if big then (lowBits t.width (if n then t.lo else t.hi), clampFlag)
    else
      let r := FVal.toInt rm u n m e st
      if r.1 < t.lo then (lowBits t.width t.lo, clampFlag)
      else if t.hi < r.1 then (lowBits t.width t.hi, clampFlag)
      else (lowBits t.width r.1, if r.2 then fNX else 0)

/-- Writing a value under a tag that is not sx by R58: `Round` to a float, wrap or clamp to an integer; kx bits pass
unchanged. `u` is the draw of RSTO. -/
def Tag.write (t : Tag) (rm : Rm) (sat : Bool) (u : Nat) (v : Val) : Nat × Flags :=
  match v with
  | .key x => (x, 0)
  | .int x => if t.isInt then t.fromInt sat x else t.ffmt.round rm sat u (FVal.ofInt x)
  | .flt x => if t.isInt then t.fromFlt rm u fNV x else t.ffmt.round rm sat u x

/-- Converting raw bits from one tag to another under R58 (neither sx); a consumed signalling NaN raises NV. -/
def convert (src dst : Tag) (rm : Rm) (sat : Bool) (u : Nat) (x : Nat) : Nat × Flags :=
  if src = dst then (x, 0)
  else
    let v := src.decode x
    let r := dst.write rm sat u v
    (r.1, r.2 ||| v.sigFlag)

/-- Raw bits as a floating result writes them (R42): a NaN is the canonical one, and a signalling one raises NV. -/
def canonical (t : Tag) (x : Nat) : Nat × Flags :=
  if t.isFloat then
    match t.ffmt.decode x with
    | .nan sig => (t.ffmt.nanBits, if sig then fNV else 0)
    | _ => (x, 0)
  else (x, 0)

/-- `Round` of raw bits into a tag as a conversion or a reduction ends with it (R42, R58), the same tag included. -/
def roundTo (src dst : Tag) (rm : Rm) (sat : Bool) (u : Nat) (x : Nat) : Nat × Flags :=
  if src = dst then canonical src x else convert src dst rm sat u x

/-- The promoted type of two tags (R59); `none` is the TAG trap of kx with another tag. -/
def promote (a b : Tag) : Option Tag :=
  if a = .kx || b = .kx then (if a = b then some .kx else none)
  else if a.isSx || b.isSx then some .f32
  else if a = b then some a
  else if a.isInt && b.isInt then
    if a.isSigned = b.isSigned then some (if a.width < b.width then b else a)
    else
      let wu := if a.isSigned then b.width else a.width
      let ws := if a.isSigned then a.width else b.width
      let w := min 64 (max (2 * wu) ws)
      some (if w = 16 then .i16 else if w = 32 then .i32 else .i64)
  else if a.isFloat && b.isFloat then
    if a.width = b.width then some .f32 else some (if a.width < b.width then b else a)
  else
    let i := if a.isInt then a else b
    let f := if a.isInt then b else a
    if f = .f64 || i.width = 64 then some .f64
    else if i.width = 32 then some .f64
    else if i.width = 8 && (f = .f16 || f = .bf16) then some f
    else some .f32

/-- The fold of R59 from a promoted type `p` first reached at position `dec`, over the sources from position `pos` on. -/
def promoteFrom (p : Tag) (dec pos : Nat) : List Tag → Except (Tag × Nat) (Tag × Nat)
  | [] => .ok (p, dec)
  | u :: us =>
    match promote p u with
    | none => .error (u, pos)
    | some q => promoteFrom q (if q = p then dec else pos) (pos + 1) us

/-- The promoted type of the sources in operand order, with the position of the deciding source (R59); a lone sx source
works in f32. `.error` names the tag and the position that trap. -/
def promoteAll : List Tag → Except (Tag × Nat) (Tag × Nat)
  | [] => .ok (.f32, 1)
  | t :: ts =>
    match promoteFrom t 1 2 ts with
    | .error e => .error e
    | .ok (p, dec) => if p.isSx then .ok (.f32, dec) else .ok (p, dec)

/-- The key of raw bits under a tag, where it has one (R43). -/
def keyOf (t : Tag) (x : Nat) : Option Nat :=
  let ofF32 : Nat → Nat := fun b =>
    if (FFmt.decode ⟨8, 23⟩ b).isNan then 0 else if b < 2 ^ 31 then b + 2 ^ 31 else 2 ^ 32 - 1 - b
  match t with
  | .f32 => some (ofF32 x)
  | .f16 | .bf16 => some (ofF32 (convert t .f32 .rne false 0 x).1)
  | .i8 | .i16 | .i32 => some (lowBits 32 (signed t.width x + (2 ^ 31 : Nat)))
  | .u8 | .u16 | .u32 => some (x % 2 ^ t.width)
  | _ => none

/-- A tag has a key (R43). -/
def Tag.hasKey (t : Tag) : Bool := (keyOf t 0).isSome

/-- One kx element ranks above another (R43). -/
def kxAbove (a b : Nat) : Bool :=
  decide (a / 2 ^ 32 > b / 2 ^ 32) || (decide (a / 2 ^ 32 = b / 2 ^ 32) && decide (a % 2 ^ 32 < b % 2 ^ 32))

/-- The empty kx element (R138). -/
def kxEmpty : Nat := 0xFFFFFFFF

/-- Element i of an sx block given as its bytes' little-endian number (R46). -/
def sxElem (t : Tag) (block i : Nat) : FVal :=
  let ex := block % 256
  let mu := nbits block (8 + 2 * (i / 4)) 2
  let m := t.sxM
  let f := nbits block (16 + (1 + m) * i) (1 + m)
  if ex = 255 then .nan false
  else .num (decide (f / 2 ^ m = 1)) (f % 2 ^ m) ((ex : Int) - 127 - mu - (m - 1)) false

/-- The magnitude |x| × 2^k of a finite value rounded to an integer by RoundInt, and whether it was inexact (R48). -/
def sxScaled (rm : Rm) (u : Nat) (m : Nat) (e k : Int) (sticky : Bool) : Nat × Bool :=
  if m = 0 then (0, false) else roundAt rm u false m (max (e + k) (-5000)) 0 sticky

/-- The quad exponent of R48: the largest u from 1 to 3 that fits the quad's four elements, or 0. -/
def sxMu (m : Nat) (rt : Rm) (ex : Nat) (quad : List FVal) : Nat :=
  let fits : Nat → Bool := fun u => quad.all fun v => match v with
    | .num _ x e st => decide ((sxScaled rt 0 x e ((m : Int) - 1 + 127 + u - ex) st).1 ≤ 2 ^ m - 1)
    | _ => false
  if fits 3 then 3 else if fits 2 then 2 else if fits 1 then 1 else 0

/-- floor(log2) of the largest finite magnitude, where there is one (R48). -/
def sxTop (xs : List FVal) : Option Int :=
  xs.foldl (fun (b : Option Int) v => match v with
    | .num _ m e _ =>
      if m = 0 then b else
      let t := e + (Nat.log2 m : Int)
      match b with
      | none => some t
      | some c => some (max c t)
    | _ => b) none

/-- The element fields of a block from element `i` on, with the flags they raise (R48). Each element has its own
draw of RSTO. -/
def sxFields (t : Tag) (rm : Rm) (ex : Nat) (mus : List Nat) : Nat → List (FVal × Nat) → Nat × Flags
  | _, [] => (0, 0)
  | i, (v, u) :: rest =>
    let m := t.sxM
    let mx := 2 ^ m - 1
    let mu := mus.getD (i / 4) 0
    let r : Nat × Flags := match v with
      | .inf _ => (mx, fSAT ||| fNX)
      | .nan _ => (0, 0)
      | .num _ x e st =>
        let s := sxScaled rm u x e ((m : Int) - 1 + 127 + mu - ex) st
        let fl := (if s.2 then fNX else 0) ||| (if s.1 = 0 && decide (x ≠ 0) then fUF else 0)
        if mx < s.1 then (mx, fl ||| fSAT ||| fNX) else (s.1, fl)
    let more := sxFields t rm ex mus (i + 1) rest
    ((if v.neg? then 2 ^ m else 0) + r.1 + 2 ^ (1 + m) * more.1, r.2 ||| more.2)

/-- The exponent of a block without NaNs and the exponents of its quads (R48). -/
def sxScale (t : Tag) (rm : Rm) (vs : List FVal) : Nat × List Nat :=
  let ex : Nat := match sxTop vs with
    | none => 0
    | some top => (min 254 (max 0 (top + 127))).toNat
  (ex, [0, 1, 2, 3].map fun q => sxMu t.sxM rm.det ex ((vs.drop (4 * q)).take 4))

/-- Quantising sixteen values, each with its draw of RSTO, to a block (R48): the block as a number, and flags. -/
def sxQuantise (t : Tag) (rm : Rm) (xs : List (FVal × Nat)) : Nat × Flags :=
  let vs := xs.map Prod.fst
  if vs.any FVal.isNan then (255, fNV)
  else
    let sc := sxScale t rm vs
    let mus := sc.2
    let mu := mus.getD 0 0 + 4 * mus.getD 1 0 + 16 * mus.getD 2 0 + 64 * mus.getD 3 0
    let fields := sxFields t rm sc.1 mus 0 xs
    (sc.1 + 256 * mu + 65536 * fields.1, fields.2)

/-- The flags that the active ones of sixteen values raise as their block is quantised; the others raise nothing (R55),
so that a NaN among those alone raises no invalid (DEDUCED, notes/assumptions/48.md). -/
def sxRaised (t : Tag) (rm : Rm) (active : Nat → Bool) (vs : List FVal) : Flags :=
  if vs.any FVal.isNan then
    (if vs.zipIdx.any fun p => active p.2 && p.1.isNan then fNV else 0)
  else
    let sc := sxScale t rm vs
    (sxFields t rm sc.1 sc.2 0 (vs.zipIdx.map fun p => (if active p.2 then p.1 else FVal.zero false, 0))).2

/-- The pixel width and the pixels per group of a layout (R49). -/
def pixLayout (lay : Nat) : Nat × Nat :=
  match lay with
  | 0 => (10, 4) | 1 => (12, 2) | _ => (14, 4)

/-- The bytes of a pixel group (R49). -/
def pixGroupBytes (lay : Nat) : Nat := let p := pixLayout lay; p.1 * p.2 / 8

/-- The order of two values under VMIN and VMAX: the smaller, or the larger; a NaN gives a NaN (R118). -/
def minMax (isMax : Bool) (a b : Val) : Val × Flags :=
  match a, b with
  | .int x, .int y => (.int (if isMax then max x y else min x y), 0)
  | _, _ =>
    let x := a.toF
    let y := b.toF
    if x.isNan || y.isNan then (.flt (.nan false), a.sigFlag ||| b.sigFlag)
    else if isMax then (.flt (if x.lt true y then y else x), 0)
    else (.flt (if y.lt true x then y else x), 0)

/-- The clamp of R118 and its code (R324): 0 passed, 1 low, 2 high, 3 NaN. -/
def clampVal (a b c : Val) : Val × Nat × Flags :=
  match a, b, c with
  | .int x, .int lo, .int hi => if x < lo then (.int lo, 1, 0) else if hi < x then (.int hi, 2, 0) else (.int x, 0, 0)
  | _, _, _ =>
    let x := a.toF
    let lo := b.toF
    let hi := c.toF
    let fl := a.sigFlag ||| b.sigFlag ||| c.sigFlag
    if x.isNan then (.flt (.nan false), 3, fl)
    else if !lo.isNan && x.lt false lo then (.flt lo, 1, fl)
    else if !hi.isNan && hi.lt false x then (.flt hi, 2, fl)
    else (.flt x, 0, fl)

end Sys2Proof.Machine
end

