-- ==== Sys2Proof/Machine/Flags.lean ====
section
/-!
DEFINITION. The element operations with the flags they raise: the functions of R118, R122, R123, R125, R127, R132,
R139 and R263 on single elements, used by the vector unit, the array sequencer and the engines alike (R54 to R57,
R117, R255).
-/
namespace Sys2Proof.Machine

/-- The arithmetic functions of majors 0x40 and 0x71 (R118, R255). -/
inductive AOp where
  | add | sub | mul | mulh | div | rem | min | max | abs | neg | absd | avg | fma | fms | fnma | clamp
  | sqrt | exp2 | log2 | rcpe | rcps | rsqe | rsqs
  deriving DecidableEq, Repr

/-- An operation's result before it is rounded: an exact value, or bits of T that are moved unchanged. -/
inductive ERes where
  | val (v : Val)
  | raw (bits : Nat)
  deriving DecidableEq, Repr

/-- The operation takes float types only (R118). -/
def AOp.floatOnly : AOp → Bool
  | .sqrt | .exp2 | .log2 | .rcpe | .rcps | .rsqe | .rsqs => true
  | _ => false

/-- The operation takes integer types only (R118). -/
def AOp.intOnly : AOp → Bool
  | .mulh | .rem => true
  | _ => false

/-- The entry accepts the promoted type T (R118). -/
def AOp.accepts (op : AOp) (t : Tag) : Bool :=
  if t.isInt then !op.floatOnly
  else !op.intOnly && !((op = .exp2 || op = .log2) && t = .f64)

/-- The integer function of R118 on exact values in T, with R57's division edges. -/
def AOp.onInt (op : AOp) (t : Tag) (rm : Rm) (a b c : Int) : Int × Flags :=
  match op with
  | .add => (a + b, 0)
  | .sub => (a - b, 0)
  | .mul => (a * b, 0)
  | .mulh => (a * b / (2 ^ t.width : Nat), 0)
  | .div => if b = 0 then (if t.isSigned then -1 else (2 ^ t.width : Nat) - 1, fDZ) else (a.tdiv b, 0)
  | .rem => if b = 0 then (a, fDZ) else (a.tmod b, 0)
  | .min => (if a ≤ b then a else b, 0)
  | .max => (if a ≤ b then b else a, 0)
  | .abs => (a.natAbs, 0)
  | .neg => (-a, 0)
  | .absd => ((a - b).natAbs, 0)
  | .avg => let s := a + b; ((FVal.toInt rm 0 (decide (s < 0)) s.natAbs (-1) false).1, 0)
  | .fma => (a * b + c, 0)
  | .fms => (a * b - c, 0)
  | .fnma => (c - a * b, 0)
  | .clamp => (if a < b then b else if c < a then c else a, 0)
  | _ => (0, 0)

/-- Half of a floating value. -/
def FVal.half : FVal → FVal
  | .num n m e st => .num n m (e - 1) st
  | v => v

/-- The floating function of R118 on exact values. -/
def AOp.onFlt (op : AOp) (t : Tag) (rm : Rm) (a b c : FVal) : FVal × Flags :=
  let emin : Int := 1 - (t.ffmt.bias : Int)
  match op with
  | .add => a.add rm b
  | .sub => a.add rm b.flip
  | .mul => a.mul b
  | .div => a.div b
  | .min => let r := minMax false (.flt a) (.flt b); (r.1.toF, r.2)
  | .max => let r := minMax true (.flt a) (.flt b); (r.1.toF, r.2)
  | .absd => let r := a.add rm b.flip; (r.1.mag, r.2)
  | .avg => let r := a.add rm b; (r.1.half, r.2)
  | .fma => FVal.fma rm a b c
  | .fms => FVal.fma rm a b c.flip
  | .fnma => FVal.fma rm a.flip b c
  | .clamp => let r := clampVal (.flt a) (.flt b) (.flt c); (r.1.toF, r.2.2)
  | .sqrt => a.sqrt
  | .exp2 => a.exp2
  | .log2 => a.log2
  | .rcpe => a.rcpe
  | .rsqe => a.rsqe
  | .rcps => FVal.rcps emin rm a b
  | .rsqs => FVal.rsqs emin rm a b
  | .abs => (a.mag, 0)
  | .neg => (a.flip, 0)
  | _ => (.nan false, 0)

/-- Writing an operation's exact result: one rounding in T, then R58 to the destination's tag (R117). SAT clamps an
overflow of either rounding (DEDUCED, notes/assumptions/48.md). -/
def finish (t td : Tag) (rm : Rm) (sat : Bool) (r : ERes) : Nat × Flags :=
  match r with
  | .raw x => convert t td rm sat 0 x
  | .val (.int x) => td.write rm sat 0 (.int x)
  | .val v =>
    let x := t.write rm sat 0 v
    let y := convert t td rm sat 0 x.1
    (y.1, x.2 ||| y.2)

/-- One element of an instruction of majors 0x40 or 0x71: the sources given as (tag, bits), combined in T and written
under the destination's tag (R59, R117, R118). The estimates ignore RM and raise only the flags of R120's table, whose
row for an overflow in T holds under SAT too (DEDUCED, notes/assumptions/48.md). -/
def elemArith (op : AOp) (t td : Tag) (rm : Rm) (sat : Bool) (xs : List (Tag × Nat)) : Nat × Flags :=
  let cs := xs.map fun p => convert p.1 t rm sat 0 p.2
  let fl := cs.foldl (fun f p => f ||| p.2) (0 : Flags)
  let raw := cs.map Prod.fst
  let x0 := raw.getD 0 0
  if t.isInt then
    let v : Nat → Int := fun i => (t.decode (raw.getD i 0)).toI
    let r := op.onInt t rm (v 0) (v 1) (v 2)
    let y := finish t td rm sat (.val (.int r.1))
    (y.1, fl ||| r.2 ||| y.2)
  else
    match op with
    | .abs => let y := finish t td rm sat (.raw (x0 % 2 ^ (t.width - 1))); (y.1, fl ||| y.2)
    | .neg => let y := finish t td rm sat (.raw ((x0 + 2 ^ (t.width - 1)) % 2 ^ t.width)); (y.1, fl ||| y.2)
    | _ =>
      let v : Nat → FVal := fun i => t.ffmt.decode (raw.getD i 0)
      let r := op.onFlt t rm (v 0) (v 1) (v 2)
      if op = .rcpe || op = .rsqe then
        let x := t.ffmt.round .rne false 0 r.1
        let y := convert t td .rne sat 0 x.1
        (y.1, fl ||| r.2 ||| (x.2 &&& fOF) ||| (y.2 &&& (fNV ||| fOF)))
      else
        let y := finish t td rm sat (.val (.flt r.1))
        (y.1, fl ||| r.2 ||| y.2)

/-- The bit functions of major 0x41 (R122). -/
inductive LOp where
  | and | or | xor | not | shl | shr | rol | popc | clz
  deriving DecidableEq, Repr

/-- The bitwise functions work on any integer or float tag of one width (R122). -/
def LOp.bitwise : LOp → Bool
  | .and | .or | .xor | .not => true
  | _ => false

/-- The number of one bits of an n-bit number. -/
def onesOf (n x : Nat) : Nat := popCount (BitVec.ofNat n x)

/-- Leading zero bits of an n-bit number; n when it is 0. -/
def leadZeros (n x : Nat) : Nat := if x % 2 ^ n = 0 then n else n - 1 - Nat.log2 (x % 2 ^ n)

/-- Trailing zero bits of an n-bit number; n when it is 0. -/
def trailZeros (n x : Nat) : Nat :=
  match (List.range n).find? fun i => x.testBit i with
  | some i => i
  | none => n

/-- One element of major 0x41 (R122): a under tag `ta`, b's bits, written under `td`. -/
def elemLogic (op : LOp) (ta td : Tag) (sat : Bool) (a b : Nat) : Nat × Flags :=
  let w := ta.width
  let sh := b % w
  let shifted : Nat × Flags := match op with
    | .shl => ta.fromInt sat ((ta.decode a).toI * (2 ^ sh : Nat))
    | .shr => (lowBits w ((ta.decode a).toI / (2 ^ sh : Nat)), 0)
    | .rol => ((a % 2 ^ w * 2 ^ sh + a % 2 ^ w / 2 ^ (w - sh)) % 2 ^ w, 0)
    | _ => (a, 0)
  match op with
  | .and => (a &&& b, 0)
  | .or => (a ||| b, 0)
  | .xor => (a ^^^ b, 0)
  | .not => (2 ^ w - 1 - a % 2 ^ w, 0)
  | .popc => td.write .rne sat 0 (.int (onesOf w a))
  | .clz => td.write .rne sat 0 (.int (leadZeros w a))
  | _ => let y := convert ta td .rne sat 0 shifted.1; (y.1, shifted.2 ||| y.2)

/-- Whether a condition of R123 holds of two values in T, and the flags. -/
def cmpVals (cnd : Nat) (a b : Val) : Bool × Flags :=
  match a, b with
  | .key x, .key y =>
    let gt := kxAbove x y
    let lt := kxAbove y x
    ((match cnd with
      | 0 => x == y | 1 => x != y | 2 => lt | 3 => lt || x == y | 4 => gt | 5 => gt || x == y | 6 => false
      | _ => true), 0)
  | .int x, .int y =>
    ((match cnd with
      | 0 => x == y | 1 => x != y | 2 => decide (x < y) | 3 => decide (x ≤ y) | 4 => decide (y < x)
      | 5 => decide (y ≤ x) | 6 => false | _ => true), 0)
  | _, _ =>
    let x := a.toF
    let y := b.toF
    let sig := a.sigFlag ||| b.sigFlag
    if x.isNan || y.isNan then
      (cnd == 1 || cnd == 6, if 2 ≤ cnd && cnd ≤ 5 then fNV else sig)
    else
      let lt := x.lt false y
      let gt := y.lt false x
      ((match cnd with
        | 0 => !lt && !gt | 1 => lt || gt | 2 => lt | 3 => !gt | 4 => gt | 5 => !lt | 6 => false | _ => true), 0)

/-- One element of `VCMP` and `ACMP` (R123, R256): all ones or zero at the destination's width. SAT, which `VCMP` does
not use, governs the conversion of the sources to T (R59). -/
def elemCmp (cnd : Nat) (t td : Tag) (rm : Rm) (sat : Bool) (a b : Tag × Nat) : Nat × Flags :=
  let x := convert a.1 t rm sat 0 a.2
  let y := convert b.1 t rm sat 0 b.2
  let r := cmpVals cnd (t.decode x.1) (t.decode y.1)
  (if r.1 then 2 ^ td.width - 1 else 0, x.2 ||| y.2 ||| r.2)

/-- The class bit of a float element (R125). -/
def classBit (t : Tag) (x : Nat) : Nat :=
  match t.ffmt.decode x with
  | .nan s => if s then 8 else 9
  | .inf n => if n then 0 else 7
  | .num n m e _ =>
    if m = 0 then (if n then 3 else 4)
    else if e + (Nat.log2 m : Int) < 1 - (t.ffmt.bias : Int) then (if n then 2 else 5) else (if n then 1 else 6)

/-- A product in `VQNT` and `AQNT`, exact (R127). -/
def qntProduct (a b : Val) : FVal × Flags :=
  match a, b with
  | .int x, .int y => (FVal.ofInt (x * y), 0)
  | _, _ => a.toF.mul b.toF

/-- The product converted to a destination that is not sx, always saturating (R127). -/
def elemQnt (td : Tag) (rm : Rm) (u : Nat) (a b : Val) : Nat × Flags :=
  let p := qntProduct a b
  if td.isInt then let r := td.fromFlt rm u fSAT p.1; (r.1, p.2 ||| r.2)
  else let r := td.ffmt.round rm true u p.1; (r.1, p.2 ||| r.2)

/-- The identity of a reducing operator in T, as bits (R263): 0 add, 1 mul, 2 min, 3 max, 4 and, 5 or, 6 xor. -/
def identityOf (op : Nat) (t : Tag) : Nat :=
  match op with
  | 1 => if t.isInt then 1 else (t.ffmt.round .rne false 0 (FVal.ofInt 1)).1
  | 2 => if t.isInt then lowBits t.width t.hi else t.ffmt.infBits
  | 3 => if t.isInt then lowBits t.width t.lo else t.ffmt.signBit true + t.ffmt.infBits
  | 4 => 2 ^ t.width - 1
  | _ => 0

/-- One step a ⊕ b of a reduction in T, rounded to T (R60, R132); an integer add or multiply saturates under SAT
(R57). -/
def combine (op : Nat) (t : Tag) (rm : Rm) (sat : Bool) (a b : Nat) : Nat × Flags :=
  match op with
  | 4 => (a &&& b, 0)
  | 5 => (a ||| b, 0)
  | 6 => (a ^^^ b, 0)
  | _ =>
    let f : AOp := match op with
      | 0 => .add | 1 => .mul | 2 => .min | _ => .max
    elemArith f t t rm sat [(t, a), (t, b)]

/-- One level of the pairwise tree (R60). -/
def treeLevel (f : Nat → Nat → Nat × Flags) : List Nat → List Nat × Flags
  | a :: b :: l => let r := f a b; let m := treeLevel f l; (r.1 :: m.1, r.2 ||| m.2)
  | l => (l, 0)

/-- The pairwise tree over elements in index order (R60); `n` bounds the number of levels. -/
def treeReduce (f : Nat → Nat → Nat × Flags) : Nat → List Nat → List Nat × Flags
  | 0, l => (l, 0)
  | n + 1, l =>
    match l with
    | [] => ([], 0)
    | [x] => ([x], 0)
    | _ => let m := treeLevel f l; let r := treeReduce f n m.1; (r.1, m.2 ||| r.2)

/-- The result of the tree of R60 over a list that is not empty. -/
def treeOf (op : Nat) (t : Tag) (rm : Rm) (sat : Bool) (l : List Nat) : Nat × Flags :=
  let r := treeReduce (combine op t rm sat) (l.length + 1) l
  (r.1.headD 0, r.2)

/-- The value whose key is q under a tag (R139), with RM and SAT of the conversion. -/
def unkeyVal (td : Tag) (rm : Rm) (sat : Bool) (q : Nat) : Nat × Flags :=
  let f32v := if q = 0 then (FFmt.nanBits ⟨8, 23⟩) else if 2 ^ 31 ≤ q then q - 2 ^ 31 else 2 ^ 32 - 1 - q
  match td with
  | .f32 => (f32v, 0)
  | .f16 | .bf16 => convert .f32 td rm sat 0 f32v
  | .i8 | .i16 | .i32 => td.write rm sat 0 (.int (signed 32 (q + 2 ^ 31)))
  | _ => td.write rm sat 0 (.int q)

end Sys2Proof.Machine
end

