-- ==== Sys2Proof/Machine/Parts.lean ====
section
/-!
DEFINITION. Harts, cores, groups, contexts and kernels by name; reading and writing scalar and mask registers (R90,
R140, R224); causes and traps as data (R89, R223).
-/
namespace Sys2Proof.Machine

open Sys2Proof

/-! ## Parts of the state by name -/

/-- The hart with a device-wide number (R14). -/
def State.hart (s : State) (h : Nat) : Hart := smGet Hart.reset s.harts h
/-- The state with one hart replaced. -/
def State.setHart (s : State) (h : Nat) (x : Hart) : State := { s with harts := smPut s.harts h x }
/-- The hart whose turn it is. -/
def State.me (s : State) : Hart := s.hart s.cur
/-- The state with the hart whose turn it is replaced. -/
def State.setMe (s : State) (x : Hart) : State := s.setHart s.cur x
/-- The state with the hart whose turn it is changed by a function. -/
def State.modMe (s : State) (f : Hart → Hart) : State := s.setMe (f s.me)
/-- The state with one hart changed by a function. -/
def State.modHart (s : State) (h : Nat) (f : Hart → Hart) : State := s.setHart h (f (s.hart h))

/-- The core of a hart (R14). -/
def coreOf (h : Nat) : Nat := h / 4
/-- The cluster of a core (R11). -/
def clusterOf (c : Nat) : Nat := c / 96
/-- The die of a core (R11). -/
def dieOf (c : Nat) : Nat := c / 384
/-- `coreid` of a core (R13). -/
def coreIdOf (c : Nat) : Nat := dieOf c * 4096 + clusterOf c * 256 + c % 96
/-- `hartid` of a hart (R13). -/
def hartIdOf (h : Nat) : Nat := coreIdOf (coreOf h) * 4 + h % 4

/-- A core with its own memories (R12, R15). -/
def State.core (s : State) (c : Nat) : Core := smGet Core.reset s.cores c
/-- The state with one core replaced. -/
def State.setCore (s : State) (c : Nat) (x : Core) : State := { s with cores := smPut s.cores c x }
/-- The core of the hart whose turn it is. -/
def State.myCore (s : State) : Nat := coreOf s.cur

/-- A placed group. -/
def State.group? (s : State) (g : Nat) : Option Group := smGet? s.groups g
/-- The state with one group replaced. -/
def State.setGroup (s : State) (g : Nat) (x : Group) : State := { s with groups := smPut s.groups g x }
/-- The state with one group changed by a function, where it is placed. -/
def State.modGroup (s : State) (g : Nat) (f : Group → Group) : State :=
  match s.group? g with
  | some x => s.setGroup g (f x)
  | none => s
/-- The group of a hart, with its identity. -/
def State.groupOf (s : State) (h : Nat) : Option (Nat × Group) :=
  match (s.hart h).group with
  | some g => (s.group? g).map fun x => (g, x)
  | none => none
/-- The group of the hart whose turn it is. -/
def State.myGroup (s : State) : Option (Nat × Group) := s.groupOf s.cur

/-- A context (R169). -/
def State.ctx (s : State) (a : Nat) : Ctx := smGet Ctx.absent s.ctxs a
/-- The state with one context replaced. -/
def State.setCtx (s : State) (a : Nat) (x : Ctx) : State := { s with ctxs := smPut s.ctxs a x }
/-- The state with one context changed by a function. -/
def State.modCtx (s : State) (a : Nat) (f : Ctx → Ctx) : State := s.setCtx a (f (s.ctx a))
/-- A SWITCH_OUT of a context is running (R170). -/
def State.switchingOut (s : State) (a : Nat) : Bool :=
  s.regs.ctxGo && decide (s.regs.ctxOp = 2 ∧ s.regs.ctxAsid.toNat = a ∧ s.regs.ctxStatus = 0 ∧ (s.ctx a).st = .resident)
/-- A context dispatches: it is RESIDENT and does not switch out (R169, R197). -/
def State.dispatches (s : State) (a : Nat) : Bool := decide ((s.ctx a).st = .resident) && !(s.switchingOut a)
/-- The buffer table entry of a buffer; LC of buffer 0 is always 1 (R173). -/
def Ctx.buf (x : Ctx) (b : Nat) : Buf :=
  let e := smGet Buf.free x.bufs b
  if b = 0 then { e with lc := true } else e

/-- A kernel by its serial. -/
def State.kernel? (s : State) (k : Nat) : Option Kernel := smGet? s.kernels k
/-- The state with one kernel replaced. -/
def State.setKernel (s : State) (k : Nat) (x : Kernel) : State := { s with kernels := smPut s.kernels k x }

/-- The ASID of the context that owns a hart (R165). -/
def State.asidOf (s : State) (h : Nat) : Nat := ((s.groupOf h).map fun p => p.2.asid).getD 0
/-- The serial of the kernel of a hart. -/
def State.serialOf (s : State) (h : Nat) : Nat := ((s.groupOf h).map fun p => p.2.serial).getD 0

/-- The device-wide hart numbers of a group (R204). -/
def Group.harts (g : Group) : List Nat := g.slots.map fun i => 4 * g.core + i
/-- The lanes that a group holds (R208). -/
def Group.lanes (g : Group) : Nat := 4 * popCount g.quads
/-- Lane number of the group's lane ℓ (R145). -/
def Group.laneOf (g : Group) (l : Nat) : Nat := 4 * ((setBits g.quads 8).getD (l / 4) 0) + l % 4

/-- A free value's index taken from the state (DESIGN CHOICE, notes/assumptions/8.md). -/
def State.bump (s : State) : State := { s with fresh := s.fresh + 1 }

/-- Device time in nanoseconds (R234, R238; a free value of the step count). -/
def State.time (s : State) : Word := Config.deviceTime s.clock

/-! ## Scalar registers -/

/-- A scalar register as the hart reads it (R90, R224). -/
def Hart.get (h : Hart) (r : BitVec 6) : Word :=
  if r = 0 then 0
  else if h.level = .s ∧ 56 ≤ r.toNat then h.sbank[r.toNat - 56]!
  else h.sreg[r.toNat]!

/-- The hart with a scalar register written; writes to `s0` are discarded (R90, R224). -/
def Hart.set (h : Hart) (r : BitVec 6) (v : Word) : Hart :=
  if r = 0 then h
  else if h.level = .s ∧ 56 ≤ r.toNat then { h with sbank := h.sbank.set! (r.toNat - 56) v }
  else { h with sreg := h.sreg.set! r.toNat v }

/-- SR[r] of the hart whose turn it is. -/
def State.sr (s : State) (r : BitVec 6) : Word := s.me.get r
/-- The state with SR[r] written. -/
def State.setSr (s : State) (r : BitVec 6) (v : Word) : State := s.modMe fun h => h.set r v

/-- A mask register; `m0` reads all ones (R140). -/
def Hart.mask (h : Hart) (m : Nat) : BitVec 16384 := if m = 0 then BitVec.allOnes 16384 else h.mreg[m]!
/-- The hart with a mask register written; writes to `m0` are discarded (R140). -/
def Hart.setMask (h : Hart) (m : Nat) (v : BitVec 16384) : Hart :=
  if m = 0 then h else { h with mreg := h.mreg.set! m v, vw := true }

/-! ## Causes and traps -/

/-- The causes of R89. -/
inductive Cause where
  | illegal | tag | align | stride | page | prot | bolt | poison | integrity | frame | empty | witness | checksum
  | stream | bind | preempt | brk | step | sysc | queue | launch | matrix | collective | watch | fatal
  deriving DecidableEq, Repr

/-- The 6-bit code of a cause (R89). -/
def Cause.code : Cause → BitVec 6
  | .illegal => 0x01 | .tag => 0x02 | .align => 0x03 | .stride => 0x04 | .page => 0x05 | .prot => 0x06
  | .bolt => 0x07 | .poison => 0x08 | .integrity => 0x09 | .frame => 0x0A | .empty => 0x0B | .witness => 0x0C
  | .checksum => 0x0D | .stream => 0x0E | .bind => 0x0F | .preempt => 0x10 | .brk => 0x11 | .step => 0x12
  | .sysc => 0x13 | .queue => 0x14 | .launch => 0x15 | .matrix => 0x16 | .collective => 0x17 | .watch => 0x18
  | .fatal => 0x3F

/-- A trap: cause code, `tval`, the VEC and ARR bits, `epr`, and whether `epc` is the next word (R223, R228). -/
structure Trap where
  code : BitVec 6
  tval : Word
  vec  : Bool
  arr  : Bool
  epr  : Word
  past : Bool
  deriving DecidableEq, Repr

/-- A trap of the scalar unit: nothing of the instruction is done (R228). -/
def Trap.scalar (c : Cause) (tval : Word) : Trap :=
  { code := c.code, tval := tval, vec := false, arr := false, epr := 0, past := false }
/-- A trap of an instruction that had entered the vector instruction queue, before any element. -/
def Trap.vector (c : Cause) (tval : Word) : Trap := { Trap.scalar c tval with vec := true }
/-- The trap with the position it names. -/
def Trap.atElem (t : Trap) (e : Nat) : Trap := { t with epr := wd e }
/-- The trap of a scalar instruction. -/
def Trap.asScalar (t : Trap) : Trap := { t with vec := false, arr := false, epr := 0 }

/-- The value of `cause` for a trap (R223). -/
def Trap.cause (t : Trap) (ppl : Nat) : Word :=
  wd (t.code.toNat + b2n t.vec * 2 ^ 12 + b2n t.arr * 2 ^ 13 + ppl * 2 ^ 14)

/-- What stops an access or an instruction part-way: a trap, or a wait in which nothing more is done. -/
inductive Stop where
  | trap (t : Trap)
  | stall
  deriving DecidableEq, Repr

end Sys2Proof.Machine
end

