-- ==== Sys2Proof/Machine/Lines.lean ====
section
/-!
DEFINITION. Memory by physical place: the lines of device memory with the counters and domains of R173 and R370, the
bittern mark of R377, the SRAMs of R15, host and peer memory; and the vector stores that a hart has accepted and that
have not performed (R107).
-/
namespace Sys2Proof.Machine

open Sys2Proof

/-- A physical address of the HBM4E range (R360). -/
def inHbm (pa : Nat) : Bool := decide (pa < 0x0082_8000_0000)
/-- A physical address of the LPDDR6 range (R360). -/
def inLp (pa : Nat) : Bool := decide (0x0100_0000_0000 ≤ pa ∧ pa < 0x01E8_0000_0000)
/-- A physical address of the host (R360). -/
def inHost (pa : Nat) : Bool := decide (2 ^ 51 ≤ pa ∧ pa < 2 ^ 52)
/-- A physical address in the peer windows (R420). -/
def inPeer (pa : Nat) : Bool := decide (0x4_0000_0000_0000 ≤ pa ∧ pa < 0x4_8000_0000_0000)
/-- The device of a peer window, and the address there (R420). -/
def peerOf (pa : Nat) : Nat × Nat := ((pa - 0x4_0000_0000_0000) / 2 ^ 41, (pa - 0x4_0000_0000_0000) % 2 ^ 41)
/-- The device channel of a line (R360). -/
def channelOf (pa : Nat) : Nat := if inHbm pa then pa / 256 % 384 else 384 + (pa - 0x0100_0000_0000) / 256 % 32

/-- Ovune's own key with line counters (R167, R437). -/
def Cry.ovune : Cry := { asid := 0, buf := 0, mode := .ovune }

/-- The metadata of a line by PA / 64. -/
def State.line (s : State) (i : Nat) : Line := smGet Line.fresh s.lines i
/-- The state with a line's metadata replaced. -/
def State.setLine (s : State) (i : Nat) (l : Line) : State := { s with lines := smPut s.lines i l }

/-- The generation of the key an access uses (R166, R370): 0 is Ovune's own. -/
def keyGenOf (s : State) (c : Cry) : Nat := if c.mode = .ovune then 0 else (s.ctx c.asid).key

/-- The domain (true: line) and the counter under which an access reads a line (R173, R449). -/
def readCtr (s : State) (c : Cry) (l : Line) : Bool × BitVec 32 :=
  match c.mode with
  | .ovune => if l.ip then (true, l.cnt.zeroExtend 32) else (false, 0)
  | .wo => (false, ((s.ctx c.asid).buf c.buf).ver + 1)
  | .ro =>
    let b := (s.ctx c.asid).buf c.buf
    if b.lc && l.ip then (true, l.cnt.zeroExtend 32) else (false, b.ver)
  | _ =>
    if l.ip then (true, l.cnt.zeroExtend 32) else (false, ((s.ctx c.asid).buf c.buf).ver)

/-- Whether a line verifies for an access (R370). A line that nothing has written verifies at version 0
(DESIGN CHOICE, notes/assumptions/4.md). -/
def lineVerifies (s : State) (c : Cry) (i : Nat) : Bool :=
  let l := s.line i
  let r := readCtr s c l
  match l.key with
  | none => decide (r = (false, (0 : BitVec 32)))
  | some k => decide (k = keyGenOf s c ∧ (l.dom, l.ctr) = r)

/-- What a read of device memory finds: POISON before INTEGRITY, the block checked whole (R150, R370, R377). The
bytes lie within one line. -/
def lineFault (s : State) (c : Cry) (pa : Nat) : Option Cause :=
  if (s.line (pa / 64)).poison then some .poison
  else if [0, 1, 2, 3].all fun i => lineVerifies s c (pa / 256 * 4 + i) then none
  else some .integrity

/-- A write of a mode raises CNT of its line (R173, R449). -/
def Mode.counts : Mode → Bool
  | .wo | .ro => false
  | _ => true

/-- An accepted store will raise CNT of the line with an index. -/
def PStore.raises (i : Nat) (p : PStore) : Bool :=
  match p.loc with
  | .dev pa => decide (pa / 64 = i) && p.cry.mode.counts
  | _ => false

/-- The accepted stores that will raise CNT of the line with an index. -/
def pendingTo (s : State) (i : Nat) : Nat :=
  s.harts.foldl (fun n p => n + (p.2.pend.filter (PStore.raises i)).length) 0

/-- CNT of a line can rise no more, once the stores already accepted, and those of `sent`, have performed (R173). -/
def cntFull (s : State) (sent : List PStore) (c : Cry) (pa : Nat) : Bool :=
  c.mode.counts && decide (2 ^ 31 - 1 ≤ (s.line (pa / 64)).cnt.toNat + pendingTo s (pa / 64)
    + (sent.filter (PStore.raises (pa / 64))).length)

/-- The metadata of a line after a write under a mode (R173, R449). -/
def writtenLine (s : State) (c : Cry) (l : Line) (whole : Bool) : Line :=
  let p := l.poison && !whole
  match c.mode with
  | .wo => { l with ip := false, key := some (keyGenOf s c), dom := false
                    ctr := ((s.ctx c.asid).buf c.buf).ver + 1, poison := p }
  | _ => { l with ip := true, cnt := l.cnt + 1, key := some (keyGenOf s c), dom := true
                  ctr := (l.cnt + 1).zeroExtend 32, poison := p }

/-- Writing bytes of one line of device memory, with its metadata; where the line stood under another key, bytes that no
key of this context recovers stand beside the written ones. -/
def putLine (c : Cry) (pa : Nat) (data : List Byte) (s : State) : State :=
  let i := pa / 64
  let l := s.line i
  let whole := decide (data.length = 64)
  let foreign := match l.key with
    | some k => decide (k ≠ keyGenOf s c) && !whole
    | none => false
  let mem := if foreign then bsWrite s.mem (64 * i) ((List.range 64).map fun j => Config.unreadable (64 * s.fresh + j))
             else s.mem
  let s1 := { s with mem := bsWrite mem pa data, fresh := if foreign then s.fresh + 1 else s.fresh }
  s1.setLine i (writtenLine s c l whole)

/-- The bytes of a buffer table entry (R172). -/
def Buf.bytes (b : Buf) : List Byte :=
  leBytes 16 (b.ver.toNat * 2 ^ 96 + b.hold.toNat * 2 ^ 94 + b.readers.toNat * 2 ^ 82 + b2n b.lc * 2 ^ 81)

/-- The launch sequencer stores an entry of a context's buffer table in memory, under Ovune's own key (R167, R172). -/
def storeBuf (asid b : Nat) (s : State) : State :=
  let x := s.ctx asid
  let a := x.btab + 16 * b
  if (inHbm a || inLp a) && !(cntFull s [] Cry.ovune a) then putLine Cry.ovune a (x.buf b).bytes s else s

/-- Writing bytes of one line of device memory; an access of no kernel sets LC of its buffer (R449). -/
def writeLine (c : Cry) (pa : Nat) (data : List Byte) (s : State) : State :=
  let s1 := putLine c pa data s
  if c.mode = .none ∧ c.buf ≠ 0 ∧ ((s1.ctx c.asid).buf c.buf).lc = false then
    storeBuf c.asid c.buf (s1.modCtx c.asid fun x => { x with bufs := smPut x.bufs c.buf { x.buf c.buf with lc := true } })
  else s1

/-- The accesses to a line of LPDDR6 are counted by region (R375); `va` is none where the access names no virtual address, and
the region then keeps the one it has, with its ASID (DESIGN CHOICE, notes/assumptions/8.md). `k` is how many accesses. -/
def countHotBy (k asid : Nat) (va : Option Nat) (pa : Nat) (s : State) : State :=
  if inLp pa then
    let r := pa / 2 ^ 21
    let x := smGet (0, none, 0) s.hot r
    { s with hot := smPut s.hot r (x.1 + k, match va, x.2.1 with
        | some a, _ => (some (a / 2 ^ 21 * 2 ^ 21), asid)
        | none, some v => (some v, x.2.2)
        | none, none => (none, asid)) }
  else s

/-- One access to a line is counted (R375). -/
def countHot (asid : Nat) (va : Option Nat) (pa : Nat) (s : State) : State := countHotBy 1 asid va pa s

/-- Bytes of a place, without checks. -/
def readLoc (s : State) (l : Loc) (n : Nat) : List Byte :=
  match l with
  | .dev pa => bsRead s.mem pa n
  | .host pa => bsRead s.hostMem pa n
  | .peer d pa => bsRead (smGet [] s.peerMem d) pa n
  | .spad c off => bsRead (s.core c).spad off n
  | .sdata c off => bsRead (s.core c).sdata off n
  | .lpriv c lane off => bsRead ((s.core c).lpriv[lane]!) off n

/-- The poison marks of SRAM words after a write: a word written whole loses its mark (R164, R377). -/
def clearMarks (marks : List (Sram × Nat)) (m : Sram) (off n : Nat) : List (Sram × Nat) :=
  marks.filter fun w => !(decide (w.1 = m ∧ off ≤ 8 * w.2 ∧ 8 * w.2 + 8 ≤ off + n))

/-- A marked word of an SRAM holds some byte of a range (R150). -/
def Core.marked (x : Core) (m : Sram) (off n : Nat) : Bool :=
  x.poison.any fun w => decide (w.1 = m ∧ off < 8 * w.2 + 8 ∧ 8 * w.2 < off + n)

/-- The bittern marks of lines outside the device after a write: a line written whole loses its mark (R164, R377). -/
def clearOut (marks : List (Option Nat × Nat)) (d : Option Nat) (pa n : Nat) : List (Option Nat × Nat) :=
  marks.filter fun m => !(decide (m.1 = d ∧ m.2 = pa / 64 ∧ n = 64))

/-- Writing bytes to a place; those in device memory lie within one line. -/
def writeLoc (l : Loc) (c : Cry) (data : List Byte) (s : State) : State :=
  match l with
  | .dev pa => writeLine c pa data s
  | .host pa => { s with hostMem := bsWrite s.hostMem pa data, outMarks := clearOut s.outMarks none pa data.length }
  | .peer d pa =>
    { s with peerMem := smPut s.peerMem d (bsWrite (smGet [] s.peerMem d) pa data)
             outMarks := clearOut s.outMarks (some d) pa data.length }
  | .spad k off =>
    let x := s.core k
    s.setCore k { x with spad := bsWrite x.spad off data, poison := clearMarks x.poison .spad off data.length }
  | .sdata k off =>
    let x := s.core k
    s.setCore k { x with sdata := bsWrite x.sdata off data, poison := clearMarks x.poison .sdata off data.length }
  | .lpriv k lane off =>
    let x := s.core k
    s.setCore k { x with lpriv := x.lpriv.set! lane (bsWrite (x.lpriv[lane]!) off data)
                         poison := clearMarks x.poison (.lpriv lane) off data.length }

/-- Performing a store that the memory side has accepted. -/
def perform (p : PStore) (s : State) : State := writeLoc p.loc p.cry p.data s

/-- Every accepted store of a hart performs, oldest first. -/
def settleAll (h : Nat) (s : State) : State :=
  match (s.hart h).pend with
  | [] => s
  | l => (l.foldl (fun s p => perform p s) s).modHart h fun x => { x with pend := [] }

/-- The first `n` accepted stores of a hart perform. -/
def settleN (h n : Nat) (s : State) : State :=
  ((((s.hart h).pend.take n).foldl (fun s p => perform p s) s)).modHart h fun x => { x with pend := x.pend.drop n }

/-- Before a relaxed scalar access, as many of the accepted stores have performed as the memory side happens to have
done (R107 leaves it open: DESIGN CHOICE, notes/assumptions/8.md). -/
def settleSome (h : Nat) (s : State) : State :=
  match (s.hart h).pend with
  | [] => s
  | _ => settleN h (Config.settled s.fresh) s.bump

end Sys2Proof.Machine
end

