-- ==== Sys2Proof/Machine/Ports.lean ====
section
/-!
DEFINITION. Link ports as senders (R20, R413 to R418): routes, flits, and the flits that wait to leave.
-/
namespace Sys2Proof.Machine

open Sys2Proof

/-! ## CRC-32C (R306) -/

/-- One bit of the reflected CRC-32C register. -/
def crcBit (c : BitVec 32) : BitVec 32 := if c.getLsbD 0 then (c >>> 1) ^^^ 0x82F63B78#32 else c >>> 1

/-- One byte of CRC-32C. -/
def crcByte (c : BitVec 32) (b : Byte) : BitVec 32 :=
  crcBit (crcBit (crcBit (crcBit (crcBit (crcBit (crcBit (crcBit (c ^^^ b.zeroExtend 32))))))))

/-- CRC-32C of a list of bytes (R306). -/
def crc32c (l : List Byte) : BitVec 32 := ~~~(l.foldl crcByte (BitVec.allOnes 32))

/-! ## Ports and routes -/

/-- DEVNO of this device (R413). -/
def devNo (s : State) : Nat := fld s.regs.linkCfg 0 6

/-- A port by its number; there are 24 (R415). -/
def State.port (s : State) (p : Nat) : Port := s.ports.toList.getD p Port.reset
/-- The state with a port changed. -/
def State.modPort (s : State) (p : Nat) (f : Port → Port) : State := { s with ports := s.ports.set! p (f (s.port p)) }

/-- The die of a port (R20). -/
def dieOfPort (p : Nat) : Nat := p / 6

/-- A port that flits can use (R414, R419). -/
def Port.live (x : Port) : Bool := decide (x.st = .up ∨ x.st = .degraded)

/-- A route entry is VALID (R414). -/
def routeValid (s : State) (d : Nat) : Bool :=
  let r := s.routes[d]!
  decide (fld r 16 1 = 1 ∧ fld r 0 5 < 24 ∧ (fld r 15 1 = 0 ∨ fld r 8 5 < 24))

/-- The ports that the route entry of a device names, the primary one first (R414). -/
def routePorts (s : State) (d : Nat) : List Nat :=
  let r := s.routes[d]!
  if !(routeValid s d) then [] else if fld r 15 1 = 1 then [fld r 0 5, fld r 8 5] else [fld r 0 5]

/-- The port through which requests and collective flits for a device leave: the first of its entry that is UP or DEGRADED
(R414). -/
def routePort (s : State) (d : Nat) : Option Nat := (routePorts s d).find? fun p => (s.port p).live

/-- The port through which a flit of a type for a device leaves: where none of its entry is UP or DEGRADED, one that drains
still carries what is neither a request nor a collective flit (R414, R416; DEDUCED, notes/assumptions/35.md). -/
def routeFor (s : State) (d ty : Nat) : Option Nat :=
  (routePort s d).or (if ty = 2 ∨ ty = 4 ∨ ty = 5 then none
    else (routePorts s d).find? fun p => decide ((s.port p).st = .draining))

/-! ## Flits (R417) -/

/-- A flit: payload, type, lane slice and sequence number, and the CRC over them. -/
def flitOf (ty slice : Nat) (seq : BitVec 12) (payload : List Byte) : List Byte :=
  let body := payload ++ leBytes 1 ty ++ leBytes 1 (slice % 32) ++ leBytes 2 seq.toNat
  body ++ leBytes 4 (crc32c body).toNat

/-- A payload whose contents R417 leaves to the layer that sends it. -/
def freePayload (fresh : Nat) : List Byte := (List.range 56).map fun i => Config.flitByte (64 * fresh + i)

/-- A port takes a flit of a type now: 2048 unacknowledged flits stop it, and while it drains no new request or
collective flit is sent (R416, R417). -/
def Port.accepts (x : Port) (ty : Nat) : Bool :=
  decide (x.unacked.length < 2048) && (x.live || decide (x.st = .draining ∧ ty ≠ 2 ∧ ty ≠ 4 ∧ ty ≠ 5))

/-- The port sends a flit and keeps it until it is acknowledged. -/
def Port.send (f : OutFlit) (x : Port) : Port :=
  let b := flitOf f.ty f.slice x.txSeq f.payload
  { x with unacked := x.unacked ++ [{ flit := b, store := f.store }], wire := x.wire ++ [b], txSeq := x.txSeq + 1 }

/-- The waiting flits, oldest first: each that a port takes leaves, the others wait. -/
def pumpAll : List OutFlit → State → State × List OutFlit
  | [], s => (s, [])
  | f :: l, s =>
    let via := match f.port with
      | some p => some p
      | none => routeFor s f.dest f.ty
    match via.filter fun p => (s.port p).accepts f.ty with
    | some p => pumpAll l (s.modPort p (Port.send f))
    | none => let r := pumpAll l s; (r.1, f :: r.2)

/-- Every waiting flit that a port takes leaves. -/
def pump (s : State) : State := let r := pumpAll s.outq s; { r.1 with outq := r.2 }

/-- A flit is given to the link. -/
def queueFlit (f : OutFlit) (s : State) : State := pump { s with outq := s.outq ++ [f] }

/-- A flit of a type leaves through a port, in any slot (R418). -/
def sendFlit (p ty : Nat) (s : State) : State :=
  queueFlit { port := some p, dest := 0, ty := ty, slice := (Config.flitByte (64 * s.fresh + 56)).toNat,
              payload := freePayload s.fresh, store := none } s.bump

/-- A flit of a type goes to a device by its route, in any slot, as the request of a store where it is one (R414, R418). -/
def sendFor (store : Option Nat) (d ty : Nat) (s : State) : State :=
  queueFlit { port := none, dest := d, ty := ty, slice := (Config.flitByte (64 * s.fresh + 56)).toNat,
              payload := freePayload s.fresh, store := store } s.bump

/-- A flit of a type goes to a device by its route (R414, R418). -/
def sendTo (d ty : Nat) (s : State) : State := sendFor none d ty s

/-- The collective data of an element group goes to a device in a slot of its slice (R20, R418). -/
def sendGroup (d g : Nat) (s : State) : State :=
  queueFlit { port := none, dest := d, ty := 4, slice := g % 32, payload := freePayload s.fresh,
              store := none } s.bump

end Sys2Proof.Machine
end

