-- ==== Sys2Proof/Machine/Pages.lean ====
section
/-!
DEFINITION. Virtual addresses: the page table walk and its checks (R359 to R363, R420), the TLBs (R364, R365), bolted
ranges (R366), declared modes (R173, R449), and reads, writes and indivisible operations at virtual addresses with the
checks of R98 and R150. TLB replacement is first in, first out (DESIGN CHOICE, notes/assumptions/10.md).
-/
namespace Sys2Proof.Machine

open Sys2Proof

/-- The scalar unit of a hart as an agent. -/
def hartWho (s : State) (h : Nat) : Who :=
  { asid := s.asidOf h, serial := s.serialOf h, group := (s.hart h).group, sup := decide ((s.hart h).level = .s)
    cluster := clusterOf (coreOf h), slices := none }

/-- The vector memory side of a hart as an agent. -/
def vecWho (s : State) (h : Nat) : Who :=
  { hartWho s h with slices := (s.groupOf h).map fun p => (p.2.core, p.2.quads) }

/-- An agent of a context that acts for no kernel (R449), in a cluster. -/
def ctxWho (asid cluster : Nat) : Who :=
  { asid := asid, serial := 0, group := none, sup := true, cluster := cluster, slices := none }

/-! ## Walking -/

/-- Reading a page table entry at a physical address, under buffer 0 of its context (R363). -/
def pteRead (s : State) (asid pa : Nat) : Except Cause Nat :=
  if !(inHbm pa || inLp pa) then .error .page
  else
    match lineFault s { asid := asid, buf := 0, mode := .rw } pa with
    | some c => .error c
    | none => .ok (bsNat s.mem pa 8)

/-- A pointer entry: only V and FRAME (R361); the address of the next table. -/
def ptePointer (e : Nat) : Except Cause Nat := if e % 2 ^ 28 = 1 then .ok (nbits e 28 36 * 2 ^ 16) else .error .page

/-- The frames of a C = 1 group: the 32 entries agree in every other field, and the frames are consecutive from a multiple of 32
(R362). -/
def groupOk (es : List Nat) (e : Nat) : Bool :=
  let f0 := nbits (es.headD 0) 28 36
  decide (f0 % 32 = 0) && (es.zipIdx.all fun p => decide (p.1 % 2 ^ 28 = e % 2 ^ 28 ∧ nbits p.1 28 36 = f0 + p.2))

/-- The checks of R362 on a leaf that do not depend on the access: reserved bits, MIG, HS, and the range of its frames
with the peer windows of R420. -/
def leafOk (s : State) (asid leafPa e pages frame : Nat) : Bool :=
  let hs := nbits e 12 1 = 1
  let tier := nbits e 13 1
  let pa := frame * 2 ^ 16
  let last := (frame + pages) * 2 ^ 16 - 1
  let owned := s.migs.any fun m => decide (m.asid = asid) && m.leaves.any fun l => decide (l.1 = leafPa)
  decide (nbits e 4 6 = 0) && (decide (nbits e 15 1 = 0) || owned) &&
    (if hs then decide (tier = 0) && !(inPeer pa) && !(inPeer last)
     else if inPeer pa then
       decide ((peerOf pa).1 ≠ devNo s) && routeValid s (peerOf pa).1 && inPeer last
     else if tier = 0 then inHbm pa && inHbm last else inLp pa && inLp last)

/-- A walk of the three levels (R359, R362): the translation it finds, before the permissions. -/
def walk (s : State) (asid va : Nat) : Except Cause Leaf := do
  let t1 ← ptePointer (← pteRead s asid ((s.ctx asid).root + 8 * nbits va 42 13))
  let p1 := t1 + 8 * nbits va 29 13
  let e1 ← pteRead s asid p1
  if e1 % 2 = 1 ∧ nbits e1 11 1 = 1 then
    let frame := nbits e1 28 36
    if frame % 0x2000 = 0 ∧ nbits e1 14 1 = 0 ∧ leafOk s asid p1 e1 8192 frame = true then
      .ok { asid := asid, base := va / 2 ^ 29 * 8192, pages := 8192, leaf := wd e1 }
    else .error .page
  else
    let t0 ← ptePointer e1
    let p0 := t0 + 8 * nbits va 16 13
    let e0 ← pteRead s asid p0
    if e0 % 2 = 1 ∧ nbits e0 11 1 = 1 then
      if nbits e0 14 1 = 1 then
        let g := t0 + 8 * (nbits va 16 13 / 32 * 32)
        let es ← (List.range 32).mapM fun i => pteRead s asid (g + 8 * i)
        let f0 := nbits (es.headD 0) 28 36
        if groupOk es e0 = true ∧ leafOk s asid p0 e0 32 f0 = true then
          .ok { asid := asid, base := va / 2 ^ 21 * 32, pages := 32
                leaf := wd (f0 * 2 ^ 28 + e0 % 2 ^ 28) }
        else .error .page
      else if leafOk s asid p0 e0 1 (nbits e0 28 36) then
        .ok { asid := asid, base := va / 2 ^ 16, pages := 1, leaf := wd e0 }
      else .error .page
    else .error .page

/-- The physical addresses of the entries that a walk reads, as far as it goes (R359, R362). -/
def walkReads (s : State) (asid va : Nat) : List Nat :=
  let p2 := (s.ctx asid).root + 8 * nbits va 42 13
  match pteRead s asid p2 >>= ptePointer with
  | .error _ => [p2]
  | .ok t1 =>
    let p1 := t1 + 8 * nbits va 29 13
    match pteRead s asid p1 with
    | .error _ => [p2, p1]
    | .ok e1 =>
      match (if e1 % 2 = 1 ∧ nbits e1 11 1 = 1 then .error .page else ptePointer e1) with
      | .error _ => [p2, p1]
      | .ok t0 =>
        let p0 := t0 + 8 * nbits va 16 13
        match pteRead s asid p0 with
        | .error _ => [p2, p1, p0]
        | .ok e0 =>
          if e0 % 2 = 1 ∧ nbits e0 11 1 = 1 ∧ nbits e0 14 1 = 1 then
            [p2, p1, p0] ++ (List.range 32).map fun i => t0 + 8 * (nbits va 16 13 / 32 * 32 + i)
          else [p2, p1, p0]

/-- The accesses of a walk are counted by region (R375). -/
def countWalk (asid va : Nat) (s : State) : State :=
  (walkReads s asid va).foldl (fun s p => countHot asid none p s) s

/-! ## TLBs -/

/-- A translation covers a virtual address. -/
def Leaf.covers (l : Leaf) (asid va : Nat) : Bool :=
  decide (l.asid = asid ∧ l.base ≤ va / 2 ^ 16 ∧ va / 2 ^ 16 < l.base + l.pages)

/-- The physical address of a virtual address under a translation. -/
def Leaf.pa (l : Leaf) (va : Nat) : Nat := (fld l.leaf 28 36 + (va / 2 ^ 16 - l.base)) * 2 ^ 16 + va % 2 ^ 16

/-- Looking a translation up in one TLB. -/
def tlbFind (s : State) (t : TlbAt) (asid va : Nat) : Option Leaf :=
  (s.tlb.find? fun p => decide (p.1 = t) && p.2.covers asid va).map Prod.snd

/-- The entries a TLB holds (R364, R365). -/
def TlbAt.capacity : TlbAt → Nat
  | .second _ => 16384
  | .slice _ _ => 64

/-- The list with at most `n` entries of one TLB, the newest standing first. -/
def tlbCut (t : TlbAt) : Nat → List (TlbAt × Leaf) → List (TlbAt × Leaf)
  | _, [] => []
  | n, p :: l =>
    if p.1 = t then (match n with | 0 => tlbCut t 0 l | k + 1 => p :: tlbCut t k l) else p :: tlbCut t n l

/-- Filling a translation into a TLB. -/
def tlbFill (t : TlbAt) (l : Leaf) (s : State) : State :=
  { s with tlb := (t, l) :: tlbCut t (t.capacity - 1) (s.tlb.filter fun p =>
      !(decide (p.1 = t) && decide (p.2.asid = l.asid ∧ p.2.base = l.base ∧ p.2.pages = l.pages))) }

/-- The lane group at rank a[18:16] mod Q of the held ones (R364). -/
def sliceOf (w : Who) (va : Nat) : Option TlbAt :=
  match w.slices with
  | none => none
  | some (core, quads) =>
    let held := setBits quads 8
    (held[nbits va 16 3 % held.length]?).map fun q => .slice core q

/-- The registered bolted range of the agent's group that holds an address (R366). -/
def boltOf (s : State) (w : Who) (va : Nat) : Option Bolt :=
  match w.group with
  | none => none
  | some g => match s.group? g with
    | none => none
    | some x => x.bolts.find? fun b => decide (b.start ≤ va ∧ va < b.start + b.len)

/-- The bolted entry of the agent's group for an address: a page that lies partly in a range is bolted whole (R366,
R367). -/
def boltedLeaf (s : State) (w : Who) (va : Nat) : Option Leaf :=
  match w.group with
  | none => none
  | some g => match s.group? g with
    | none => none
    | some x => (x.bolts.flatMap fun b => b.entries).find? fun l => l.covers w.asid va

/-! ## Permissions -/

/-- The permission bits of a leaf for an access (R362). -/
def permits (l : Leaf) (acc : Access) (sup : Bool) : Bool :=
  let r := l.leaf.getLsbD 1
  let w := l.leaf.getLsbD 2
  let x := l.leaf.getLsbD 3
  (!(l.leaf.getLsbD 10) || sup) &&
    (match acc with
     | .fetch => x | .load => r | .store => w | .both => r && w)

/-- The mode in which an agent reaches a buffer (R173, R449), or none where its kernel has not declared it. -/
def modeOf (s : State) (w : Who) (buf : Nat) : Option Mode :=
  if w.serial = 0 then some .none
  else if buf = 0 then some .rw
  else match s.kernel? w.serial with
    | none => none
    | some k => match k.decls.find? fun d => d.2 == buf with
      | some (1, _) => some .ro
      | some (2, _) => some .wo
      | some (3, _) => some .rw
      | _ => none

/-- The mode lets the access through (R173). -/
def modePermits (m : Mode) (acc : Access) : Bool :=
  match m, acc with
  | .ro, .store => false
  | .ro, .both => false
  | _, _ => true

/-- Where a piece of an access lies once it is translated. -/
structure Place where
  va   : Nat
  n    : Nat
  loc  : Loc
  cry  : Cry
  hs   : Bool
  /-- the page is MIGRATING (R374) -/
  mig  : Bool
  /-- no port that leads to the peer can carry a request now (R414, R416) -/
  far  : Bool
  deriving DecidableEq, Repr

/-- The place a leaf gives, with the declared mode and, in a peer window, the peer's answer (R173, R419, R420). -/
def placeOf (w : Who) (acc : Access) (va n : Nat) (l : Leaf) (s : State) : State × Except Cause Place :=
  let buf := fld l.leaf 16 12
  let hs := l.leaf.getLsbD 12
  let pa := l.pa va
  match (if buf ≤ (s.ctx w.asid).nbuf then modeOf s w buf else none) with
  | none => (s, .error .prot)
  | some m =>
    let p : Place := { va := va, n := n, loc := if hs then .host pa else .dev pa
                       cry := { asid := w.asid, buf := buf, mode := m }, hs := hs, mig := l.leaf.getLsbD 15
                       far := false }
    if !(modePermits m acc) then (s, .error .prot)
    else if hs || !(inPeer pa) then (s, .ok p)
    else
      let d := peerOf pa
      if s.lostDevs.contains d.1 then (s, .error .prot)
      else if Config.peerRefuses s.fresh then (s.bump, .error .prot)
      else (s.bump, .ok { p with loc := .peer d.1 d.2, far := (routePort s d.1).isNone })

/-- The translation of an address as the bolted entries, the TLBs and the page tables stand, whatever the permissions
(R364 to R366). -/
def leafAt (s : State) (w : Who) (va : Nat) : Except Cause Leaf :=
  match boltedLeaf s w va with
  | some l => .ok l
  | none =>
    if (boltOf s w va).isSome then .error .bolt
    else
      match (sliceOf w va).bind fun t => tlbFind s t w.asid va with
      | some l => .ok l
      | none => match tlbFind s (.second w.cluster) w.asid va with
        | some l => .ok l
        | none => walk s w.asid va

/-- Translating an address: the bolted entries, the slice, the second-level TLB, then a walk, which fills both when it ends
well and permits the access (R364 to R367). -/
def leafOf (w : Who) (acc : Access) (va : Nat) (s : State) : State × Except Cause Leaf :=
  match boltedLeaf s w va with
  | some l => (s, .ok l)
  | none =>
    if (boltOf s w va).isSome then (s, .error .bolt)
    else
      let sl := sliceOf w va
      let fillSlice : Leaf → State → State := fun l s => match sl with
        | some t => tlbFill t l s
        | none => s
      match sl.bind fun t => tlbFind s t w.asid va with
      | some l => (s, .ok l)
      | none =>
        match tlbFind s (.second w.cluster) w.asid va with
        | some l => (fillSlice l s, .ok l)
        | none =>
          let s1 := countWalk w.asid va s
          match walk s w.asid va with
          | .error c => (s1, .error c)
          | .ok l =>
            (if permits l acc w.sup then fillSlice l (tlbFill (.second w.cluster) l s1) else s1, .ok l)

/-- The translation of an address of 55 bits (R359). -/
def lookUp (w : Who) (acc : Access) (va : Nat) (s : State) : State × Except Cause Leaf :=
  if 2 ^ 55 ≤ va then (s, .error .page) else leafOf w acc va s

/-- The permissions of a translation and the declared mode (R173, R362), and the place. -/
def granted (w : Who) (acc : Access) (va n : Nat) (l : Leaf) (s : State) : State × Except Cause Place :=
  if permits l acc w.sup then placeOf w acc va n l s else (s, .error .prot)

/-- Translating one piece of an access: the address, the translation, the permissions, the declared mode (R98, R150,
R362). -/
def translate (w : Who) (acc : Access) (va n : Nat) (s : State) : State × Except Cause Place :=
  match lookUp w acc va s with
  | (s1, .error c) => (s1, .error c)
  | (s1, .ok l) => granted w acc va n l s1

/-- The pieces of a range that lie within lines of 64 bytes; `fuel` bounds their number. -/
def linePieces : Nat → Nat → Nat → List (Nat × Nat)
  | 0, _, _ => []
  | k + 1, va, n =>
    if n = 0 then []
    else
      let m := min n (64 - va % 64)
      (va, m) :: linePieces k (va + m) (n - m)

/-- The pieces of a range of bytes. -/
def piecesOf (va n : Nat) : List (Nat × Nat) := linePieces (n / 64 + 2) va n

/-- A trap of an access of the vector side, at no element yet. -/
def accTrap (c : Cause) (va : Nat) : Stop := .trap (Trap.vector c (wd va))

/-- Looking up the pieces of an access, in ascending address. -/
def lookUpAll (w : Who) (acc : Access) : List (Nat × Nat) → State → State × Except Stop (List Leaf)
  | [], s => (s, .ok [])
  | (va, _) :: ps, s =>
    match lookUp w acc va s with
    | (s1, .error c) => (s1, .error (accTrap c va))
    | (s1, .ok l) =>
      match lookUpAll w acc ps s1 with
      | (s2, .error t) => (s2, .error t)
      | (s2, .ok ls) => (s2, .ok (l :: ls))

/-- The permissions of the pieces of an access, in ascending address. -/
def grantedAll (w : Who) (acc : Access) : List ((Nat × Nat) × Leaf) → State → State × Except Stop (List Place)
  | [], s => (s, .ok [])
  | ((va, n), l) :: ps, s =>
    match granted w acc va n l s with
    | (s1, .error c) => (s1, .error (accTrap c va))
    | (s1, .ok p) =>
      match grantedAll w acc ps s1 with
      | (s2, .error t) => (s2, .error t)
      | (s2, .ok l) => (s2, .ok (p :: l))

/-- Translating the pieces of an access: every piece has its translation before the permissions of any are looked at, which is
the order of R150's checks. -/
def translateAll (w : Who) (acc : Access) (ps : List (Nat × Nat)) (s : State) : State × Except Stop (List Place) :=
  match lookUpAll w acc ps s with
  | (s1, .error t) => (s1, .error t)
  | (s1, .ok ls) => grantedAll w acc (ps.zip ls) s1

/-- What reading a place finds: the bittern mark, then the MAC (R98, R150); a peer makes its own checks (R420). -/
def placeFault (p : Place) (s : State) : State × Option Stop :=
  match p.loc with
  | .dev pa =>
    match lineFault s p.cry pa with
    | some .poison => (s, some (accTrap .poison (p.va / 64 * 64)))
    | some c => (s, some (accTrap c (p.va / 256 * 256)))
    | none => (s, none)
  | .peer d pa =>
    let r := if s.outMarks.contains (some d, pa / 64) then 1 else Config.peerLineState s.fresh
    (s.bump, if r = 1 then some (accTrap .poison (p.va / 64 * 64))
      else if r = 2 then some (accTrap .integrity (p.va / 256 * 256)) else none)
  | .spad c off => (s, if (s.core c).marked .spad off p.n then some (accTrap .poison (p.va / 64 * 64)) else none)
  | .sdata c off => (s, if (s.core c).marked .sdata off p.n then some (accTrap .poison (p.va / 64 * 64)) else none)
  | .lpriv c lane off =>
    (s, if (s.core c).marked (.lpriv lane) off p.n then some (accTrap .poison (p.va / 64 * 64)) else none)
  | .host pa => (s, if s.outMarks.contains (none, pa / 64) then some (accTrap .poison (p.va / 64 * 64)) else none)

/-- A stop of an instruction that has entered the vector queue (R223). -/
def Stop.asVector : Stop → Stop
  | .trap t => .trap { t with vec := true }
  | .stall => .stall

/-- A stop is the trap of a bittern mark. -/
def Stop.isPoison : Stop → Bool
  | .trap t => decide (t.code = Cause.poison.code)
  | .stall => false

/-- Which of the faults that two parts of an access meet comes first: POISON, then the lower address (R150). -/
def firstFault (a b : Option Stop) : Option Stop :=
  match a, b with
  | some x, some y => if !x.isPoison && y.isPoison then some y else some x
  | none, b => b
  | a, none => a

/-- The fault that reading a list of places finds: the first bittern mark, else the first mismatch (R150). -/
def placesFault : List Place → State → State × Option Stop
  | [], s => (s, none)
  | p :: ps, s =>
    let a := placeFault p s
    let b := placesFault ps a.1
    (b.1, firstFault a.2 b.2)

/-- The accesses to the places are counted (R375). -/
def countHots (w : Who) (ps : List Place) (s : State) : State :=
  ps.foldl (fun s p => match p.loc with
    | .dev pa => countHot w.asid (some p.va) pa s
    | _ => s) s

/-- The accesses to the places are counted (R375), and a request leaves for each place in a peer's memory (R417,
R420). -/
def countPlaces (w : Who) (ps : List Place) (s : State) : State :=
  ps.foldl (fun s p => match p.loc with
    | .dev pa => countHot w.asid (some p.va) pa s
    | .peer d _ => sendTo d 2 s
    | _ => s) s

/-- CNT of the line of a place can rise no more (R173). -/
def Place.full (p : Place) (s : State) : Bool :=
  match p.loc with
  | .dev pa => cntFull s [] p.cry pa
  | _ => false

/-- Reading bytes at a virtual address with every check of R98 and R150 but alignment; a peer that no port reaches holds
the read back (R414, R416). -/
def vread (w : Who) (acc : Access) (va n : Nat) (s : State) : State × Except Stop (List Byte) :=
  match translateAll w acc (piecesOf va n) s with
  | (s1, .error t) => (s1, .error t)
  | (s1, .ok ps) =>
    if ps.any fun p => p.far then (s1, .error .stall)
    else match placesFault ps s1 with
    | (s2, some t) => (s2, .error t)
    | (s2, none) => (countPlaces w ps s2, .ok (ps.flatMap fun p => readLoc s2 p.loc p.n))

/-- The places that a write of a range reaches, once every check has passed: a MIGRATING page holds the write back
(R374), as does a peer that no port reaches (R414), and CNT must be able to rise (R173). -/
def vwriteCheck (w : Who) (va n : Nat) (s : State) : State × Except Stop (List Place) :=
  match translateAll w .store (piecesOf va n) s with
  | (s1, .error t) => (s1, .error t)
  | (s1, .ok ps) =>
    if ps.any fun p => p.mig || p.far then (s1, .error .stall)
    else
      match ps.find? fun p => p.full s1 with
      | some p => (s1, .error (accTrap .prot p.va))
      | none => (s1, .ok ps)

/-- The stores that write bytes over the places, in order. -/
def storesOf : List Place → List Byte → List PStore
  | [], _ => []
  | p :: ps, data => { loc := p.loc, data := data.take p.n, cry := p.cry, strip := none } :: storesOf ps (data.drop p.n)

/-- Performing a list of stores. -/
def performAll (l : List PStore) (s : State) : State := l.foldl (fun s p => perform p s) s

/-- Writing bytes at a virtual address with every check but alignment. -/
def vwrite (w : Who) (va : Nat) (data : List Byte) (s : State) : State × Option Stop :=
  match vwriteCheck w va data.length s with
  | (s1, .error t) => (s1, some t)
  | (s1, .ok ps) => (countPlaces w ps (performAll (storesOf ps data) s1), none)

/-- The function of an atomic operation on `w`-bit values (R101): 0 ADD, 1 SWP, 2 CAS, 3 MIN, 4 MAX, 5 MINU, 6 MAXU, 7
AND, 8 OR, 9 XOR. -/
def amoFn (aop w old v e : Nat) : Nat :=
  match aop with
  | 0 => (old + v) % 2 ^ w
  | 1 => v
  | 2 => if old = e then v else old
  | 3 => if signed w old ≤ signed w v then old else v
  | 4 => if signed w v ≤ signed w old then old else v
  | 5 => if old ≤ v then old else v
  | 6 => if v ≤ old then old else v
  | 7 => old &&& v
  | 8 => old ||| v
  | _ => old ^^^ v

/-- An indivisible operation of `n` bytes at an aligned virtual address (R101, R102, R345): the old value. POISON and
INTEGRITY come before the PROT of a counter that can rise no more, an order no rule gives (DESIGN CHOICE,
notes/assumptions/49.md). -/
def vamoAt (w : Who) (aop va n v e : Nat) (s : State) : State × Except Stop Nat :=
  match translate w .both va n s with
  | (s1, .error c) => (s1, .error (accTrap c va))
  | (s1, .ok p) =>
    if p.hs then
      if 3 ≤ aop then (s1, .error (accTrap .prot va))
      else
        match placeFault p s1 with
        | (s2, some t) => (s2, .error t)
        | (s2, none) =>
          if Config.hostAtomicError s2.fresh then (s2.bump, .error (accTrap .prot va))
          else
            let old := leNat (readLoc s2 p.loc n)
            (writeLoc p.loc p.cry (leBytes n (amoFn aop (8 * n) old v e)) s2.bump, .ok old)
    else if p.mig || p.far then (s1, .error .stall)
    else
      match placeFault p s1 with
      | (s2, some t) => (s2, .error t)
      | (s2, none) =>
        if p.full s2 then (s2, .error (accTrap .prot va))
        else
          let old := leNat (readLoc s2 p.loc n)
          (countPlaces w [p] (writeLoc p.loc p.cry (leBytes n (amoFn aop (8 * n) old v e)) s2), .ok old)

/-- Reading a little-endian number at a virtual address. -/
def vreadNat (w : Who) (va n : Nat) (s : State) : State × Except Stop Nat :=
  match vread w .load va n s with
  | (s1, .error t) => (s1, .error t)
  | (s1, .ok b) => (s1, .ok (leNat b))

/-- A remote store of a hart: its request leaves for the peer (R417, R420), and it stands in the hart's list until the peer
acknowledges it (R419); `vec` says that a vector access made it (R344). -/
def sendStore (h : Nat) (vec : Bool) (va d : Nat) (s : State) : State :=
  sendFor (some s.fresh) d 2 (s.modHart h fun x =>
    { x with unacked := x.unacked ++ [{ dev := d, va := wd va, vec := vec, id := s.fresh, gone := false }] })

/-- The stores of an access of a hart that lie in a peer's memory leave as its remote stores (R419). -/
def noteRemote (h : Nat) (vec : Bool) (l : List PStore) (va : Nat) (s : State) : State :=
  l.foldl (fun s p => match p.loc with
    | .peer d _ => sendStore h vec va d s
    | _ => s) s

/-- What waits for the remote stores of a hart that a test picks (R419): where a lost device has dropped one of them it traps
PROT at the first dropped address; else it goes on once each of them is acknowledged, and waits until then. Remote stores are
performed at `system` scope alone (R420), and it waits for them at every SCOPE (DESIGN CHOICE, notes/assumptions/54.md). -/
def remoteGate (pick : Remote → Bool) (h : Nat) (s : State) : Option Stop :=
  match (s.hart h).dropped.find? pick with
  | some r => some (.trap (Trap.scalar .prot r.va))
  | none => if (s.hart h).unacked.any pick then some .stall else none

/-- A release of a hart: every remote store is acknowledged (R419), and every earlier access has performed (R339). -/
def releaseGate (h : Nat) (s : State) : Except Stop State :=
  match remoteGate (fun _ => true) h s with
  | some t => .error t
  | none => .ok (settleAll h s)

/-- A watch register of a hart matches an access (R237): `ld` and `st` say whether it loads and stores. -/
def watchHit (h : Hart) (va n : Nat) (ld st : Bool) : Bool :=
  let hit : Nat → Word → Bool := fun k r =>
    ((k % 2 = 1 && ld) || (k / 2 = 1 && st)) && decide (n ≠ 0) &&
      decide (va / 64 ≤ fld r 6 49 ∧ fld r 6 49 ≤ (va + n - 1) / 64)
  decide (h.level = .u) && (hit (fld h.dbg.ctl 2 2) h.dbg.watch0 || hit (fld h.dbg.ctl 4 2) h.dbg.watch1)

/-- Fetching the word at the PC (R66). R66 names PAGE and PROT alone; a word under the bittern mark, in a block that does
not verify or in a bolted range without its entry traps POISON, INTEGRITY or BOLT, and every fetch trap has the PC as its
`tval` (DESIGN CHOICE, notes/assumptions/49.md). A word in a peer's memory that no port reaches is waited for. -/
def fetch (s : State) : State × Except Stop Word :=
  match vread (hartWho s s.cur) .fetch s.me.pc.toNat 8 s with
  | (s1, .ok b) => (s1, .ok (wd (leNat b)))
  | (s1, .error (.trap t)) => (s1, .error (.trap { t.asScalar with tval := s.me.pc }))
  | (s1, .error .stall) => (s1, .error .stall)

end Sys2Proof.Machine
end

