-- ==== Sys2Proof/Machine/BarUnit.lean ====
section
/-!
DEFINITION. The states of a barrier (R351 to R354): its record as a number of 24 bytes, arrivals, withdrawals and fault
arrivals, and the place of a record (R355).
-/
namespace Sys2Proof.Machine

open Sys2Proof

/-- A number with a field of `n` bits from bit `lo` on replaced. -/
def setFld (x lo n v : Nat) : Nat := x - nbits x lo n * 2 ^ lo + v % 2 ^ n * 2 ^ lo

/-- COUNT of a record. -/
def recCount (x : Nat) : Nat := nbits x 0 32
/-- TARGET of a record; 0 acts as 1. -/
def recTarget (x : Nat) : Nat := max 1 (nbits x 32 32)
/-- GEN of a record. -/
def recGen (x : Nat) : Nat := nbits x 64 32
/-- STATE of a record: 0 IDLE, 1 FILLING, 2 OPEN, 3 FAULTED. -/
def recState (x : Nat) : Nat := nbits x 96 2
/-- FCAUSE of a record. -/
def recCause (x : Nat) : Nat := nbits x 104 6

/-- The record after an arrival (R353). -/
def recArrive (x : Nat) : Nat :=
  if recState x = 3 then x
  else if recTarget x ≤ recCount x + 1 then setFld (setFld (setFld x 96 2 2) 64 32 (recGen x + 1)) 0 32 0
  else setFld (setFld x 96 2 1) 0 32 (recCount x + 1)

/-- The record after an arrival is withdrawn (R353). -/
def recWithdraw (x : Nat) : Nat :=
  if recState x = 1 ∧ 0 < recCount x then
    setFld (setFld x 96 2 (if recCount x = 1 then 0 else 1)) 0 32 (recCount x - 1)
  else x

/-- The record after a fault arrival of a party (R353). -/
def recFault (cause hart dev x : Nat) : Nat :=
  if recState x = 3 then x
  else setFld (setFld (setFld (setFld (setFld x 96 2 3) 64 32 (recGen x + 1)) 104 6 cause) 128 16 hart) 144 16 dev

/-- The record after `BINIT.SET` (R353). -/
def recSet (target x : Nat) : Nat := setFld (setFld (setFld (setFld x 96 2 0) 32 32 target) 0 32 0) 104 6 0

/-- What `BAR` answers for generation `g` of a record (R355). -/
def recAnswer (g x : Nat) : Word :=
  wd (g % 2 ^ 32 * 2 ^ 32 + recCause x * 4 + (if recState x = 3 then 3 else 2))

/-- A trap or wait of a record's check, at the record's address (R355, R356). -/
def atRecord (a : Nat) : Stop → Stop
  | .trap t => .trap { t.asScalar with tval := wd a }
  | .stall => .stall

/-- The place of `n` bytes that are read and written indivisibly at the slice, with the checks of R150 for R and W; a
host-shared page traps PROT (R351, R355). The access counts (R375), or asks the peer (R420). -/
def linePlace (w : Who) (a n : Nat) (s : State) : State × Except Stop Place :=
  match translate w .both a n s with
  | (s1, .error c) => (s1, .error (accTrap c a))
  | (s1, .ok p) =>
    match placeFault p s1 with
    | (s2, some t) => (s2, .error t)
    | (s2, none) =>
      if p.hs then (s2, .error (accTrap .prot a))
      else if p.mig || p.far then (s2, .error .stall)
      else (countPlaces w [p] s2, .ok p)

/-- The place of a barrier record where a fault's `tval` is the record's address (R356, R312). -/
def recordPlace (w : Who) (a n : Nat) (s : State) : State × Except Stop Place :=
  match linePlace w a n s with
  | (s1, .error t) => (s1, .error (atRecord a t))
  | (s1, .ok p) => (s1, .ok p)

/-- The record at a place. -/
def recordGet (p : Place) (s : State) : Nat := leNat (readLoc s p.loc 24)
/-- The record with its reserved fields below bit 192 zero (R351). -/
def recClean (x : Nat) : Nat := setFld (setFld (setFld x 98 6 0) 110 18 0) 160 32 0
/-- The state with the record at a place written; the bytes from 24 on stay (R351). -/
def recordPut (p : Place) (x : Nat) (s : State) : State := writeLoc p.loc p.cry (leBytes 24 (recClean x)) s

/-- A write of the record, which traps PROT where CNT of its line can rise no more (R173). -/
def recordWrite (p : Place) (x : Nat) (s : State) : Except Stop State :=
  if p.full s then .error (.trap (Trap.scalar .prot (wd p.va))) else .ok (recordPut p x s)

/-- The record `x` becomes `y`; where the event has no effect on it (R353) nothing is written. -/
def recordUpdate (p : Place) (x y : Nat) (s : State) : Except Stop State := if y = x then .ok s else recordWrite p y s

/-- TARGET of a group's latch (R352). -/
def latchTarget (s : State) (x : Group) : Nat := (x.harts.filter fun h => !(s.hart h).exited).length

/-- The latch after an arrival (R352, R353). -/
def latchArrive (target : Nat) (x : Group) : Group :=
  if max 1 target ≤ x.lcount.toNat + 1 then { x with lstate := .opened, lgen := x.lgen + 1, lcount := 0 }
  else { x with lstate := .filling, lcount := x.lcount + 1 }

/-- The latch after an arrival is withdrawn (R353, R356). -/
def latchWithdraw (x : Group) : Group :=
  if x.lstate = .filling ∧ x.lcount ≠ 0 then
    { x with lstate := if x.lcount = 1 then .idle else .filling, lcount := x.lcount - 1 }
  else x

/-- The latch after a `KEXIT` has lowered its TARGET (R352). -/
def latchLower (target : Nat) (x : Group) : Group :=
  if x.lcount ≠ 0 ∧ target ≤ x.lcount.toNat then { x with lstate := .opened, lgen := x.lgen + 1, lcount := 0 } else x

end Sys2Proof.Machine
end

