-- ==== Sys2Proof/Machine/Frame.lean ====
section
/-!
DEFINITION. Control registers as values (R83, R205, R208), and the save frames in memory (R177 to R179, R314).
-/
namespace Sys2Proof.Machine

open Sys2Proof

/-! ## Control registers -/

/-- `grant` as a hart of a group sees it (R208). -/
def grantValue (x : Group) (h : Hart) : Word :=
  wd ((if x.rcl then x.next.toNat else 0) * 2 ^ 24 + b2n h.vw * 2 ^ 12 + b2n x.pre * 2 ^ 11 + b2n x.rcl * 2 ^ 10
    + x.quads.toNat)

/-- `grant` of a hart. -/
def State.grant (s : State) (h : Nat) : Word :=
  match s.groupOf h with
  | some (_, x) => grantValue x (s.hart h)
  | none => 0

/-- `groupid` of a hart (R205). -/
def State.groupId (s : State) (h : Nat) : Word :=
  match s.groupOf h with
  | some (_, x) => wd ((x.slots.length - 1) * 2 ^ 32 + x.num)
  | none => 0

/-! ## Frames -/

/-- The bytes of a descriptor record (R240); reserved fields are zero (R7). -/
def Desc.bytes (d : Desc) : List Byte :=
  leBytes 8 d.base.toNat ++ (List.range 8).flatMap (fun i => leBytes 4 (d.ext[i]!).toNat)
    ++ (List.range 8).flatMap (fun i => leBytes 5 (d.str[i]!).toNat) ++ leBytes 8 d.cap.toNat
    ++ leBytes 1 d.rank.toNat ++ leBytes 1 d.tag.toNat ++ leBytes 1 d.space.toNat ++ List.replicate 37 0

/-- The registers of a hart area from 0x210 on, in order (R178). -/
def savedControls (s : State) (h : Nat) : List Word :=
  let x := s.hart h
  [x.vl.zeroExtend 64, s.grant h, x.epr, x.carry, x.mshape, x.rowcnt.zeroExtend 64, x.rowpitch, x.tagtab[0], x.tagtab[1],
   x.tagtab[2], x.tagtab[3], x.frm.zeroExtend 64, x.fflags.zeroExtend 64, x.seed, x.ev.zeroExtend 64,
   x.status.zeroExtend 64, x.cause, x.tval, x.epc]

/-- A binding entry (R314). -/
def Binding.entry (b : Binding) : List Byte :=
  let st := match b.st with
    | .active => 0
    | .ended => 1
    | .failed => 2
    | .held => 3
  leBytes 16 (b.addr.toNat * 2 ^ 64 + b.vt * 2 ^ 58 + b.lm * 2 ^ 54 + st * 2 ^ 52 + b.pos % 2 ^ 48)

/-- The runs of set bits of a mask register: first bit and length. -/
def bitRuns (m : BitVec 16384) : List (Nat × Nat) :=
  ((List.range 16384).foldl (fun r i =>
    if m.getLsbD i then match r with
      | (a, n) :: l => if a + n = i then (a, n + 1) :: l else (i, 1) :: r
      | [] => [(i, 1)]
    else r) []).reverse

/-- The variable part of a hart area (R178): binding entries, present descriptors, mask runs, and 8 zero bytes. -/
def variablePart (x : Hart) : List Byte :=
  let descs := (List.range 32).filter fun i => i ≠ 0 && decide (x.dreg.toList.getD i Desc.null ≠ Desc.null)
  let runs := (List.range 16).flatMap fun r =>
    if r = 0 then [] else (bitRuns (x.mreg[r]!)).map fun p => (r, p)
  x.binds.flatMap Binding.entry ++ descs.flatMap (fun i => (x.dreg.toList.getD i Desc.null).bytes)
    ++ runs.flatMap (fun p => leBytes 8 (p.1 * 2 ^ 60 + p.2.1 * 2 ^ 46 + p.2.2 * 2 ^ 31)) ++ List.replicate 8 0

/-- The flags word at 0x208 of a hart area (R178). -/
def areaFlags (x : Hart) (spill full : Bool) : Nat :=
  ((List.range 32).foldl (fun n i => n + (if i ≠ 0 ∧ x.dreg.toList.getD i Desc.null ≠ Desc.null then 2 ^ (32 + i) else 0)) 0)
    + b2n x.fs * 8 + b2n x.matrix * 4 + b2n spill * 2 + b2n full

/-- A list of bytes padded with zero bytes, or cut, to a length. -/
def padTo (n : Nat) (l : List Byte) : List Byte := (l ++ List.replicate n 0).take n

/-- The hart area of a hart (R178): 4 KiB. -/
def hartArea (s : State) (h : Nat) (full : Bool) : List Byte :=
  let x := s.hart h
  let v := variablePart x
  (List.range 64).flatMap (fun i => if i = 0 then leBytes 8 0 else bytesOf 8 (x.sreg[i]!))
    ++ bytesOf 8 x.pc ++ leBytes 8 (areaFlags x (decide (3328 < v.length)) full)
    ++ (savedControls s h).flatMap (bytesOf 8) ++ List.replicate 88 0 ++ padTo 3328 v

/-- The bytes of a group's vector registers in its lane l (R179, R209): the harts in order, their registers in order, the
element groups of R145 in ascending order. -/
def laneBytes (s : State) (x : Group) (l : Nat) : List Byte :=
  let size := x.lanes * 256 / x.slots.length
  x.harts.flatMap fun h => (List.range 64).flatMap fun v => (List.range ((size + 7) / 8)).flatMap fun g =>
    if g % x.lanes = l then bsRead ((s.hart h).vreg[v]!) (8 * g) (min 8 (size - 8 * g)) else []

/-- The vector register images of a group's lanes (R179), 16 KiB each. Where the harts do not share a lane evenly, what one
lane's image cannot hold stands in the room that others leave (DESIGN CHOICE, notes/assumptions/51.md). -/
def laneImages (s : State) (x : Group) : List (List Byte) :=
  let own := (List.range x.lanes).map (laneBytes s x)
  (own.foldl (fun (r : List (List Byte) × List Byte) b =>
    let room := 0x4000 - b.length
    (r.1 ++ [padTo 0x4000 (b.take 0x4000 ++ r.2.take room)], r.2.drop room)) ([], own.flatMap fun b => b.drop 0x4000)).1

/-- Bytes of one line that Ovune writes at a physical address of the device, under its own key (R167), or of the host (R360). A
line whose CNT can rise no more stays as it is (R173; DEDUCED, notes/assumptions/49.md). -/
def ovuneLine (pa : Nat) (data : List Byte) (s : State) : State :=
  if inHost pa then writeLoc (.host pa) Cry.ovune data s
  else if (inHbm pa || inLp pa) && !(cntFull s [] Cry.ovune pa) then writeLine Cry.ovune pa data s
  else s

/-- Bytes that Ovune writes from a physical address on, line by line. -/
def ovuneWrite (pa : Nat) (data : List Byte) (s : State) : State :=
  (piecesOf pa data.length).foldl (fun s p => ovuneLine p.1 ((data.drop (p.1 - pa)).take p.2) s) s

/-- The save of a group in its frame (R177 to R179): the hart areas and what overflows them; a full save adds the vector
register and lane-private images and, with the matrix array, the accumulator tiles. R178 gives no room for a variable part
that its hart area and its 32 KiB block cannot hold: what is left of it is written on past the block, before whatever a full
save writes there (DESIGN CHOICE, notes/assumptions/51.md). -/
def writeFrame (x : Group) (full : Bool) (s : State) : State :=
  let base := (s.ctx x.asid).save + x.frame * 0x10_0000
  let c := s.core x.core
  let areas := x.slots.foldl (fun t i =>
    let h := 4 * x.core + i
    let rest := (variablePart (s.hart h)).drop 3328
    let t1 := ovuneWrite (base + 0x1000 * i) (hartArea s h full) t
    if rest = [] then t1 else ovuneWrite (base + 0xA_4000 + 0x8000 * i) rest t1) s
  if full then
    let regs := laneImages s x
    let images := (List.range x.lanes).foldl (fun t l =>
      ovuneWrite (base + 0x8_4000 + 0x1000 * l) (bsRead (c.lpriv[x.laneOf l]!) 0 0x1000)
        (ovuneWrite (base + 0x4000 + 0x4000 * l) (regs.getD l []) t)) areas
    if c.mholder.isSome ∧ (x.harts.any fun h => (s.hart h).matrix) = true then
      ovuneWrite (base + 0xC_4000) (bsRead c.acc[0] 0 0x1_0000 ++ bsRead c.acc[1] 0 0x1_0000) images
    else images
  else areas

end Sys2Proof.Machine
end

