-- ==== Sys2Proof/Machine/Ops.lean ====
section
/-!
DEFINITION. Saving and stopping groups; taking a trap (R226 to R228, R171), one shared operation; retiring an
instruction; the latches of engine work (R447).
-/
namespace Sys2Proof.Machine

open Sys2Proof

/-! ## Event records -/

/-- An event record (R238). -/
def eventRec (kind flags level err unit serial : Nat) (cause tval epc epr source time : Word) : BitVec 512 :=
  BitVec.ofNat 512 (kind % 256 + flags % 256 * 2 ^ 8 + level % 256 * 2 ^ 16 + err % 256 * 2 ^ 24
    + unit % 2 ^ 32 * 2 ^ 32 + serial % 2 ^ 48 * 2 ^ 64 + cause.toNat * 2 ^ 128 + tval.toNat * 2 ^ 192
    + epc.toNat * 2 ^ 256 + epr.toNat * 2 ^ 320 + source.toNat * 2 ^ 384 + time.toNat * 2 ^ 448)

/-- Queues an event for a context's ring (R238); `EVENT_POST` writes it. -/
def queueEvent (a : Nat) (e : BitVec 512) (s : State) : State := s.modCtx a fun x => { x with events := x.events ++ [e] }

/-- Raises an MSI-X vector (R438). -/
def raiseMsix (v : Nat) (s : State) : State := { s with msix := s.msix ++ [v] }

/-- Control reaches another word. -/
def Hart.goTo (h : Hart) (target : Word) : Hart := { h with pc := target, wait := none }

/-! ## Entering the S runtime (R226 to R228) -/

/-- A hart at level U enters SENTRY at level S with the trap's registers (R226, R227). -/
def enterHandler (h : Nat) (t : Trap) (s : State) : State :=
  let sentry := (s.ctx (s.asidOf h)).sentry
  s.modHart h fun x => { x with cause := t.cause 0, tval := t.tval, epc := if t.past then x.pc + 8 else x.pc,
                                epr := t.epr, level := .s, pc := sentry, wait := none, strip := false,
                                resumed := false }

/-- A wait of a hart ends: a WAITING group runs again (R215). -/
def endWaitOf (h : Nat) (s : State) : State :=
  match s.groupOf h with
  | some (g, x) => if x.st = .waiting then s.setGroup g { x with st := .running } else s
  | none => s

/-- ISTEP or ESTEP acts on the hart (R237). -/
def Hart.steps (h : Hart) : Bool := decide (h.level = .u) && (h.dbg.ctl.getLsbD 0 || h.dbg.ctl.getLsbD 1)
/-- ESTEP acts on the hart (R237). -/
def Hart.elemSteps (h : Hart) : Bool := decide (h.level = .u) && h.dbg.ctl.getLsbD 1

/-- The STEP trap of a hart at the PC and `epr` that it now has (R237); VEC and ARR say whether it stands inside a vector
or array instruction (R223), and are 0 where the instruction has completed (DEDUCED, notes/assumptions/8.md). `tval`, which no
rule gives for STEP, is a free value (DESIGN CHOICE, notes/assumptions/8.md). -/
def takeStep (h : Nat) (vec arr : Bool) (s : State) : State :=
  enterHandler h { Trap.scalar .step (Config.unstated s.fresh) with epr := (s.hart h).epr, vec := vec, arr := arr } s.bump

/-! ## Saving groups (R171, R177 to R179, R213, R231) -/

/-- Free bytes in place of a vector register that has been written; one never written still reads zero (R199). -/
def lostRegister (k : Nat) (r : ByteStore) : ByteStore :=
  if r = [] then [] else bsWrite [] 0 ((List.range 8192).map fun i => Config.lostLane (8192 * k + i))

/-- A hart whose vector registers lost their lanes: neither a cheap save nor a lane change keeps them (R179, R211). -/
def Hart.loseVectors (k : Nat) (h : Hart) : Hart :=
  { h with vreg := Vector.ofFn fun i => lostRegister (64 * k + i.val) (h.vreg[i]) }

/-- The harts of a group lose their vector registers. -/
def loseLanes (x : Group) (s : State) : State :=
  x.harts.foldl (fun s h => (s.modHart h fun y => y.loseVectors s.fresh).bump) s

/-- The lanes of a set of lane groups. -/
def lanesOf (q : BitVec 8) : List Nat := (setBits q 8).flatMap fun i => [4 * i, 4 * i + 1, 4 * i + 2, 4 * i + 3]

/-- The translations of the pages of a range, in ascending address; a page that does not translate gives none. `fuel`
bounds the pages. -/
def rangeLeaves (s : State) (asid : Nat) : Nat → Nat → Nat → List Leaf
  | 0, _, _ => []
  | k + 1, va, stop =>
    if stop ≤ va then []
    else match walk s asid va with
      | .ok l => l :: rangeLeaves s asid k ((l.base + l.pages) * 2 ^ 16) stop
      | .error _ => rangeLeaves s asid k ((va / 2 ^ 16 + 1) * 2 ^ 16) stop

/-- The addresses at which the pages of a range are walked: in ascending address, up to the first walk that `on` does not let
go on; `fuel` bounds the pages. -/
def rangeWalks (s : State) (asid : Nat) (on : Except Cause Leaf → Bool) : Nat → Nat → Nat → List Nat
  | 0, _, _ => []
  | k + 1, va, stop =>
    if stop ≤ va then []
    else
      let r := walk s asid va
      let next := match r with
        | .ok l => (l.base + l.pages) * 2 ^ 16
        | .error _ => (va / 2 ^ 16 + 1) * 2 ^ 16
      va :: (if on r then rangeWalks s asid on k next stop else [])

/-- The accesses of the walks of a range are counted (R375). -/
def countRange (asid : Nat) (on : Except Cause Leaf → Bool) (va n : Nat) (s : State) : State :=
  (rangeWalks s asid on (n / 2 ^ 16 + 1) va (va + n)).foldl (fun s a => countWalk asid a s) s

/-- The walks of a refill are counted (R375). -/
def countRefill (g : Nat) (s : State) : State :=
  match s.group? g with
  | none => s
  | some x => x.bolts.foldl (fun s b => countRange x.asid (fun _ => true) b.start b.len s) s

/-- The bolted entries of a group are filled again from the page tables as they stand, at most 16 in all (R366). -/
def refillBolts (g : Nat) (s : State) : State :=
  (countRefill g s).modGroup g fun x =>
    { x with bolts := (x.bolts.foldl (fun (r : List Bolt × Nat) b =>
        let es := (rangeLeaves s x.asid (b.len / 2 ^ 16 + 1) b.start (b.start + b.len)).take r.2
        (r.1 ++ [{ b with entries := es }], r.2 - es.length)) ([], 16)).1 }

/-- The lane-private SRAM of a lane reads as zero, without poison marks (R146). -/
def Core.zeroLane (c : Core) (l : Nat) : Core :=
  { c with lpriv := c.lpriv.set! l [], poison := clearMarks c.poison (.lpriv l) 0 0x1000 }

/-- The group takes a set of lane groups; a lane that another group held last is zeroed (R146), and its bolted entries are
refilled (R366). -/
def takeQuads (g : Nat) (q : BitVec 8) (s : State) : State :=
  match s.group? g with
  | none => s
  | some x =>
    let c := s.core x.core
    let c' := (setBits q 8).foldl (fun (c : Core) i =>
      let mine := decide (c.lastHeld[i]! = some g ∨ c.lastHeld[i]! = none)
      let c := if mine then c else (lanesOf (BitVec.ofNat 8 (2 ^ i))).foldl (fun c l => c.zeroLane l) c
      { c with lastHeld := c.lastHeld.set! i (some g) }) c
    refillBolts g ((s.setCore x.core c').setGroup g { x with quads := q })

/-- The group's lanes and matrix array leave it. -/
def releaseLanes (g : Nat) (s : State) : State :=
  match s.group? g with
  | none => s
  | some x =>
    let c := s.core x.core
    (s.setCore x.core { c with mholder := if c.mholder = some g then none else c.mholder }).setGroup g
      { x with quads := 0, next := 0, rcl := false }

/-- What became of a hart that a save reaches at its `BAR` (R356): it can be saved, it has entered its handler, or its
record's page is MIGRATING or out of reach, so that it has to wait (R374). -/
inductive Left where
  | gone | trapped | stalled
  deriving DecidableEq, Repr

/-- A hart that completes its `BAR` before a save takes the STEP that is due (R237). -/
def leftAt (h : Nat) (sd : BitVec 6) (v : Word) (s : State) : State × Left :=
  let s1 := endWaitOf h (s.modHart h fun y => (y.set sd v).goTo (y.pc + 8))
  if (s.hart h).steps then (takeStep h false false s1, .trapped) else (s1, .gone)

/-- What a hart that waits in `BAR` does before it is saved (R356): its arrival is withdrawn, or the `BAR` completes
first, or its record fails a check and the hart takes that trap. -/
def leaveBar (h : Nat) (s : State) : State × Left :=
  match (s.hart h).wait with
  | some (.bar f latch gen) =>
    if latch then
      match s.groupOf h with
      | none => (s, .gone)
      | some (g, x) =>
        if x.lgen = gen then (s.setGroup g (latchWithdraw x), .gone)
        else leftAt h f.sd (recAnswer gen.toNat (2 * 2 ^ 96)) s
    else
      match recordPlace (hartWho s h) ((s.hart h).get f.sa).toNat 64 s with
      | (s1, .error (.trap t)) => (enterHandler h t (endWaitOf h s1), .trapped)
      | (s1, .error .stall) => (s1, .stalled)
      | (s1, .ok p) =>
        let x := recordGet p s1
        if recGen x = gen.toNat then
          match recordUpdate p x (recWithdraw x) s1 with
          | .ok s2 => (s2, .gone)
          | .error (.trap t) => (enterHandler h t (endWaitOf h s1), .trapped)
          | .error .stall => (s1, .stalled)
        else leftAt h f.sd (recAnswer gen.toNat x) s1
  | _ => (s, .gone)

/-- The harts of a pre-emption leave their barriers one after another, and the answer says whether all of them can be
saved. Where one traps, that trap alone is taken and no arrival is withdrawn; where one has to wait, nothing is done
(R356). `before` is the state as the request found it. -/
def leaveAll : List Nat → State → State → State × Bool
  | [], _, s => (s, true)
  | h :: hs, before, s =>
    match leaveBar h s with
    | (s1, .gone) => leaveAll hs before s1
    | (_, .stalled) => (before, false)
    | (s1, .trapped) =>
      let alone := leaveBar h { before with fresh := s.fresh }
      (if alone.2 = .trapped then alone.1 else { before with fresh := s1.fresh }, false)

/-- What a save leaves of a hart's bindings: the strips read ahead are discarded, and a block that is not verified is
abandoned (R314). -/
def Hart.dropAhead (h : Hart) : Hart := { h with binds := h.binds.map fun b => { b with ahead := [], wrote := none } }

/-- A hart is saved at its resumable position, at level U, once its accesses have performed (R231, R349); one stopped
at a `SETVL` has not executed it (R213). -/
def saveHart (h : Nat) (s : State) : State :=
  (settleAll h s).modHart h fun x => { x.dropAhead with saved := true, saveDue := false, wait := none, strip := false }

/-- What a cheap save at a `SETVL` leaves of a hart: its mask registers restore as 0 (R178, R179). -/
def Hart.dropMasks (h : Hart) : Hart :=
  match h.wait with
  | some (.setvl _) => { h with mreg := Vector.replicate 16 0, epr := 0 }
  | _ => h

/-- When the last hart of a group that is being saved has been saved, and every tile copy of the group has finished or
stopped (R164), the group is PREEMPTED (R213, R231). A full save holds its lane-private SRAM and, with the matrix array,
the tiles; after a cheap save the vector registers are lost (R179). Its lanes and the array are released. -/
def finishSave (g : Nat) (s : State) : State :=
  match s.group? g with
  | none => s
  | some x =>
    if x.st ≠ .preempted ∧ x.st ≠ .retired ∧ (x.harts.any fun h => (s.hart h).saved) = true ∧
        (x.harts.all fun h => (s.hart h).saved || (s.hart h).exited) = true ∧
        (s.copies.all fun c => c.stopped || match c.hart with
          | some (h, _) => !(x.harts.contains h)
          | none => true) = true then
      let c := s.core x.core
      let full := decide (x.saveKind = .full)
      let y := { x with
        st := .preempted, saveQuads := x.quads, pre := false
        saveLp := if full then (lanesOf x.quads).map fun l => (l, c.lpriv[l]!) else []
        saveAcc := if full ∧ c.mholder = some g then some c.acc else none }
      let s1 := writeFrame x full s
      releaseLanes g ((if full then s1 else loseLanes x s1).setGroup g y)
    else s

/-- A forced save reaches a hart (R213, R231): at level U it is saved at once, at level S, or where a trap of its `BAR` or
a record that has to wait comes first, later. -/
def forceHart (h : Nat) (s : State) : State :=
  if (s.hart h).exited || (s.hart h).saved then s
  else if (s.hart h).level = .s then s.modHart h fun y => { y with saveDue := true }
  else match leaveBar h s with
    | (s1, .gone) => saveHart h s1
    | (s1, _) => s1.modHart h fun y => { y with saveDue := true }

/-- A forced full save of a group (R213, R231). -/
def forceSave (g : Nat) (s : State) : State :=
  match s.group? g with
  | none => s
  | some x =>
    if x.st = .preempted ∨ x.st = .retired then s
    else finishSave g (x.harts.foldl (fun s h => forceHart h s) (s.setGroup g { x with saveKind := .full }))

/-- A hart is at a lane point (R210): it has executed `KEXIT`, is stopped at a `SETVL`, or waits or stands at a strip
boundary with VW = 0; at level U only (R231). -/
def lanePoint (s : State) (h : Nat) : Bool :=
  let x := s.hart h
  x.exited || (decide (x.level = .u) && (match x.wait with
    | some (.setvl _) => true
    | some (.mmode _) => false
    | some _ => !x.vw
    | none => x.strip && !x.vw))

/-- The group is at a lane point: each of its harts is, and none has matrix mode on (R210, R294). -/
def groupPoint (s : State) (x : Group) : Bool :=
  (x.harts.all fun h => lanePoint s h) && (x.harts.all fun h => (s.hart h).exited || !(s.hart h).matrix)

/-- A pre-emption request that a group has reached a lane point for is met (R213): the PREEMPT trap of R232 where every
live hart is stopped at a `SETVL`, a cheap save elsewhere. A hart whose barrier record fails its check takes that trap
first, and the request stays (R356). -/
def meetPreempt (g : Nat) (s : State) : State :=
  match s.group? g with
  | none => s
  | some x =>
    if x.pre ∧ x.st ≠ .preempted ∧ x.st ≠ .retired ∧ groupPoint s x = true then
      let live := x.harts.filter fun h => !(s.hart h).exited
      let kind : SaveKind := if (live.all fun h => match (s.hart h).wait with
        | some (.setvl _) => true
        | _ => false) then .trap else .cheap
      match leaveAll live s s with
      | (s1, false) => s1
      | (s1, true) =>
        finishSave g (live.foldl (fun s h => saveHart h (s.modHart h Hart.dropMasks))
          (s1.modGroup g fun y => { y with saveKind := kind }))
    else s

/-- The groups of a context. -/
def groupsOf (a : Nat) (s : State) : List Nat := (s.groups.filter fun p => p.2.asid = a).map Prod.fst

/-- Every group of a context is saved by force (R169). -/
def forceSaveAll (a : Nat) (s : State) : State := (groupsOf a s).foldl (fun s g => forceSave g s) s

/-- A context becomes FAULTED; a fault that arrives once it is switched out is held (R169, R170). -/
def markFaulted (a : Nat) (s : State) : State :=
  let x := s.ctx a
  match x.st with
  | .resident =>
    if s.switchingOut a then s.setCtx a { x with held := true }
    else forceSaveAll a (s.setCtx a { x with st := .faulted })
  | .switchedOut => s.setCtx a { x with held := true }
  | _ => s

/-- A trap taken at level S (R227, R171): the hart stops and is saved with FS, the S bank discarded; the context is
FAULTED and a context-fault event is queued. -/
def contextFault (t : Trap) (s : State) : State :=
  let a := s.asidOf s.cur
  let e := eventRec 4 0 0 0 0 (s.serialOf s.cur) (t.cause 1) t.tval s.me.pc t.epr (wd (hartIdOf s.cur)) s.time
  let s1 := (settleAll s.cur s).modMe fun h =>
    { h.dropAhead with fs := true, saved := true, saveDue := false, level := .u, wait := none,
                                      strip := false, sbank := Vector.replicate 8 0 }
  let s2 := queueEvent a e (markFaulted a s1)
  match s.me.group with
  | some g => finishSave g s2
  | none => s2

/-! ## Traps -/

/-- Taking a trap (R226 to R228): at level U the hart enters SENTRY at level S, at level S the context faults. -/
def takeTrap (t : Trap) (s : State) : State :=
  if s.me.level = .s then contextFault t s else enterHandler s.cur t s

/-- What ends the execution of an instruction at a stop: a trap is taken; a wait leaves the PC. -/
def stopAt (p : Stop) (s : State) : State :=
  match p with
  | .trap t => takeTrap t s
  | .stall => s

/-- The step that is due after an instruction, or a part of it, has retired at level U (R237). -/
def stepAfter (vec arr : Bool) (was : Hart) (s : State) : State :=
  if was.steps && decide (s.me.level = .u) then takeStep s.cur vec arr s else s

/-- The STEP trap after an instruction has completed. -/
def stepTrap (was : Hart) (s : State) : State := stepAfter false false was s

/-- The instruction at the PC completes and a word follows: the next one, or the target of a transfer (R66, R97). -/
def retireTo (target : Word) (s : State) : State := stepTrap s.me (s.modMe fun h => h.goTo target)

/-- The instruction at the PC completes and the next word follows (R66). -/
def retire (s : State) : State := retireTo (s.me.pc + 8) s

/-- What the hart's instructions at another level keep. -/
def Hart.others (h : Hart) : List Kept := h.kept.filter fun k => decide (k.level ≠ h.level)

/-- The instruction at the PC keeps a position at which it goes on, its sources and a number. -/
def Hart.keeps (h : Hart) (next : Nat) (strips : List Strip) (head : Option Nat) : Hart :=
  { h with kept := { level := h.level, pc := h.pc, next := next, strips := strips, outs := [], head := head } :: h.others }

/-- A vector, vector memory or array instruction of the hart has completed: `epr` becomes 0 (R151, R117), and what it kept
is gone. -/
def Hart.endVec (h : Hart) : Hart := { h with epr := 0, kept := h.others }

/-- A vector, vector memory or array instruction completes. -/
def retireVec (s : State) : State := retire (s.modMe Hart.endVec)

/-- The hart stands inside a vector instruction at a position: the sources stand as they did, and `outs` are added to the
results that it keeps. -/
def Hart.standsAt (e : Nat) (outs : List (Option Nat)) (h : Hart) : Hart :=
  { h with epr := wd e,
           kept := h.kept.map fun k => if k.level = h.level then { k with next := e, outs := k.outs ++ outs } else k }

/-- An element step stops inside a vector instruction at a position (R237). -/
def stopInside (e : Nat) (outs : List (Option Nat)) (s : State) : State :=
  stepAfter true false s.me (s.modMe (Hart.standsAt e outs))

/-- Every hart of the group that has not executed `KEXIT` waits in `EVWAIT`, `CWAIT`, `MWAIT` or `BAR` (R215). -/
def allWait (s : State) (x : Group) : Bool :=
  x.harts.all fun h => (s.hart h).exited || match (s.hart h).wait with
    | some (.mwait _) | some (.cwait _) | some (.evwait _) | some (.bar _ _ _) => true
    | _ => false

/-- A hart waits at the instruction at its PC: its group may become WAITING, and may be at a lane point (R210, R215). -/
def waitAt (w : Wait) (s : State) : State :=
  let s1 := s.modMe fun h => { h with wait := some w }
  match s1.myGroup with
  | none => s1
  | some (g, x) =>
    let s2 := if x.st = .running ∧ allWait s1 x = true then s1.setGroup g { x with st := .waiting } else s1
    meetPreempt g s2

/-- A wait of the hart whose turn it is ends (R215). -/
def endWait (s : State) : State := endWaitOf s.cur s

/-- A successful execution retires, and a trap is taken. -/
def finishOr (r : Except Trap State) (s : State) : State :=
  match r with
  | .ok s' => retire s'
  | .error t => takeTrap t s

/-- An engine's latch for a hart's louver mask register, one for each piece of work (R447). -/
def addLatch (h : Nat) (l : Latch) (s : State) : State := s.modHart h fun x => { x with latches := x.latches ++ [l] }

/-- The oldest latch that a test picks and no trap has delivered, marked delivered (R447). -/
def deliverLatch (p : Latch → Bool) : List Latch → Option (Latch × List Latch)
  | [] => none
  | l :: ls =>
    if p l && !l.delivered then some (l, { l with delivered := true } :: ls)
    else (deliverLatch p ls).map fun r => (r.1, l :: r.2)

end Sys2Proof.Machine
end

