-- ==== Sys2Proof/Machine/Operands.lean ====
section
/-!
DEFINITION. Vector operands: elements and blocks of vector registers (R40, R47, R108), operand tags and the maximum
vector length (R110, R111, R209), the spaces of R143 to R146, the source modifier (R75, R129), and bound registers:
reading and writing strips of every kind of stream (R297 to R305, R309, R312, R313, R401, R424).
-/
namespace Sys2Proof.Machine

open Sys2Proof

/-! ## Elements of registers -/

/-- Raw bits of element e of a vector register under a tag that is not sx (R40). -/
def Hart.elem (h : Hart) (v : Nat) (t : Tag) (e : Nat) : Nat := bsNat (h.vreg[v]!) (e * t.bytes) t.bytes
/-- Block k of a vector register under an sx tag, as the number of its bytes (R47). -/
def Hart.block (h : Hart) (v : Nat) (t : Tag) (k : Nat) : Nat := bsNat (h.vreg[v]!) (k * t.slotBytes) t.blockBytes
/-- Element or block i of a vector register. -/
def Hart.unit (h : Hart) (v : Nat) (t : Tag) (i : Nat) : Nat := if t.isSx then h.block v t i else h.elem v t i

/-- The hart with an element, or a block under an sx tag with the zero bytes that fill its slot (R47), written; VW is set
(R208). -/
def Hart.setUnit (h : Hart) (v : Nat) (t : Tag) (i x : Nat) : Hart :=
  let data := if t.isSx then padTo t.slotBytes (leBytes t.blockBytes x) else leBytes t.bytes x
  let off := if t.isSx then i * t.slotBytes else i * t.bytes
  { h with vreg := h.vreg.set! v (bsWrite (h.vreg[v]!) off data), vw := true }

/-- The tag of a vector register (R114). -/
def Hart.tagOf (h : Hart) (v : Nat) : Tag := Tag.ofCode (fld (h.tagtab[v / 16]!) (4 * (v % 16)) 4)
/-- The tag of an operand under a TO field (R74, R110). -/
def Hart.opTag (h : Hart) (ovr : Nat) (v : Nat) : Tag := if ovr = 0 then h.tagOf v else Tag.ofCode (ovr - 1)
/-- The hart with the tag of a vector register set (R114). -/
def Hart.setTag (h : Hart) (v : Nat) (t : Tag) : Hart :=
  let w := h.tagtab[v / 16]!
  let sh := 4 * (v % 16)
  { h with tagtab := h.tagtab.set! (v / 16) (wd (w.toNat - fld w sh 4 * 2 ^ sh + t.code * 2 ^ sh)) }

/-- VL of the hart. -/
def Hart.len (h : Hart) : Nat := h.vl.toNat

/-- The rounding mode of a non-conversion under an RM field (R50). -/
def Hart.rmOf (h : Hart) (code : Nat) : Rm := (Rm.ofCode (if code = 0 then h.frm.toNat else code)).det
/-- The rounding mode of a conversion (R50, R52). -/
def Hart.rmConv (h : Hart) (code : Nat) : Rm := Rm.ofCode (if code = 0 then h.frm.toNat else code)

/-- The maximum vector length of a tag for a group of H harts holding L lanes (R209). -/
def mvlOf (lanes harts : Nat) (t : Tag) : Nat :=
  let n := lanes * 4096 / (harts * t.size16)
  if t.isSx then n / 16 * 16 else n
/-- MVL of a tag for the hart whose turn it is. -/
def State.mvl (s : State) (t : Tag) : Nat :=
  match s.myGroup with
  | some (_, g) => mvlOf g.lanes g.slots.length t
  | none => 0

/-- A TAG trap: tag, operand position and [8] (R111). -/
def tagTrap (t : Tag) (pos : Nat) (tooLong : Bool) : Trap := Trap.vector .tag (wd (t.code + 16 * pos + 256 * b2n tooLong))

/-- The check of R111 that VL does not exceed MVL, for each operand's tag and position in turn. -/
def capCheck (s : State) : List (Tag × Nat) → Option Trap
  | [] => none
  | (t, p) :: l => if s.mvl t < s.me.len then some (tagTrap t p true) else capCheck s l

/-- The source index of a modifier, or none where the source delivers its fill (R75, R129). -/
def modIndex (m : Nat) (e vl : Nat) : Option Nat :=
  let within : Nat → Int → Option Nat := fun g j =>
    if j < 0 ∨ (vl : Int) ≤ j ∨ (g ≠ 0 ∧ j.toNat / g ≠ e / g) then none else some j.toNat
  match m % 16 with
  | 0 => within 0 e
  | 1 => within 2 (Nat.xor e 1)
  | 2 => within 4 (Nat.xor e 2)
  | 3 => within 8 (Nat.xor e 4)
  | 4 => within 4 (4 * (e / 4) + 3 - e % 4 : Nat)
  | 5 => within 4 (4 * (e / 4) : Nat)
  | 6 => within 8 (8 * (e / 8) : Nat)
  | 7 => within 16 (16 * (e / 16) : Nat)
  | 8 => within 4 ((e : Int) - 1)
  | 9 => within 8 ((e : Int) - 1)
  | 10 => within 4 ((e : Int) + 1)
  | 11 => within 8 ((e : Int) + 1)
  | 12 => within 0 0
  | 13 => within 0 ((e : Int) - 1)
  | _ => within 0 ((e : Int) + 1)

/-- A list of source elements as the modifier of format V delivers it (R129). -/
def modified (m vl : Nat) (xs : List Nat) : List Nat :=
  if m = 0 then xs
  else xs.zipIdx.map fun p => match modIndex m p.2 vl with
    | some j => xs.getD j 0
    | none => if m / 16 = 1 then p.1 else 0

/-! ## Spaces (R143 to R146, R150) -/

/-- The trap of an access at an address of R150: the address, or the line or block that holds it. -/
def Stop.atAddr (a : Nat) : Stop → Stop
  | .stall => .stall
  | .trap t =>
    .trap { t with tval := wd (if t.code = Cause.poison.code then a / 64 * 64
                               else if t.code = Cause.integrity.code then a / 256 * 256 else a) }

/-- Bytes of a core's scratchpad that lie in allocations of a context (R143). -/
def inAllocation (s : State) (asid core off n : Nat) : Bool :=
  (List.range n).all fun i => s.groups.any fun p =>
    decide (p.2.asid = asid ∧ p.2.core = core ∧ p.2.spadBase ≤ off + i ∧ off + i < p.2.spadBase + p.2.spadSize)

/-- A place in an SRAM. -/
def sramPlace (a n : Nat) (l : Loc) : Place :=
  { va := a, n := n, loc := l, cry := Cry.ovune, hs := false, mig := false, far := false }

/-- Some piece of a range lies in a page that translates and is not host-shared (R143). -/
def notShared (w : Who) (ps : List (Nat × Nat)) (s : State) : Bool :=
  ps.any fun p => match leafAt s w p.1 with
    | .ok l => !(l.leaf.getLsbD 12)
    | .error _ => false

/-- The places of an access in a space, with the checks of R150 up to the permissions, and those that hold an access back
(R173, R374, R414): CNT's comes first of those that read the bytes (DESIGN CHOICE, notes/assumptions/49.md). `al` is the
alignment, `lane` the lane of an `lpriv` access. -/
def spacePlaces (w : Who) (h : Nat) (acc : Access) (sp : Nat) (addr : Word) (n al lane : Nat) (s : State) :
    State × Except Stop (List Place) :=
  let a := addr.toNat
  let stores := decide (acc = .store ∨ acc = .both)
  let bad : Cause → State × Except Stop (List Place) := fun c => (s, .error (accTrap c a))
  let sram : Bool → Bool → Loc → State × Except Stop (List Place) := fun first all l =>
    if !first then bad .prot else if a % al ≠ 0 then bad .align else if !all then bad .prot else (s, .ok [sramPlace a n l])
  let core := coreOf h
  match sp with
  | 1 =>
    match s.groupOf h with
    | none => bad .prot
    | some (_, g) => sram (decide (a < g.spadSize)) (decide (a + n ≤ g.spadSize)) (.spad core (g.spadBase + a))
  | 2 =>
    let idx := nbits a 19 7
    let k := clusterOf core * 96 + idx
    let off := a % 2 ^ 19
    let named := decide (a < 2 ^ 26 ∧ idx < 96)
    sram (named && decide (off + n ≤ 2 ^ 19) && inAllocation s w.asid k off n) true (.spad k off)
  | 3 => sram (decide (a < 0x1000)) (decide (a + n ≤ 0x1000)) (.lpriv core lane a)
  | 4 => sram (decide (a < 0x4000)) (decide (a + n ≤ 0x4000)) (.sdata core a)
  | _ =>
    if 2 ^ 55 ≤ a then bad .page
    else if sp = 5 ∧ notShared w (piecesOf a n) s = true then bad .prot
    else if a % al ≠ 0 then bad .align
    else
      match translateAll w acc (piecesOf a n) s with
      | (s1, .error t) => (s1, .error (t.atAddr a))
      | (s1, .ok ps) =>
        if (stores ∧ ps.any fun p => p.mig) ∨ (ps.any fun p => p.far) then (s1, .error .stall)
        else if stores ∧ ps.any fun p => p.full s1 then (s1, .error (accTrap .prot a))
        else (s1, .ok ps)

/-- Reading bytes in a space with every check of R150. -/
def readSpace (w : Who) (h sp : Nat) (addr : Word) (n al lane : Nat) (s : State) : State × Except Stop (List Byte) :=
  match spacePlaces w h .load sp addr n al lane s with
  | (s1, .error t) => (s1, .error t)
  | (s1, .ok ps) =>
    match placesFault ps s1 with
    | (s2, some t) => (s2, .error (t.atAddr addr.toNat))
    | (s2, none) => (countPlaces w ps s2, .ok (ps.flatMap fun p => readLoc s2 p.loc p.n))

/-- Reading the pieces of a range in a space, line by line in ascending address: a fault names the piece's address
(R150). -/
def readLineList (w : Who) (h sp : Nat) : List (Nat × Nat) → State → State × Except Stop (List Byte)
  | [], s => (s, .ok [])
  | (a, n) :: l, s =>
    match readSpace w h sp (wd a) n 1 0 s with
    | (s1, .error t) => (s1, .error t)
    | (s1, .ok d) =>
      match readLineList w h sp l s1 with
      | (s2, .error t) => (s2, .error t)
      | (s2, .ok ds) => (s2, .ok (d ++ ds))

/-- Reading a range of bytes that may take in several lines. -/
def readRange (w : Who) (h sp : Nat) (a : Word) (n : Nat) (s : State) : State × Except Stop (List Byte) :=
  readLineList w h sp (piecesOf a.toNat n) s

/-- A place as its memory and the offset in it. -/
def Loc.split : Loc → Loc × Nat
  | .dev pa => (.dev 0, pa)
  | .host pa => (.host 0, pa)
  | .peer d pa => (.peer d 0, pa)
  | .spad c o => (.spad c 0, o)
  | .sdata c o => (.sdata c 0, o)
  | .lpriv c l o => (.lpriv c l 0, o)

/-- A store with the bytes that a later store of the same instruction writes too taken from that one (R151); host memory
sees every store in turn (R157). -/
def PStore.under (new p : PStore) : PStore :=
  let a := new.loc.split
  let b := p.loc.split
  if a.1 = b.1 ∧ a.1 ≠ .host 0 then
    { p with data := p.data.zipIdx.map fun x =>
        let i := b.2 + x.2
        if a.2 ≤ i ∧ i < a.2 + new.data.length then new.data.getD (i - a.2) 0 else x.1 }
  else p

/-- The memory side of a hart accepts stores: with O = 1 they perform later, else at once, after the earlier ones
(R107, R218). Under E = 0 `first` names the place in `pend` of the instruction's first store: at bytes that several of
its elements write only the last value is ever seen (R151). -/
def acceptStores (h : Nat) (hold : Bool) (first : Option Nat) (l : List PStore) (va : Nat) (s : State) : State :=
  let s1 := noteRemote h true l va s
  if hold then performAll l (settleAll h s1)
  else s1.modHart h fun x =>
    { x with pend := (match first with
        | none => x.pend
        | some k => x.pend.take k ++ (x.pend.drop k).map fun p => l.foldl (fun p q => q.under p) p) ++ l }

/-- Storing bytes in a space with every check of R150. -/
def storeSpace (w : Who) (h sp : Nat) (addr : Word) (data : List Byte) (al lane : Nat) (hold : Bool) (first : Option Nat)
    (s : State) : State × Option Stop :=
  match spacePlaces w h .store sp addr data.length al lane s with
  | (s1, .error t) => (s1, some t)
  | (s1, .ok ps) => (acceptStores h hold first (storesOf ps data) addr.toNat (countHots w ps s1), none)

/-- The lane of element e of an element size (R145). -/
def laneOfElem (s : State) (h e size : Nat) : Nat :=
  match s.groupOf h with
  | some (_, g) => if g.lanes = 0 then 0 else g.laneOf (e * size / 8 % g.lanes)
  | none => 0

/-! ## Bindings -/

/-- KIND of a record (R298): 1 MEM, 2 FMT, 3 SCALE, 4 COMP, 5 POST, 6 COLL. -/
def Binding.kind (b : Binding) : Nat := fld b.record 0 8
/-- DIR. -/
def Binding.dir (b : Binding) : Nat := fld b.record 8 1
/-- SP. -/
def Binding.sp (b : Binding) : Nat := fld b.record 9 3
/-- MTAG. -/
def Binding.mtag (b : Binding) : Tag := Tag.ofCode (fld b.record 16 4)
/-- COUNT. -/
def Binding.count (b : Binding) : Nat := fld b.record 64 64
/-- Chunk bytes C of a COMP record (R299). -/
def Binding.chunk (b : Binding) : Nat := 2 ^ (fld b.record 320 4 + 5)
/-- DEST of a COMP record. -/
def Binding.dest (b : Binding) : Nat := fld b.record 256 32
/-- RINGB of a COMP record. -/
def Binding.ring (b : Binding) : Nat := fld b.record 288 32
/-- BAR of a COMP record. -/
def Binding.bar (b : Binding) : Nat := fld b.record 384 64

/-- Bytes that n elements of a tag take in memory; n is a multiple of 16 under an sx tag (R39). -/
def memBytes (t : Tag) (n : Nat) : Nat := if t.isSx then n / 16 * t.blockBytes else n * t.bytes

/-- All decoded bytes of a COMP stream. -/
def Binding.total (b : Binding) : Nat := memBytes b.mtag b.count
/-- The louver bit of chunk i (R309). -/
def Binding.chunkBit (b : Binding) (i : Nat) : Nat :=
  b.dest / b.chunk + (if b.ring = 0 then i else i % (b.ring / b.chunk))

/-- The binding of a vector register of a hart. -/
def Hart.binding? (h : Hart) (v : Nat) : Option Binding := h.binds.find? fun b => b.vt == v
/-- The hart with a binding replaced. -/
def Hart.setBinding (h : Hart) (b : Binding) : Hart :=
  { h with binds := h.binds.map fun c => if c.vt = b.vt then b else c }
/-- The state with a binding of a hart replaced. -/
def setBinding (h : Nat) (b : Binding) (s : State) : State := s.modHart h fun x => x.setBinding b

/-- A collective call by its identity. -/
def State.call? (s : State) (c : Nat) : Option Call := s.calls.find? fun x => x.id == c
/-- The state with a call replaced. -/
def State.setCall (s : State) (c : Call) : State := { s with calls := s.calls.map fun x => if x.id = c.id then c else x }

/-- Members of a call (R421). -/
def Call.n (c : Call) : Nat := fld c.record 208 6 + 1
/-- Own rank. -/
def Call.rank (c : Call) : Nat := fld c.record 216 6
/-- KINDC. -/
def Call.kindc (c : Call) : Nat := fld c.record 224 4
/-- OP. -/
def Call.op (c : Call) : Nat := fld c.record 228 4
/-- WC. -/
def Call.wc (c : Call) : Bool := c.record.getLsbD 232
/-- CMODE. -/
def Call.cmode (c : Call) : Nat := fld c.record 233 2
/-- ROOT. -/
def Call.root (c : Call) : Nat := fld c.record 240 6
/-- C, the elements of the full vector. -/
def Call.full (c : Call) : Nat := fld c.record 64 64
/-- MTAG. -/
def Call.mtag (c : Call) : Tag := Tag.ofCode (fld c.record 16 4)
/-- DST. -/
def Call.dst (c : Call) : Nat := fld c.record 384 64
/-- Elements this member contributes (R423). -/
def Call.contributes (c : Call) : Nat :=
  match c.kindc with
  | 2 => c.full / c.n
  | 3 => if c.rank = c.root then c.full else 0
  | _ => c.full
/-- Elements this member receives (R423). -/
def Call.receives (c : Call) : Nat := if c.kindc = 1 then c.full / c.n else c.full
/-- Chunk c of the full vector: its first element and the next chunk's (R423). -/
def Call.span (c : Call) (i : Nat) : Nat × Nat := (i * c.full / c.n, (i + 1) * c.full / c.n)
/-- The chunks, by index of their bit, and the span of result elements each brings (R423). -/
def Call.chunkSpan (c : Call) (i : Nat) : Nat × Nat := if c.kindc = 1 then (0, c.full / c.n) else c.span i
/-- How many chunk bits the call has. -/
def Call.bits (c : Call) : Nat := if c.kindc = 1 then 1 else c.n
/-- How many own elements chunk i needs (R423). -/
def Call.needs (c : Call) (i : Nat) : Nat :=
  match c.kindc with
  | 0 => (c.span i).2
  | 1 => (c.span c.rank).2
  | 2 => if i = c.rank then c.contributes else 0
  | 3 => if c.rank = c.root then (c.span i).2 else 0
  | _ => if i = c.rank then (c.span c.rank).2 else 0

/-- A BIND trap (R303). -/
def bindTrap (v reason : Nat) : Trap := Trap.vector .bind (wd (v + 256 * reason))

/-- R303 for a read of n elements of a register: reasons 3, 4 and 5. -/
def readRefused (s : State) (h : Hart) (ovr n v : Nat) : Option Trap :=
  match h.binding? v with
  | none => none
  | some b =>
    if ovr ≠ 0 then some (bindTrap v 4)
    else if (b.kind = 1 ∨ b.kind = 2) ∧ b.dir = 1 then some (bindTrap v 3)
    else if b.kind = 6 then
      match s.call? b.call with
      | none => none
      | some c =>
        if c.st = .aborted then none
        else if c.receives ≤ b.rpos then some (bindTrap v 5)
        else
          let m := min n (c.receives - b.rpos)
          let short := (List.range c.bits).any fun i =>
            let sp := c.chunkSpan i
            decide (sp.1 < b.rpos + m ∧ b.rpos < sp.2 ∧ b.pos < c.needs i)
          if short then some (bindTrap v 5) else none
    else none

/-- R303 for a write of a register: reasons 2, 4 and 5; `never` marks the writes that no binding accepts. -/
def writeRefused (s : State) (h : Hart) (ovr : Nat) (never : Bool) (v : Nat) : Option Trap :=
  match h.binding? v with
  | none => none
  | some b =>
    if ovr ≠ 0 then some (bindTrap v 4)
    else if never ∨ b.kind = 3 ∨ b.kind = 4 ∨ b.kind = 5 ∨ ((b.kind = 1 ∨ b.kind = 2) ∧ b.dir = 0) then
      some (bindTrap v 2)
    else if b.kind = 6 then
      match s.call? b.call with
      | none => none
      | some c => if c.st ≠ .aborted ∧ c.contributes ≤ b.pos then some (bindTrap v 5) else none
    else none

/-- The first of a list of checks that fails. -/
def firstTrap : List (Option Trap) → Option Trap
  | [] => none
  | some t :: _ => some t
  | none :: l => firstTrap l

/-! ## Reading a bound register -/

/-- A STREAM trap with a reason (R312). -/
def streamTrap (reason off : Nat) : Trap := Trap.vector .stream (wd (reason * 2 ^ 56 + off))

/-- The bytes of a stretch of bits: byte offset, count and shift. -/
def bitBytes (lo n : Nat) : Nat × Nat × Nat := (lo / 8, (lo % 8 + n + 7) / 8, lo % 8)

/-- The address, byte count and shift of pixel i of a FMT stream (R49, R299). -/
def pixelAt (b : Binding) (i : Nat) : Word × Nat × Nat :=
  let lay := fld b.record 192 2
  let p := pixLayout lay
  let x := bitBytes (p.1 * (i % p.2)) p.1
  (wd (fld b.record 128 64 + i / p.2 * pixGroupBytes lay + x.1), x.2.1, x.2.2)

/-- The address of element or block i of a MEM stream (R299). -/
def memAddr (b : Binding) (i : Nat) : Word :=
  wi (fld b.record 128 64 + (i : Int) * signed 64 (fld b.record 192 64))

/-- Reading bytes of a list of single addresses, in order. -/
def readBytesAt (w : Who) (h sp : Nat) : List Word → State → State × Except Stop (List Byte)
  | [], s => (s, .ok [])
  | a :: l, s =>
    match readSpace w h sp a 1 1 0 s with
    | (s1, .error t) => (s1, .error t)
    | (s1, .ok b) =>
      match readBytesAt w h sp l s1 with
      | (s2, .error t) => (s2, .error t)
      | (s2, .ok bs) => (s2, .ok (b ++ bs))

/-- The raw bits of stream element i, or of block i under an sx MTAG; under SCALE the scale stands above the element's
16 bits (R301, R309, R401, R424). -/
def streamRaw (w : Who) (h : Nat) (b : Binding) (i : Nat) (s : State) : State × Except Stop Nat :=
  let one : Nat → Word → Nat → Nat → State → State × Except Stop Nat := fun sp a n al s =>
    match readSpace w h sp a n al 0 s with
    | (s1, .error t) => (s1, .error t)
    | (s1, .ok d) => (s1, .ok (leNat d))
  match b.kind with
  | 1 => one b.sp (memAddr b i) b.mtag.unitBytes (if b.mtag.isSx then 2 else b.mtag.bytes) s
  | 2 =>
    let p := pixelAt b i
    match readBytesAt w h b.sp ((List.range p.2.1).map fun j => p.1 + wd j) s with
    | (s1, .error t) => (s1, .error t)
    | (s1, .ok d) => (s1, .ok (nbits (leNat d) p.2.2 (pixLayout (fld b.record 192 2)).1))
  | 3 =>
    let sc := Tag.ofCode (fld b.record 256 4)
    match one b.sp (wd (fld b.record 128 64 + i * b.mtag.bytes)) b.mtag.bytes b.mtag.bytes s with
    | (s1, .error t) => (s1, .error t)
    | (s1, .ok x) =>
      match one b.sp (wd (fld b.record 192 64 + i / 2 ^ fld b.record 264 4 * sc.bytes)) sc.bytes sc.bytes s1 with
      | (s2, .error t) => (s2, .error t)
      | (s2, .ok c) => (s2, .ok (x + 2 ^ 16 * c))
  | 4 =>
    let u := b.mtag.unitBytes
    let addrs := (List.range u).map fun j =>
      let p := i * u + j
      wd (b.dest + (if b.ring = 0 then p else p % b.ring))
    match readBytesAt w h 1 addrs s with
    | (s1, .error t) => (s1, .error t)
    | (s1, .ok d) => (s1, .ok (leNat d))
  | 5 => one 0 (wd (fld b.record 128 64 + 8 * i)) 8 8 s
  | _ => one 0 (wd (fld b.record 384 64 + b.mtag.bytes * i)) b.mtag.bytes b.mtag.bytes s

/-- The value a strip element has in the register, from its raw bits in memory (R301). -/
def streamVal (b : Binding) (vt : Tag) (rm : Rm) (raw : Nat) : Nat × Flags :=
  match b.kind with
  | 2 => convert .u16 vt rm false 0 raw
  | 3 =>
    let sc := Tag.ofCode (fld b.record 256 4)
    let p := (b.mtag.decode (raw % 2 ^ 16)).toF.mul (sc.decode (raw / 2 ^ 16)).toF
    let r := vt.ffmt.round rm false 0 p.1
    (r.1, p.2 ||| r.2)
  | 5 | 6 => (raw, 0)
  | _ => if b.mtag.isSx then (raw, 0) else convert b.mtag vt rm false 0 raw

/-- Raw stream elements from index i on, those read ahead first (R304, R305). -/
def streamRun (w : Who) (h : Nat) (b : Binding) : List Nat → Nat → Nat → State → State × Except Stop (List Nat)
  | _, _, 0, s => (s, .ok [])
  | a :: l, i, n + 1, s =>
    match streamRun w h b l (i + 1) n s with
    | (s1, .error t) => (s1, .error t)
    | (s1, .ok xs) => (s1, .ok (a :: xs))
  | [], i, n + 1, s =>
    match streamRaw w h b i s with
    | (s1, .error t) => (s1, .error t)
    | (s1, .ok x) =>
      match streamRun w h b [] (i + 1) n s1 with
      | (s2, .error t) => (s2, .error t)
      | (s2, .ok xs) => (s2, .ok (x :: xs))

/-- PAGE, PROT and BOLT can be repaired (R312). -/
def retriable (c : BitVec 6) : Bool := c = Cause.page.code || c = Cause.prot.code || c = Cause.bolt.code
/-- POISON and INTEGRITY end a binding (R312). -/
def endsBinding (c : BitVec 6) : Bool := c = Cause.poison.code || c = Cause.integrity.code


/-- The trap of a binding's latched fault or failure (R312, R313). -/
def Binding.trap (b : Binding) : Trap := { Trap.vector .stream b.tval with code := b.cause }

/-- The hart takes the trap of its oldest undelivered latch that a test picks (R447). -/
def latchTrap (h : Nat) (p : Latch → Bool) (s : State) : Option (State × Trap) :=
  match deliverLatch p (s.hart h).latches with
  | none => none
  | some (l, ls) =>
    some (s.modHart h fun x => { x with latches := ls }, { Trap.vector .stream l.tval with code := l.cause })

/-- COLLECTIVE's `tval` for a call (R431). -/
def Call.tval (c : Call) : Word := wd (c.status * 2 ^ 48 + c.lost * 2 ^ 32 + c.tag)

/-- The latch is that of a query whose bit the POST binding reads (R401). -/
def postLatch (s : State) (b : Binding) (l : Latch) : Bool :=
  decide (l.lm = b.lm) && (match l.work with
    | .query q => s.queries.any fun x => decide (x.id = q ∧ x.bit = fld b.record 192 14)
    | _ => false)

/-- The agent of a binding's engine: the hart's kernel, at the level at which the register was bound. -/
def bindWho (s : State) (h : Nat) (b : Binding) : Who := { hartWho s h with sup := b.sup }

/-- An arrival of the inline decoder at the barrier record of a COMP binding (R312), with the checks of R355; `fault` is
the cause of a fault arrival. What stopped it: the record is then unchanged. -/
def decoderArrival (h : Nat) (b : Binding) (fault : Option (BitVec 6)) (s : State) : State × Option Stop :=
  match recordPlace (bindWho s h b) b.bar 64 s with
  | (s1, .error t) => (s1, some t)
  | (s1, .ok p) =>
    let x := recordGet p s1
    let y := match fault with
      | none => recArrive x
      | some c => recFault c.toNat (hartIdOf h) (devNo s) x
    match recordUpdate p x y s1 with
    | .ok s2 => (s2, none)
    | .error t => (s1, some t)

/-- A migration holds back an arrival of the decoder at the barrier of a COMP binding (R374). -/
def arrivalHeld (h : Nat) (b : Binding) (s : State) : Bool :=
  decide (b.kind = 4 ∧ b.bar ≠ 0) && (match (recordPlace (bindWho s h b) b.bar 64 s).2 with
    | .error .stall => true
    | _ => false)

/-- A binding fails (R312, R313); a COMP binding with a barrier makes its fault arrival, and a failed arrival changes
nothing. -/
def failBinding (h : Nat) (b : Binding) (cause : BitVec 6) (tval : Word) (s : State) : State :=
  let s1 := setBinding h { b with st := .failed, cause := cause, tval := tval } s
  if b.kind = 4 ∧ b.bar ≠ 0 then (decoderArrival h b (some cause) s1).1 else s1

/-- A strip read meets a fault: its binding becomes HELD or FAILED (R312); other causes leave it. -/
def faultBinding (h : Nat) (b : Binding) (t : Trap) (s : State) : State :=
  if retriable t.code then setBinding h { b with st := .held, cause := t.code, tval := t.tval } s
  else if endsBinding t.code then failBinding h b t.code t.tval s
  else s

/-- What a read of n elements of a bound register must find ready before its elements are read (R309, R313, R401,
R424, R431). -/
def stripReady (h : Nat) (b : Binding) (n : Nat) (s : State) : State × Option Stop :=
  let x := s.hart h
  let m := min n (b.count - b.pos)
  match b.kind with
  | 4 =>
    if b.st ≠ .failed ∧ b.count ≤ b.pos then (s, some (.trap (streamTrap 7 0)))
    else if b.count ≤ b.pos then (s, some (.trap b.trap))
    else
      let lo := memBytes b.mtag b.pos / b.chunk
      let hi := (memBytes b.mtag (b.pos + m) + b.chunk - 1) / b.chunk
      let ready := (List.range (hi - lo)).all fun j => (x.mask b.lm).getLsbD (b.chunkBit (lo + j))
      if ready then (s, none)
      else if b.st = .failed then (s, some (.trap b.trap))
      else if b.st = .held then
        match latchTrap h (fun l => decide (l.work = .block b.vt)) s with
        | some (s1, t) => (s1, some (.trap t))
        | none => (s, some (.trap b.trap))
      else (s, some .stall)
  | 5 =>
    if b.st = .failed then (s, some (.trap b.trap))
    else if b.count ≤ b.pos then (s, some (.trap (streamTrap 7 0)))
    else if (x.mask b.lm).getLsbD (fld b.record 192 14) then (s, none)
    else
      match latchTrap h (postLatch s b) s with
      | some (s1, t) => (setBinding h { b with st := .held, cause := t.code, tval := t.tval } s1, some (.trap t))
      | none => (s, some .stall)
  | 6 =>
    match s.call? b.call with
    | none => (s, some .stall)
    | some c =>
      if c.st = .aborted then (s, some (.trap (Trap.vector .collective c.tval)))
      else
        let m := min n (c.receives - b.rpos)
        let ready := (List.range c.bits).all fun i =>
          let sp := c.chunkSpan i
          !(decide (sp.1 < b.rpos + m ∧ b.rpos < sp.2)) || c.chunks.contains i
        if ready then (s, none) else (s, some .stall)
  | _ =>
    if b.st = .failed then (s, some (.trap b.trap))
    else if b.count ≤ b.pos then (s, some (.trap (streamTrap 7 0)))
    else (s, none)

/-- STALL of a binding once its consumer or writer has waited (R305): the cycles are a free value. -/
def waited (s : State) (b : Binding) : BitVec 64 := b.stall + BitVec.ofNat 64 (Config.stallCycles s.fresh)

/-- The consumer of a bound register waits, or has waited before it traps (R305): a trap at COUNT (reason 7) awaits
nothing. -/
def countWait (h vt : Nat) (p : Stop) (s : State) : State :=
  if p = .trap (streamTrap 7 0) then s
  else match (s.hart h).binding? vt with
    | some b => setBinding h { b with stall := waited s b } s.bump
    | none => s

/-- The strip of n elements that a read of a bound register delivers (R301), or what stops the read; the position moves
only when the reading instruction completes. -/
def readStrip (h : Nat) (b : Binding) (n : Nat) (s : State) : State × Except Stop Strip :=
  match stripReady h b n s with
  | (s1, some t) => (s1, .error t)
  | (s1, none) =>
    let x := s1.hart h
    let vt := x.tagOf b.vt
    let from_ := if b.kind = 6 then b.rpos else b.pos
    let left := match s1.call? b.call with
      | some c => if b.kind = 6 then c.receives - b.rpos else b.count - b.pos
      | none => b.count - b.pos
    let m := min n left
    let per := if b.mtag.isSx then 16 else 1
    let units := (from_ + m + per - 1) / per - from_ / per
    match streamRun (bindWho s1 h b) h b b.ahead (from_ / per) units s1 with
    | (s2, .error (.trap t)) =>
      if endsBinding t.code && arrivalHeld h b s2 then (s2, .error .stall)
      else (if b.kind ≤ 5 then faultBinding h b t s2 else s2, .error (.trap t))
    | (s2, .error .stall) => (s2, .error .stall)
    | (s2, .ok raws) =>
      let rm := Rm.det (Rm.ofCode x.frm.toNat)
      let vs := raws.map (streamVal b vt rm)
      let pad := List.replicate ((n + per - 1) / per - units) 0
      (s2, .ok { tag := vt, vals := vs.map Prod.fst ++ pad, skew := from_ % per, flags := vs.foldl (fun f p => f ||| p.2) 0 })

/-- The strip that a read of a bound register delivers, with the wait of a reader that is stopped counted. -/
def boundStrip (h : Nat) (b : Binding) (n : Nat) (s : State) : State × Except Stop Strip :=
  match readStrip h b n s with
  | (s1, .error p) => (countWait h b.vt p s1, .error p)
  | r => r

/-- The positions after a completed read of n elements (R301, R424); in a ring the chunks passed are freed (R309). -/
def advance (h : Nat) (n : Nat) (b : Binding) (s : State) : State :=
  if b.kind = 6 then
    match s.call? b.call with
    | some c => setBinding h { b with rpos := min (b.rpos + n) c.receives, stall := waited s b } s.bump
    | none => s
  else
    let pos := min (b.pos + n) b.count
    let per := if b.mtag.isSx then 16 else 1
    let b' := { b with pos := pos, st := if b.count ≤ pos then (if b.st = .failed then .failed else .ended) else b.st
                       lastN := n, ahead := b.ahead.drop (pos / per - b.pos / per)
                       stall := waited s b }
    let s1 := setBinding h b' s.bump
    if b.kind = 4 ∧ b.ring ≠ 0 then
      let lo := memBytes b.mtag b.pos / b.chunk
      let hi := if b.count ≤ pos then (b.total + b.chunk - 1) / b.chunk else memBytes b.mtag pos / b.chunk
      s1.modHart h fun x => { x with mreg := x.mreg.set! b.lm ((List.range (hi - lo)).foldl (fun m j => setBit m (b.chunkBit (lo + j)) false) (x.mreg[b.lm]!)) }
    else s1

/-- What n elements of an operand register deliver: the register's own, or a strip (R130, R301). -/
def operandStrip (h ovr v n : Nat) (s : State) : State × Except Stop Strip :=
  let x := s.hart h
  match x.binding? v with
  | some b => boundStrip h b n s
  | none =>
    let t := x.opTag ovr v
    let k := if t.isSx then (n + 15) / 16 else n
    (s, .ok { tag := t, vals := (List.range k).map (x.unit v t), skew := 0, flags := 0 })

/-- The strips of a list of operand registers; a bound register that several fields name delivers one strip (R301). -/
def operandStrips (h ovr n : Nat) : List Nat → State → State × Except Stop (List Strip)
  | [], s => (s, .ok [])
  | v :: l, s =>
    match operandStrip h ovr v n s with
    | (s1, .error t) => (s1, .error t)
    | (s1, .ok x) =>
      match operandStrips h ovr n l s1 with
      | (s2, .error t) => (s2, .error t)
      | (s2, .ok xs) => (s2, .ok (x :: xs))

/-- What an instruction under element steps has kept, where the hart stands at that instruction and position. -/
def Hart.keptNow (h : Hart) : Option Kept :=
  if h.epr = 0 then none else h.kept.find? fun k => decide (k.level = h.level ∧ k.pc = h.pc ∧ k.next = h.epr.toNat)

/-- The strips of an instruction's sources: as it kept them at its last element step, else as its registers and bindings
deliver them now; under ESTEP it keeps them from now on (R109, R237). -/
def sourceStrips (ovr n : Nat) (src : List Nat) (s : State) : State × Except Stop (List Strip) :=
  match s.me.keptNow with
  | some k => (s, .ok k.strips)
  | none =>
    match operandStrips s.cur ovr n src s with
    | (s1, .error t) => (s1, .error t)
    | (s1, .ok xs) =>
      (if s1.me.elemSteps then s1.modMe fun h => h.keeps h.epr.toNat xs none else s1, .ok xs)

/-- Every bound register of a list advances by n elements, once each (R301). -/
def advanceAll (h n : Nat) (l : List Nat) (s : State) : State :=
  l.eraseDups.foldl (fun s v => match (s.hart h).binding? v with
    | some b => advance h n b s
    | none => s) s

/-! ## Writing a bound register -/

/-- The places of single bytes, in order (R150). -/
def bytePlaces (w : Who) (h sp : Nat) : List Word → State → State × Except Stop (List Place)
  | [], s => (s, .ok [])
  | a :: l, s =>
    match spacePlaces w h .store sp a 1 1 0 s with
    | (s1, .error t) => (s1, .error t)
    | (s1, .ok ps) =>
      match bytePlaces w h sp l s1 with
      | (s2, .error t) => (s2, .error t)
      | (s2, .ok qs) => (s2, .ok (ps ++ qs))

/-- A byte that a pixel shares with its neighbour: as the strip's earlier pixels leave it, else as memory holds it. -/
def sharedByte (s : State) (sent : List PStore) (l : Loc) : List Byte :=
  match sent.reverse.find? fun p => p.loc = l with
  | some p => p.data
  | none => readLoc s l 1

/-- The places of one element of a write strip, or the trap of its address (R302): element or block k of the stream. A
pixel's bytes are places of their own (R49). -/
def sendPlaces (w : Who) (h : Nat) (b : Binding) (k : Nat) (s : State) : State × Except Stop (List Place) :=
  if b.kind = 2 then
    let p := pixelAt b k
    bytePlaces w h b.sp ((List.range p.2.1).map fun j => p.1 + wd j) s
  else spacePlaces w h .store b.sp (memAddr b k) b.mtag.unitBytes (if b.mtag.isSx then 2 else b.mtag.bytes) 0 s

/-- The address of element or block k of a write strip. -/
def sendAddr (b : Binding) (k : Nat) : Word := if b.kind = 2 then (pixelAt b k).1 else memAddr b k

/-- The stores of one element of a write strip, or the trap of its address (R302): element k of the stream, its bits;
`sent` are the strip's earlier stores. A pixel is written into its group's bytes one by one (R49). -/
def sendOne (w : Who) (h : Nat) (b : Binding) (vt : Tag) (rm : Rm) (k x : Nat) (sent : List PStore) (s : State) :
    State × Except Stop (List PStore × Flags) :=
  match sendPlaces w h b k (if b.kind = 2 then settleAll h s else s) with
  | (s1, .error t) => (s1, .error t)
  | (s1, .ok ps) =>
    if b.kind = 2 then
      let p := pixelAt b k
      let width := (pixLayout (fld b.record 192 2)).1
      let c := convert vt .u16 rm true 0 x
      let v := min c.1 (2 ^ width - 1)
      let old := leNat (ps.flatMap fun q => sharedByte s1 sent q.loc)
      let new := old - nbits old p.2.2 width * 2 ^ p.2.2 + v * 2 ^ p.2.2
      (countHots w ps s1, .ok (storesOf ps (leBytes p.2.1 new), c.2 ||| (if v < c.1 then fSAT else 0)))
    else
      let c := if b.mtag.isSx then (x, 0) else convert vt b.mtag rm false 0 x
      (countHots w ps s1, .ok (storesOf ps (leBytes b.mtag.unitBytes c.1), c.2))

/-- CNT of the line of some store can rise no more, once the stores before it have performed: those of its strip and of its
own element (R173). -/
def cntOver (s : State) : List PStore → List PStore → Bool
  | _, [] => false
  | sent, p :: l =>
    (match p.loc with
      | .dev pa => cntFull s sent p.cry pa
      | _ => false) || cntOver s (sent ++ [p]) l

/-- The stores of a strip's elements below COUNT, all checked before any is sent (R302). -/
def sendAll (w : Who) (h : Nat) (b : Binding) (vt : Tag) (rm : Rm) : Nat → List (Option Nat) → List PStore → State →
    State × Except Stop (List (List PStore × Nat) × Flags)
  | _, [], _, s => (s, .ok ([], 0))
  | k, none :: l, sent, s => sendAll w h b vt rm (k + 1) l sent s
  | k, some x :: l, sent, s =>
    if b.count ≤ k * (if b.mtag.isSx then 16 else 1) then (s, .ok ([], 0))
    else
      match sendOne w h b vt rm k x sent s with
      | (s1, .error t) => (s1, .error t)
      | (s1, .ok (st, fl)) =>
        if cntOver s1 sent st then (s1, .error (accTrap .prot (sendAddr b k).toNat))
        else match sendAll w h b vt rm (k + 1) l (sent ++ st) s1 with
        | (s2, .error t) => (s2, .error t)
        | (s2, .ok (sts, fl2)) => (s2, .ok ((st, (sendAddr b k).toNat) :: sts, fl ||| fl2))

/-- The elements or blocks from k on that an instruction will send to a bound register pass the checks of their
addresses (R302). -/
def sendChecks (w : Who) (h : Nat) (b : Binding) : Nat → List Bool → State → State × Option Stop
  | _, [], s => (s, none)
  | k, false :: l, s => sendChecks w h b (k + 1) l s
  | k, true :: l, s =>
    if b.count ≤ k * (if b.mtag.isSx then 16 else 1) then (s, none)
    else
      match sendPlaces w h b k s with
      | (s1, .error t) => (s1, some t)
      | (s1, .ok _) => sendChecks w h b (k + 1) l s1

/-- A strip for a bound destination can be accepted (R111, R302): checked before any element; `acts` says which elements
or blocks will be sent. -/
def stripAccepted (b : Binding) (acts : List Bool) (s : State) : State × Option Stop :=
  if b.kind = 6 then (s, none)
  else if b.count ≤ b.pos then (s, some (.trap (streamTrap 7 0)))
  else sendChecks (vecWho s s.cur) s.cur b (b.pos / (if b.mtag.isSx then 16 else 1)) acts s

/-- Whether a bound register can take a strip: not ENDED, and room among the 4 strips (R302, R305): the oldest strip
performs first when there is none. -/
def strips (h vt : Nat) (s : State) : List Nat :=
  ((s.hart h).pend.filterMap fun p => match p.strip with
    | some (v, n) => if v = vt then some n else none
    | none => none).eraseDups

/-- The hart's oldest write strip of a binding performs, with every store accepted before it (R305, R337). -/
def performStrip (h vt : Nat) (s : State) : State :=
  match strips h vt s with
  | [] => s
  | n :: _ =>
    let upto := ((s.hart h).pend.zipIdx.foldl (fun k p => if p.1.strip = some (vt, n) then p.2 + 1 else k) 0)
    settleN h upto s

/-- Sending a strip of a COLL binding: the call keeps the contributed elements (R424, R431), which its engine sends on; the
writer may wait for buffer room (R305). -/
def sendCall (h : Nat) (b : Binding) (n : Nat) (outs : List (Option Nat)) (s : State) : State :=
  match s.call? b.call with
  | none => s
  | some c =>
    if c.st = .aborted then s
    else
      let fill := if c.kindc ≤ 1 then identityOf c.op c.mtag else 0
      let vals := (outs.take (c.contributes - b.pos)).map fun o => BitVec.ofNat 64 (o.getD fill)
      let s1 := s.setCall { c with sent := c.sent ++ vals }
      setBinding h { b with pos := min (b.pos + n) c.contributes, stall := waited s1 b } s1.bump

/-- Writing a strip of n elements under a tag to a bound register (R302): the strip's elements in order, `none` for a
skipped one. -/
def sendStrip (h : Nat) (b : Binding) (vt : Tag) (n : Nat) (outs : List (Option Nat)) (s : State) :
    State × Except Stop Flags :=
  if b.kind = 6 then (sendCall h b n outs s, .ok 0)
  else if b.count ≤ b.pos then (s, .error (.trap (streamTrap 7 0)))
  else
    let x := s.hart h
    let rm := Rm.det (Rm.ofCode x.frm.toNat)
    let per := if b.mtag.isSx then 16 else 1
    match sendAll (vecWho s h) h b vt rm (b.pos / per) outs [] s with
    | (s1, .error t) => (s1, .error t)
    | (s1, .ok (sts, fl)) =>
      let full := decide (4 ≤ (strips h b.vt s1).length)
      let s2 := if full then performStrip h b.vt s1 else s1
      let own := (s2.hart h).pend.length
      let s3 := sts.foldl (fun s p =>
        acceptStores h false (some own) (p.1.map fun q => { q with strip := some (b.vt, b.sent) }) p.2 s) s2
      let pos := min (b.pos + n) b.count
      (setBinding h { b with pos := pos, sent := b.sent + 1, st := if b.count ≤ pos then .ended else b.st
                             stall := if full then waited s3 b else b.stall } s3.bump, .ok fl)

end Sys2Proof.Machine
end

