-- ==== Sys2Proof/Machine/Scalar.lean ====
section
/-!
DEFINITION. The scalar integer instructions: R90 to R96. Each writes SD and completes.
-/
namespace Sys2Proof.Machine

open Sys2Proof

/-- An instruction that completes with SR[SD] := v (R90). -/
def writeSd (sd : BitVec 6) (v : Word) (s : State) : State := retire (s.setSr sd v)

/-- A register–register instruction of format S: g of SR[SA], SR[SB] and SR[SC] (R92 to R95). -/
def aluS (f : FmtS) (g : Word → Word → Word → Word) (s : State) : State :=
  writeSd f.sd (g (s.sr f.sa) (s.sr f.sb) (s.sr f.sc)) s

/-- An immediate instruction of format I: g of SR[SA] (R96). -/
def aluI (f : FmtI) (g : Word → Word) (s : State) : State := writeSd f.sd (g (s.sr f.sa)) s

/-- The sign-extended immediate (R69, R96). -/
def immOf (f : FmtI) : Word := f.imm.signExtend 64

/-- 1 or 0 (R95). -/
def truth (b : Bool) : Word := if b then 1 else 0

/-- The hart with flags raised (R54). -/
def raise (fl : Flags) (s : State) : State := if fl = 0 then s else s.modMe fun h => { h with fflags := h.fflags ||| fl }

/-- A division or remainder: `onZero` and DZ for b = 0, else g of a and b (R93, R57). -/
def divide (f : FmtS) (onZero : Word → Word) (g : Word → Word → Word) (s : State) : State :=
  let a := s.sr f.sa
  let b := s.sr f.sb
  if b = 0 then retire (raise fDZ (s.setSr f.sd (onZero a))) else writeSd f.sd (g a b) s

/-- `ADD` (R92): a + b. -/
def execAdd (f : FmtS) (s : State) : Host.Outcome State Fault Refusal := .next (aluS f (fun a b _ => a + b) s)

/-- `SUB` (R92): a − b. -/
def execSub (f : FmtS) (s : State) : Host.Outcome State Fault Refusal := .next (aluS f (fun a b _ => a - b) s)

/-- `AND` (R92): a AND b. -/
def execAndS (f : FmtS) (s : State) : Host.Outcome State Fault Refusal := .next (aluS f (fun a b _ => a &&& b) s)

/-- `OR` (R92): a OR b. -/
def execOrS (f : FmtS) (s : State) : Host.Outcome State Fault Refusal := .next (aluS f (fun a b _ => a ||| b) s)

/-- `XOR` (R92): a XOR b. -/
def execXorS (f : FmtS) (s : State) : Host.Outcome State Fault Refusal := .next (aluS f (fun a b _ => a ^^^ b) s)

/-- `ANDN` (R92): a AND NOT b. -/
def execAndn (f : FmtS) (s : State) : Host.Outcome State Fault Refusal := .next (aluS f (fun a b _ => a &&& ~~~b) s)

/-- `MIN` (R92): the smaller, signed. -/
def execMinS (f : FmtS) (s : State) : Host.Outcome State Fault Refusal := .next (aluS f (fun a b _ => if a.slt b then a else b) s)

/-- `MAX` (R92): the larger, signed. -/
def execMaxS (f : FmtS) (s : State) : Host.Outcome State Fault Refusal := .next (aluS f (fun a b _ => if a.slt b then b else a) s)

/-- `MINU` (R92): the smaller, unsigned. -/
def execMinu (f : FmtS) (s : State) : Host.Outcome State Fault Refusal := .next (aluS f (fun a b _ => if a.ult b then a else b) s)

/-- `MAXU` (R92): the larger, unsigned. -/
def execMaxu (f : FmtS) (s : State) : Host.Outcome State Fault Refusal := .next (aluS f (fun a b _ => if a.ult b then b else a) s)

/-- `SEL` (R92): a when c ≠ 0, else b. -/
def execSel (f : FmtS) (s : State) : Host.Outcome State Fault Refusal := .next (aluS f (fun a b c => if c = 0 then b else a) s)

/-- `LEA` (R92): a + (b << k), k the literal of SC. -/
def execLea (f : FmtS) (s : State) : Host.Outcome State Fault Refusal := .next (aluS f (fun a b _ => a + b <<< f.sc.toNat) s)

/-- `MUL` (R93): bits [63:0] of a × b. -/
def execMul (f : FmtS) (s : State) : Host.Outcome State Fault Refusal := .next (aluS f (fun a b _ => a * b) s)

/-- `MULH` (R93): bits [127:64] of a × b, signed. -/
def execMulh (f : FmtS) (s : State) : Host.Outcome State Fault Refusal := .next (aluS f (fun a b _ => wi (a.toInt * b.toInt / 2 ^ 64)) s)

/-- `MULHU` (R93): bits [127:64] of a × b, unsigned. -/
def execMulhu (f : FmtS) (s : State) : Host.Outcome State Fault Refusal := .next (aluS f (fun a b _ => wd (a.toNat * b.toNat / 2 ^ 64)) s)

/-- `MADD` (R93): bits [63:0] of a × b + c. -/
def execMadd (f : FmtS) (s : State) : Host.Outcome State Fault Refusal := .next (aluS f (fun a b c => a * b + c) s)

/-- `SHL` (R94): a << b[5:0]. -/
def execShl (f : FmtS) (s : State) : Host.Outcome State Fault Refusal := .next (aluS f (fun a b _ => a <<< (b.toNat % 64)) s)

/-- `SHR` (R94): a >> b[5:0], with zeros. -/
def execShr (f : FmtS) (s : State) : Host.Outcome State Fault Refusal := .next (aluS f (fun a b _ => a >>> (b.toNat % 64)) s)

/-- `SRA` (R94): a >> b[5:0], with a[63]. -/
def execSra (f : FmtS) (s : State) : Host.Outcome State Fault Refusal := .next (aluS f (fun a b _ => a.sshiftRight (b.toNat % 64)) s)

/-- `ROL` (R94): a rotated left by b[5:0]. -/
def execRol (f : FmtS) (s : State) : Host.Outcome State Fault Refusal := .next (aluS f (fun a b _ => a.rotateLeft (b.toNat % 64)) s)

/-- `CLZ` (R94): leading zero bits of a. -/
def execClz (f : FmtS) (s : State) : Host.Outcome State Fault Refusal := .next (aluS f (fun a _ _ => wd (leadZeros 64 a.toNat)) s)

/-- `CTZ` (R94): trailing zero bits of a. -/
def execCtz (f : FmtS) (s : State) : Host.Outcome State Fault Refusal := .next (aluS f (fun a _ _ => wd (trailZeros 64 a.toNat)) s)

/-- `POPC` (R94): one bits of a. -/
def execPopc (f : FmtS) (s : State) : Host.Outcome State Fault Refusal := .next (aluS f (fun a _ _ => wd (popCount a)) s)

/-- `SEXT` (R94): a with bits above n equal to a[n], n = b[5:0]. -/
def execSext (f : FmtS) (s : State) : Host.Outcome State Fault Refusal := .next (aluS f (fun a b _ => wi (signed (b.toNat % 64 + 1) a.toNat)) s)

/-- `ZEXT` (R94): a with bits above n cleared, n = b[5:0]. -/
def execZext (f : FmtS) (s : State) : Host.Outcome State Fault Refusal := .next (aluS f (fun a b _ => wd (a.toNat % 2 ^ (b.toNat % 64 + 1))) s)

/-- `SLT` (R95): 1 when a < b, signed. -/
def execSlt (f : FmtS) (s : State) : Host.Outcome State Fault Refusal := .next (aluS f (fun a b _ => truth (a.slt b)) s)

/-- `SLTU` (R95): 1 when a < b, unsigned. -/
def execSltu (f : FmtS) (s : State) : Host.Outcome State Fault Refusal := .next (aluS f (fun a b _ => truth (a.ult b)) s)

/-- `SEQ` (R95): 1 when a = b. -/
def execSeq (f : FmtS) (s : State) : Host.Outcome State Fault Refusal := .next (aluS f (fun a b _ => truth (a == b)) s)

/-- `SNE` (R95): 1 when a ≠ b. -/
def execSne (f : FmtS) (s : State) : Host.Outcome State Fault Refusal := .next (aluS f (fun a b _ => truth (a != b)) s)

/-- `DIV` (R93): signed quotient, truncated toward zero; all ones for b = 0. -/
def execDiv (f : FmtS) (s : State) : Host.Outcome State Fault Refusal := .next (divide f (fun _ => ones) (fun a b => a.sdiv b) s)

/-- `DIVU` (R93): unsigned quotient; all ones for b = 0. -/
def execDivu (f : FmtS) (s : State) : Host.Outcome State Fault Refusal := .next (divide f (fun _ => ones) (fun a b => a / b) s)

/-- `REM` (R93): signed remainder with the sign of a; a for b = 0. -/
def execRem (f : FmtS) (s : State) : Host.Outcome State Fault Refusal := .next (divide f id (fun a b => a.srem b) s)

/-- `REMU` (R93): unsigned remainder; a for b = 0. -/
def execRemu (f : FmtS) (s : State) : Host.Outcome State Fault Refusal := .next (divide f id (fun a b => a % b) s)

/-- `ADDI` (R96): a + i. -/
def execAddi (f : FmtI) (s : State) : Host.Outcome State Fault Refusal := .next (aluI f (fun a => a + immOf f) s)

/-- `ANDI` (R96): a AND i. -/
def execAndi (f : FmtI) (s : State) : Host.Outcome State Fault Refusal := .next (aluI f (fun a => a &&& immOf f) s)

/-- `ORI` (R96): a OR i. -/
def execOri (f : FmtI) (s : State) : Host.Outcome State Fault Refusal := .next (aluI f (fun a => a ||| immOf f) s)

/-- `XORI` (R96): a XOR i. -/
def execXori (f : FmtI) (s : State) : Host.Outcome State Fault Refusal := .next (aluI f (fun a => a ^^^ immOf f) s)

/-- `SHLI` (R96): a << IMM44[5:0]. -/
def execShli (f : FmtI) (s : State) : Host.Outcome State Fault Refusal := .next (aluI f (fun a => a <<< (f.imm.toNat % 64)) s)

/-- `SHRI` (R96): a >> IMM44[5:0], with zeros. -/
def execShri (f : FmtI) (s : State) : Host.Outcome State Fault Refusal := .next (aluI f (fun a => a >>> (f.imm.toNat % 64)) s)

/-- `SRAI` (R96): a >> IMM44[5:0], with a[63]. -/
def execSrai (f : FmtI) (s : State) : Host.Outcome State Fault Refusal := .next (aluI f (fun a => a.sshiftRight (f.imm.toNat % 64)) s)

/-- `LI` (R96): i. -/
def execLi (f : FmtI) (s : State) : Host.Outcome State Fault Refusal := .next (aluI f (fun _ => immOf f) s)

/-- `LIH` (R96): (IMM44[19:0] << 44) OR a[43:0]. -/
def execLih (f : FmtI) (s : State) : Host.Outcome State Fault Refusal := .next (aluI f (fun a => wd (f.imm.toNat % 2 ^ 20 * 2 ^ 44 + a.toNat % 2 ^ 44)) s)

/-- `SLTI` (R96): 1 when a < i, signed. -/
def execSlti (f : FmtI) (s : State) : Host.Outcome State Fault Refusal := .next (aluI f (fun a => truth (a.slt (immOf f))) s)

/-- `SLTIU` (R96): 1 when a < i, unsigned. -/
def execSltiu (f : FmtI) (s : State) : Host.Outcome State Fault Refusal := .next (aluI f (fun a => truth (a.ult (immOf f))) s)

end Sys2Proof.Machine
end

