-- ==== Sys2Proof/Machine/VecRun.lean ====
section
/-!
DEFINITION. How an explicit vector instruction runs: the checks of R111 in their order, its strips (R301, R302), the
elements under the mask (R108, R109), the draws of RSTO (R52), the flags (R55), and element steps (R237).
-/
namespace Sys2Proof.Machine

open Sys2Proof

/-- A refused operand tag (R111). -/
def badTag (t : Tag) (pos : Nat) : Option Trap := some (tagTrap t pos false)

/-- The trap of the first of a list of tags, at positions from `p` on, that a test refuses (R111). -/
def refuseFrom (bad : Tag → Bool) : Nat → List Tag → Option Trap
  | _, [] => none
  | p, t :: ts => if bad t then badTag t p else refuseFrom bad (p + 1) ts

/-- The trap of the first operand tag that a test refuses; the destination has position 0 (R39) and is looked at first, an
order that R111 does not give (DESIGN CHOICE, notes/assumptions/14.md). -/
def refuseAny (bad : Tag → Bool) (tags : List Tag) : Option Trap := refuseFrom bad 0 tags

/-- Tags with their positions, as `capCheck` takes them. -/
def withPos (tags : List Tag) : List (Tag × Nat) := tags.zipIdx

/-- A tag that arithmetic and logic refuse (R44, R113). -/
def Tag.packed (t : Tag) : Bool := t.isSx || t = .kx

/-- The checks of R111 before the strips: bindings (R303), tags, lengths. -/
def vecChecks (s : State) (ovr : Nat) (dst src : List Nat) (refused : Option Trap) (caps : List (Tag × Nat)) :
    Option Trap :=
  let h := s.me
  firstTrap (dst.map (writeRefused s h ovr false) ++ src.map (readRefused s h ovr h.len)
    ++ [refused, capCheck s caps])

/-- A vector instruction up to its strips: `epr` at or beyond VL completes it (R230), the checks of R111, then `body`
on what its sources deliver; with VL = 0 they deliver nothing and no strip is consumed (R108). One that goes on after an
element step has passed its checks. -/
def vecGo (ovr : Nat) (dst src : List Nat) (refused : Option Trap) (caps : List (Tag × Nat))
    (body : List Strip → State → State) (s : State) : State :=
  if s.me.epr ≠ 0 ∧ s.me.len ≤ s.me.epr.toNat then retireVec s
  else
    match (if s.me.keptNow.isSome then none else vecChecks s ovr dst src refused caps) with
    | some t => takeTrap t s
    | none =>
      if s.me.len = 0 then body (src.map fun v => { tag := s.me.opTag ovr v, vals := [], skew := 0, flags := 0 }) s
      else
        match sourceStrips ovr s.me.len src s with
        | (s1, .error t) => stopAt t s1
        | (s1, .ok xs) => body xs s1

/-- A strip's elements with their tag: the sixteen elements of an sx block as f32 bits, exactly (R46). -/
def Strip.flat (x : Strip) : Tag × List Nat :=
  if x.tag.isSx then
    (.f32, (x.vals.flatMap fun b => (List.range 16).map fun i =>
      ((Tag.ffmt .f32).round .rne false 0 (sxElem x.tag b i)).1).drop x.skew)
  else (x.tag, x.vals)

/-- The flags of the strips' conversions (R301). -/
def stripFlags (xs : List Strip) : Flags := xs.foldl (fun f x => f ||| x.flags) 0

/-- The elements of one 8-byte group, or of one block, of a tag (R23, R237). -/
def Tag.groupLen (t : Tag) : Nat := if t.isSx then 16 else 8 / t.bytes

/-- The positions that one step covers: from `epr` to VL, or under ESTEP one group of `g` (R237). -/
def Hart.windowBy (h : Hart) (g : Nat) : Nat × Nat :=
  let e0 := h.epr.toNat
  (e0, if h.elemSteps then min h.len ((e0 / g + 1) * g) else h.len)

/-- The positions that one step covers of elements of a tag. -/
def Hart.window (h : Hart) (td : Tag) : Nat × Nat := h.windowBy td.groupLen

/-- Writing units of a register from unit `i` on; `none` leaves a unit unchanged. -/
def Hart.setUnits (v : Nat) (t : Tag) : Nat → List (Option Nat) → Hart → Hart
  | _, [], h => h
  | i, none :: l, h => Hart.setUnits v t (i + 1) l h
  | i, some x :: l, h => Hart.setUnits v t (i + 1) l (h.setUnit v t i x)

/-- The end of a step of a vector instruction at position `e1`: below VL a STEP stop, which keeps the results `outs` for a
bound destination; else it completes, with the flags of its strips, and each bound source advances (R301, R237; DEDUCED,
notes/assumptions/23.md). -/
def vecEnd (e1 : Nat) (src : List Nat) (strips : Flags) (outs : List (Option Nat)) (s : State) : State :=
  if e1 < s.me.len then stopInside e1 outs s
  else retireVec (raise strips (if s.me.len = 0 then s else advanceAll s.cur s.me.len src s))

/-- How a step of a vector instruction ends: its window's end, its bound sources, and the flags of their strips. -/
structure VecEnd where
  e1     : Nat
  src    : List Nat
  strips : Flags

/-- Units `outs` from unit `i` on go to VD, with their flags and what `fin` changes. A bound VD takes the whole result as one
strip when the instruction completes (R302); `acts` says which of its units will be sent, which is checked first. -/
def vecWrite (vd : Nat) (td : Tag) (i : Nat) (outs : List (Option Nat)) (acts : List Bool) (fl : Flags)
    (fin : Hart → Hart) (w : VecEnd) (s : State) : State :=
  let own : State → State := fun s =>
    vecEnd w.e1 w.src w.strips [] (raise fl (s.modMe fun h => fin (h.setUnits vd td i outs)))
  match s.me.binding? vd with
  | none => own s
  | some b =>
    if s.me.len = 0 then own s
    else if w.e1 < s.me.len then
      match (if i = 0 then stripAccepted b acts s else (s, none)) with
      | (s1, some t) => stopAt t s1
      | (s1, none) => vecEnd w.e1 w.src w.strips outs (raise fl (s1.modMe fin))
    else
      let before := match s.me.keptNow with
        | some k => k.outs
        | none => []
      match sendStrip s.cur b td s.me.len (List.replicate (i - before.length) none ++ before ++ outs) s with
      | (s1, .error t) => stopAt t s1
      | (s1, .ok f2) => vecEnd w.e1 w.src w.strips [] (raise (fl ||| f2) (s1.modMe fin))

/-- The units of a step's window of a result that is computed whole from its sources: each with the flags that it raises as
it retires (R55); what `fin` changes comes with the last. -/
def vecWhole (vd : Nat) (td : Tag) (outs : List (Option Nat)) (fls : List Flags) (strips : Flags) (fin : Hart → Hart)
    (src : List Nat) (s : State) : State :=
  let w := s.me.window td
  let per := if td.isSx then 16 else 1
  let i := w.1 / per
  let j := (w.2 + per - 1) / per
  vecWrite vd td i ((outs.take j).drop i) (outs.map Option.isSome)
    (((fls.take j).drop i).foldl (fun f x => f ||| x) 0) (if w.2 = s.me.len then fin else id)
    { e1 := w.2, src := src, strips := strips } s

/-- The results of elements from `e` on (R108), with the flags and the generator after them: `fn` gives an active
element from its draw and index; an inactive one is zeroed under Z. -/
def elemResults (active : Nat → Bool) (z draws : Bool) (fn : Nat → Nat → Nat × Flags) :
    Nat → Nat → Word → List (Option Nat) × Flags × Word
  | 0, _, seed => ([], 0, seed)
  | n + 1, e, seed =>
    if active e then
      let seed' := if draws then seedNext seed else seed
      let r := fn (fld seed' 48 16) e
      let m := elemResults active z draws fn n (e + 1) seed'
      (some r.1 :: m.1, r.2 ||| m.2.1, m.2.2)
    else
      let m := elemResults active z draws fn n (e + 1) seed
      ((if z then some 0 else none) :: m.1, m.2.1, m.2.2)

/-- Sixteen values of a block from element `e` on, each with its draw; inactive ones are +0 without a draw (R127). -/
def blockValues (active : Nat → Bool) (draws : Bool) (fn : Nat → FVal × Flags) :
    Nat → Nat → Word → List (FVal × Nat) × Flags × Word
  | 0, _, seed => ([], 0, seed)
  | n + 1, e, seed =>
    if active e then
      let seed' := if draws then seedNext seed else seed
      let r := fn e
      let m := blockValues active draws fn n (e + 1) seed'
      ((r.1, fld seed' 48 16) :: m.1, r.2 ||| m.2.1, m.2.2)
    else
      let m := blockValues active draws fn n (e + 1) seed
      ((FVal.zero false, 0) :: m.1, m.2.1, m.2.2)

/-- The results of `n` blocks from block `b` on (R48, R127). -/
def blockResults (t : Tag) (rm : Rm) (active : Nat → Bool) (z : Bool) (fn : Nat → FVal × Flags) :
    Nat → Nat → Word → List (Option Nat) × Flags × Word
  | 0, _, seed => ([], 0, seed)
  | n + 1, b, seed =>
    if (List.range 16).any fun i => active (16 * b + i) then
      let v := blockValues active (rm = .rsto) fn 16 (16 * b) seed
      let q := sxQuantise t rm v.1
      let m := blockResults t rm active z fn n (b + 1) v.2.2
      (some q.1 :: m.1, v.2.1 ||| q.2 ||| m.2.1, m.2.2)
    else
      let m := blockResults t rm active z fn n (b + 1) seed
      ((if z then some 0 else none) :: m.1, m.2.1, m.2.2)

/-- The active elements below VL of the hart under a mask register (R108). -/
def Hart.active (h : Hart) (msk : Nat) (e : Nat) : Bool := decide (e < h.len) && (h.mask msk).getLsbD e

/-- An elementwise instruction: its sources in position order, which of them the modifier takes, and what it does with
the elements of one index. -/
structure Elementwise where
  src     : List Nat
  modAt   : Option Nat
  refused : Option Trap
  draws   : Bool
  fn      : Nat → List (Tag × Nat) → Nat × Flags

/-- The sources' elements by column, VB as the modifier delivers it (R129). -/
def columns (m vl : Nat) (modAt : Option Nat) (xs : List Strip) : List (Tag × List Nat) :=
  xs.zipIdx.map fun p =>
    let c := p.1.flat
    if modAt = some p.2 then (c.1, modified m vl c.2) else c

/-- The elements at one index. -/
def rowAt (cols : List (Tag × List Nat)) (e : Nat) : List (Tag × Nat) := cols.map fun c => (c.1, c.2.getD e 0)

/-- Running an elementwise instruction whose destination is not sx (R117). -/
def runElementwise (f : FmtV) (d : Elementwise) (s : State) : State :=
  let vd := f.vd.toNat
  let ovr := f.ovr.toNat
  let td := s.me.opTag ovr vd
  let tags := d.src.map (s.me.opTag ovr)
  vecGo ovr [vd] d.src d.refused (withPos (td :: tags)) (fun xs s =>
    let h := s.me
    let cols := columns f.mod.toNat h.len d.modAt xs
    let w := h.window td
    let r := elemResults (h.active f.msk.toNat) (f.z = 1) d.draws (fun u e => d.fn u (rowAt cols e)) (w.2 - w.1) w.1
      h.seed
    vecWrite vd td w.1 r.1 ((List.range h.len).map fun e => decide (f.z = 1) || h.active f.msk.toNat e) r.2.1
      (fun h => { h with seed := r.2.2 }) { e1 := w.2, src := d.src, strips := stripFlags xs } s) s

end Sys2Proof.Machine
end

