-- ==== Sys2Proof/Machine/VArith.lean ====
section
/-!
DEFINITION. Major 0x40, vector arithmetic: R117 to R121. Each instruction is its function of R118 under one scheme.
-/
namespace Sys2Proof.Machine

open Sys2Proof

/-- The promoted type of the sources' tags (R59); f32 where they have none. -/
def workTag (tags : List Tag) : Tag :=
  match promoteAll tags with
  | .ok (t, _) => t
  | .error _ => .f32

/-- What the entry of an arithmetic function refuses: kx and sx operands, then the promoted type (R111, R118). -/
def refuseArith (op : AOp) (td : Tag) (tags : List Tag) : Option Trap :=
  match refuseAny Tag.packed (td :: tags) with
  | some t => some t
  | none =>
    match promoteAll tags with
    | .ok (t, p) => if op.accepts t then none else badTag t p
    | .error (t, p) => badTag t p

/-- The vector sources of format V that `n` operands name: VA, VB, VC (R118). -/
def FmtV.sources (f : FmtV) (n : Nat) : List Nat := [f.va.toNat, f.vb.toNat, f.vc.toNat].take n

/-- An arithmetic instruction of `n` sources (R117, R118). -/
def arith (op : AOp) (n : Nat) (f : FmtV) (s : State) : State :=
  let src := FmtV.sources f n
  let td := s.me.opTag f.ovr.toNat f.vd.toNat
  let tags := src.map (s.me.opTag f.ovr.toNat)
  let t := workTag tags
  let rm := s.me.rmOf f.rm.toNat
  runElementwise f
    { src := src, modAt := some 1, refused := refuseArith op td tags, draws := false
      fn := fun _ xs => elemArith op t td rm (f.sat = 1) xs } s

/-- `VADD` (R118: a + b). -/
def execVadd (f : FmtV) (s : State) : Host.Outcome State Fault Refusal := .next (arith .add 2 f s)

/-- `VSUB` (R118: a − b). -/
def execVsub (f : FmtV) (s : State) : Host.Outcome State Fault Refusal := .next (arith .sub 2 f s)

/-- `VMUL` (R118: a × b). -/
def execVmul (f : FmtV) (s : State) : Host.Outcome State Fault Refusal := .next (arith .mul 2 f s)

/-- `VMULH` (R118: the upper half of the exact product). -/
def execVmulh (f : FmtV) (s : State) : Host.Outcome State Fault Refusal := .next (arith .mulh 2 f s)

/-- `VDIV` (R118, R57: a / b). -/
def execVdiv (f : FmtV) (s : State) : Host.Outcome State Fault Refusal := .next (arith .div 2 f s)

/-- `VREM` (R118, R57: the remainder). -/
def execVrem (f : FmtV) (s : State) : Host.Outcome State Fault Refusal := .next (arith .rem 2 f s)

/-- `VMIN` (R118: the smaller value). -/
def execVmin (f : FmtV) (s : State) : Host.Outcome State Fault Refusal := .next (arith .min 2 f s)

/-- `VMAX` (R118: the larger value). -/
def execVmax (f : FmtV) (s : State) : Host.Outcome State Fault Refusal := .next (arith .max 2 f s)

/-- `VABS` (R118: the magnitude). -/
def execVabs (f : FmtV) (s : State) : Host.Outcome State Fault Refusal := .next (arith .abs 1 f s)

/-- `VNEG` (R118: −a). -/
def execVneg (f : FmtV) (s : State) : Host.Outcome State Fault Refusal := .next (arith .neg 1 f s)

/-- `VABSD` (R118: |a − b|). -/
def execVabsd (f : FmtV) (s : State) : Host.Outcome State Fault Refusal := .next (arith .absd 2 f s)

/-- `VAVG` (R118: (a + b) / 2). -/
def execVavg (f : FmtV) (s : State) : Host.Outcome State Fault Refusal := .next (arith .avg 2 f s)

/-- `VFMA` (R118: a × b + c). -/
def execVfma (f : FmtV) (s : State) : Host.Outcome State Fault Refusal := .next (arith .fma 3 f s)

/-- `VFMS` (R118: a × b − c). -/
def execVfms (f : FmtV) (s : State) : Host.Outcome State Fault Refusal := .next (arith .fms 3 f s)

/-- `VFNMA` (R118: c − a × b). -/
def execVfnma (f : FmtV) (s : State) : Host.Outcome State Fault Refusal := .next (arith .fnma 3 f s)

/-- `VCLAMP` (R118: a clamped to the bounds b and c). -/
def execVclamp (f : FmtV) (s : State) : Host.Outcome State Fault Refusal := .next (arith .clamp 3 f s)

/-- `VSQRT` (R119: the square root). -/
def execVsqrt (f : FmtV) (s : State) : Host.Outcome State Fault Refusal := .next (arith .sqrt 1 f s)

/-- `VEXP2` (R119: 2^a). -/
def execVexp2 (f : FmtV) (s : State) : Host.Outcome State Fault Refusal := .next (arith .exp2 1 f s)

/-- `VLOG2` (R119: log2 a). -/
def execVlog2 (f : FmtV) (s : State) : Host.Outcome State Fault Refusal := .next (arith .log2 1 f s)

/-- `VRCPE` (R120: the reciprocal estimate). -/
def execVrcpe (f : FmtV) (s : State) : Host.Outcome State Fault Refusal := .next (arith .rcpe 1 f s)

/-- `VRCPS` (R121: 2 − a × b). -/
def execVrcps (f : FmtV) (s : State) : Host.Outcome State Fault Refusal := .next (arith .rcps 2 f s)

/-- `VRSQE` (R120: the reciprocal square root estimate). -/
def execVrsqe (f : FmtV) (s : State) : Host.Outcome State Fault Refusal := .next (arith .rsqe 1 f s)

/-- `VRSQS` (R121: (3 − a × b × b) / 2). -/
def execVrsqs (f : FmtV) (s : State) : Host.Outcome State Fault Refusal := .next (arith .rsqs 2 f s)

end Sys2Proof.Machine
end

