-- ==== Sys2Proof/Machine/CrossLane.lean ====
section
/-!
DEFINITION. Major 0x44, the cross-lane instructions: R131 to R136, with the reductions of R60 and the scans of R62.
-/
namespace Sys2Proof.Machine

open Sys2Proof

/-- What a copying instruction refuses: sx operands, then a source of another width than VD's (R131). -/
def refuseCopy (td : Tag) (src : Option Tag) : Option Trap :=
  firstTrap
    [if td.isSx then badTag td 0 else none,
     match src with
     | some t => if t.isSx || decide (t.width ≠ td.width) then badTag t 1 else none
     | none => none]

/-- What each element receives: an active one what `g` gives, an inactive one zero under Z, else nothing (R108). -/
def governed (h : Hart) (f : FmtV) (g : Nat → Option Nat) : List (Option Nat) :=
  (List.range h.len).map fun e => if h.active f.msk.toNat e then g e else if f.z = 1 then some 0 else none

/-- The active elements below VL in ascending order. -/
def Hart.activeList (h : Hart) (msk : Nat) : List Nat := (List.range h.len).filter fun e => h.active msk e

/-- The flags of each element below VL, which an inactive one does not raise (R55). -/
def Hart.raised (h : Hart) (msk : Nat) (g : Nat → Flags) : List Flags :=
  (List.range h.len).map fun e => if h.active msk e then g e else 0

/-- The elements of the only vector source. -/
def only (xs : List Strip) : List Nat := (xs.headD { tag := .u8, vals := [], skew := 0, flags := 0 }).vals

/-- What `VRED` and `VSCAN` refuse (R131, R132). -/
def refuseReduce (op : Nat) (td ta : Tag) : Option Trap :=
  firstTrap [refuseAny Tag.packed [td, ta], if 4 ≤ op ∧ ta.isInt = false then badTag ta 1 else none]

/-- `VRED` (R132): the pairwise tree of R60 to element 0. -/
def execVred (f : FmtV) (s : State) : Host.Outcome State Fault Refusal :=
  let vd := f.vd.toNat
  let va := f.va.toNat
  let td := s.me.opTag f.ovr.toNat vd
  let ta := s.me.opTag f.ovr.toNat va
  let op := f.vc.toNat % 8
  let rm := s.me.rmOf f.rm.toNat
  .next (vecGo f.ovr.toNat [vd] [va] (refuseReduce op td ta) (withPos [td, ta]) (fun xs s =>
    let h := s.me
    let vals := (only xs).zipIdx.map fun p => if h.active f.msk.toNat p.2 then p.1 else identityOf op ta
    let r := treeOf op ta rm (f.sat = 1) vals
    let y := roundTo ta td rm (f.sat = 1) 0 r.1
    let outs := if h.len = 0 then [] else some y.1 :: List.replicate (h.len - 1) none
    vecWrite vd td 0 outs (outs.map Option.isSome) (if h.len = 0 then 0 else r.2 ||| y.2) id
      { e1 := h.len, src := [va], strips := stripFlags xs } s) s)

/-- The running values of a scan from element `e` on (R133): what each element receives with its flags, and the last
value. -/
def scanRun (op : Nat) (t td : Tag) (rm : Rm) (sat : Bool) (active : Nat → Bool) (z : Bool) :
    Nat → Nat → List Nat → List (Option Nat × Flags) × Nat
  | _, run, [] => ([], run)
  | e, run, x :: xs =>
    if active e then
      let r := combine op t rm sat run x
      let y := convert t td rm sat 0 r.1
      let m := scanRun op t td rm sat active z (e + 1) r.1 xs
      ((some y.1, r.2 ||| y.2) :: m.1, m.2)
    else
      let m := scanRun op t td rm sat active z (e + 1) run xs
      ((if z then some 0 else none, 0) :: m.1, m.2)

/-- `VSCAN` (R133): the inclusive scan, from `carry` and back to it when C = 1. -/
def execVscan (f : FmtV) (s : State) : Host.Outcome State Fault Refusal :=
  let vd := f.vd.toNat
  let va := f.va.toNat
  let td := s.me.opTag f.ovr.toNat vd
  let ta := s.me.opTag f.ovr.toNat va
  let op := f.vc.toNat % 8
  let c := decide (8 ≤ f.vc.toNat)
  let rm := s.me.rmOf f.rm.toNat
  .next (vecGo f.ovr.toNat [vd] [va] (refuseReduce op td ta) (withPos [td, ta]) (fun xs s =>
    let h := s.me
    let run := if c then h.carry.toNat % 2 ^ ta.width else identityOf op ta
    let r := scanRun op ta td rm (f.sat = 1) (h.active f.msk.toNat) (f.z = 1) 0 run (only xs)
    vecWhole vd td (r.1.map Prod.fst) (r.1.map Prod.snd) (stripFlags xs)
      (fun h => if c then { h with carry := wd r.2 } else h) [va] s) s)

/-- `VPERM` (R134): element x of VA, x the element of VB; zero beyond VL. -/
def execVperm (f : FmtV) (s : State) : Host.Outcome State Fault Refusal :=
  let vd := f.vd.toNat
  let src := FmtV.sources f 2
  let td := s.me.opTag f.ovr.toNat vd
  let tags := src.map (s.me.opTag f.ovr.toNat)
  let tb := tags.getD 1 .u8
  let refused := firstTrap [refuseCopy td tags.head?, if tb.isInt then none else badTag tb 2]
  .next (vecGo f.ovr.toNat [vd] src refused (withPos (td :: tags)) (fun xs s =>
    let h := s.me
    let a := only xs
    let b := only (xs.drop 1)
    vecWhole vd td (governed h f fun e =>
      let x := b.getD e 0
      some (if x < h.len then a.getD x 0 else 0)) [] (stripFlags xs) id src s) s)

/-- An instruction that places elements of VA (R134, R135): `g` gives what each element of VD receives. -/
def placed (f : FmtV) (g : Hart → List Nat → List (Option Nat)) (s : State) : State :=
  let vd := f.vd.toNat
  let va := f.va.toNat
  let td := s.me.opTag f.ovr.toNat vd
  let ta := s.me.opTag f.ovr.toNat va
  vecGo f.ovr.toNat [vd] [va] (refuseCopy td (some ta)) (withPos [td, ta]) (fun xs s =>
    vecWhole vd td (g s.me (only xs)) [] (stripFlags xs) id [va] s) s

/-- `VSLIDEUP` (R134): element e − n for e ≥ n. -/
def execVslideup (f : FmtV) (s : State) : Host.Outcome State Fault Refusal :=
  let n := (s.sr f.vb).toNat
  .next (placed f (fun h a => governed h f fun e => if n ≤ e then some (a.getD (e - n) 0) else none) s)

/-- `VSLIDEDN` (R134): element e + n, zero at or beyond VL. -/
def execVslidedn (f : FmtV) (s : State) : Host.Outcome State Fault Refusal :=
  let n := (s.sr f.vb).toNat
  .next (placed f (fun h a => governed h f fun e => some (if e + n < h.len then a.getD (e + n) 0 else 0)) s)

/-- `VCOMPRESS` (R135): the active elements in ascending order. -/
def execVcompress (f : FmtV) (s : State) : Host.Outcome State Fault Refusal :=
  .next (placed f (fun h a =>
    let got := (h.activeList f.msk.toNat).map fun e => some (a.getD e 0)
    got ++ List.replicate (h.len - got.length) (if f.z = 1 then some 0 else none)) s)

/-- `VEXPAND` (R135): element k for the k-th active element. -/
def execVexpand (f : FmtV) (s : State) : Host.Outcome State Fault Refusal :=
  .next (placed f (fun h a => governed h f fun e =>
    some (a.getD ((h.activeList f.msk.toNat).filter fun i => decide (i < e)).length 0)) s)

/-- `VIOTA` (R135): the set mask bits below each element. -/
def execViota (f : FmtV) (s : State) : Host.Outcome State Fault Refusal :=
  let vd := f.vd.toNat
  let td := s.me.opTag f.ovr.toNat vd
  .next (vecGo f.ovr.toNat [vd] [] (if td.isInt then none else badTag td 0) [(td, 0)] (fun _ s =>
    let h := s.me
    let r := (List.range h.len).map fun e =>
      td.write (h.rmOf 0) (f.sat = 1) 0 (.int ((h.activeList f.msk.toNat).filter fun i => decide (i < e)).length)
    vecWhole vd td (r.map fun x => some x.1) (r.map Prod.snd) 0 id [] s) s)

/-- `VID` (R135): each active element's own index. -/
def execVid (f : FmtV) (s : State) : Host.Outcome State Fault Refusal :=
  let vd := f.vd.toNat
  let td := s.me.opTag f.ovr.toNat vd
  .next (vecGo f.ovr.toNat [vd] [] (if td.packed then badTag td 0 else none) [(td, 0)] (fun _ s =>
    let h := s.me
    let r : Nat → Nat × Flags := fun e => td.write (h.rmOf 0) (f.sat = 1) 0 (.int e)
    vecWhole vd td (governed h f fun e => some (r e).1) (h.raised f.msk.toNat fun e => (r e).2) 0 id [] s) s)

/-- `VSPLAT` (R136): the low bits of SR[VA] in every active element. -/
def execVsplat (f : FmtV) (s : State) : Host.Outcome State Fault Refusal :=
  let vd := f.vd.toNat
  let td := s.me.opTag f.ovr.toNat vd
  let x := (s.sr f.va).toNat % 2 ^ td.width
  .next (vecGo f.ovr.toNat [vd] [] (refuseCopy td none) [(td, 0)] (fun _ s =>
    vecWhole vd td (governed s.me f fun _ => some x) [] 0 id [] s) s)

/-- `VMV` (R136): b as the modifier delivers it; whole blocks under an sx tag. -/
def execVmv (f : FmtV) (s : State) : Host.Outcome State Fault Refusal :=
  let vd := f.vd.toNat
  let vb := f.vb.toNat
  let td := s.me.opTag f.ovr.toNat vd
  let tb := s.me.opTag f.ovr.toNat vb
  let refused :=
    if td.isSx || tb.isSx then
      firstTrap [if td.isSx && decide (td ≠ tb ∨ f.mod ≠ 0) then badTag td 0 else none,
                 if decide (td ≠ tb) then badTag tb 1 else none]
    else refuseCopy td (some tb)
  .next (vecGo f.ovr.toNat [vd] [vb] refused (withPos [td, tb]) (fun xs s =>
    let h := s.me
    let outs :=
      if td.isSx then
        (only xs).zipIdx.map fun p =>
          if (List.range 16).any fun i => h.active f.msk.toNat (16 * p.2 + i) then some p.1
          else if f.z = 1 then some 0 else none
      else
        let b := modified f.mod.toNat h.len (only xs)
        governed h f fun e => some (b.getD e 0)
    vecWhole vd td outs [] (stripFlags xs) id [vb] s) s)

/-- `VEXTR` (R136): element SR[VB] of VA to SR[VD], sign-extended under a signed tag; 0 beyond VL. -/
def execVextr (f : FmtV) (s : State) : Host.Outcome State Fault Refusal :=
  let va := f.va.toNat
  let ta := s.me.opTag f.ovr.toNat va
  let x := (s.sr f.vb).toNat
  .next (vecGo f.ovr.toNat [] [va] (if ta.isSx then badTag ta 1 else none) [(ta, 1)] (fun xs s =>
    let v := (only xs).getD x 0
    let y : Word := if x < s.me.len then (if ta.isSigned then wi (signed ta.width v) else wd v) else 0
    vecEnd s.me.len [va] (stripFlags xs) [] (s.setSr f.vd y)) s)

/-- `VINS` (R136): the low bits of SR[VA] to element SR[VB] of VD. -/
def execVins (f : FmtV) (s : State) : Host.Outcome State Fault Refusal :=
  let vd := f.vd.toNat
  let td := s.me.opTag f.ovr.toNat vd
  let x := (s.sr f.vb).toNat
  let v := (s.sr f.va).toNat % 2 ^ td.width
  .next (vecGo f.ovr.toNat [vd] [] (refuseCopy td none) [(td, 0)] (fun _ s =>
    vecWhole vd td ((List.range s.me.len).map fun e => if e = x then some v else none) [] 0 id [] s) s)

end Sys2Proof.Machine
end

