-- ==== Sys2Proof/Machine/Keys.lean ====
section
/-!
DEFINITION. Major 0x45, keys and the sorted-merge family: R43, R137 to R139.
-/
namespace Sys2Proof.Machine

open Sys2Proof

/-- Inserting a kx element into a list that stands best first (R43). -/
def kxInsert (x : Nat) : List Nat → List Nat
  | [] => [x]
  | y :: l => if kxAbove y x then y :: kxInsert x l else x :: y :: l

/-- Kx elements best first (R43). -/
def kxSort (l : List Nat) : List Nat := l.foldr kxInsert []

/-- Exactly `n` elements: the first of a list, then empty ones (R138). -/
def padEmpty (n : Nat) (l : List Nat) : List (Option Nat) :=
  (l.take n ++ List.replicate (n - l.length) kxEmpty).map some

/-- The elements of a stretch of positions that are active. -/
def picks (h : Hart) (msk lo hi : Nat) (a : List Nat) : List Nat :=
  ((List.range (hi - lo)).filter fun i => h.active msk (lo + i)).map fun i => a.getD (lo + i) 0

/-- Every operand of a kx instruction must be kx (R138). -/
def refuseUnlessKx (tags : List Tag) : Option Trap := refuseAny (fun t => decide (t ≠ .kx)) tags

/-- `VKEY` (R137): the key of each active element with its index, VD tagged kx. A binding whose memory tag is not kx
takes no kx elements (R44). TO overrides the tag of VA alone: VD is written as kx under every TO (DESIGN CHOICE,
notes/assumptions/50.md). -/
def execVkey (f : FmtV) (s : State) : Host.Outcome State Fault Refusal :=
  let vd := f.vd.toNat
  let va := f.va.toNat
  let ta := s.me.opTag f.ovr.toNat va
  let n := (s.sr f.vb).toNat
  let refused := firstTrap
    [match s.me.binding? vd with
      | some b => if b.mtag = .kx then none else badTag .kx 0
      | none => none,
     if ta.hasKey then none else badTag ta 1]
  .next (vecGo f.ovr.toNat [vd] [va] refused [(.kx, 0), (ta, 1)] (fun xs s =>
    let h := s.me
    let a := only xs
    let key : Nat → Nat := fun e =>
      (keyOf ta (a.getD e 0)).getD 0 * 2 ^ 32 + (if n = 0 then e else e % n) % 2 ^ 32
    vecWhole vd .kx (governed h f fun e => some (key e))
      (h.raised f.msk.toNat fun e => if (ta.decode (a.getD e 0)).sigFlag ≠ 0 then fNV else 0) (stripFlags xs)
      (fun h => h.setTag vd .kx) [va] s) s)

/-- An instruction on kx registers (R138): `g` gives what each element of VD receives. -/
def sorted (f : FmtV) (src : List Nat) (g : Hart → List Strip → List (Option Nat)) (s : State) : State :=
  let vd := f.vd.toNat
  let tags := (vd :: src).map (s.me.opTag f.ovr.toNat)
  vecGo f.ovr.toNat [vd] src (refuseUnlessKx tags) (withPos tags) (fun xs s =>
    vecWhole vd .kx (g s.me xs) [] (stripFlags xs) id src s) s

/-- `VSORTK` (R138): the active elements of VA, best first, then empty. -/
def execVsortk (f : FmtV) (s : State) : Host.Outcome State Fault Refusal :=
  .next (sorted f (FmtV.sources f 1) (fun h xs => padEmpty h.len (kxSort (picks h f.msk.toNat 0 h.len (only xs)))) s)

/-- `VMERGEK` (R138): for each run of 2^lg positions, the best of the active elements of VA and VB there. -/
def execVmergek (f : FmtV) (s : State) : Host.Outcome State Fault Refusal :=
  let run := 2 ^ f.vc.toNat
  .next (sorted f (FmtV.sources f 2) (fun h xs =>
    (List.range ((h.len + run - 1) / run)).flatMap fun p =>
      let lo := p * run
      let hi := min (lo + run) h.len
      padEmpty (hi - lo)
        (kxSort (picks h f.msk.toNat lo hi (only xs) ++ picks h f.msk.toNat lo hi (only (xs.drop 1))))) s)

/-- `VTOPK` (R138): the best k active elements of each group of n, at gk on. -/
def execVtopk (f : FmtV) (s : State) : Host.Outcome State Fault Refusal :=
  let k := f.vc.toNat
  let x := (s.sr f.vb).toNat
  .next (sorted f (FmtV.sources f 1) (fun h xs =>
    let n := if x = 0 ∨ h.len < x then h.len else x
    ((List.range ((h.len + n - 1) / n)).flatMap fun g =>
      padEmpty k (kxSort (picks h f.msk.toNat (g * n) (min (g * n + n) h.len) (only xs)))).take h.len) s)

/-- `VUNKEY` (R139): the index, the value or the key of each active kx element, in Tag(VD). -/
def execVunkey (f : FmtV) (s : State) : Host.Outcome State Fault Refusal :=
  let vd := f.vd.toNat
  let va := f.va.toNat
  let part := f.vc.toNat
  let td := s.me.opTag f.ovr.toNat vd
  let ta := s.me.opTag f.ovr.toNat va
  let rm := s.me.rmOf f.rm.toNat
  let sat := decide (f.sat = 1)
  let refused := firstTrap
    [if td.packed || (decide (part = 1) && !td.hasKey) then badTag td 0 else none, if ta = .kx then none else badTag ta 1]
  .next (vecGo f.ovr.toNat [vd] [va] refused [(td, 0), (ta, 1)] (fun xs s =>
    let h := s.me
    let a := only xs
    let r : Nat → Nat × Flags := fun e =>
      let x := a.getD e 0
      if part = 1 then unkeyVal td rm sat (x / 2 ^ 32)
      else td.write rm sat 0 (.int (if part = 0 then x % 2 ^ 32 else x / 2 ^ 32 : Nat))
    vecWhole vd td (governed h f fun e => some (r e).1) (h.raised f.msk.toNat fun e => (r e).2) (stripFlags xs) id [va]
      s) s)

end Sys2Proof.Machine
end

