-- ==== Sys2Proof/Machine/Masks.lean ====
section
/-!
DEFINITION. Major 0x46, mask registers: R140 to R142, with the latched faults of R447 that a wait meets.
-/
namespace Sys2Proof.Machine

open Sys2Proof

/-- A vector instruction that makes its own checks: `epr` at or beyond VL completes it (R230). -/
def pastEnd (body : State → State) (s : State) : State :=
  if s.me.epr ≠ 0 ∧ s.me.len ≤ s.me.epr.toNat then retireVec s else body s

/-- The bits of a step's window of a mask register become those of `x`; the others stay (R141). -/
def Hart.putMask (h : Hart) (md : Nat) (w : Nat × Nat) (x : BitVec 16384) : Hart :=
  let low := bitRun 16384 w.1 (w.2 - w.1)
  h.setMask md ((h.mask md &&& ~~~low) ||| (x &&& low))

/-- The end of a step of a mask instruction at position `e1` (R237). -/
def maskEnd (e1 : Nat) (s : State) : State := if e1 < s.me.len then stopInside e1 [] s else retireVec s

/-- A bitwise mask instruction (R141); the element group of a mask register is 64 of its bits (DEDUCED,
notes/assumptions/23.md). -/
def maskOp (f : FmtV) (g : BitVec 16384 → BitVec 16384 → BitVec 16384) (s : State) : State :=
  pastEnd (fun s =>
    let w := s.me.windowBy 64
    maskEnd w.2 (s.modMe fun h => h.putMask f.vd.toNat w (g (h.mask f.va.toNat) (h.mask f.vb.toNat)))) s

/-- `MAND` (R141). -/
def execMand (f : FmtV) (s : State) : Host.Outcome State Fault Refusal := .next (maskOp f (fun a b => a &&& b) s)

/-- `MOR` (R141). -/
def execMor (f : FmtV) (s : State) : Host.Outcome State Fault Refusal := .next (maskOp f (fun a b => a ||| b) s)

/-- `MXOR` (R141). -/
def execMxor (f : FmtV) (s : State) : Host.Outcome State Fault Refusal := .next (maskOp f (fun a b => a ^^^ b) s)

/-- `MANDN` (R141). -/
def execMandn (f : FmtV) (s : State) : Host.Outcome State Fault Refusal := .next (maskOp f (fun a b => a &&& ~~~b) s)

/-- `MNOT` (R141). -/
def execMnot (f : FmtV) (s : State) : Host.Outcome State Fault Refusal := .next (maskOp f (fun a _ => ~~~a) s)

/-- `MPOPC` (R141): the set bits below VL. -/
def execMpopc (f : FmtV) (s : State) : Host.Outcome State Fault Refusal :=
  .next (pastEnd (fun s => retireVec (s.setSr f.vd (wd (setBits (s.me.mask f.va.toNat) s.me.len).length))) s)

/-- `MFIRST` (R141): the lowest set bit below VL, or all ones. -/
def execMfirst (f : FmtV) (s : State) : Host.Outcome State Fault Refusal :=
  .next (pastEnd (fun s =>
    let v := match setBits (s.me.mask f.va.toNat) s.me.len with
      | [] => ones
      | e :: _ => wd e
    retireVec (s.setSr f.vd v)) s)

/-- `MSET` (R141): the elements of VA whose bits are not all zero. -/
def execMset (f : FmtV) (s : State) : Host.Outcome State Fault Refusal :=
  let va := f.va.toNat
  let ta := s.me.tagOf va
  .next (pastEnd (fun s =>
    match firstTrap [if ta.isSx then badTag ta 1 else none, capCheck s [(ta, 1)]] with
    | some t => takeTrap t s
    | none =>
      let h := s.me
      let w := h.window ta
      let x := (List.range h.len).foldl (fun (m : BitVec 16384) e => if h.elem va ta e = 0 then m else setBit m e true) 0
      maskEnd w.2 (s.modMe fun h => h.putMask f.vd.toNat w x)) s)

/-- `MGET` (R141): 1 or 0 in each element of VD. -/
def execMget (f : FmtV) (s : State) : Host.Outcome State Fault Refusal :=
  let vd := f.vd.toNat
  let td := s.me.tagOf vd
  .next (pastEnd (fun s =>
    match firstTrap [if td.packed then badTag td 0 else none, capCheck s [(td, 0)]] with
    | some t => takeTrap t s
    | none =>
      let h := s.me
      let one := (td.write .rne false 0 (.int 1)).1
      let w := h.window td
      let outs := (List.range (w.2 - w.1)).map fun i => some (if (h.mask f.va.toNat).getLsbD (w.1 + i) then one else 0)
      maskEnd w.2 (s.modMe fun h => h.setUnits vd td w.1 outs)) s)

/-- The bits of LM that a binding's engine sets (R309, R401). -/
def Binding.louver (b : Binding) : List Nat :=
  if b.kind = 4 then (List.range ((b.total + b.chunk - 1) / b.chunk)).map b.chunkBit
  else if b.kind = 5 then [fld b.record 192 14] else []

/-- The chunks that stream bytes p to p + n − 1 lie in (R309). -/
def Binding.chunksOf (b : Binding) (p n : Nat) : List Nat :=
  (List.range ((p + n + b.chunk - 1) / b.chunk - p / b.chunk)).map fun j => p / b.chunk + j

/-- The louver bits that wait for the block at which a decoder is held (R312): those of the block's chunks, of the first
alone while its header cannot be read (DEDUCED, notes/assumptions/25.md). -/
def heldBits (h : Nat) (b : Binding) (s : State) : List Nat :=
  let p := memBytes b.mtag b.decElems
  let n := match (readRange (bindWho s h b) h b.sp (wd (fld b.record 128 64 + b.decOff)) 16 s).2 with
    | .ok d => min (memBytes b.mtag (nbits (leNat d) 32 32)) (b.total - p)
    | .error _ => 1
  (b.chunksOf p (max 1 n)).map b.chunkBit

/-- A latch is met by a wait for bits that are clear (R447): that of a held block only where one of its chunks is named
(R312). -/
def latchMeets (h : Nat) (clear : List Nat) (s : State) (l : Latch) : Bool :=
  match l.work with
  | .block vt => match (s.hart h).binding? vt with
    | some b => (heldBits h b s).any fun i => clear.contains i
    | none => true
  | _ => true

/-- The bits of LM of a call (R421, R423). -/
def Call.louver (c : Call) : List Nat := (List.range c.bits).map fun i => fld c.record 448 14 + i

/-- What ends a wait for bits of a mask register, some of them clear, with a trap (R142, R313, R431, R447): an
undelivered latch, a failed binding that withholds a bit, an aborted call, still bound, with a clear bit. -/
def waitFault (h md : Nat) (clear : List Nat) (s : State) : Option (State × Trap) :=
  match latchTrap h (fun l => decide (l.lm = md) && latchMeets h clear s l) s with
  | some r => some r
  | none =>
    let x := s.hart h
    match x.binds.find? fun b => decide (b.st = .failed ∧ b.lm = md) && clear.any fun i => b.louver.contains i with
    | some b => some (s, b.trap)
    | none =>
      match s.calls.find? fun c => decide (c.hart = h ∧ c.lm = md ∧ c.st = .aborted) &&
          (x.binds.any fun b => decide (b.kind = 6 ∧ b.call = c.id)) && clear.any fun i => c.louver.contains i with
      | some c => some (s, Trap.vector .collective c.tval)
      | none => none

/-- The bits from b to min(b + n, 16384) − 1 of a mask register that are clear (R142). -/
def clearBits (m : BitVec 16384) (b n : Nat) : List Nat :=
  ((List.range (min (b + n) 16384 - b)).map fun i => b + i).filter fun i => !(m.getLsbD i)

/-- `MWAIT` (R142): completes when every named bit is set, traps with a latched fault, or waits. -/
def mwait (f : FmtV) (s : State) : State :=
  let md := f.vd.toNat
  match clearBits (s.me.mask md) (s.sr f.va).toNat (s.sr f.vb).toNat with
  | [] => retireVec (endWait s)
  | clear =>
    match waitFault s.cur md clear s with
    | some (s1, t) => takeTrap t (endWait s1)
    | none => waitAt (.mwait f) s

/-- `MWAIT` (R142). -/
def execMwait (f : FmtV) (s : State) : Host.Outcome State Fault Refusal := .next (mwait f s)

/-- `MWAIT_COMPLETE` (R142): a hart that waits looks at its mask register again. -/
def execMwaitComplete (h : Nat) (s : State) : Host.Outcome State Fault Refusal :=
  .next (match (s.hart h).wait with
    | some (.mwait f) => mwait f { s with cur := h }
    | _ => s)

end Sys2Proof.Machine
end

