-- ==== Sys2Proof/Machine/Length.lean ====
section
/-!
DEFINITION. Vector length, tags and the lane arbiter: R115, R116, R207 to R215, R231, R232, R294.
-/
namespace Sys2Proof.Machine

open Sys2Proof

/-! ## Lane groups of a core -/

/-- The groups on a core, earliest placed first. -/
def coreGroups (s : State) (core : Nat) : List (Nat × Group) := s.groups.filter fun p => p.2.core = core

/-- A pending change takes lane groups from the group. -/
def Group.shrinking (x : Group) : Bool := x.rcl && decide (x.quads &&& ~~~x.next ≠ 0)
/-- A pending change only adds lane groups. -/
def Group.growing (x : Group) : Bool := x.rcl && decide (x.quads &&& ~~~x.next = 0)

/-- The lane groups of a core that no group holds and none has been offered (R211). -/
def freeQuads (s : State) (core : Nat) : BitVec 8 :=
  (coreGroups s core).foldl (fun q p => q &&& ~~~(p.2.quads ||| (if p.2.growing then p.2.next else 0))) (BitVec.allOnes 8)

/-- The lowest-numbered `n` set bits. -/
def lowest (q : BitVec 8) (n : Nat) : BitVec 8 := ((setBits q 8).take n).foldl (fun r i => setBit r i true) 0

/-- The lane groups that stand offered as growth on a core (R211). -/
def offeredQuads (s : State) (core : Nat) : BitVec 8 :=
  (coreGroups s core).foldl (fun q p => q ||| (if p.2.growing then p.2.next &&& ~~~p.2.quads else 0)) 0

/-- Withdrawing offered lane groups (R211). -/
def withdrawOffers (core : Nat) (q : BitVec 8) (s : State) : State :=
  (coreGroups s core).foldl (fun s p =>
    if p.2.growing then
      let next := p.2.next &&& ~~~(q &&& ~~~p.2.quads)
      s.setGroup p.1 (if next = p.2.quads then { p.2 with next := 0, rcl := false } else { p.2 with next := next })
    else s) s

/-- A group on the core waits at a `SETVL` for its first lanes (R211, R215). -/
def waitsForLanes (p : Nat × Group) : Bool := decide (p.2.st = .ready ∧ p.2.quads = 0)

/-- Lane groups that pending changes and pre-emptions will free (R211). -/
def comingQuads (l : List (Nat × Group)) : Nat :=
  l.foldl (fun n p => n + (if p.2.pre then popCount p.2.quads
    else if p.2.shrinking then popCount (p.2.quads &&& ~~~p.2.next) else 0)) 0

/-! ## SETVL -/

/-- The hart is stopped at a `SETVL` or has executed `KEXIT` (R211). -/
def stoppedAtSetvl (s : State) (h : Nat) : Bool :=
  (s.hart h).exited || match (s.hart h).wait with
    | some (.setvl _) => true
    | _ => false

/-- Applying a pending change (R211): QUADS := NEXT; RCL, NEXT and VW clear. The vector registers do not survive it. -/
def applyNext (g : Nat) (x : Group) (s : State) : State :=
  let s1 := (takeQuads g x.next (loseLanes x s)).modGroup g fun y => { y with next := 0, rcl := false }
  x.harts.foldl (fun s h => s.modHart h fun y => { y with vw := false }) s1

/-- A group without lanes takes its grant from all free lane groups, those offered to it among them (R211). -/
def ownOffer (g : Nat) (x : Group) (s : State) : State :=
  if x.quads = 0 ∧ x.growing = true then s.setGroup g { x with next := 0, rcl := false } else s

/-- The grant of R211 that a `SETVL` finds: the state with lanes, or none where it waits. -/
def grantLanes (s0 : State) : Option State :=
  match s0.myGroup with
  | none => none
  | some (g, x) =>
    let s := ownOffer g x s0
    if x.harts.any fun h => (s0.hart h).matrix then some s0
    else if x.quads = 0 then
      let free := freeQuads s x.core
      let short := x.lmax - popCount free
      let s1 := if popCount free < x.lmin then withdrawOffers x.core (lowest (offeredQuads s x.core) short) s else s
      let free1 := freeQuads s1 x.core
      if x.lmin ≤ popCount free1 then some (takeQuads g (lowest free1 (min x.lmax (popCount free1))) s1) else none
    else if x.rcl then
      if x.harts.all fun h => h = s.cur || stoppedAtSetvl s h then some (applyNext g x s)
      else if x.shrinking then none
      else some s
    else some s

/-- The withdrawals of growth offers that a waiting `SETVL` causes though it goes on waiting (R211). -/
def withdrawForWait (s0 : State) : State :=
  match s0.myGroup with
  | none => s0
  | some (g, x) =>
    let s := ownOffer g x s0
    if x.quads = 0 then
      (withdrawOffers x.core (lowest (offeredQuads s x.core) (x.lmax - popCount (freeQuads s x.core))) s).modGroup g
        fun y => { y with st := .ready }
    else s

/-- The application vector length under a sizing tag (R116). -/
def avlOf (t : Tag) (x : Nat) : Nat := if t.isSx then min (roundUp x 16) (2 ^ 64 - 16) else x

/-- A pre-emption request stops a `SETVL` before any grant (R116, R231). -/
def setvlStops (s : State) : Bool :=
  match s.myGroup with
  | some (_, x) => x.pre && decide (s.me.level = .u) && !(x.harts.any fun h => (s.hart h).matrix)
  | none => false

/-- A READY group runs again once its `SETVL` is granted (R215). -/
def leaveReady (s : State) : State :=
  match s.myGroup with
  | some (g, x) => if x.st = .ready then s.setGroup g { x with st := .running } else s
  | none => s

/-- `SETVL` (R116): stops for a pre-emption, waits for lanes, or sets VL under the grant. -/
def execSetvl (f : FmtV) (s : State) : Host.Outcome State Fault Refusal :=
  .next (
    if setvlStops s then waitAt (.setvl f) s
    else
      match grantLanes s with
      | none => waitAt (.setvl f) (withdrawForWait s)
      | some s1 =>
        let s2 := leaveReady s1
        let t := s2.me.opTag f.ovr.toNat f.vb.toNat
        let vl := min (avlOf t (s2.sr f.va).toNat) (s2.mvl t)
        retireVec ((s2.setSr f.vd (wd vl)).modMe fun h => { h with vl := BitVec.ofNat 15 vl, vw := false }))

/-- `SETTAG` (R115): the tags of VD to VD + VC become VB; a bound one traps BIND. -/
def execSettag (f : FmtV) (s : State) : Host.Outcome State Fault Refusal :=
  let regs := (List.range (f.vc.toNat + 1)).map fun i => f.vd.toNat + i
  .next (match regs.find? fun v => (s.me.binding? v).isSome with
    | some v => takeTrap (bindTrap v 0) s
    | none => retireVec (s.modMe fun h => regs.foldl (fun h v => h.setTag v (Tag.ofCode f.vb.toNat)) h))

/-! ## The arbiter and the scheduler -/

/-- The lane groups that a group holds or has been offered. -/
def Group.offered (x : Group) : BitVec 8 := x.quads ||| (if x.growing then x.next else 0)

/-- `LANE_GROWTH_OFFER` (R211): free lane groups are offered to a group below its LMAX, beside those that it has been
offered and has not taken. -/
def execLaneGrowthOffer (g : Nat) (s : State) : Host.Outcome State Fault Refusal :=
  .next (match s.group? g with
    | none => s
    | some x =>
      let offer := lowest (freeQuads s x.core) (x.lmax - popCount x.offered)
      if x.shrinking = false ∧ offer ≠ 0 ∧ x.st ≠ .preempted ∧ x.st ≠ .retired then
        s.setGroup g { x with rcl := true, next := x.offered ||| offer }
      else s)

/-- The lane groups that a holder has once its pending shrink, if it has one, has been applied (R211). -/
def Group.keeps (x : Group) : BitVec 8 := if x.shrinking then x.next else x.quads

/-- The holder that a reclaim goes to: of lowest queue priority, latest placed first, which keeps more than its LMIN and has
no pre-emption pending; `below` bounds its priority (R211). -/
def reclaimFrom (l : List (Nat × Group)) (below : Option Nat) : Option (Nat × Group) :=
  l.foldl (fun b p =>
    let y := p.2
    let fits := decide (y.keeps ≠ 0 ∧ y.lmin < popCount y.keeps) && !y.pre &&
      (match below with
       | some k => decide (y.prio < k)
       | none => true)
    if !fits then b
    else match b with
      | none => some p
      | some q => if y.prio ≤ q.2.prio then some p else some q) none

/-- A reclaim of at most `n` lane groups: NEXT leaves the holder its lowest ones, never fewer than its LMIN (R211). -/
def postReclaim (p : Nat × Group) (n : Nat) (s : State) : State :=
  let x := p.2
  let keep := max x.lmin (popCount x.keeps - n)
  s.setGroup p.1 { x with rcl := true, next := lowest x.keeps keep }

/-- What the groups of a list want together. -/
def wantOf (want : Group → Nat) (l : List (Nat × Group)) : Nat := l.foldl (fun n p => n + want p.2) 0

/-- A group is served no later than another: of higher priority, or of the same and placed no later (R211). -/
def servedBy (p q : Nat × Group) : Bool := decide (p.2.prio < q.2.prio ∨ (p.2.prio = q.2.prio ∧ q.1 ≤ p.1))

/-- What a group of a list still lacks, once those that are served no later share `avail` lane groups with it. -/
def shortOf (l : List (Nat × Group)) (want : Group → Nat) (avail : Nat) (p : Nat × Group) : Nat :=
  min (want p.2) (wantOf want (l.filter (servedBy p)) - avail)

/-- The group that needs lane groups on a core, how many, and below what priority a holder gives them (R211): one whose
`SETVL` waits, of highest priority, earliest placed first; else one that holds fewer than its LMAX while a holder of lower
priority can give some. Lane groups that are free or will be free go to the waiting `SETVL`s first, in the same order. -/
def laneNeed (l : List (Nat × Group)) (free : Nat) : Option (Nat × Option Nat) :=
  let best : List (Nat × Group) → Option (Nat × Group) := fun l => l.foldl (fun b p => match b with
    | none => some p
    | some q => if q.2.prio < p.2.prio then some p else some q) none
  let avail := free + comingQuads l
  let waits := l.filter waitsForLanes
  let first := shortOf waits Group.lmin avail
  match best (waits.filter fun p => decide (0 < first p)) with
  | some p => some (first p, none)
  | none =>
    let want : Group → Nat := fun y => y.lmax - popCount y.offered
    let claims := l.filter fun p => !(waitsForLanes p) && decide (p.2.st ≠ .preempted ∧ p.2.st ≠ .retired) &&
      l.any fun q => decide (q.2.quads ≠ 0 ∧ q.2.prio < p.2.prio)
    let more := shortOf claims want (avail - wantOf Group.lmin waits)
    match best (claims.filter fun p => decide (0 < more p) && (reclaimFrom l (some p.2.prio)).isSome) with
    | some p => some (more p, some p.2.prio)
    | none => none

/-- `LANE_RECLAIM` (R211): the arbiter of a core posts a reclaim for a group that needs lane groups. -/
def execLaneReclaim (core : Nat) (s : State) : Host.Outcome State Fault Refusal :=
  .next (
    let l := coreGroups s core
    match laneNeed l (popCount (freeQuads s core)) with
    | none => s
    | some (n, below) =>
      match reclaimFrom l below with
      | some p => if n = 0 then s else postReclaim p n s
      | none => s)

/-- A pre-emption request of a group is due (R213): a group of higher priority on the core cannot reach its LMIN though
every holder gave all but its LMIN, and this is the next holder to be asked; or one waits for the matrix array that the
group holds, at `MMODE on` or to resume with its tiles (R294). -/
def preemptDue (g : Nat) (x : Group) (s : State) : Bool :=
  let l := coreGroups s x.core
  let free := popCount (freeQuads s x.core ||| offeredQuads s x.core)
  let short : Group → Nat := fun y => y.lmin - free
    - l.foldl (fun n p => n + (if p.2.pre then popCount p.2.quads else popCount p.2.quads - p.2.lmin)) 0
  let first : Group → Bool := fun y => l.all fun p =>
    decide (p.1 = g ∨ p.2.quads = 0 ∨ y.prio ≤ p.2.prio ∨ x.prio < p.2.prio ∨ (p.2.prio = x.prio ∧ p.1 < g)) || p.2.pre
  let lanes := l.any fun p => waitsForLanes p && decide (x.prio < p.2.prio ∧ 0 < short p.2 ∧ x.quads ≠ 0) && first p.2
  let array := decide ((s.core x.core).mholder = some g) && l.any fun p =>
    decide (x.prio < p.2.prio) &&
      ((decide (p.2.st = .preempted) && p.2.saveAcc.isSome && s.dispatches p.2.asid) ||
        p.2.harts.any fun h => match (s.hart h).wait with
          | some (.mmode _) => true
          | _ => false)
  lanes || array

/-- `PREEMPT_REQUEST` (R213): PRE of a group is set, and the request is met where it stands at a lane point. -/
def execPreemptRequest (g : Nat) (s : State) : Host.Outcome State Fault Refusal :=
  .next (match s.group? g with
    | none => s
    | some x =>
      if x.pre = false ∧ x.st ≠ .preempted ∧ x.st ≠ .retired ∧ preemptDue g x s = true then
        meetPreempt g (s.setGroup g { x with pre := true })
      else s)

/-- `RECLAIM_DEADLINE` (R212): a shrink or a pre-emption that has not been met forces a full save. -/
def execReclaimDeadline (g : Nat) (s : State) : Host.Outcome State Fault Refusal :=
  .next (match s.group? g with
    | none => s
    | some x => if x.pre || x.shrinking then forceSave g s else s)

end Sys2Proof.Machine
end

