-- ==== Sys2Proof/Machine/VMem.lean ====
section
/-!
DEFINITION. Vector loads, stores, atomics and prefetch: R143 to R161. Elements perform in ascending order, which every
setting of E allows (R157); an element's checks are those of R150, WATCH before them (R237).
-/
namespace Sys2Proof.Machine

open Sys2Proof

/-- How a vector memory instruction forms its addresses (R147). -/
inductive VForm where
  | unit | stride | index | tile | lane
  deriving DecidableEq, Repr

/-- The form uses an index register. -/
def VForm.indexed : VForm → Bool
  | .index | .lane => true
  | _ => false

/-- What a vector memory instruction works on, read before any element: base, stride or pitch, space, rows of registers
with their tags and memory tags, and the elements of the index register as integers. -/
structure VAcc where
  form : VForm
  base : Word
  step : Int
  sp   : Nat
  msk  : Nat
  o    : Bool
  /-- under E = 0, how many accepted stores stood before the instruction's own (R151, R157) -/
  own  : Option Nat
  vl   : Nat
  regs : List (Nat × Tag × Tag)
  idx  : List Int
  deriving DecidableEq, Repr

/-- Row r: its register, the register's tag and the memory tag (R149, R155). -/
def VAcc.row (d : VAcc) (r : Nat) : Nat × Tag × Tag := d.regs.getD r (0, .u8, .u8)

/-- The address and the lane of unit j of row r, of `size` bytes: an element, or a block of 16 (R145 to R147, R152). -/
def VAcc.place (d : VAcc) (s : State) (r j size : Nat) : Word × Nat :=
  let lanes := match s.myGroup with
    | some (_, g) => max 1 g.lanes
    | none => 1
  let lane := if d.sp = 3 then laneOfElem s s.cur j size else 0
  let off : Int := match d.form with
    | .index | .lane => d.idx.getD j 0
    | .stride => j * d.step
    | .tile => r * d.step + j * size
    | .unit => if d.sp = 3 then (8 * (j * size / 8 / lanes) + j * size % 8 : Nat) else j * size
  (d.base + wi off, lane)

/-- WATCH at an active element of a `main` or `host` access (R237). -/
def watchElem (sp : Nat) (a : Word) (n : Nat) (ld st : Bool) (s : State) : Option Stop :=
  if (sp = 0 ∨ sp = 5) ∧ watchHit s.me a.toNat n ld st = true then some (accTrap .watch a.toNat) else none

/-- Reading one unit with every check. -/
def loadUnit (d : VAcc) (r j size al : Nat) (s : State) : State × Except Stop Nat :=
  let p := d.place s r j size
  match watchElem d.sp p.1 size true false s with
  | some t => (s, .error t)
  | none =>
    match readSpace (vecWho s s.cur) s.cur d.sp p.1 size al p.2 s with
    | (s1, .error t) => (s1, .error t)
    | (s1, .ok b) => (s1, .ok (leNat b))

/-- Storing one unit with every check; a store to lane-private SRAM sets VW (R208). -/
def storeUnit (d : VAcc) (r j size al x : Nat) (s : State) : State × Option Stop :=
  let p := d.place s r j size
  match watchElem d.sp p.1 size false true s with
  | some t => (s, some t)
  | none =>
    match storeSpace (vecWho s s.cur) s.cur d.sp p.1 (leBytes size x) al p.2 (!d.o) d.own s with
    | (s1, some t) => (s1, some t)
    | (s1, none) => (if d.sp = 3 then s1.modMe fun h => { h with vw := true } else s1, none)

/-- The rounding of the conversions of R149: `frm`, RSTO read as RNE. -/
def memRm (s : State) : Rm := s.me.rmOf 0

/-- Loading element c of row r (R151). -/
def loadElem (d : VAcc) (r c : Nat) (s : State) : State × Option Stop :=
  let (v, td, m) := d.row r
  match loadUnit d r c m.bytes m.bytes s with
  | (s1, .error t) => (s1, some t)
  | (s1, .ok x) =>
    let y := convert m td (memRm s) false 0 x
    (raise y.2 (s1.modMe fun h => h.setUnit v td c y.1), none)

/-- The exact value of element i of an sx block held in a register, or of a number under another tag (R46). -/
def elemVal (t : Tag) (x i : Nat) : FVal := if t.isSx then sxElem t x i else (t.decode x).toF

/-- Loading the active elements of a block one by one, in ascending order, as exact values (R152), or what stops it and at which
element. -/
def loadVals (d : VAcc) (r : Nat) : List Nat → State → State × Except (Stop × Nat) (List (Nat × FVal))
  | [], s => (s, .ok [])
  | c :: l, s =>
    let m := (d.row r).2.2
    match loadUnit d r c m.bytes m.bytes s with
    | (s1, .error t) => (s1, .error (t, c))
    | (s1, .ok x) =>
      match loadVals d r l s1 with
      | (s2, .error p) => (s2, .error p)
      | (s2, .ok xs) => (s2, .ok ((c, elemVal m x 0) :: xs))

/-- Writing loaded values to a register: element by element, or under an sx tag the whole block, its inactive elements
at their current values (R152) and without flags (R55). -/
def putVals (v : Nat) (td : Tag) (rm : Rm) (k : Nat) (xs : List (Nat × FVal)) (s : State) : State :=
  if td.isSx then
    let old := s.me.block v td k
    let got : Nat → Option (Nat × FVal) := fun i => xs.find? fun p => p.1 == 16 * k + i
    let vals := (List.range 16).map fun i => match got i with
      | some p => p.2
      | none => sxElem td old i
    raise (sxRaised td rm (fun i => (got i).isSome) vals)
      (s.modMe fun h => h.setUnit v td k (sxQuantise td rm (vals.map fun v => (v, 0))).1)
  else
    xs.foldl (fun s p =>
      let y := td.write rm false 0 (.flt p.2)
      raise y.2 (s.modMe fun h => h.setUnit v td p.1 y.1)) s

/-- Loading block k of row r, of which the elements `act` are active (R152); what stops it, and at which element. -/
def loadBlock (d : VAcc) (r k : Nat) (act : List Nat) (s : State) : State × Option (Stop × Nat) :=
  let (v, td, m) := d.row r
  if m.isSx then
    match loadUnit d r k m.blockBytes 2 s with
    | (s1, .error t) => (s1, some (t, 16 * k))
    | (s1, .ok x) =>
      if td = m ∧ act.length = 16 then (s1.modMe fun h => h.setUnit v td k x, none)
      else (putVals v td (memRm s) k (act.map fun c => (c, sxElem m x (c % 16))) s1, none)
  else
    match loadVals d r act s with
    | (s1, .error p) => (s1, some p)
    | (s1, .ok xs) => (putVals v td .rne k xs s1, none)

/-- Storing element c of row r from the row's elements (R151); under an sx register tag the element's exact value. -/
def storeElem (d : VAcc) (rows : List (Tag × List Nat)) (r c : Nat) (s : State) : State × Option Stop :=
  let m := (d.row r).2.2
  let row := rows.getD r (.u8, [])
  let y := convert row.1 m (memRm s) false 0 (row.2.getD c 0)
  match storeUnit d r c m.bytes m.bytes y.1 s with
  | (s1, some t) => (s1, some t)
  | (s1, none) => (raise y.2 s1, none)

/-- Storing block k of row r: the register's block unchanged where the tags agree and every element is active, else
quantised with inactive elements as +0 (R152). -/
def storeBlock (d : VAcc) (strips : List Strip) (rows : List (Tag × List Nat)) (r k : Nat) (act : List Nat) (s : State) :
    State × Option (Stop × Nat) :=
  let (_, td, m) := d.row r
  let row := rows.getD r (.u8, [])
  let y : Nat × Flags :=
    if td = m ∧ act.length = 16 then (((strips.getD r { tag := .u8, vals := [], skew := 0, flags := 0 }).vals).getD k 0, 0)
    else sxQuantise m (memRm s) ((List.range 16).map fun i =>
      if act.contains (16 * k + i) then (elemVal row.1 (row.2.getD (16 * k + i) 0) 0, 0) else (FVal.zero false, 0))
  match storeUnit d r k m.blockBytes 2 y.1 s with
  | (s1, some t) => (s1, some (t, 16 * k))
  | (s1, none) => (raise y.2 s1, none)

/-- Elements in ascending order with the position of the one that stops. -/
def eachElem (f : Nat → State → State × Option Stop) : List Nat → State → State × Option (Stop × Nat)
  | [], s => (s, none)
  | e :: l, s =>
    match f e s with
    | (s1, none) => eachElem f l s1
    | (s1, some t) => (s1, some (t, e))

/-- What stops a vector memory instruction: the stop, the position that its trap reports, and the element that failed, which in
a block of a register can be a later one (R152). -/
structure UnitStop where
  why  : Stop
  pos  : Nat
  elem : Nat

/-- Positions `lo` to `hi` − 1 of the access, in units of one element, or of 16 where some row moves whole blocks.
`elem r c` moves an element, `block r k act` a block; `whole r` says which a row does. -/
def runUnits (d : VAcc) (unit : Nat) (whole : Nat → Bool) (elem : Nat → Nat → State → State × Option Stop)
    (block : Nat → Nat → List Nat → State → State × Option (Stop × Nat)) (lo hi : Nat) (s : State) :
    State × Option UnitStop :=
  let active : Nat → Bool := fun i => (s.me.mask d.msk).getLsbD (i % d.vl)
  let one : Nat → State → State × Option UnitStop := fun u s =>
    let r := u * unit / d.vl
    let act := ((List.range unit).map fun i => u * unit + i).filter active
    if act = [] then (s, none)
    else if whole r then
      match block r (u * unit % d.vl / 16) (act.map fun i => i % d.vl) s with
      | (s1, none) => (s1, none)
      | (s1, some (t, c)) => (s1, some { why := t, pos := u * unit, elem := r * d.vl + c })
    else
      match eachElem (fun i s => elem r (i % d.vl) s) (act.filter fun i => decide (lo ≤ i ∧ i < hi)) s with
      | (s1, none) => (s1, none)
      | (s1, some (t, e)) => (s1, some { why := t, pos := e, elem := e })
  loopFrom one ((hi + unit - 1) / unit - lo / unit) (lo / unit) s

/-- A stop within a vector memory instruction: a trap names its position in `epr` (R150) and is taken when every earlier
element has performed (R229); a wait keeps the position. -/
def stopAtElem (t : Stop) (e : Nat) (s : State) : State :=
  match t with
  | .trap t => takeTrap (t.atElem e) (settleAll s.cur s)
  | .stall => s.modMe fun h => { h with epr := wd e }

/-- What a load sends to a bound VD: its active elements, or the blocks with an active element (R302). -/
def Hart.loaded (h : Hart) (v : Nat) (td : Tag) (msk : Nat) : List (Option Nat) :=
  (List.range (if td.isSx then h.len / 16 else h.len)).map fun i =>
    let sent := if td.isSx then (List.range 16).any fun j => h.active msk (16 * i + j) else h.active msk i
    if sent then some (h.unit v td i) else none

/-- The end of a step of a vector memory instruction at position `e1` of `total`: the flags of its strips come when it
completes (R301), and a bound VD sends its strip (R302). -/
def vmemEnd (e1 total : Nat) (src : List Nat) (strips : Flags) (dst : Option (Nat × Tag)) (msk : Nat) (s : State) :
    State :=
  if e1 < total then stopInside e1 [] s
  else
    let done : State → State := fun s =>
      retireVec (raise strips (if s.me.len = 0 then s else advanceAll s.cur s.me.len src s))
    match dst.bind fun p => (s.me.binding? p.1).map fun b => (b, p.2) with
    | none => done s
    | some (b, td) =>
      let h := s.me
      if h.len = 0 then done s
      else
        match sendStrip s.cur b td h.len (h.loaded b.vt td msk) s with
        | (s1, .error t) => stopAt t s1
        | (s1, .ok fl) => done (raise fl s1)

/-- VL must be a multiple of 16 (R152). -/
def raggedTag (t : Tag) (n : Nat) : Option Trap := if n % 16 = 0 then none else some (tagTrap t 0 true)

/-- The rows whose blocks VL does not fill (R152). -/
def raggedRows (rows : List (Tag × Tag)) (n : Nat) : Option Trap :=
  firstTrap (rows.map fun p => if p.2.isSx then raggedTag p.2 n else if p.1.isSx then raggedTag p.1 n else none)

/-- Where a step of the instruction ends under ESTEP: at the end of the element group that holds position `lo` in its row, by
the memory element size, or of its block (R145, R237). -/
def VAcc.groupEnd (d : VAcc) (whole : Nat → Bool) (lo : Nat) : Nat :=
  let r := lo / d.vl
  let g := if whole r then 16 else (d.row r).2.2.groupLen
  r * d.vl + min d.vl ((lo % d.vl / g + 1) * g)

/-- The tags that a load or store refuses, and the lengths (R111, R147 to R149, R152). A TAG trap reports VD at position 0, as
the source of a store too, and the index register at position 2, its place among the fields VD, SA, SB: R39 names positions of
destination and sources alone (DESIGN CHOICE, notes/assumptions/14.md). -/
def vmemRefused (form : VForm) (sp ovr : Nat) (rows : List (Tag × Tag)) (tb : Option Tag) (s : State) : Option Trap :=
  let bad := rows.map fun p =>
    if p.1 = .kx ∧ ovr ≠ 0 then badTag .kx 0
    else if p.2.isSx && (form.indexed || decide (sp = 3)) then badTag p.2 0 else none
  let idx := match tb with
    | some t => if t.isInt then none else badTag t 2
    | none => none
  let caps := rows.map (fun p => (p.1, 0)) ++ (match tb with
    | some t => [(t, 2)]
    | none => [])
  firstTrap (bad ++ [idx, capCheck s caps])

/-- A stride or pitch that is no multiple of the block bytes (R152). -/
def strideRefused (form : VForm) (step : Int) (rows : List (Tag × Tag)) : Option Trap :=
  if form = .stride ∨ form = .tile then
    firstTrap (rows.map fun p =>
      if p.2.isSx && decide (step % (p.2.blockBytes : Int) ≠ 0) then some (Trap.vector .stride (wi step)) else none)
  else none

/-- The index register's elements as integers (R147). -/
def indexInts (x : Strip) : List Int :=
  x.vals.map fun v => if x.tag.isSigned then signed x.tag.width v else (v % 2 ^ x.tag.width : Nat)

/-- The number of rows, and the registers that hold them (R154, R155). -/
def rowsOf (form : VForm) (h : Hart) (vd : Nat) : List Nat :=
  if form = .tile then (List.range h.rowcnt.toNat).map fun r => vd + r else [vd]

/-- Running a load or a store (R147 to R155). -/
def vmemRun (load : Bool) (form : VForm) (f : FmtVM) (s0 : State) : State :=
  let s := settleAll s0.cur s0
  let h := s.me
  let vd := f.vd.toNat
  let ovr := f.ovr.toNat
  let sp := if form = .lane then 3 else f.sp.toNat
  let regs := rowsOf form h vd
  let rows := regs.map fun v => (v, h.tagOf v, h.opTag ovr v)
  let tags := rows.map fun p => p.2
  let tb := if form.indexed then some (h.tagOf f.sb.toNat) else none
  let step : Int := if form = .stride then (s.sr f.sb).toInt else if form = .tile then h.rowpitch.toInt else 0
  let total := regs.length * h.len
  let isrc := if form.indexed then [f.sb.toNat] else []
  let wr := if load then (if form = .tile then (List.range 8).map fun r => vd + r else [vd]) else []
  let rd := (if load then [] else regs) ++ isrc
  if h.epr ≠ 0 ∧ total ≤ h.epr.toNat then retireVec s
  else
    let goesOn := h.keptNow.isSome
    match (if goesOn then none else firstTrap (wr.map (writeRefused s h ovr (form = .tile))
        ++ rd.map (readRefused s h ovr h.len)
        ++ [vmemRefused form sp ovr tags tb s])) with
    | some t => takeTrap t s
    | none =>
      let entry := if goesOn then none else firstTrap [strideRefused form step tags, raggedRows tags h.len]
      if total = 0 then (match entry with
        | some t => takeTrap t s
        | none => retireVec s)
      else
        let td := (tags.headD (.u8, .u8)).1
        let ready : State → State × Option Stop := fun s =>
          match (if load && !goesOn then s.me.binding? vd else none) with
          | some b => stripAccepted b ((h.loaded vd td f.msk.toNat).map Option.isSome) s
          | none => (s, none)
        let got : State × Except Stop (List Strip) := match sourceStrips 0 h.len rd s with
          | (s1, .error t) => (s1, .error t)
          | (s1, .ok xs) => match ready s1 with
            | (s2, some t) => (s2, .error t)
            | (s2, none) => (s2, .ok xs)
        match got with
        | (s1, .error t) => stopAt t s1
        | (s1, .ok xs) =>
          match entry with
          | some t => takeTrap t s1
          | none =>
          let data := if load then [] else xs.take regs.length
          let idx := match (if load then xs else xs.drop regs.length) with
            | x :: _ => indexInts x
            | [] => []
          let d : VAcc :=
            { form := form, base := s.sr f.sa + f.imm.signExtend 64, step := step, sp := sp, msk := f.msk.toNat
              o := f.o = 1, own := if f.e = 1 then none else some s1.me.pend.length, vl := h.len, regs := rows, idx := idx }
          let flats := data.map Strip.flat
          let whole : Nat → Bool := fun r =>
            let p := (d.row r).2
            p.2.isSx || (load && p.1.isSx)
          let unit := if (List.range regs.length).any whole then 16 else 1
          let lo := h.epr.toNat
          let hi := if h.elemSteps then d.groupEnd whole lo else total
          let r := if load then runUnits d unit whole (loadElem d) (loadBlock d) lo hi s1
            else runUnits d unit whole (storeElem d flats) (storeBlock d data flats) lo hi s1
          let dst := if load then some (vd, td) else none
          match r with
          | (s3, none) => vmemEnd hi total rd (stripFlags xs) dst f.msk.toNat s3
          | (s3, some u) =>
            let first := (s3.me.activeList f.msk.toNat).headD 0
            let sx := (tags.headD (.u8, .u8)).1.isSx || (tags.headD (.u8, .u8)).2.isSx
            let nv := if sx then u.elem / 16 * 16 else u.elem
            let trims := load && decide (f.ff = 1) && (match u.why with
              | .trap t => decide (t.code = Cause.page.code ∨ t.code = Cause.prot.code)
              | .stall => false) && decide (first < u.elem ∧ nv ≠ 0)
            if trims then
              vmemEnd nv nv rd (stripFlags xs) dst f.msk.toNat
                (s3.modMe fun h => { h with vl := BitVec.ofNat 15 nv })
            else stopAtElem u.why u.pos s3

/-- `VLD` (R147, R151, R153). -/
def execVld (f : FmtVM) (s : State) : Host.Outcome State Fault Refusal := .next (vmemRun true .unit f s)

/-- `VLDS` (R147, R151, R153). -/
def execVlds (f : FmtVM) (s : State) : Host.Outcome State Fault Refusal := .next (vmemRun true .stride f s)

/-- `VLDX` (R147, R151, R153). -/
def execVldx (f : FmtVM) (s : State) : Host.Outcome State Fault Refusal := .next (vmemRun true .index f s)

/-- `VLDT` (R155). -/
def execVldt (f : FmtVM) (s : State) : Host.Outcome State Fault Refusal := .next (vmemRun true .tile f s)

/-- `VLDL` (R156). -/
def execVldl (f : FmtVM) (s : State) : Host.Outcome State Fault Refusal := .next (vmemRun true .lane f s)

/-- `VST` (R147, R151). -/
def execVst (f : FmtVM) (s : State) : Host.Outcome State Fault Refusal := .next (vmemRun false .unit f s)

/-- `VSTS` (R147, R151). -/
def execVsts (f : FmtVM) (s : State) : Host.Outcome State Fault Refusal := .next (vmemRun false .stride f s)

/-- `VSTX` (R147, R151). -/
def execVstx (f : FmtVM) (s : State) : Host.Outcome State Fault Refusal := .next (vmemRun false .index f s)

/-- `VSTT` (R155). -/
def execVstt (f : FmtVM) (s : State) : Host.Outcome State Fault Refusal := .next (vmemRun false .tile f s)

/-- `VSTL` (R156). -/
def execVstl (f : FmtVM) (s : State) : Host.Outcome State Fault Refusal := .next (vmemRun false .lane f s)

/-- One element of `VAMO` (R160): the indivisible operation at an address of a space, and the old value. -/
def vamoUnit (sp aop : Nat) (a : Word) (n v : Nat) (s : State) : State × Except Stop Nat :=
  let w := vecWho s s.cur
  match watchElem sp a n true true s with
  | some t => (s, .error t)
  | none =>
    match spacePlaces w s.cur .both sp a n n 0 s with
    | (s1, .error t) => (s1, .error t)
    | (s1, .ok ps) =>
      let host := ps.any fun p => p.hs
      if host && decide (3 ≤ aop) then (s1, .error (accTrap .prot a.toNat))
      else match placesFault ps s1 with
      | (s2, some t) => (s2, .error (t.atAddr a.toNat))
      | (s2, none) =>
        if host && Config.hostAtomicError s2.fresh then (s2.bump, .error (accTrap .prot a.toNat))
        else
          let old := leNat (ps.flatMap fun p => readLoc s2 p.loc p.n)
          let st := storesOf ps (leBytes n (amoFn aop (8 * n) old v 0))
          let s3 := if host then s2.bump else s2
          (performAll st (settleAll s3.cur (countPlaces w ps s3)), .ok old)

/-- The operand value of `VAMO` at an element, from its register unit, with the flags of the conversion (R160). -/
def vamoOperand (td m : Tag) (rm : Rm) (e x : Nat) : Nat × Flags :=
  if td.isSx then m.write rm false 0 (.flt (sxElem td x (e % 16))) else convert td m rm false 0 x

/-- The elements `l` of one unit of VD applied in ascending order (R160): the old values, and the element that stops. -/
def vamoRun (sp aop : Nat) (base : Word) (td m : Tag) (idx : List Int) (units : Nat → Nat) :
    List Nat → State → State × List (Nat × Nat) × Option (Stop × Nat)
  | [], s => (s, [], none)
  | e :: l, s =>
    let v := vamoOperand td m (memRm s) e (units e)
    match vamoUnit sp aop (base + wi (idx.getD e 0)) m.bytes v.1 s with
    | (s1, .error t) => (s1, [], some (t, e))
    | (s1, .ok old) =>
      let r := vamoRun sp aop base td m idx units l (raise v.2 s1)
      (r.1, (e, old) :: r.2.1, r.2.2)

/-- The old values go to VD in its tag; an sx block is quantised once, with its other elements at their current values
(R160, R152; DEDUCED, notes/assumptions/52.md). -/
def vamoPut (vd : Nat) (td m : Tag) (k : Nat) (olds : List (Nat × Nat)) (s : State) : State :=
  if td.isSx then
    if olds = [] then s else putVals vd td (memRm s) k (olds.map fun p => (p.1, elemVal m p.2 0)) s
  else
    olds.foldl (fun s p =>
      let y := convert m td (memRm s) false 0 p.2
      raise y.2 (s.modMe fun h => h.setUnit vd td p.1 y.1)) s

/-- What ends a part of `VAMO` inside a unit: a stop at an element, or the part's end, with the old values of the block so far. -/
inductive AmoStop where
  | at (t : Stop) (e : Nat)
  | held (olds : List (Nat × Nat))

/-- `VAMO` from unit to unit: an element, or under an sx register tag the active elements of a block, whose old values are put
once its last one has been applied; `held` are those of an earlier part. -/
def vamoUnits (sp aop : Nat) (base : Word) (vd : Nat) (td m : Tag) (idx : List Int) (act : Nat → Bool) (per : Nat)
    (held : List (Nat × Nat)) (lo hi len u : Nat) (s : State) : State × Option AmoStop :=
  let units := s.me.unit vd td
  let l := ((List.range per).map fun i => u * per + i).filter fun e => act e && decide (lo ≤ e ∧ e < hi)
  let r := vamoRun sp aop base td m idx (fun e => units (e / per)) l s
  let olds := held.filter (fun p => decide (p.1 / per = u)) ++ r.2.1
  match r.2.2 with
  | some (t, e) => (vamoPut vd td m u olds r.1, some (.at t e))
  | none => if hi < len ∧ hi < (u + 1) * per then (r.1, some (.held olds)) else (vamoPut vd td m u olds r.1, none)

/-- The old values of a block that an earlier part of the `VAMO` has left (R160). -/
def Hart.vamoHeld (h : Hart) (per : Nat) : List (Nat × Nat) :=
  match h.keptNow with
  | some k => k.outs.zipIdx.filterMap fun p => p.1.map fun x => (h.epr.toNat / per * per + p.2, x)
  | none => []

/-- Where a part of `VAMO` ends that begins with the active elements `act` and may go up to `hi`: after a free number of
elements, so that the updates of other agents can come between (R157, R412; DESIGN CHOICE, notes/assumptions/8.md). -/
def vamoCut (act : List Nat) (hi fresh : Nat) : Nat := (act.drop (1 + Config.vamoPart fresh)).headD hi

/-- `VAMO` stands between two parts at a position; the next step of the hart goes on from there. -/
def vamoPause (per e : Nat) (xs : List Strip) (olds : List (Nat × Nat)) (s : State) : State :=
  s.modMe fun h => (h.keeps e xs none).standsAt e
    (if olds = [] then [] else (List.range (e % per)).map fun i => (olds.find? fun p => p.1 == e / per * per + i).map Prod.snd)

/-- The elements of `VAMO` from `epr` on, up to the end of a part (R160). -/
def vamoPart (f : FmtVM) (base : Word) (td m : Tag) (xs : List Strip) (s : State) : State :=
  let h := s.me
  let idx := indexInts (xs.headD { tag := .u8, vals := [], skew := 0, flags := 0 })
  let lo := h.epr.toNat
  let g := if td.isSx then 16 else m.groupLen
  let hi := if h.elemSteps then min h.len ((lo / g + 1) * g) else h.len
  let per := if td.isSx then 16 else 1
  let act := (List.range hi).filter fun e => decide (lo ≤ e) && h.active f.msk.toNat e
  let one := decide (act.length ≤ 1)
  let cut := if one then hi else vamoCut act hi s.fresh
  match loopFrom (vamoUnits f.sp.toNat f.aop.toNat base f.vd.toNat td m idx (h.active f.msk.toNat) per (h.vamoHeld per) lo cut
      h.len) ((cut + per - 1) / per - lo / per) (lo / per) (if one then s else s.bump) with
  | (s2, some (.at t e)) => stopAtElem t e s2
  | (s2, some (.held olds)) => vamoPause per cut xs olds s2
  | (s2, none) => if cut < hi then vamoPause per cut xs [] s2 else vmemEnd hi h.len [f.sb.toNat] (stripFlags xs) none 0 s2

/-- `VAMO` (R160): each active element applied once, in ascending order; other agents may act between two of them (R412). -/
def execVamo (f : FmtVM) (s0 : State) : Host.Outcome State Fault Refusal :=
  let s := settleAll s0.cur s0
  let h := s.me
  let vd := f.vd.toNat
  let sb := f.sb.toNat
  let ovr := f.ovr.toNat
  let td := h.tagOf vd
  let m := h.opTag ovr vd
  let tb := h.tagOf sb
  let okM := decide (m = .i32 ∨ m = .u32 ∨ m = .i64 ∨ m = .u64)
  let goesOn := h.keptNow.isSome
  let refused := firstTrap
    [if decide (td = .kx) && decide (ovr ≠ 0) then badTag td 0 else if okM then none else badTag m 0,
     if tb.isInt then none else badTag tb 2]
  .next (
    if h.epr ≠ 0 ∧ h.len ≤ h.epr.toNat then retireVec s
    else
      match (if goesOn then none else firstTrap [writeRefused s h ovr true vd, readRefused s h ovr h.len sb, refused,
          capCheck s [(td, 0), (tb, 2)]]) with
      | some t => takeTrap t s
      | none =>
        let ragged := if goesOn then none else raggedRows [(td, m)] h.len
        if h.len = 0 then retireVec s
        else
          match sourceStrips 0 h.len [sb] s with
          | (s1, .error t) => stopAt t s1
          | (s1, .ok xs) => match ragged with
            | some t => takeTrap t s1
            | none => vamoPart f (s.sr f.sa + (BitVec.ofNat 13 f.imm.toNat).signExtend 64) td m xs s1)

/-- `VPF` (R161): a prefetch writes no register and never traps on an address; what it brings nearer is not visible. -/
def execVpf (_f : FmtVM) (s : State) : Host.Outcome State Fault Refusal := .next (retireVec s)

end Sys2Proof.Machine
end

