-- ==== Sys2Proof/Machine/Copy.lean ====
section
/-!
DEFINITION. Tile copies: `CPY` and the engine's events (R162 to R164).
-/
namespace Sys2Proof.Machine

open Sys2Proof

/-- A tile copy by its identity. -/
def State.copy? (s : State) (t : Nat) : Option Copy := s.copies.find? fun c => c.id == t
/-- The state with a tile copy replaced. -/
def State.setCopy (s : State) (c : Copy) : State :=
  { s with copies := s.copies.map fun x => if x.id = c.id then c else x }
/-- The state without a tile copy. -/
def State.dropCopy (s : State) (t : Nat) : State := { s with copies := s.copies.filter fun x => x.id != t }

/-- The transfers that an engine of a cluster holds (R163); stopped ones have left it. -/
def engineLoad (s : State) (cluster engine : Nat) : Nat :=
  (s.copies.filter fun c => decide (c.cluster = cluster ∧ c.engine = engine) && !c.stopped).length

/-- The core and scratchpad offset that `CPY` names, and whether its range keeps R143. -/
def cpyRange (s : State) (sp : Nat) (a : Word) (n : Nat) : Nat × Nat × Bool :=
  if sp = 1 then
    match s.myGroup with
    | some (_, g) => (s.myCore, g.spadBase + a.toNat, n = 0 || decide (a.toNat + n ≤ g.spadSize))
    | none => (s.myCore, 0, n = 0)
  else
    let idx := nbits a.toNat 19 7
    let k := clusterOf s.myCore * 96 + idx
    let off := a.toNat % 2 ^ 19
    (k, off, n = 0 ||
      (decide (a.toNat < 2 ^ 26 ∧ idx < 96 ∧ off + n ≤ 2 ^ 19) && inAllocation s (s.asidOf s.cur) k off n))

/-- `CPY` (R162, R163): the checks at issue, then the engine of the core takes the transfer, or holds the `CPY` while it
is full. -/
def execCpy (f : FmtVM) (s0 : State) : Host.Outcome State Fault Refusal :=
  let s := settleAll s0.cur s0
  let main := s.sr f.sa
  let sp := s.sr (f.sa + 1)
  let n := (s.sr f.sb).toNat
  let chunk := 2 ^ (f.imm.toNat / 4096 % 16 + 8)
  let p := if f.sp = 1 then sp.toNat else sp.toNat % 2 ^ 19
  let (core, off, ok) := cpyRange s f.sp.toNat sp n
  let cl := clusterOf s.myCore
  let en := s.myCore % 96 % 2
  .next (
    match firstTrap
      [if main.toNat % 64 ≠ 0 then some (Trap.vector .align main) else none,
       if p % chunk ≠ 0 then some (Trap.vector .align sp) else none,
       if n % 64 ≠ 0 then some (Trap.vector .align (wd n)) else none,
       if ok then none else some (Trap.vector .prot sp)] with
    | some t => takeTrap t s
    | none =>
      if n = 0 then retireVec s
      else if 64 ≤ engineLoad s cl en then s
      else
        let c : Copy :=
          { id := s.nextId, hart := some (s.cur, f.vd.toNat), queue := none, asid := s.asidOf s.cur, cluster := cl
            engine := en, dirOut := f.imm.toNat / 2 ^ 16 = 1, main := main, core := core, off := off, dst := sp
            len := n, chunk := chunk, next := 0, sup := s.me.level = .s, stopped := false }
        retireVec { s with copies := s.copies ++ [c], nextId := s.nextId + 1 })

/-- The agent of a tile copy: the engine acts for its hart's kernel (R173), or for no kernel (R449). -/
def copyWho (s : State) (c : Copy) : Who :=
  match c.hart with
  | some (h, _) => { hartWho s h with sup := c.sup, cluster := c.cluster }
  | none => ctxWho c.asid c.cluster

/-- One line of a transfer into a scratchpad (R164): a source line with the bittern pattern poisons its words. -/
def copyLineIn (c : Copy) (o : Nat) (s : State) : State × Option Stop :=
  match vread (copyWho s c) .load (c.main + wd o).toNat 64 s with
  | (s1, .ok d) => (writeLoc (.spad c.core (c.off + o)) Cry.ovune d s1, none)
  | (s1, .error (.trap t)) =>
    if t.code = Cause.poison.code then
      let k := s1.core c.core
      let words := ((List.range 8).map fun i => (Sram.spad, (c.off + o) / 8 + i)).filter fun w => !(k.poison.contains w)
      (s1.setCore c.core { k with poison := k.poison ++ words }, none)
    else (s1, some (.trap t))
  | (s1, .error .stall) => (s1, some .stall)

/-- The line at a place, just written whole, gets the bittern pattern (R164). -/
def markLine (p : Place) (s : State) : State :=
  match p.loc with
  | .dev pa => s.setLine (pa / 64) { s.line (pa / 64) with poison := true }
  | .host pa => { s with outMarks := s.outMarks ++ [(none, pa / 64)] }
  | .peer d pa => { s with outMarks := s.outMarks ++ [(some d, pa / 64)] }
  | _ => s

/-- One line of a transfer out of a scratchpad (R164): a poisoned word marks the destination line. -/
def copyLineOut (c : Copy) (o : Nat) (s : State) : State × Option Stop :=
  let va := (c.main + wd o).toNat
  let w := copyWho s c
  match vwriteCheck w va 64 s with
  | (s1, .error t) => (s1, some t)
  | (s1, .ok ps) =>
    let bad := (s1.core c.core).marked .spad (c.off + o) 64
    let s2 := countPlaces w ps (performAll (storesOf ps (readLoc s1 (.spad c.core (c.off + o)) 64)) s1)
    (if bad then ps.foldl (fun s p => markLine p s) s2 else s2, none)

/-- The next chunk of a hart's transfer, line by line, and what stopped it. -/
def copyChunk (c : Copy) (s : State) : State × Option Stop :=
  let lo := c.next * c.chunk
  let lines := (min (lo + c.chunk) c.len - lo) / 64
  loopFrom (fun i s => if c.dirOut then copyLineOut c (lo + 64 * i) s else copyLineIn c (lo + 64 * i) s) lines 0 s

/-- A group that is being saved may now be saved whole (R164). -/
def afterCopy (h : Nat) (s : State) : State :=
  match (s.hart h).group with
  | some g => finishSave g s
  | none => s

/-- `TILE_COPY_CHUNK_DONE` (R163): the next chunk of a transfer is copied and its bit set; after the last the transfer
ends. A chunk that meets a fault is not this event. -/
def execTileCopyChunkDone (t : Nat) (s : State) : Host.Outcome State Fault Refusal :=
  .next (match s.copy? t with
    | none => s
    | some c =>
      match c.hart with
      | none => s
      | some (h, md) =>
        if c.stopped then s
        else
          match copyChunk c s with
          | (_, some _) => s
          | (s1, none) =>
            let bitNo := c.dst.toNat % 2 ^ 19 / c.chunk
            let s2 := s1.modHart h fun x => { x with mreg := x.mreg.set! md (setBit (x.mreg[md]!) (bitNo + c.next) true) }
            if c.len ≤ (c.next + 1) * c.chunk then afterCopy h (s2.dropCopy t)
            else s2.setCopy { c with next := c.next + 1 })

/-- `TILE_COPY_FAULT` (R164): the next chunk of a transfer meets a fault; the transfer stops and the hart latches the
cause and the address. -/
def execTileCopyFault (t : Nat) (s : State) : Host.Outcome State Fault Refusal :=
  .next (match s.copy? t with
    | none => s
    | some c =>
      match c.hart with
      | none => s
      | some (h, md) =>
        if c.stopped then s
        else
          match copyChunk c s with
          | (s1, some (.trap x)) =>
            let l : Latch := { lm := md, cause := x.code, tval := x.tval, work := .copy t, delivered := false }
            afterCopy h (addLatch h l (s1.setCopy { c with stopped := true }))
          | _ => s)

end Sys2Proof.Machine
end

