-- ==== Sys2Proof/Machine/Descr.lean ====
section
/-!
DEFINITION. Descriptors (R240 to R243) and major 0x70, the descriptor instructions: R251 to R254.
-/
namespace Sys2Proof.Machine

open Sys2Proof

/-! ## Descriptor registers -/

/-- A descriptor register as the hart reads it; `d0` is the null record (R242). -/
def Hart.desc (h : Hart) (d : BitVec 5) : Desc := if d = 0 then Desc.null else h.dreg[d.toNat]'d.isLt
/-- The hart with a descriptor register written; writes to `d0` are discarded (R242). -/
def Hart.setDesc (h : Hart) (d : BitVec 5) (x : Desc) : Hart := if d = 0 then h else { h with dreg := h.dreg.set! d.toNat x }

/-- The element tag of a descriptor. -/
def Desc.elemTag (d : Desc) : Tag := Tag.ofCode d.tag.toNat
/-- The extents of its axes. -/
def Desc.shape (d : Desc) : List Nat := (List.range d.rank.toNat).map fun i => (d.ext[i]!).toNat
/-- The stride of an axis, in elements. -/
def Desc.stride (d : Desc) (k : Nat) : Int := (d.str[k]!).toInt
/-- Its element count, exactly; 1 for rank 0 (R252). -/
def Desc.count (d : Desc) : Nat := prodL d.shape

/-- A FRAME trap (R243): values saturate at 0xFFF_FFFF. -/
def frameTrap (level axis kind ea eb : Nat) : Trap :=
  Trap.vector .frame (wd (level * 2 ^ 62 + axis % 8 * 2 ^ 59 + kind * 2 ^ 56 + min ea 0xFFFFFFF * 2 ^ 28 + min eb 0xFFFFFFF))

/-- An axis at or beyond a rank (R243). -/
def axisTrap (ax rank : Nat) : Trap := frameTrap 3 0 3 ax rank

/-! ## Records (R240) -/

/-- The fields of a record given as its bytes' number. -/
def Desc.ofNat (x : Nat) : Desc :=
  { base := wd x
    ext := Vector.ofFn fun i => BitVec.ofNat 32 (nbits x (64 + 32 * i.val) 32)
    str := Vector.ofFn fun i => BitVec.ofNat 40 (nbits x (320 + 40 * i.val) 40)
    cap := wd (nbits x 640 64), rank := BitVec.ofNat 4 (nbits x 704 4), tag := BitVec.ofNat 4 (nbits x 712 4)
    space := BitVec.ofNat 3 (nbits x 720 3) }

/-- A space that a descriptor may name (R240). -/
def spaceOk (sp : Nat) : Bool := decide (sp ≤ 2 ∨ sp = 4 ∨ sp = 5)

/-- The byte offset of the first offending field of a record, where it is malformed (R240, R243). -/
def malformedAt (x : Nat) : Option Nat :=
  let rank := nbits x 704 4
  let stray : Nat → Nat → Bool := fun lo n => decide (nbits x lo n ≠ 0) && Config.strayBits
  let axes := (List.range 8).filter fun i => decide (rank ≤ i)
  let exts := (axes.filter fun i => decide (nbits x (64 + 32 * i) 32 ≠ 0)).map fun i => 8 + 4 * i
  let strs := (axes.filter fun i => decide (nbits x (320 + 40 * i) 40 ≠ 0)).map fun i => 40 + 5 * i
  let last := ((List.range 37).filter fun i => stray (728 + 8 * i) 8).map fun i => 91 + i
  (exts ++ strs ++ (if 8 < rank ∨ stray 708 4 = true then [88] else []) ++ (if stray 716 4 then [89] else [])
    ++ (if spaceOk (nbits x 720 3) = false ∨ stray 723 5 = true then [90] else []) ++ last).head?

/-! ## Shapes that instructions write -/

/-- Row-major strides of a shape: the product of the extents behind each axis. -/
def rowMajor : List Nat → List Nat
  | [] => []
  | _ :: l => prodL l :: rowMajor l

/-- A value in a field of `w` bits of which it may take values below `top`; one that does not fit, which no rule gives
a place, is free (DESIGN CHOICE, notes/assumptions/8.md). -/
def fitField (w top fresh x : Nat) : BitVec w :=
  BitVec.ofNat w (if x < top then x else (Config.unstated fresh).toNat)

/-- The record with a shape and row-major strides; what stands at `fresh` and above are the free values taken. -/
def Desc.withShape (d : Desc) (fresh : Nat) (sh : List Nat) : Desc :=
  let st := rowMajor sh
  { d with
    rank := BitVec.ofNat 4 sh.length
    ext := Vector.ofFn fun i => fitField 32 (2 ^ 32) (fresh + i.val) (sh.getD i.val 0)
    str := Vector.ofFn fun i => fitField 40 (2 ^ 39) (fresh + 8 + i.val) (st.getD i.val 0) }

/-- A shape and its strides fit their fields. -/
def shapeFits (sh : List Nat) : Bool :=
  (sh.all fun x => decide (x < 2 ^ 32)) && ((rowMajor sh).all fun x => decide (x < 2 ^ 39))

/-- DD's register takes a shape with row-major strides; BASE, TAG, SPACE and CAP of `d` (R248, R253). -/
def writeShape (dd : BitVec 5) (d : Desc) (sh : List Nat) (s : State) : State :=
  let s1 := s.modMe fun h => h.setDesc dd (d.withShape s.fresh sh)
  if shapeFits sh then s1 else { s1 with fresh := s.fresh + 16 }

/-! ## The instructions of major 0x70 -/

/-- A descriptor instruction that changes DD's record, or traps. -/
def descOp (f : FmtA) (r : Except Trap Desc) (s : State) : State :=
  match r with
  | .error t => takeTrap t s
  | .ok d => retireVec (s.modMe fun h => h.setDesc f.dd d)

/-- `DLD` (R251): DD := the record at SR[SA]; a descriptor access translates by the second-level TLB (R364). -/
def execDld (f : FmtA) (s0 : State) : Host.Outcome State Fault Refusal :=
  let s := settleAll s0.cur s0
  let a := s.sr f.sa
  .next (
    if a.toNat % 64 ≠ 0 then takeTrap (Trap.vector .align a) s
    else
      match watchElem 0 a 128 true false s with
      | some t => stopAt t s
      | none =>
        match readSpace (hartWho s s.cur) s.cur 0 a 128 64 0 s with
        | (s1, .error t) => stopAt t s1
        | (s1, .ok b) =>
          match malformedAt (leNat b) with
          | some off => takeTrap (frameTrap 3 0 0 off 0) s1
          | none => retireVec (s1.modMe fun h => h.setDesc f.dd (Desc.ofNat (leNat b))))

/-- `DSTR` (R251): DA's record stored at SR[SA], translated by the second-level TLB (R364). -/
def execDstr (f : FmtA) (s0 : State) : Host.Outcome State Fault Refusal :=
  let s := settleAll s0.cur s0
  let a := s.sr f.sa
  .next (
    if a.toNat % 64 ≠ 0 then takeTrap (Trap.vector .align a) s
    else
      match watchElem 0 a 128 false true s with
      | some t => stopAt t s
      | none =>
        match storeSpace (hartWho s s.cur) s.cur 0 a (s.me.desc f.da).bytes 64 0 false none s with
        | (s1, some t) => stopAt t s1
        | (s1, none) => retireVec s1)

/-- What `DGET` returns (R252). -/
def descItem (d : Desc) (item ax : Nat) : Word :=
  match item with
  | 0 => if ax < d.rank.toNat then wd (d.ext[ax]!).toNat else 0
  | 1 => if ax < d.rank.toNat then wi (d.stride ax) else 0
  | 2 => wd d.rank.toNat
  | 3 => wd d.tag.toNat
  | 4 => wd d.space.toNat
  | 5 => d.base
  | 6 => d.cap
  | _ => if d.count < 2 ^ 64 then wd d.count else ones

/-- `DGET` (R252): SR[SA] := an item of DA's record. -/
def execDget (f : FmtA) (s : State) : Host.Outcome State Fault Refusal :=
  .next (retireVec (s.setSr f.sa (descItem (s.me.desc f.da) f.db.toNat f.ax.toNat)))

/-- The record with a new rank: new axes have extent 1 and stride 0, axes dropped have both 0 (R252). -/
def Desc.withRank (d : Desc) (r : Nat) : Desc :=
  { d with
    rank := BitVec.ofNat 4 r
    ext := Vector.ofFn fun i => if r ≤ i.val then 0 else if d.rank.toNat ≤ i.val then 1 else d.ext[i]
    str := Vector.ofFn fun i => if r ≤ i.val ∨ d.rank.toNat ≤ i.val then 0 else d.str[i] }

/-- The record that `DSETX` leaves (R252). -/
def descSet (d : Desc) (item ax : Nat) (v : Word) : Except Trap Desc :=
  let bad : Nat → Except Trap Desc := fun off => .error (frameTrap 3 0 0 off 0)
  let onAxis : Desc → Except Trap Desc := fun e => if ax < d.rank.toNat then .ok e else .error (axisTrap ax d.rank.toNat)
  match item with
  | 0 => if 2 ^ 32 ≤ v.toNat then bad (8 + 4 * ax) else onAxis { d with ext := d.ext.set! ax (BitVec.ofNat 32 v.toNat) }
  | 1 =>
    if v.toInt < -(2 ^ 39 : Int) ∨ (2 ^ 39 : Int) ≤ v.toInt then bad (40 + 5 * ax)
    else onAxis { d with str := d.str.set! ax (BitVec.ofNat 40 v.toNat) }
  | 2 => if 8 < v.toNat then bad 88 else .ok (d.withRank v.toNat)
  | 3 => if 15 < v.toNat then bad 89 else .ok { d with tag := BitVec.ofNat 4 v.toNat }
  | 4 => if 8 ≤ v.toNat ∨ spaceOk v.toNat = false then bad 90 else .ok { d with space := BitVec.ofNat 3 v.toNat }
  | 5 => .ok { d with base := v }
  | _ => .ok { d with cap := v }

/-- `DSETX` (R252): one field of DD := SR[SA]. -/
def execDsetx (f : FmtA) (s : State) : Host.Outcome State Fault Refusal :=
  .next (descOp f (descSet (s.me.desc f.dd) f.db.toNat f.ax.toNat (s.sr f.sa)) s)

/-- The first axis of extent 2 or more whose stride is not dense, with its stride and the dense one (R253). -/
def notDense (d : Desc) : Option (Nat × Int × Nat) :=
  let st := rowMajor d.shape
  ((List.range d.rank.toNat).map fun k => (k, d.stride k, st.getD k 0)).find? fun p =>
    decide (2 ≤ (d.ext[p.1]!).toNat ∧ p.2.1 ≠ (p.2.2 : Int))

/-- `DRESH` (R253): DA's elements under DB's shape. The first value that a trap reports for a negative stride is free
(DESIGN CHOICE, notes/assumptions/8.md): R243 gives unsigned fields. -/
def execDresh (f : FmtA) (s : State) : Host.Outcome State Fault Refusal :=
  let a := s.me.desc f.da
  let b := s.me.desc f.db
  .next (
    match notDense a with
    | some (k, st, want) =>
      if st < 0 then takeTrap (frameTrap 3 k 2 (fld (Config.unstated s.fresh) 0 28) want) s.bump
      else takeTrap (frameTrap 3 k 2 st.toNat want) s
    | none =>
      if a.count ≠ b.count then takeTrap (frameTrap 3 0 1 a.count b.count) s
      else retireVec (writeShape f.dd a b.shape s))

/-- `DTRANS` (R251): DA with the extents and strides of two axes exchanged. -/
def execDtrans (f : FmtA) (s : State) : Host.Outcome State Fault Refusal :=
  let d := s.me.desc f.da
  let n := f.ax.toNat
  let m := f.db.toNat
  let r := d.rank.toNat
  .next (descOp f
    (if r ≤ n then .error (axisTrap n r)
     else if r ≤ m then .error (axisTrap m r)
     else .ok { d with ext := (d.ext.set! n (d.ext[m]!)).set! m (d.ext[n]!)
                       str := (d.str.set! n (d.str[m]!)).set! m (d.str[n]!) }) s)

/-- `DTAKE` (R254): a window of DA along axis n. A capacity beyond 2^64 − 1 is free (DESIGN CHOICE, notes/assumptions/8.md). -/
def execDtake (f : FmtA) (s : State) : Host.Outcome State Fault Refusal :=
  let d := s.me.desc f.da
  let n := f.ax.toNat
  let q := (s.sr f.sa).toInt
  let e := (d.ext[n]!).toNat
  let m := q.natAbs
  let cut := { d with ext := d.ext.set! n (BitVec.ofNat 32 m) }
  .next (
    if d.rank.toNat ≤ n then takeTrap (axisTrap n d.rank.toNat) s
    else if e < m then takeTrap (frameTrap 3 n 4 m e) s
    else if 0 ≤ q then descOp f (.ok cut) s
    else
      let o : Int := ((e - m : Nat) : Int) * d.stride n
      let t := d.elemTag
      if t.isSx ∧ o % 16 ≠ 0 then takeTrap (Trap.vector .stride (wi o)) s
      else
        let base := d.base + wi (if t.isSx then o / 16 * t.blockBytes else o * t.bytes)
        let cap := max ((d.cap.toNat : Int) - o) 0
        let big := decide ((2 ^ 64 : Int) ≤ cap)
        descOp f (.ok { cut with base := base, cap := if big then Config.unstated s.fresh else wi cap })
          (if big then s.bump else s))

end Sys2Proof.Machine
end

