-- ==== Sys2Proof/Machine/Seal.lean ====
section
/-!
DEFINITION. Witness regions, headers and seals: R319 to R324, and the reading and writing of a header (R326, R328, R331).
-/
namespace Sys2Proof.Machine

open Sys2Proof

/-- A WITNESS trap (R323). -/
def witTrap (reason : Nat) (base : Word) : Trap := Trap.vector .witness (wd (reason * 2 ^ 56 + base.toNat % 2 ^ 56))

/-- WLOG of a position-valued field for n contributors (R321). -/
def positionLog (n : Nat) : Nat := if n < 256 then 3 else if n < 65536 then 4 else 5

/-- FBYTES for a result count (R321). -/
def fieldBytes (wlog count : Nat) : Nat := 8 * ((count * 2 ^ wlog + 63) / 64)

/-- A witness header with its shape line (R320), its two reserved fields among them. -/
structure Header where
  magic  : Nat
  op     : Nat
  wlog   : Nat
  rank   : Nat
  iax    : Nat
  uses   : Nat
  flags  : Nat
  n      : Nat
  rsv    : Nat
  rsv2   : Nat
  sver   : Nat
  serial : Nat
  fbytes : Nat
  ext    : List Nat
  deriving DecidableEq, Repr

/-- The header that 64 bytes hold, given as their number. -/
def Header.ofNat (x : Nat) : Header :=
  { magic := nbits x 0 16, op := nbits x 16 8, wlog := nbits x 24 8, rank := nbits x 32 8, iax := nbits x 40 8
    uses := nbits x 48 8, flags := nbits x 56 8, n := nbits x 64 32, rsv := nbits x 96 32, rsv2 := nbits x 224 32
    sver := nbits x 128 16, serial := nbits x 144 48, fbytes := nbits x 192 32
    ext := (List.range 8).map fun i => nbits x (256 + 32 * i) 32 }

/-- The 64 bytes of a header. -/
def Header.bytes (h : Header) : List Byte :=
  leBytes 2 h.magic ++ leBytes 1 h.op ++ leBytes 1 h.wlog ++ leBytes 1 h.rank ++ leBytes 1 h.iax ++ leBytes 1 h.uses
    ++ leBytes 1 h.flags ++ leBytes 4 h.n ++ leBytes 4 h.rsv ++ leBytes 2 h.sver ++ leBytes 6 h.serial ++ leBytes 4 h.fbytes
    ++ leBytes 4 h.rsv2 ++ (List.range 8).flatMap fun i => leBytes 4 (h.ext.getD i 0)

/-- The result shape that a header names. -/
def Header.shape (h : Header) : List Nat := h.ext.take h.rank
/-- LIVE. -/
def Header.live (h : Header) : Bool := decide (h.flags % 2 = 1)

/-- WLOG of an operator's field for n contributors (R321, R324). -/
def opLog (op n : Nat) : Nat :=
  match op with
  | 4 | 9 => 1
  | 5 => 0
  | 6 => 6
  | 7 | 8 => 3
  | _ => positionLog n

/-- A header that a witness instruction writes (R323, reason 1). -/
def Header.formOk (h : Header) : Bool :=
  decide (h.magic = 0x5457 ∧ 1 ≤ h.op ∧ h.op ≤ 9 ∧ h.rank ≤ 8 ∧ h.flags = 1 ∧ h.rsv = 0 ∧ h.rsv2 = 0) &&
    decide (if h.op ≤ 5 then h.iax ≤ h.rank else if h.op = 6 then h.iax < h.rank else h.iax = 0) &&
    ((h.ext.drop h.rank).all fun e => e == 0) &&
    decide (h.wlog = opLog h.op h.n ∧ h.fbytes = fieldBytes h.wlog (prodL h.shape))

/-- The first of reasons 1 to 3 that applies to a header under the current version of its line, or 0 (R323). -/
def Header.reason (h : Header) (version : Nat) (countUses : Bool) : Nat :=
  if h.formOk = false then 1 else if h.sver ≠ version then 2 else if countUses && decide (h.uses = 0) then 3 else 0

/-- The page of an address is host-shared, whatever its permissions; an address without a translation fails at the access
instead (R319). -/
def hostShared (base : Word) (s : State) : Bool :=
  decide (base.toNat < 2 ^ 55) && (match leafAt s (vecWho s s.cur) base.toNat with
    | .ok l => l.leaf.getLsbD 12
    | .error _ => false)

/-- The witness descriptor of a region for FBYTES of fields, or the trap of reason 6 (R319). -/
def witRegion (d : Desc) (fbytes : Nat) (s : State) : Except Trap Desc :=
  let uses := (d.str[0]).toInt
  if d.space = 0 ∧ d.rank = 1 ∧ d.tag = 0 ∧ d.base.toNat % 64 = 0 ∧ 1 ≤ uses ∧ uses ≤ 255 ∧
      64 + fbytes ≤ (d.ext[0]).toNat ∧ hostShared d.base s = false then .ok d
  else .error (witTrap 6 d.base)

/-- The low 16 bits of the counter of a header's place: for a read its current version, for a write the counter it is
encrypted under (R322). A peer's counters are its own (DESIGN CHOICE, notes/assumptions/8.md). -/
def lineVersion (write : Bool) (ps : List Place) (s : State) : State × Nat :=
  match ps with
  | p :: _ =>
    match p.loc with
    | .dev pa =>
      let l := s.line (pa / 64)
      (s, (if write then (writtenLine s p.cry l true).ctr else (readCtr s p.cry l).2).toNat % 2 ^ 16)
    | _ => (s.bump, fld (Config.unstated s.fresh) 0 16)
  | [] => (s, 0)

/-- Reading the header line at a witness's BASE with WATCH (R237) and the checks of R150, and its current version (R327,
R331). -/
def readHeader (base : Word) (s : State) : State × Except Stop (Header × Nat) :=
  let w := vecWho s s.cur
  match watchElem 0 base 64 true false s with
  | some t => (s, .error t)
  | none =>
  match spacePlaces w s.cur .load 0 base 64 64 0 s with
  | (s1, .error t) => (s1, .error t)
  | (s1, .ok ps) =>
    match placesFault ps s1 with
    | (s2, some t) => (s2, .error (t.atAddr base.toNat))
    | (s2, none) =>
      let x := leNat (ps.flatMap fun p => readLoc s2 p.loc p.n)
      let v := lineVersion false ps s2
      (countPlaces w ps v.1, .ok (Header.ofNat x, v.2))

/-- Writing the header line as one store with release at device scope, SVER set to the counter of that write (R322,
R326). -/
def putHeader (base : Word) (h : Header) (s : State) : State × Option Stop :=
  match releaseGate s.cur s with
  | .error t => (s, some t.asVector)
  | .ok s1 =>
    let w := vecWho s1 s1.cur
    match watchElem 0 base 64 false true s1 with
    | some t => (s1, some t)
    | none =>
    match spacePlaces w s1.cur .store 0 base 64 64 0 s1 with
    | (s2, .error t) => (s2, some t)
    | (s2, .ok ps) =>
      let v := lineVersion true ps s2
      let st := storesOf ps { h with sver := v.2 }.bytes
      (acceptStores v.1.cur true none st base.toNat (countHots w ps v.1), none)

/-- The claim of R328: the header is read again, its reasons checked again, and one use taken. -/
def claimUse (base : Word) (s : State) : State × Option Stop :=
  match readHeader base s with
  | (s1, .error t) => (s1, some t)
  | (s1, .ok (h, v)) =>
    let r := h.reason v true
    if r ≠ 0 then (s1, some (.trap (witTrap r base)))
    else if h.uses = 255 then (s1, none)
    else putHeader base { h with uses := h.uses - 1 } s1

/-- What an array instruction writes as a witness (R326): the region, the operator, its field width, the contributors
per result, the axis, and the result shape. -/
structure Wit where
  d     : Desc
  op    : Nat
  n     : Nat
  iax   : Nat
  shape : List Nat
  deriving DecidableEq, Repr

/-- WLOG of a witness's fields. -/
def Wit.wlog (w : Wit) : Nat := opLog w.op w.n
/-- Its FBYTES. -/
def Wit.fbytes (w : Wit) : Nat := fieldBytes w.wlog (prodL w.shape)

/-- The header that ends the writing of a witness (R326). -/
def Wit.header (w : Wit) (serial : Nat) : Header :=
  { magic := 0x5457, op := w.op, wlog := w.wlog, rank := w.shape.length, iax := w.iax, uses := (w.d.str[0]).toNat
    flags := 1, n := w.n, rsv := 0, rsv2 := 0, sver := 0, serial := serial, fbytes := w.fbytes, ext := w.shape }

/-- The checks of R326 that stand after those of R247: the region, then a top-k contributor count. -/
def checkWit (w : Option Wit) (s : State) : State × Option Stop :=
  match w with
  | none => (s, none)
  | some w =>
    (s, match witRegion w.d w.fbytes s with
      | .error t => some (.trap t)
      | .ok d => if w.op = 6 ∧ 65536 ≤ w.n then some (.trap (witTrap 7 d.base)) else none)

/-- The number whose w-bit digits from the lowest on are the values. -/
def packFields (w : Nat) : List Nat → Nat
  | [] => 0
  | x :: l => x % 2 ^ w + 2 ^ w * packFields w l

/-- Fields by result index as runs of consecutive ones. -/
def fieldRuns : List (Nat × Nat) → List (Nat × List Nat)
  | [] => []
  | (i, x) :: l => match fieldRuns l with
    | (k, xs) :: r => if k = i + 1 then (i, x :: xs) :: r else (i, [x]) :: (k, xs) :: r
    | [] => [(i, [x])]

/-- The stores of a run of a strip's witness fields, from result i on (R321, R326): the bits of other fields stay as they
are, and the bits beyond the last field are written as zero with it. -/
def fieldStores (w : Wit) (run : Nat × List Nat) (s : State) : State × Except Stop (List PStore × Nat) :=
    let i := run.1
    let fields := run.2
    let wb := 2 ^ w.wlog
    let lo := wb * i
    let stop := i + fields.length
    let hi := if stop = prodL w.shape then 8 * w.fbytes else wb * stop
    let b0 := lo / 8
    let n := (hi + 7) / 8 - b0
    let a := w.d.base + wd (64 + b0)
    let who := vecWho s s.cur
    match watchElem 0 a n false true s with
    | some t => (s, .error t)
    | none =>
    match spacePlaces who s.cur .store 0 a n 1 0 s with
    | (s1, .error t) => (s1, .error t)
    | (s1, .ok ps) =>
      let old := leNat (ps.flatMap fun p => readLoc s1 p.loc p.n)
      let new := old % 2 ^ (lo - 8 * b0) + packFields wb fields * 2 ^ (lo - 8 * b0)
        + old / 2 ^ (hi - 8 * b0) * 2 ^ (hi - 8 * b0)
      (countHots who ps s1, .ok (storesOf ps (leBytes n new), a.toNat))

end Sys2Proof.Machine
end

