-- ==== Sys2Proof/Machine/ArrayRun.lean ====
section
/-!
DEFINITION. How an array instruction runs: element positions (R241), frames, cells and agreement (R244 to R246), the
checks of R247, and the strips of R248 with their commits (R249, R260 to R262, R326), one strip a step.
-/
namespace Sys2Proof.Machine

open Sys2Proof

/-! ## Shapes and agreement -/

/-- The multi-index of a row-major linear index. -/
def unravel : List Nat → Nat → List Nat
  | [], _ => []
  | _ :: sh, i => (i / prodL sh) :: unravel sh (i % prodL sh)

/-- The row-major linear index of a multi-index. -/
def ravel (sh x : List Nat) : Nat := (sh.zip x).foldl (fun i p => i * p.1 + p.2) 0

/-- The frame and the cell of a shape under a rank operand (R244). -/
def splitShape (sh : List Nat) (k : Nat) : List Nat × List Nat :=
  let r := sh.length
  let c := if k ≤ 8 then min k r else r - min (k - 8) r
  (sh.take (r - c), sh.drop (r - c))

/-- `Agree` of R245: the longer shape, or the FRAME trap of the first axis that differs. -/
def agree (level kind : Nat) (p q : List Nat) : Except Trap (List Nat) :=
  match ((p.zip q).zipIdx).find? fun x => x.1.1 != x.1.2 with
  | some ((a, b), i) => .error (frameTrap level i kind a b)
  | none => .ok (if q.length ≤ p.length then p else q)

/-- More than 8 axes (R245). -/
def axesCheck (sh : List Nat) : Except Trap Unit := if 8 < sh.length then .error (axisTrap sh.length 8) else .ok ()

/-- Which element of an operand a result index takes (R245): `frame` and `cell` axes of the operand, behind `skip` axes
of the result's frame. -/
def operandIndex (frame skip cell : Nat) (x : List Nat) : List Nat := x.take frame ++ (x.drop skip).take cell

/-- The result shape of a dyadic instruction, with the axes of the frame F and of each operand's frame and cell (R245). -/
def agreeTwo (a b : List Nat) (ka kb : Nat) : Except Trap (List Nat × (List Nat → List Nat) × (List Nat → List Nat)) := do
  let (fa, ca) := splitShape a ka
  let (fb, cb) := splitShape b kb
  let f ← agree 0 0 fa fb
  let c ← agree 1 0 ca cb
  let s := f ++ c
  .ok (s, operandIndex fa.length f.length ca.length, operandIndex fb.length f.length cb.length)

/-! ## Checks of R247 -/

/-- A tag that the array sequencer refuses as f64 or kx (R255). -/
def Tag.wideKey (t : Tag) : Bool := t = .f64 || t = .kx

/-- The operand tag of the largest element size, with its position (R248, R47); the first of equal ones. -/
def largest : List (Tag × Nat) → Tag × Nat
  | [] => (.u8, 0)
  | [x] => x
  | x :: l => let y := largest l; if y.1.size16 ≤ x.1.size16 then x else y

/-- The strip length Ls, or the TAG trap of R247; `ops` are the operands' tags with their positions. -/
def stripLen (ops : List (Tag × Nat)) (s : State) : Except Trap Nat :=
  let t := largest ops
  let m := s.mvl t.1
  let n := if s.me.len = 0 then m else s.me.len
  let ragged := ops.any fun p => decide (p.2 = 0) && p.1.isSx && decide (n % 16 ≠ 0)
  if n = 0 ∨ m < n ∨ ragged = true then .error (tagTrap t.1 t.2 true) else .ok n

/-- The first offending stride of an sx operand (R241). -/
def sxStride (d : Desc) : Option Trap :=
  if d.elemTag.isSx then
    ((List.range d.rank.toNat).find? fun k =>
      decide (1 < (d.ext[k]!).toNat) &&
        (if k + 1 = d.rank.toNat then decide (d.stride k ≠ 1) else decide (d.stride k % 16 ≠ 0))).map fun k =>
      Trap.vector .stride (wi (d.stride k))
  else none

/-- The capacity check of R247: the exact count against CAP, then whole blocks for an sx destination. -/
def capacity (dd : Desc) (ops : List (Tag × Nat)) (n : Nat) : Except Trap Unit :=
  let t := largest ops
  if dd.cap.toNat < n then .error (frameTrap 2 0 0 n dd.cap.toNat)
  else if dd.elemTag.isSx ∧ n % 16 ≠ 0 then .error (tagTrap t.1 t.2 true)
  else .ok ()

/-- A check as a step of a chain of checks. -/
def orTrap : Option Trap → Except Trap Unit
  | some t => .error t
  | none => .ok ()

/-! ## Elements in memory -/

/-- Reading the element of a descriptor at a multi-index (R241), an sx element as f32 bits (R46). -/
def readElem (d : Desc) (x : List Nat) (s : State) : State × Except Stop Nat :=
  let o : Int := (x.zipIdx.map fun p => (p.1 : Int) * d.stride p.2).foldl (· + ·) 0
  let t := d.elemTag
  let a := if t.isSx then d.base + wi (o / 16 * t.blockBytes) else d.base + wi (o * t.bytes)
  match watchElem d.space.toNat a t.unitBytes true false s with
  | some e => (s, .error e)
  | none =>
    match readSpace (vecWho s s.cur) s.cur d.space.toNat a t.unitBytes (if t.isSx then 2 else t.bytes) 0 s with
    | (s1, .error e) => (s1, .error e)
    | (s1, .ok b) =>
      let v := leNat b
      (s1, .ok (if t.isSx then ((Tag.ffmt .f32).round .rne false 0 (sxElem t v (o % 16).toNat)).1 else v))

/-- A read for each member of a list, in order, up to the first that stops. -/
def eachRead {α β : Type} (f : α → State → State × Except Stop β) : List α → State → State × Except Stop (List β)
  | [], s => (s, .ok [])
  | a :: l, s =>
    match f a s with
    | (s1, .error t) => (s1, .error t)
    | (s1, .ok b) =>
      match eachRead f l s1 with
      | (s2, .error t) => (s2, .error t)
      | (s2, .ok bs) => (s2, .ok (b :: bs))

/-- The numbers from `lo` to `hi` − 1. -/
def fromTo (lo hi : Nat) : List Nat := (List.range (hi - lo)).map fun i => lo + i

/-! ## Strips (R248) -/

/-- What a strip holds back for its commit: result elements (or blocks of an sx destination) by position, flags, seed,
the running value with LINE, OOR, the witness fields by result index, and the number that the instruction keeps until its
next strip. -/
structure Pan where
  outs   : List (Nat × Nat)
  flags  : Flags
  seed   : Word
  carry  : Option (Word × Bool)
  oor    : Bool
  fields : List (Nat × Nat)
  head   : Option Nat
  deriving DecidableEq, Repr

/-- A strip's results with nothing else. -/
def Pan.of (s : State) (outs : List (Nat × Nat)) (fl : Flags) : Pan :=
  { outs := outs, flags := fl, seed := s.me.seed, carry := none, oor := false, fields := [], head := none }

/-- An array instruction past its checks: its destination, the shape DD takes, how many strip positions there are and
where the strip from a position ends, what a strip computes, the witness it writes, what the strip at 0 claims before
it commits, and what completion adds. -/
structure ArrayJob where
  dd    : BitVec 5
  d     : Desc
  shape : List Nat
  total : Nat
  next  : Nat → Nat
  body  : Nat → Nat → State → State × Except Stop Pan
  wit   : Option Wit
  claim : State → State × Option Stop
  done  : State → State

/-- No claim. -/
def noClaim (s : State) : State × Option Stop := (s, none)

/-- A stop of an array instruction in the strip that starts at a position: ARR, and `epr` names it (R228, R248). -/
def arrayStop (e0 : Nat) (t : Stop) (s : State) : State :=
  match t with
  | .trap t => takeTrap { t with vec := true, arr := true, epr := wd e0 } s
  | .stall => s

/-- Address, bytes and alignment of a result element at a position of DD's dense layout (R248). -/
def resultAt (d : Desc) (p : Nat × Nat) : Word × List Byte × Nat :=
  let t := d.elemTag
  if t.isSx then (d.base + wd (p.1 / 16 * t.blockBytes), leBytes t.blockBytes p.2, 2)
  else (d.base + wd (p.1 * t.bytes), leBytes t.bytes p.2, t.bytes)

/-- The stores of a strip's results, all checked before any is performed (R248); `sent` are those already checked. -/
def checkResults (d : Desc) : List PStore → List (Nat × Nat) → State → State × Except Stop (List (List PStore × Nat))
  | _, [], s => (s, .ok [])
  | sent, p :: l, s =>
    let r := resultAt d p
    match watchElem d.space.toNat r.1 r.2.1.length false true s with
    | some t => (s, .error t)
    | none =>
      match spacePlaces (vecWho s s.cur) s.cur .store d.space.toNat r.1 r.2.1.length r.2.2 0 s with
      | (s1, .error t) => (s1, .error t)
      | (s1, .ok ps) =>
        let st := storesOf ps r.2.1
        if cntOver s1 sent st then (s1, .error (accTrap .prot r.1.toNat))
        else match checkResults d (sent ++ st) l (countHots (vecWho s1 s1.cur) ps s1) with
        | (s2, .error t) => (s2, .error t)
        | (s2, .ok xs) => (s2, .ok ((st, r.1.toNat) :: xs))

/-- A hart's `status` with OVF, LINE and OOR (R262). -/
def Hart.withStatus (h : Hart) (f : BitVec 3 → BitVec 3) : Hart := { h with status := f h.status }

/-- `carry` and LINE after a strip (R261, R262). -/
def Hart.keepLine (h : Hart) (c : Option (Word × Bool)) : Hart :=
  match c with
  | none => h
  | some (v, line) => { h with carry := v, status := setBit h.status 1 line }

/-- The commit of a strip (R248, R260, R326): every check, then the claim, then the stores, the witness fields, flags,
seed, `carry` and `status` together. -/
def commitStrip (j : ArrayJob) (e0 : Nat) (p : Pan) (s : State) : State × Option Stop :=
  match checkResults j.d [] p.outs s with
  | (s1, .error t) => (s1, some t)
  | (s1, .ok sts) =>
    match (match j.wit with
      | some w => eachRead (fieldStores w) (fieldRuns p.fields) s1
      | none => (s1, .ok [])) with
    | (s2, .error t) => (s2, some t)
    | (s2, .ok ws) =>
      match (if e0 = 0 then j.claim s2 else (s2, none)) with
      | (s3, some t) => (s3, some t)
      | (s3, none) =>
        let own := s3.me.pend.length
        let s4 := (sts ++ ws).foldl (fun s q => acceptStores s.cur false (some own) q.1 q.2 s) s3
        (raise p.flags (s4.modMe fun h =>
          let h1 := ({ h with seed := p.seed }).keepLine p.carry
          if p.oor then h1.withStatus fun x => setBit x 2 true else h1), none)

/-- Completion: the witness header, then DD's register, then what the instruction adds (R248, R326). A failing header
store has `epr` at the result count N, and the hart keeps that no strip is left, since N can also be the position of a
strip of lines (R260, R326; DEDUCED, notes/assumptions/19.md). -/
def finishArray (j : ArrayJob) (s : State) : State :=
  match (match j.wit with
    | some w => putHeader w.d.base (w.header (s.serialOf s.cur)) s
    | none => (s, none)) with
  | (s1, some t) => arrayStop (prodL j.shape) t (s1.modMe fun h => h.keeps (prodL j.shape) [] none)
  | (s1, none) => retireVec ((j.done (writeShape j.dd j.d j.shape s1)).modMe fun h => { h with strip := false })

/-- A strip boundary below the end: a STEP stop under ESTEP, else a lane point (R210, R237, R248). -/
def stripBoundary (s : State) : State :=
  if s.me.elemSteps then stepAfter true true s.me s
  else
    let s1 := s.modMe fun h => { h with strip := true }
    match s1.me.group with
    | some g => meetPreempt g s1
    | none => s1

/-- One strip of an array instruction, from `epr` on (R248). -/
def runArray (j : ArrayJob) (s : State) : State :=
  let e0 := s.me.epr.toNat
  let written := !s.me.strip && j.wit.isSome && s.me.keptNow.isSome
  if j.total ≤ e0 ∨ written = true then
    (match (if j.total = 0 ∧ e0 = 0 then j.claim s else (s, none)) with
     | (s1, some t) => arrayStop e0 t s1
     | (s1, none) => finishArray j s1)
  else
    let e1 := j.next e0
    match j.body e0 e1 s with
    | (s1, .error t) => arrayStop e0 t s1
    | (s1, .ok p) =>
      match commitStrip j e0 p s1 with
      | (s2, some t) => arrayStop e0 t s2
      | (s2, none) =>
        let s3 := s2.modMe fun h => { (if p.head.isSome then h.keeps e1 [] p.head else h) with epr := wd e1 }
        if j.total ≤ e1 then finishArray j s3 else stripBoundary s3

/-- An array instruction: its checks, those of its witness, then a strip; between two strips the witness has been checked.
Every earlier vector store of the hart has performed (R249); a check that fails names the strip to come. -/
def arrayGo (r : State → Except Trap ArrayJob) (s0 : State) : State :=
  let s := settleAll s0.cur s0
  match r s with
  | .error t => arrayStop s.me.epr.toNat (.trap t) s
  | .ok j =>
    match (if s.me.strip then (s, none) else checkWit j.wit s) with
    | (s1, some t) => arrayStop s1.me.epr.toNat t s1
    | (s1, none) => runArray j s1

/-- Strips of Ls positions (R248); one element group under ESTEP (R237). -/
def plainNext (td : Tag) (t : Tag) (ls total : Nat) (s : State) (e : Nat) : Nat :=
  let g := if td.isSx then 16 else t.groupLen
  min total (e + (if s.me.elemSteps then min ls g else ls))

/-- What completion of an instruction without further results adds. -/
def noMore (s : State) : State := s

end Sys2Proof.Machine
end

