-- ==== Sys2Proof/Machine/ArrayElem.lean ====
section
/-!
DEFINITION. Major 0x71, the elementwise array instructions: R255 to R258.
-/
namespace Sys2Proof.Machine

open Sys2Proof

/-- The tag under which a source's elements are read: an sx element as f32 (R59). -/
def Tag.plain (t : Tag) : Tag := if t.isSx then .f32 else t

/-- The result shape with, for each source, the element a result index takes. -/
abbrev Agreed := List Nat × List (List Nat → List Nat)

/-- The result shape of one source (R245). -/
def agreeOne (a : Desc) : Except Trap Agreed := .ok (a.shape, [id])

/-- The result shape of two sources (R245). -/
def agreePair (f : FmtA) (a b : Desc) : Except Trap Agreed :=
  (agreeTwo a.shape b.shape f.ka.toNat f.kb.toNat).map fun r => (r.1, [r.2.1, r.2.2])

/-- The result shape of three sources (R246). -/
def agreeThree (f : FmtA) (a b c : Desc) : Except Trap Agreed := do
  let r ← agreeTwo a.shape b.shape f.ka.toNat f.kb.toNat
  let s ← agree 0 1 r.1 c.shape
  .ok (s, [fun x => r.2.1 (x.take r.1.length), fun x => r.2.2 (x.take r.1.length), fun x => x.take c.rank.toNat])

/-- What an elementwise instruction is, beside its destination: its sources, the tags its entry refuses, its shape, the
values that stand beside each element's sources, its rounding mode, whether it draws, its operation, the exact value
that an sx destination quantises, and its witness: operator, contributors and field. -/
structure ArrayElem where
  srcs    : List Desc
  refused : Option Trap
  agreed  : Except Trap Agreed
  extra   : List (Tag × Nat)
  rm      : Rm
  draws   : Bool
  fn      : Nat → List (Tag × Nat) → Nat × Flags
  exact   : List (Tag × Nat) → FVal × Flags
  wit     : Option (Nat × Nat)
  field   : List (Tag × Nat) → Nat

/-- No operation on exact values: the instruction accepts no sx destination. -/
def noExact (_ : List (Tag × Nat)) : FVal × Flags := (FVal.zero false, 0)
/-- No witness field. -/
def noField (_ : List (Tag × Nat)) : Nat := 0

/-- The strip of an elementwise instruction from e0 to e1 (R248, R255, R258). -/
def elemStrip (a : ArrayElem) (td : Tag) (ag : Agreed) (e0 e1 : Nat) (s : State) : State × Except Stop Pan :=
  let at_ : Nat → List (Desc × List Nat) := fun i =>
    let x := unravel ag.1 i
    a.srcs.zip (ag.2.map fun m => m x)
  match eachRead (fun i s => eachRead (fun p s => readElem p.1 p.2 s) (at_ i) s) (fromTo e0 e1) s with
  | (s1, .error t) => (s1, .error t)
  | (s1, .ok rows) =>
    let tags := a.srcs.map fun d => d.elemTag.plain
    let row : Nat → List (Tag × Nat) := fun e => tags.zip (rows.getD (e - e0) []) ++ a.extra
    let seed := s1.me.seed
    let r : List (Nat × Nat) × Flags × Word :=
      if td.isSx then
        let b := blockResults td a.rm (fun _ => true) false (fun e => a.exact (row e)) ((e1 + 15) / 16 - e0 / 16) (e0 / 16) seed
        (b.1.zipIdx.map fun p => (e0 / 16 * 16 + 16 * p.2, p.1.getD 0), b.2.1, b.2.2)
      else
        let b := elemResults (fun _ => true) false a.draws (fun u e => a.fn u (row e)) (e1 - e0) e0 seed
        (b.1.zipIdx.map fun p => (e0 + p.2, p.1.getD 0), b.2.1, b.2.2)
    let fields := if a.wit.isSome then (fromTo e0 e1).map fun e => (e, a.field (row e)) else []
    (s1, .ok { Pan.of s1 r.1 r.2.1 with seed := r.2.2, fields := fields })

/-- The checks of R247 for an elementwise instruction, in their order. -/
def elemJob (f : FmtA) (a : ArrayElem) (s : State) : Except Trap ArrayJob := do
  let d := s.me.desc f.dd
  let td := d.elemTag
  let ops := ((d :: a.srcs).map Desc.elemTag).zipIdx
  orTrap a.refused
  let ls ← stripLen ops s
  orTrap (firstTrap (a.srcs.map sxStride))
  let ag ← a.agreed
  axesCheck ag.1
  let n := prodL ag.1
  capacity d ops n
  .ok { dd := f.dd, d := d, shape := ag.1, total := n, next := plainNext td (largest ops).1 ls n s
        body := elemStrip a td ag
        wit := a.wit.map fun w => { d := s.me.desc f.wd, op := w.1, n := w.2, iax := 0, shape := ag.1 }
        claim := noClaim, done := noMore }

/-- What the arithmetic functions of major 0x71 refuse (R255, R59). -/
def refuseArrayArith (op : AOp) (td : Tag) (tags : List Tag) : Option Trap :=
  firstTrap
    [refuseAny Tag.wideKey (td :: tags), if td.isSx then badTag td 0 else none,
     match promoteAll tags with
     | .ok (t, p) => if t ≠ .f64 ∧ op.accepts t = true then none else badTag t p
     | .error (t, p) => badTag t p]

/-- The field of `AMIN` and `AMAX` (R258), by the values in T that they compare: 0 for DA, 1 for DB. -/
def pairField (isMax : Bool) (t : Tag) (rm : Rm) (sat : Bool) (xs : List (Tag × Nat)) : Nat :=
  let v : Nat → Val := fun i => let p := xs.getD i (.u8, 0); t.decode (convert p.1 t rm sat 0 p.2).1
  match v 0, v 1 with
  | .int a, .int b => b2n (if isMax then decide (a < b) else decide (b < a))
  | a, b =>
    let x := a.toF
    let y := b.toF
    if x.isNan then 0 else if y.isNan then 1 else b2n (if isMax then x.lt true y else y.lt true x)

/-- The clamp code of values in T (R324). -/
def codeField (t : Tag) (rm : Rm) (xs : List (Tag × Nat)) : Nat :=
  let v : Nat → Val := fun i => let p := xs.getD i (.u8, 0); t.decode (convert p.1 t rm false 0 p.2).1
  (clampVal (v 0) (v 1) (v 2)).2.1

/-- An arithmetic function over some sources (R255). -/
def arrayArith (op : AOp) (srcs : List Desc) (agreed : Except Trap Agreed) (f : FmtA) (s : State) : ArrayElem :=
  let td := (s.me.desc f.dd).elemTag
  let tags := srcs.map Desc.elemTag
  let t := workTag tags
  let rm := s.me.rmOf f.rm.toNat
  { srcs := srcs, refused := refuseArrayArith op td tags, agreed := agreed, extra := [], rm := rm, draws := false
    fn := fun _ xs => elemArith op t td rm f.sat xs, exact := noExact, wit := none, field := noField }

/-- One source, DA. -/
def arith1 (op : AOp) (f : FmtA) (s : State) : State :=
  let a := s.me.desc f.da
  arrayGo (fun s => elemJob f (arrayArith op [a] (agreeOne a) f s) s) s

/-- Two sources, DA and DB. -/
def arith2 (op : AOp) (f : FmtA) (s : State) : State :=
  let a := s.me.desc f.da
  let b := s.me.desc f.db
  arrayGo (fun s => elemJob f (arrayArith op [a, b] (agreePair f a b) f s) s) s

/-- `AMIN` and `AMAX`, with a witness where WD names one (R258). -/
def arithPick (isMax : Bool) (f : FmtA) (s : State) : State :=
  let a := s.me.desc f.da
  let b := s.me.desc f.db
  let t := workTag [a.elemTag, b.elemTag]
  let rm := s.me.rmOf f.rm.toNat
  arrayGo (fun s => elemJob f
    { arrayArith (if isMax then .max else .min) [a, b] (agreePair f a b) f s with
      wit := if f.wd = 0 then none else some (if isMax then 7 else 8, 2), field := pairField isMax t rm f.sat } s) s

/-- `AADD` (R255). -/
def execAadd (f : FmtA) (s : State) : Host.Outcome State Fault Refusal := .next (arith2 .add f s)

/-- `ASUB` (R255). -/
def execAsub (f : FmtA) (s : State) : Host.Outcome State Fault Refusal := .next (arith2 .sub f s)

/-- `AMUL` (R255). -/
def execAmul (f : FmtA) (s : State) : Host.Outcome State Fault Refusal := .next (arith2 .mul f s)

/-- `ADIV` (R255). -/
def execAdiv (f : FmtA) (s : State) : Host.Outcome State Fault Refusal := .next (arith2 .div f s)

/-- `AMIN` (R255, R258). -/
def execAmin (f : FmtA) (s : State) : Host.Outcome State Fault Refusal := .next (arithPick false f s)

/-- `AMAX` (R255, R258). -/
def execAmax (f : FmtA) (s : State) : Host.Outcome State Fault Refusal := .next (arithPick true f s)

/-- `AFMA` (R255, R246): c from DC, which the WD field names. -/
def execAfma (f : FmtA) (s : State) : Host.Outcome State Fault Refusal :=
  let a := s.me.desc f.da
  let b := s.me.desc f.db
  let c := s.me.desc f.wd
  .next (arrayGo (fun s => elemJob f (arrayArith .fma [a, b, c] (agreeThree f a b c) f s) s) s)

/-- The bound pair of R257 as raw elements of a tag. -/
def boundPair (t : Tag) (f : FmtA) (s : State) : List (Tag × Nat) :=
  [(t, (s.sr f.sa).toNat % 2 ^ t.width), (t, (s.sr (f.sa + 1)).toNat % 2 ^ t.width)]

/-- `ACLAMP` (R257, R258). -/
def execAclamp (f : FmtA) (s : State) : Host.Outcome State Fault Refusal :=
  let a := s.me.desc f.da
  let t := a.elemTag.plain
  let rm := s.me.rmOf f.rm.toNat
  .next (arrayGo (fun s => elemJob f
    { arrayArith .clamp [a] (agreeOne a) f s with
      extra := boundPair t f s, wit := if f.wd = 0 then none else some (9, 1), field := codeField t rm } s) s)

/-- `ACMP` (R256): the condition in SA. -/
def execAcmp (f : FmtA) (s : State) : Host.Outcome State Fault Refusal :=
  let a := s.me.desc f.da
  let b := s.me.desc f.db
  let td := (s.me.desc f.dd).elemTag
  let tags := [a.elemTag, b.elemTag]
  let t := workTag tags
  let rm := s.me.rmOf f.rm.toNat
  let refused := firstTrap
    [refuseAny Tag.wideKey (td :: tags), if td.isInt then none else badTag td 0,
     match promoteAll tags with
     | .ok (t, p) => if t = .f64 then badTag t p else none
     | .error (t, p) => badTag t p]
  .next (arrayGo (fun s => elemJob f
    { arrayArith .add [a, b] (agreePair f a b) f s with
      refused := refused
      fn := fun _ xs => elemCmp f.sa.toNat t td rm f.sat (xs.getD 0 (.u8, 0)) (xs.getD 1 (.u8, 0)) } s) s)

/-- `ASEL` (R255, R124): the condition from DC's raw bits; the selected value converted from its own tag. -/
def execAsel (f : FmtA) (s : State) : Host.Outcome State Fault Refusal :=
  let a := s.me.desc f.da
  let b := s.me.desc f.db
  let c := s.me.desc f.wd
  let td := (s.me.desc f.dd).elemTag
  let rm := s.me.rmOf f.rm.toNat
  let refused := firstTrap
    [refuseAny Tag.wideKey [td, a.elemTag, b.elemTag], if td.isSx then badTag td 0 else none,
     if c.elemTag.isSx then badTag c.elemTag 3 else none]
  .next (arrayGo (fun s => elemJob f
    { arrayArith .add [a, b, c] (agreeThree f a b c) f s with
      refused := refused
      fn := fun _ xs =>
        let x := if (xs.getD 2 (.u8, 0)).2 = 0 then xs.getD 1 (.u8, 0) else xs.getD 0 (.u8, 0)
        convert x.1 td rm f.sat 0 x.2 } s) s)

/-- `ACVT` (R255, R126). -/
def execAcvt (f : FmtA) (s : State) : Host.Outcome State Fault Refusal :=
  let a := s.me.desc f.da
  let td := (s.me.desc f.dd).elemTag
  let rm := s.me.rmConv f.rm.toNat
  .next (arrayGo (fun s => elemJob f
    { arrayArith .add [a] (agreeOne a) f s with
      refused := refuseAny Tag.wideKey [td, a.elemTag], rm := rm, draws := rm = .rsto
      fn := fun u xs => let x := xs.getD 0 (.u8, 0); roundTo x.1 td rm f.sat u x.2
      exact := fun xs => let x := xs.getD 0 (.u8, 0); ((x.1.decode x.2).toF, 0) } s) s)

/-- A bit function of major 0x71 (R255, R122). -/
def arrayLogic (op : LOp) (srcs : List Desc) (agreed : Except Trap Agreed) (f : FmtA) (s : State) : State :=
  let td := (s.me.desc f.dd).elemTag
  let tags := srcs.map Desc.elemTag
  let ta := tags.headD .u8
  let refused := firstTrap
    [refuseAny Tag.wideKey (td :: tags), refuseAny (fun t => t.isSx || decide (t.width ≠ ta.width)) (td :: tags)]
  arrayGo (fun s => elemJob f
    { arrayArith .add srcs agreed f s with
      refused := refused
      fn := fun _ xs => elemLogic op ta td f.sat (xs.getD 0 (.u8, 0)).2 (xs.getD 1 (.u8, 0)).2 } s) s

/-- A bit function of DA and DB. -/
def logic2 (op : LOp) (f : FmtA) (s : State) : State :=
  let a := s.me.desc f.da
  let b := s.me.desc f.db
  arrayLogic op [a, b] (agreePair f a b) f s

/-- `AAND` (R255). -/
def execAand (f : FmtA) (s : State) : Host.Outcome State Fault Refusal := .next (logic2 .and f s)

/-- `AOR` (R255). -/
def execAor (f : FmtA) (s : State) : Host.Outcome State Fault Refusal := .next (logic2 .or f s)

/-- `AXOR` (R255). -/
def execAxor (f : FmtA) (s : State) : Host.Outcome State Fault Refusal := .next (logic2 .xor f s)

/-- `ANOT` (R255). -/
def execAnot (f : FmtA) (s : State) : Host.Outcome State Fault Refusal :=
  .next (arrayLogic .not [s.me.desc f.da] (agreeOne (s.me.desc f.da)) f s)

/-- `AABS` (R255). -/
def execAabs (f : FmtA) (s : State) : Host.Outcome State Fault Refusal := .next (arith1 .abs f s)

/-- `ANEG` (R255). -/
def execAneg (f : FmtA) (s : State) : Host.Outcome State Fault Refusal := .next (arith1 .neg f s)

/-- `ASQRT` (R255). -/
def execAsqrt (f : FmtA) (s : State) : Host.Outcome State Fault Refusal := .next (arith1 .sqrt f s)

/-- `AEXP2` (R255). -/
def execAexp2 (f : FmtA) (s : State) : Host.Outcome State Fault Refusal := .next (arith1 .exp2 f s)

/-- `ALOG2` (R255). -/
def execAlog2 (f : FmtA) (s : State) : Host.Outcome State Fault Refusal := .next (arith1 .log2 f s)

/-- `AQNT` (R255, R127): the product with the scale from DB, converted to Tag(DD) and saturating. -/
def execAqnt (f : FmtA) (s : State) : Host.Outcome State Fault Refusal :=
  let a := s.me.desc f.da
  let b := s.me.desc f.db
  let td := (s.me.desc f.dd).elemTag
  let rm := s.me.rmConv f.rm.toNat
  let operand : List (Tag × Nat) → Nat → Val := fun xs i => let x := xs.getD i (.u8, 0); x.1.decode x.2
  .next (arrayGo (fun s => elemJob f
    { arrayArith .add [a, b] (agreePair f a b) f s with
      refused := refuseAny Tag.wideKey [td, a.elemTag, b.elemTag], rm := rm, draws := rm = .rsto
      fn := fun u xs => elemQnt td rm u (operand xs 0) (operand xs 1)
      exact := fun xs => qntProduct (operand xs 0) (operand xs 1) } s) s)

end Sys2Proof.Machine
end

