-- ==== Sys2Proof/Machine/ArrayLine.lean ====
section
/-!
DEFINITION. Instructions over lines (R259 to R264): major 0x73, the reductions and scans (R265 to R267), and of major
0x72 `AGRADE`, `ATOPK` and `AINNER` (R268 to R270, R280).
-/
namespace Sys2Proof.Machine

open Sys2Proof

/-- The lines of an axis instruction (R259, R260): the shape, the axis in it, the length of a line, the other extents. -/
structure Lines where
  shape : List Nat
  iax   : Nat
  n     : Nat
  other : List Nat
  deriving DecidableEq, Repr

/-- How many lines there are. -/
def Lines.count (g : Lines) : Nat := prodL g.other
/-- The multi-index of position p of line l. -/
def Lines.at (g : Lines) (l p : Nat) : List Nat :=
  let x := unravel g.other l
  x.take g.iax ++ p :: x.drop g.iax

/-- The frame and the cell under a rank operand, 0 selecting the whole argument (R259). -/
def axisSplit (sh : List Nat) (k : Nat) : List Nat × List Nat := if k = 0 then ([], sh) else splitShape sh k

/-- The lines of a descriptor along axis AX of its cells, or the FRAME trap (R259). -/
def linesOf (d : Desc) (k ax : Nat) : Except Trap Lines :=
  let (fr, cell) := axisSplit d.shape k
  if cell.length ≤ ax then .error (axisTrap ax cell.length)
  else
    let iax := fr.length + ax
    .ok { shape := d.shape, iax := iax, n := d.shape.getD iax 0, other := d.shape.take iax ++ d.shape.drop (iax + 1) }

/-- The end of the strip that starts at a position (R260): whole lines where one fits, else a piece of one or, where
lines are not cut, the whole one. -/
def lineNext (cut : Bool) (n lines ls e : Nat) : Nat :=
  if n = 0 then min lines (e + ls)
  else if n ≤ ls then min lines (e / n + ls / n) * n
  else if cut then e / n * n + min n (e % n + ls)
  else (e / n + 1) * n

/-- Strip positions of an instruction over lines (R260). -/
def linePositions (n lines : Nat) : Nat := if n = 0 then lines else lines * n

/-- The pieces of lines that a strip holds: line, first position, and the position behind the last. -/
def pieces (n e0 e1 : Nat) : List (Nat × Nat × Nat) :=
  if n = 0 then (fromTo e0 e1).map fun l => (l, 0, 0)
  else (fromTo (e0 / n) ((e1 + n - 1) / n)).map fun l => (l, max e0 (l * n) - l * n, min e1 ((l + 1) * n) - l * n)

/-- Ls of an instruction over lines; one element group under ESTEP (R237). -/
def lineLen (ops : List (Tag × Nat)) (ls : Nat) (s : State) : Nat :=
  if s.me.elemSteps then min ls (largest ops).1.groupLen else ls

/-- A whole line that MVL(kx) cannot hold (R247, R260). -/
def wholeLine (n : Nat) (s : State) : Except Trap Unit :=
  if s.mvl .kx < n then .error (Trap.vector .tag (wd (15 + 256))) else .ok ()

/-- An empty line under an operator without identity (R264). -/
def emptyCheck (none_ : Bool) (lines n ax fn : Nat) : Except Trap Unit :=
  if none_ = true ∧ lines ≠ 0 ∧ n = 0 then .error (Trap.vector .empty (wd (ax + 16 * fn))) else .ok ()

/-- The values of a strip's pieces: for each, the elements that `get` reads at its positions. -/
def readPieces {α : Type} (get : Nat → Nat → State → State × Except Stop α) (ps : List (Nat × Nat × Nat)) (s : State) :
    State × Except Stop (List ((Nat × Nat × Nat) × List α)) :=
  match eachRead (fun (p : Nat × Nat × Nat) s => eachRead (fun i s => get p.1 i s) (fromTo p.2.1 p.2.2) s) ps s with
  | (s1, .error t) => (s1, .error t)
  | (s1, .ok xs) => (s1, .ok (ps.zip xs))

/-- What a strip has found so far: the running value with LINE, flags, results by position, witness fields. -/
structure Tally where
  run    : Option Nat
  line   : Bool
  flags  : Flags
  outs   : List (Nat × Nat)
  fields : List Nat
  deriving DecidableEq, Repr

/-- The tally at the start of a strip: the running value and LINE of the line in progress (R261). -/
def Tally.start (s : State) : Tally :=
  { run := some s.me.carry.toNat, line := bit s.me.status 1, flags := 0, outs := [], fields := [] }

/-- What a strip holds back: `carry` and LINE are cleared where its last line ends (R261, R262). -/
def Tally.pan (t : Tally) (n : Nat) (ps : List (Nat × Nat × Nat)) (s : State) : Pan :=
  let ended := match ps.getLast? with
    | some p => decide (p.2.2 = n)
    | none => true
  let first := ((ps.filter fun p => decide (p.2.2 = n)).headD (0, 0, 0)).1
  { Pan.of s t.outs t.flags with
    carry := some (if ended then (0, false) else (wd (t.run.getD 0), t.line))
    fields := t.fields.zipIdx.map fun p => (first + p.2, p.1) }

/-- A line ends with a result: its bits and a witness field. -/
def Tally.emit (t : Tally) (l : Nat) (r : Nat × Flags) (field : Option Nat) : Tally :=
  { t with outs := t.outs ++ [(l, r.1)], flags := t.flags ||| r.2, fields := t.fields ++ field.toList }

/-- A piece of a line reduced by the tree of R60 and combined with what stands before it (R61); `fin` ends the line. -/
def reducePiece (op : Nat) (t : Tag) (rm : Rm) (sat : Bool) (n : Nat) (fin : Nat → Nat → Bool → Tally → Tally)
    (y : Tally) (p : (Nat × Nat × Nat) × List Nat) : Tally :=
  let (l, p0, p1) := p.1
  let line := if p0 = 0 then false else y.line
  let r : Nat × Flags :=
    if p.2 = [] then (identityOf op t, 0)
    else
      let a := treeOf op t rm sat p.2
      if p0 = 0 then a else let b := combine op t rm sat (y.run.getD 0) a.1; (b.1, a.2 ||| b.2)
  let line' := line || (decide (op = 0) && t.isInt && decide (r.2 &&& fSAT ≠ 0))
  let z := { y with run := some r.1, line := line', flags := y.flags ||| r.2 }
  if p1 = n then fin l r.1 line' z else z

/-- A piece of a line searched for the decider by key, the first NaN before all (R265, R261). -/
def searchPiece (isMax : Bool) (t : Tag) (n : Nat) (fin : Nat → Option Nat → Bool → Tally → Tally) (y : Tally)
    (p : (Nat × Nat × Nat) × List Nat) : Tally :=
  let (l, p0, p1) := p.1
  let start : Option Nat × Bool := if p0 = 0 then (none, false) else (y.run, y.line)
  let r := p.2.zipIdx.foldl (fun (a : Option Nat × Bool) x =>
    if a.2 then a
    else
      let k := (keyOf t x.1).getD 0
      let me := k * 2 ^ 32 + (p0 + x.2)
      if (t.decode x.1).toF.isNan then (some me, true)
      else match a.1 with
        | none => (some me, false)
        | some b => if (if isMax then decide (b / 2 ^ 32 < k) else decide (k < b / 2 ^ 32)) then (some me, false) else a) start
  let z := { y with run := r.1, line := r.2 }
  if p1 = n then fin l r.1 r.2 z else z

/-- NV where a value is a signalling NaN (R265, R268). -/
def signals (t : Tag) (xs : List Nat) : Flags := if xs.any fun x => decide ((t.decode x).sigFlag ≠ 0) then fNV else 0

/-- The value in T of a decider (R265); the identity where there is none. -/
def deciderValue (op : Nat) (t : Tag) (rm : Rm) (k : Option Nat) : Nat :=
  match k with
  | none => identityOf op t
  | some k => (unkeyVal t rm false (k / 2 ^ 32)).1

/-- What `ARED` refuses (R265, R274): op by DB's code. -/
def refuseAred (f : FmtA) (td ta : Tag) : Option Trap :=
  let t := ta.plain
  let op := f.db.toNat
  let arg := decide (op = 7 ∨ op = 8)
  firstTrap
    [refuseAny Tag.wideKey [td, ta], if td.isSx then badTag td 0 else none,
     if (decide (4 ≤ op ∧ op ≤ 6) && !t.isInt) || (arg && !t.hasKey) then badTag t 1 else none,
     if arg && !td.isInt then badTag td 0 else none,
     if f.wd ≠ 0 ∧ (((op = 2 ∨ op = 3) ∧ t.hasKey = false) ∨ (op = 0 ∧ t.isInt = false)) then badTag ta 1 else none]

/-- The strip of `ARED` (R265). -/
def aredStrip (f : FmtA) (d td : Desc) (g : Lines) (e0 e1 : Nat) (s : State) : State × Except Stop Pan :=
  let op := f.db.toNat
  let t := d.elemTag.plain
  let out := td.elemTag
  let rm := s.me.rmOf f.rm.toNat
  let wit := f.wd ≠ 0
  let all := 2 ^ 2 ^ (opLog (match op with | 3 => 1 | 2 => 2 | 9 => 4 | _ => 5) g.n) - 1
  let ps := pieces g.n e0 e1
  match readPieces (fun l p s => readElem d (g.at l p) s) ps s with
  | (s1, .error e) => (s1, .error e)
  | (s1, .ok xs) =>
    let keyed := decide (op = 7 ∨ op = 8) || (wit && decide (op = 2 ∨ op = 3))
    let y0 := { Tally.start s1 with flags := xs.foldl (fun fl p => fl ||| signals t p.2) 0 }
    let y :=
      if keyed then
        xs.foldl (searchPiece (op = 3 || op = 7) t g.n fun l k _ z =>
          if op = 7 ∨ op = 8 then z.emit l (out.fromInt false ((k.getD 0) % 2 ^ 32 : Nat)) none
          else
            z.emit l (roundTo t out rm f.sat 0 (deciderValue op t rm k))
              (some (match k with | some k => k % 2 ^ 32 | none => all))) y0
      else
        xs.foldl (reducePiece (if op = 9 then 0 else op) t rm f.sat g.n fun l r line z =>
          if op = 9 then
            let b := boundPair t f s1
            let c := elemArith .clamp t t rm false ((t, r) :: b)
            let v := roundTo t out rm f.sat 0 c.1
            { z with line := false }.emit l (v.1, c.2 ||| v.2) (if wit then some (codeField t rm ((t, r) :: b)) else none)
          else
            z.emit l (roundTo t out rm f.sat 0 r) (if wit then some (if g.n = 0 then all else b2n line) else none)) y0
    (s1, .ok ({ y with line := y.line && decide (op ≠ 9) }.pan g.n ps s1))

/-- `carry` and LINE at the completion of an instruction over lines (R261). -/
def clearLine (s : State) : State := s.modMe fun h => h.keepLine (some (0, false))

/-- A job over lines past its checks. -/
def lineJob (f : FmtA) (d : Desc) (shape : List Nat) (g : Nat × Nat) (cut : Bool) (ls : Nat)
    (body : Nat → Nat → State → State × Except Stop Pan) (wit : Option Wit) (done : State → State) : ArrayJob :=
  { dd := f.dd, d := d, shape := shape, total := linePositions g.1 g.2, next := lineNext cut g.1 g.2 ls, body := body
    wit := wit, claim := noClaim, done := fun s => done (clearLine s) }

/-- The checks of `ARED` in the order of R247, EMPTY last (R264). -/
def aredJob (f : FmtA) (s : State) : Except Trap ArrayJob := do
  let d := s.me.desc f.da
  let dd := s.me.desc f.dd
  let op := f.db.toNat
  let ops := [(dd.elemTag, 0), (d.elemTag, 1)]
  orTrap (refuseAred f dd.elemTag d.elemTag)
  let ls ← stripLen ops s
  orTrap (sxStride d)
  let g ← linesOf d f.ka.toNat f.ax.toNat
  capacity dd ops g.count
  emptyCheck (7 ≤ op) g.count g.n f.ax.toNat 0
  .ok (lineJob f dd g.other (g.n, g.count) true (lineLen ops ls s) (aredStrip f d dd g)
    (if f.wd = 0 then none
     else some { d := s.me.desc f.wd, op := (match op with | 3 => 1 | 2 => 2 | 9 => 4 | _ => 5), n := g.n, iax := g.iax
                 shape := g.other }) noMore)

/-- `ARED` (R263 to R265). -/
def execAred (f : FmtA) (s : State) : Host.Outcome State Fault Refusal := .next (arrayGo (aredJob f) s)

/-- A piece of a line scanned from left to right (R62, R266). -/
def scanPiece (op : Nat) (t td : Tag) (rm : Rm) (sat : Bool) (pos : Nat → Nat → Nat) (y : Tally)
    (p : (Nat × Nat × Nat) × List Nat) : Tally :=
  p.2.zipIdx.foldl (fun y x =>
    let i := p.1.2.1 + x.2
    let r := if i = 0 then canonical t x.1 else combine op t rm sat (y.run.getD 0) x.1
    let v := roundTo t td rm sat 0 r.1
    { y with run := some r.1, line := false, flags := y.flags ||| r.2 ||| v.2, outs := y.outs ++ [(pos p.1.1 i, v.1)] }) y

/-- `ASCAN` (R266). -/
def execAscan (f : FmtA) (s : State) : Host.Outcome State Fault Refusal :=
  .next (arrayGo (fun s => do
    let d := s.me.desc f.da
    let dd := s.me.desc f.dd
    let td := dd.elemTag
    let ta := d.elemTag
    let t := ta.plain
    let op := f.db.toNat
    let rm := s.me.rmOf f.rm.toNat
    let ops := [(td, 0), (ta, 1)]
    orTrap (firstTrap [refuseAny Tag.wideKey [td, ta], if td.isSx then badTag td 0 else none,
      if 4 ≤ op ∧ t.isInt = false then badTag t 1 else none])
    let ls ← stripLen ops s
    orTrap (sxStride d)
    let g ← linesOf d f.ka.toNat f.ax.toNat
    capacity dd ops (g.count * g.n)
    .ok (lineJob f dd g.shape (g.n, if g.n = 0 then 0 else g.count) true (lineLen ops ls s) (fun e0 e1 s =>
      let ps := pieces g.n e0 e1
      match readPieces (fun l p s => readElem d (g.at l p) s) ps s with
      | (s1, .error e) => (s1, .error e)
      | (s1, .ok xs) =>
        let y := xs.foldl (scanPiece op t td rm f.sat fun l p => ravel g.shape (g.at l p)) (Tally.start s1)
        (s1, .ok (y.pan g.n ps s1))) none noMore)) s)

/-! ## Grade order (R268) -/

/-- A position with its element stands before another in the grade order. -/
def gradeBefore (t : Tag) (desc : Bool) (a b : Nat × Nat) : Bool :=
  if t = .kx then
    if a.1 = b.1 then decide (a.2 < b.2) else if desc then kxAbove a.1 b.1 else kxAbove b.1 a.1
  else
    let j := (keyOf t a.1).getD 0
    let k := (keyOf t b.1).getD 0
    if j = k then decide (a.2 < b.2) else if desc then decide (k < j) else decide (j < k)

/-- Inserting an element with its position into a graded list. -/
def gradeInsert (t : Tag) (desc : Bool) (x : Nat × Nat) : List (Nat × Nat) → List (Nat × Nat)
  | [] => [x]
  | y :: l => if gradeBefore t desc y x then y :: gradeInsert t desc x l else x :: y :: l

/-- The elements of a line with their positions, in grade order (R268). -/
def graded (t : Tag) (desc : Bool) (xs : List Nat) : List (Nat × Nat) := xs.zipIdx.foldr (gradeInsert t desc) []

/-- A tag that the whole-line forms refuse in DA (R267, R269, R270). -/
def refuseGrade (kx : Bool) (ta : Tag) : Option Trap := if ta.hasKey || (kx && decide (ta = .kx)) then none else badTag ta 1

/-- The strip of an instruction that takes whole lines: `out` gives a line's results and fields from its elements. -/
def wholeStrip (d : Desc) (g : Lines) (out : Nat → List Nat → List (Nat × Nat) × Flags × List (Nat × Nat))
    (e0 e1 : Nat) (s : State) : State × Except Stop Pan :=
  let ps := pieces g.n e0 e1
  match readPieces (fun l p s => readElem d (g.at l p) s) (ps.map fun p => (p.1, 0, g.n)) s with
  | (s1, .error e) => (s1, .error e)
  | (s1, .ok xs) =>
    let rs := xs.map fun p => (out p.1.1 p.2, signals d.elemTag p.2)
    (s1, .ok { Pan.of s1 (rs.flatMap fun r => r.1.1) (rs.foldl (fun fl r => fl ||| r.1.2.1 ||| r.2) 0) with
      carry := some (0, false), fields := rs.flatMap fun r => r.1.2.2 })

/-- `AMED` (R267): the lower median of each line. -/
def execAmed (f : FmtA) (s : State) : Host.Outcome State Fault Refusal :=
  .next (arrayGo (fun s => do
    let d := s.me.desc f.da
    let dd := s.me.desc f.dd
    let td := dd.elemTag
    let ta := d.elemTag
    let rm := s.me.rmOf f.rm.toNat
    let ops := [(td, 0), (ta, 1)]
    orTrap (firstTrap [refuseAny (fun t => t.isSx || t.wideKey) [td, ta], refuseGrade false ta])
    let ls ← stripLen ops s
    let g ← linesOf d f.ka.toNat f.ax.toNat
    wholeLine g.n s
    capacity dd ops g.count
    emptyCheck true g.count g.n f.ax.toNat 2
    .ok (lineJob f dd g.other (g.n, if g.n = 0 then 0 else g.count) false (lineLen ops ls s)
      (wholeStrip d g (fun l xs =>
        let x := (graded ta false xs).getD ((g.n - 1) / 2) (0, 0)
        let v := roundTo ta td rm f.sat 0 x.1
        ([(l, v.1)], v.2, if f.wd = 0 then [] else [(l, x.2)])))
      (if f.wd = 0 then none else some { d := s.me.desc f.wd, op := 3, n := g.n, iax := g.iax, shape := g.other }) noMore)) s)

/-- `AGRADE` (R269): the positions of each line in grade order. -/
def execAgrade (f : FmtA) (s : State) : Host.Outcome State Fault Refusal :=
  .next (arrayGo (fun s => do
    let d := s.me.desc f.da
    let dd := s.me.desc f.dd
    let td := dd.elemTag
    let ta := d.elemTag
    let ops := [(td, 0), (ta, 1)]
    orTrap (firstTrap [if td.isInt then none else badTag td 0, refuseGrade true ta])
    let ls ← stripLen ops s
    let g ← linesOf d f.ka.toNat f.ax.toNat
    wholeLine g.n s
    capacity dd ops (g.count * g.n)
    .ok (lineJob f dd g.shape (g.n, if g.n = 0 then 0 else g.count) false (lineLen ops ls s)
      (wholeStrip d g (fun l xs =>
        ((graded ta (f.fl = 1) xs).zipIdx.map fun p => (ravel g.shape (g.at l p.2), (td.fromInt false p.1.2).1), 0, [])))
      none noMore)) s)

/-- A routing log entry for slot j of a line (R325). -/
def topkEntry (t : Tag) (j : Nat) (x : Nat × Nat) : Nat :=
  let weight := if t.isFloat then (convert t .f16 .rne false 0 x.1).1 else 0
  let taint := t.isFloat && (t.ffmt.decode x.1).isNan
  x.2 % 2 ^ 16 * 2 ^ 48 + 0xFFFF * 2 ^ 32 + weight * 2 ^ 16 + j % 256 * 2 ^ 8 + 2 * b2n taint

/-- OVF (R271). -/
def setOvf (s : State) : State := s.modMe fun h => h.withStatus fun x => setBit x 0 true

/-- `ATOPK` (R270, R271): the k best of each line, each at its row-major index of the result (R248), and the number found to
SR[SA]. -/
def execAtopk (f : FmtA) (s : State) : Host.Outcome State Fault Refusal :=
  .next (arrayGo (fun s => do
    let d := s.me.desc f.da
    let dd := s.me.desc f.dd
    let td := dd.elemTag
    let ta := d.elemTag
    let ops := [(td, 0), (ta, 1)]
    orTrap (firstTrap [if td = .kx then none else badTag td 0, refuseGrade true ta])
    let ls ← stripLen ops s
    let g ← linesOf d f.ka.toNat f.ax.toNat
    wholeLine g.n s
    let k := (s.sr f.sa).toNat % 2 ^ 32
    let shape := g.shape.take g.iax ++ k :: g.shape.drop (g.iax + 1)
    let n := g.count * k
    let cap := dd.cap.toNat
    let slot : Nat → List (Nat × Nat) → Nat → Nat := fun _ xs j => match xs[j]? with
      | some x => if ta = .kx then x.1 else (keyOf ta x.1).getD 0 * 2 ^ 32 + x.2
      | none => kxEmpty
    let field : List (Nat × Nat) → Nat → Nat := fun xs j => match xs[j]? with
      | some x => topkEntry ta j x
      | none => 2 ^ 64 - 1
    let kept : List (Nat × Nat) → List (Nat × Nat) := fun l => l.filter fun p => decide (p.1 < cap)
    let empties : Nat → Nat → State → State × Except Stop Pan := fun e0 e1 s =>
      (s, .ok { Pan.of s (kept ((fromTo e0 e1).map fun i => (i, kxEmpty))) 0 with
        carry := some (0, false)
        fields := if f.wd = 0 then [] else (fromTo e0 e1).map fun i => (i, 2 ^ 64 - 1) })
    let body := if g.n = 0 then empties
      else wholeStrip d g (fun l xs =>
        let o := graded ta true xs
        let at_ : Nat → Nat := fun j => ravel shape (g.at l j)
        (kept ((List.range k).map fun j => (at_ j, slot l o j)), 0,
          if f.wd = 0 then [] else (List.range k).map fun j => (at_ j, field o j)))
    .ok (lineJob f dd shape (g.n, if n = 0 then 0 else if g.n = 0 then n else g.count) false (lineLen ops ls s) body
      (if f.wd = 0 then none else some { d := s.me.desc f.wd, op := 6, n := g.n, iax := g.iax, shape := shape })
      (fun s => (if cap < n then setOvf s else s).setSr f.sa (wd (min k g.n))))) s)

/-! ## The inner product -/

/-- The function of R279 by its FN code of major 0x71, on one element of each source, in T. -/
def funOf (fn : Nat) (t td : Tag) (rm : Rm) (sat : Bool) (a b : Tag × Nat) : Nat × Flags :=
  let logic : LOp → Nat × Flags := fun op =>
    let x := convert a.1 t rm sat 0 a.2
    let y := convert b.1 t rm sat 0 b.2
    let z := convert t td rm sat 0 (elemLogic op t t false x.1 y.1).1
    (z.1, x.2 ||| y.2 ||| z.2)
  match fn with
  | 0 => elemArith .add t td rm sat [a, b]
  | 1 => elemArith .sub t td rm sat [a, b]
  | 2 => elemArith .mul t td rm sat [a, b]
  | 3 => elemArith .div t td rm sat [a, b]
  | 4 => elemArith .min t td rm sat [a, b]
  | 5 => elemArith .max t td rm sat [a, b]
  | 11 => logic .and
  | 12 => logic .or
  | _ => logic .xor

/-- What `AOUTER` and `AINNER` refuse (R274, R279, R280): `ints` where an integer T is needed. -/
def refuseProduct (td ta tb : Tag) (ints : Bool) : Option Trap :=
  firstTrap
    [refuseAny (fun t => t.isSx || t.wideKey) [td, ta, tb],
     match promoteAll [ta, tb] with
     | .ok (t, p) => if t = .f64 ∨ (ints = true ∧ t.isInt = false) then badTag t p else none
     | .error (t, p) => badTag t p]

/-- `AINNER` (R280): f on the pairs of DA's last axis and DB's first, reduced by g. -/
def execAinner (f : FmtA) (s : State) : Host.Outcome State Fault Refusal :=
  .next (arrayGo (fun s => do
    let a := s.me.desc f.da
    let b := s.me.desc f.db
    let dd := s.me.desc f.dd
    let td := dd.elemTag
    let ta := a.elemTag
    let tb := b.elemTag
    let t := workTag [ta, tb]
    let g := f.ax.toNat
    let fn := f.sa.toNat
    let rm := s.me.rmOf f.rm.toNat
    let ops := [(td, 0), (ta, 1), (tb, 2)]
    orTrap (refuseProduct td ta tb (11 ≤ fn || 4 ≤ g))
    let ls ← stripLen ops s
    if a.rank = 0 ∨ b.rank = 0 then throw (axisTrap 0 0)
    let n := a.shape.getLastD 0
    if n ≠ b.shape.headD 0 then throw (frameTrap 1 0 0 n (b.shape.headD 0))
    let la := a.shape.dropLast
    let shape := la ++ b.shape.drop 1
    axesCheck shape
    let count := prodL shape
    capacity dd ops count
    .ok (lineJob f dd shape (n, count) true (lineLen ops ls s) (fun e0 e1 s =>
      let ps := pieces n e0 e1
      let get : Nat → Nat → State → State × Except Stop (Nat × Flags) := fun l k s =>
        let x := unravel shape l
        match readElem a (x.take la.length ++ [k]) s with
        | (s1, .error e) => (s1, .error e)
        | (s1, .ok u) =>
          match readElem b (k :: x.drop la.length) s1 with
          | (s2, .error e) => (s2, .error e)
          | (s2, .ok v) => (s2, .ok (funOf fn t t rm f.sat (ta, u) (tb, v)))
      match readPieces get ps s with
      | (s1, .error e) => (s1, .error e)
      | (s1, .ok xs) =>
        let fl := xs.foldl (fun fl p => p.2.foldl (fun fl x => fl ||| x.2) fl) (0 : Flags)
        let y := (xs.map fun p => (p.1, p.2.map Prod.fst)).foldl (reducePiece g t rm f.sat n fun l r _ z =>
          { z with line := false }.emit l (roundTo t td rm f.sat 0 r) none) { Tally.start s1 with flags := fl }
        (s1, .ok ({ y with line := false }.pan n ps s1))) none noMore)) s)

end Sys2Proof.Machine
end

