-- ==== Sys2Proof/Machine/ArrayPrim.lean ====
section
/-!
DEFINITION. Major 0x72, the structural primitives: R271 to R279 and R281.
-/
namespace Sys2Proof.Machine

open Sys2Proof

/-- A tag that the structural primitives refuse (R274). -/
def Tag.noPrim (t : Tag) : Bool := t.isSx || t = .f64

/-- What the copying forms refuse: f64 and sx, then a destination of another tag than DA's (R274). -/
def refuseMove (td ta : Tag) (more : List Tag) : Option Trap :=
  firstTrap [refuseAny Tag.noPrim (td :: ta :: more), if td = ta then none else badTag td 0]

/-- What result element i, at a multi-index, is: its bits with flags, and whether an index was out of range. -/
abbrev PrimElem := Nat → List Nat → State → State × Except Stop (Nat × Flags × Bool)

/-- Reading a source element as it stands. -/
def copied (d : Desc) (x : List Nat) (s : State) : State × Except Stop (Nat × Flags × Bool) :=
  match readElem d x s with
  | (s1, .error e) => (s1, .error e)
  | (s1, .ok v) => (s1, .ok (v, 0, false))

/-- Zero bits. -/
def zeroBits (s : State) : State × Except Stop (Nat × Flags × Bool) := (s, .ok (0, 0, false))

/-- The strip of a structural primitive (R248): its elements and whether OOR is to be set (R262). -/
def primStrip (shape : List Nat) (elem : PrimElem) (e0 e1 : Nat) (s : State) : State × Except Stop Pan :=
  match eachRead (fun i s => elem i (unravel shape i) s) (fromTo e0 e1) s with
  | (s1, .error e) => (s1, .error e)
  | (s1, .ok xs) =>
    (s1, .ok { Pan.of s1 (xs.zipIdx.map fun p => (e0 + p.2, p.1.1)) (xs.foldl (fun fl x => fl ||| x.2.1) 0) with
      oor := xs.any fun x => x.2.2 })

/-- A structural primitive past its tag check: the strip length, the shape, the capacity (R247), then its strips. -/
def primJob (f : FmtA) (srcs : List Desc) (refused : Option Trap) (shape : Except Trap (List Nat × PrimElem)) (s : State) :
    Except Trap ArrayJob := do
  let dd := s.me.desc f.dd
  let ops := ((dd :: srcs).map Desc.elemTag).zipIdx
  orTrap refused
  let ls ← stripLen ops s
  let sh ← shape
  let n := prodL sh.1
  capacity dd ops n
  .ok { dd := f.dd, d := dd, shape := sh.1, total := n, next := plainNext dd.elemTag (largest ops).1 ls n s
        body := primStrip sh.1 sh.2, wit := none, claim := noClaim, done := noMore }

/-- `AIOTA` (R275): SR[SA] plus the linear index, or the index along AX, converted to Tag(DD). -/
def execAiota (f : FmtA) (s : State) : Host.Outcome State Fault Refusal :=
  .next (arrayGo (fun s =>
    let dd := s.me.desc f.dd
    let td := dd.elemTag
    let r := dd.shape.length
    let ax := f.ax.toNat
    let base := (s.sr f.sa).toInt
    primJob f [] (if td.isInt || (td.isFloat && decide (td ≠ .f64)) then none else badTag td 0)
      (if f.fl = 1 ∧ r ≤ ax then .error (axisTrap ax r)
       else .ok (dd.shape, fun i x s =>
         let v := td.write .rne false 0 (.int (base + (if f.fl = 1 then x.getD ax 0 else i : Nat)))
         (s, .ok (v.1, v.2, false)))) s) s)

/-- `AFILL` (R275): every element the low bits of SR[SA]. -/
def execAfill (f : FmtA) (s : State) : Host.Outcome State Fault Refusal :=
  .next (arrayGo (fun s =>
    let dd := s.me.desc f.dd
    let td := dd.elemTag
    primJob f [] (if td.noPrim then badTag td 0 else none)
      (.ok (dd.shape, fun _ _ s => (s, .ok ((s.sr f.sa).toNat % 2 ^ td.width, 0, false)))) s) s)

/-- `ACOPY` (R275): DA's elements, dense. -/
def execAcopy (f : FmtA) (s : State) : Host.Outcome State Fault Refusal :=
  .next (arrayGo (fun s =>
    let a := s.me.desc f.da
    primJob f [a] (refuseMove (s.me.desc f.dd).elemTag a.elemTag []) (.ok (a.shape, fun _ x s => copied a x s)) s) s)

/-- `ARESH` (R275): DA's elements, cycled, under DD's shape. -/
def execAresh (f : FmtA) (s : State) : Host.Outcome State Fault Refusal :=
  .next (arrayGo (fun s =>
    let a := s.me.desc f.da
    let dd := s.me.desc f.dd
    let m := a.count
    primJob f [a] (refuseMove dd.elemTag a.elemTag [])
      (.ok (dd.shape, fun i _ s => if m = 0 then zeroBits s else copied a (unravel a.shape (i % m)) s)) s) s)

/-- A primitive along AX of DA's cells (R276): the extent that the axis takes, and the index of DA for the index j, or
none for zero bits. -/
def alongAxis (f : FmtA) (ext : Nat → Except Trap Nat) (at_ : Nat → Nat → Option Nat) (s : State) : Except Trap ArrayJob :=
  let a := s.me.desc f.da
  primJob f [a] (refuseMove (s.me.desc f.dd).elemTag a.elemTag [])
    (do
      let g ← linesOf a f.ka.toNat f.ax.toNat
      let e ← ext g.n
      .ok (g.shape.take g.iax ++ e :: g.shape.drop (g.iax + 1), fun _ x s =>
        match at_ g.n (x.getD g.iax 0) with
        | some j => copied a (x.take g.iax ++ j :: x.drop (g.iax + 1)) s
        | none => zeroBits s)) s

/-- An index within an extent. -/
def within (n : Nat) (j : Int) : Option Nat := if 0 ≤ j ∧ j < n then some j.toNat else none

/-- `AROT` (R276). -/
def execArot (f : FmtA) (s : State) : Host.Outcome State Fault Refusal :=
  .next (arrayGo (fun s => alongAxis f (fun n => .ok n) (fun n j => within n ((j + (s.sr f.sa).toInt) % (n : Int))) s) s)

/-- `AREV` (R276). -/
def execArev (f : FmtA) (s : State) : Host.Outcome State Fault Refusal :=
  .next (arrayGo (fun s => alongAxis f (fun n => .ok n) (fun n j => within n (n - 1 - j)) s) s)

/-- `ATAKE` (R276): from the front, or from the back for a negative count, filled with zero bits. -/
def execAtake (f : FmtA) (s : State) : Host.Outcome State Fault Refusal :=
  .next (arrayGo (fun s =>
    let q := (s.sr f.sa).toInt
    alongAxis f
      (fun n => if 2 ^ 32 ≤ q.natAbs then .error (frameTrap 3 f.ax.toNat 4 q.natAbs n) else .ok q.natAbs)
      (fun n j => within n (if 0 ≤ q then j else n - q.natAbs + j)) s) s)

/-- The result of `ACAT` (R277): its shape and its elements. -/
def catShape (f : FmtA) (a b : Desc) : Except Trap (List Nat × PrimElem) := do
  let (fa, ca) := axisSplit a.shape f.ka.toNat
  let (fb, cb) := axisSplit b.shape f.kb.toNat
  let ax := f.ax.toNat
  let fr ← agree 0 0 fa fb
  if ca.length ≠ cb.length then throw (frameTrap 1 (min ca.length cb.length) 0 ca.length cb.length)
  match (((ca.zip cb).zipIdx).find? fun p => decide (p.2 ≠ ax) && p.1.1 != p.1.2) with
  | some ((x, y), i) => throw (frameTrap 1 i 0 x y)
  | none => pure ()
  axesCheck (fr ++ ca)
  if ca.length ≤ ax then throw (axisTrap ax ca.length)
  let ea := ca.getD ax 0
  .ok (fr ++ ca.take ax ++ (ea + cb.getD ax 0) :: ca.drop (ax + 1), fun _ x s =>
    let c := x.drop fr.length
    let j := c.getD ax 0
    if j < ea then copied a (x.take fa.length ++ c) s
    else copied b (x.take fb.length ++ c.take ax ++ (j - ea) :: c.drop (ax + 1)) s)

/-- `ACAT` (R277). -/
def execAcat (f : FmtA) (s : State) : Host.Outcome State Fault Refusal :=
  .next (arrayGo (fun s =>
    let a := s.me.desc f.da
    let b := s.me.desc f.db
    let td := (s.me.desc f.dd).elemTag
    primJob f [a, b]
      (firstTrap [refuseMove td a.elemTag [b.elemTag], if b.elemTag = a.elemTag then none else badTag b.elemTag 2])
      (catShape f a b) s) s)

/-- `AGATH` (R278): DA's elements at the indices of DB along AX. -/
def execAgath (f : FmtA) (s : State) : Host.Outcome State Fault Refusal :=
  .next (arrayGo (fun s =>
    let a := s.me.desc f.da
    let b := s.me.desc f.db
    let td := (s.me.desc f.dd).elemTag
    let tb := b.elemTag
    let ax := f.ax.toNat
    let sa := a.shape
    let k := b.shape.length
    primJob f [a, b] (firstTrap [refuseMove td a.elemTag [tb], if tb.isInt then none else badTag tb 2])
      (do
        let shape := sa.take ax ++ b.shape ++ sa.drop (ax + 1)
        axesCheck shape
        if sa.length ≤ ax then throw (axisTrap ax sa.length)
        .ok (shape, fun _ x s =>
          match readElem b ((x.drop ax).take k) s with
          | (s1, .error e) => (s1, .error e)
          | (s1, .ok v) =>
            match within (sa.getD ax 0) (tb.decode v).toI with
            | some j => copied a (x.take ax ++ j :: x.drop (ax + k)) s1
            | none => (s1, .ok (0, 0, true)))) s) s)

/-- `AOUTER` (R279): f of every pair of elements. -/
def execAouter (f : FmtA) (s : State) : Host.Outcome State Fault Refusal :=
  .next (arrayGo (fun s =>
    let a := s.me.desc f.da
    let b := s.me.desc f.db
    let td := (s.me.desc f.dd).elemTag
    let ta := a.elemTag
    let tb := b.elemTag
    let fn := f.sa.toNat
    let rm := s.me.rmOf f.rm.toNat
    let shape := a.shape ++ b.shape
    primJob f [a, b] (refuseProduct td ta tb (11 ≤ fn))
      (do
        axesCheck shape
        .ok (shape, fun _ x s =>
          match readElem a (x.take a.shape.length) s with
          | (s1, .error e) => (s1, .error e)
          | (s1, .ok u) =>
            match readElem b (x.drop a.shape.length) s1 with
            | (s2, .error e) => (s2, .error e)
            | (s2, .ok v) =>
              let r := funOf fn (workTag [ta, tb]) td rm f.sat (ta, u) (tb, v)
              (s2, .ok (r.1, r.2, false)))) s) s)

/-! ## Selection by a mask array (R271 to R273) -/

/-- The count that `carry` holds where a strip begins (R261). -/
def countFrom (e0 : Nat) (s : State) : Nat := if e0 = 0 then 0 else s.me.carry.toNat

/-- The strip of `ACOMP` from a count on: DA is read only where DB selects (R272). -/
def compStrip (a b : Desc) (ma mb : List Nat → List Nat) (shape : List Nat) (cap e0 e1 : Nat) (s : State) :
    State × Except Stop Pan :=
  match eachRead (fun i s =>
      let x := unravel shape i
      match readElem b (mb x) s with
      | (s1, .error e) => (s1, .error e)
      | (s1, .ok v) =>
        if v = 0 then (s1, .ok none)
        else
          match readElem a (ma x) s1 with
          | (s2, .error e) => (s2, .error e)
          | (s2, .ok u) => (s2, .ok (some u))) (fromTo e0 e1) s with
  | (s1, .error e) => (s1, .error e)
  | (s1, .ok xs) =>
    let c := countFrom e0 s1
    let picked := xs.filterMap id
    (s1, .ok { Pan.of s1 ((picked.zipIdx.map fun p => (c + p.2, p.1)).filter fun p => decide (p.1 < cap)) 0 with
      carry := some (wd (c + picked.length), false) })

/-- `ACOMP` (R271, R272): the selected elements of DA, their count to SR[SA]. -/
def execAcomp (f : FmtA) (s : State) : Host.Outcome State Fault Refusal :=
  .next (arrayGo (fun s => do
    let a := s.me.desc f.da
    let b := s.me.desc f.db
    let dd := s.me.desc f.dd
    let ops := [(dd.elemTag, 0), (a.elemTag, 1), (b.elemTag, 2)]
    orTrap (refuseMove dd.elemTag a.elemTag [if b.elemTag.isSx then b.elemTag else .u8])
    let ls ← stripLen ops s
    let r ← agreeTwo a.shape b.shape f.ka.toNat f.kb.toNat
    axesCheck r.1
    let n := prodL r.1
    let cap := dd.cap.toNat
    .ok { dd := f.dd, d := dd, shape := [0], total := n, next := plainNext dd.elemTag (largest ops).1 ls n s
          body := compStrip a b r.2.1 r.2.2 r.1 cap, wit := none, claim := noClaim
          done := fun s =>
            let c := if n = 0 then 0 else s.me.carry.toNat
            let s1 := writeShape f.dd dd [c] (if cap < c then setOvf s else s)
            (clearLine s1).setSr f.sa (wd c) }) s)

/-- The strip of `AEXPD` (R273): each selecting position, counted from `c` on, takes the next element of DA while there is
one. -/
def expdStrip (a b : Desc) (cap : Nat) : Nat → List Nat → State → State × Except Stop (Nat × List (Nat × Nat))
  | c, [], s => (s, .ok (c, []))
  | c, i :: l, s =>
    match readElem b (unravel b.shape i) s with
    | (s1, .error e) => (s1, .error e)
    | (s1, .ok v) =>
      let taken := decide (v ≠ 0 ∧ c < a.count)
      match (if taken then readElem a (unravel a.shape c) s1 else (s1, .ok 0)) with
      | (s2, .error e) => (s2, .error e)
      | (s2, .ok u) =>
        match expdStrip a b cap (if v = 0 then c else c + 1) l s2 with
        | (s3, .error e) => (s3, .error e)
        | (s3, .ok (c', outs)) => (s3, .ok (c', if i < cap then (i, u) :: outs else outs))

/-- The selecting positions that `AEXPD` has passed where a strip begins, or at its end: `carry` holds those that took an
element of DA (R273), and the hart keeps how many more there were. -/
def selected (e0 : Nat) (h : Hart) : Nat :=
  if e0 = 0 then 0 else h.carry.toNat + ((h.keptNow.bind Kept.head).getD 0)

/-- `AEXPD` (R271, R273): DA's elements spread over the positions that DB selects, their number to SR[SA]. -/
def execAexpd (f : FmtA) (s : State) : Host.Outcome State Fault Refusal :=
  .next (arrayGo (fun s => do
    let a := s.me.desc f.da
    let b := s.me.desc f.db
    let dd := s.me.desc f.dd
    let ops := [(dd.elemTag, 0), (a.elemTag, 1), (b.elemTag, 2)]
    orTrap (refuseMove dd.elemTag a.elemTag [b.elemTag])
    let ls ← stripLen ops s
    let n := b.count
    let cap := dd.cap.toNat
    .ok { dd := f.dd, d := dd, shape := b.shape, total := n, next := plainNext dd.elemTag (largest ops).1 ls n s
          body := fun e0 e1 s =>
            match expdStrip a b cap (selected e0 s.me) (fromTo e0 e1) s with
            | (s1, .error e) => (s1, .error e)
            | (s1, .ok (c, outs)) =>
              (s1, .ok { Pan.of s1 outs 0 with carry := some (wd (min c a.count), false), head := some (c - a.count) })
          wit := none, claim := noClaim
          done := fun s =>
            let c := if n = 0 then 0 else selected n s.me
            ((clearLine (if a.count < c ∨ cap < n then setOvf s else s))).setSr f.sa (wd c) }) s)

end Sys2Proof.Machine
end

