-- ==== Sys2Proof/Machine/Witness.lean ====
section
/-!
DEFINITION. Major 0x75, the witness instructions: R323 to R330.
-/
namespace Sys2Proof.Machine

open Sys2Proof

/-- SIDE is valid for an operator (R324). -/
def sideOk (op side : Nat) : Bool :=
  side == 0 || (side == 1 && (op == 4 || op == 7 || op == 8 || op == 9)) || (side == 2 && (op == 4 || op == 9))

/-- The adjoint works element by element of the result shape (R324). -/
def sameShape (op side : Nat) : Bool := op == 7 || op == 8 || op == 9 || (op == 4 && side != 0)

/-- The input shape of an operator (R324). -/
def inputShape (h : Header) (side : Nat) : List Nat :=
  if sameShape h.op side then h.shape
  else h.shape.take h.iax ++ h.n :: h.shape.drop (if h.op = 6 then h.iax + 1 else h.iax)

/-- Reading field k of a witness (R321), with WATCH (R237). -/
def readField (base : Word) (wlog k : Nat) (s : State) : State × Except Stop Nat :=
  let w := 2 ^ wlog
  let a := base + wd (64 + k * w / 8)
  let n := max 1 (w / 8)
  match watchElem 0 a n true false s with
  | some t => (s, .error t)
  | none =>
  match readSpace (vecWho s s.cur) s.cur 0 a n 1 0 s with
  | (s1, .error e) => (s1, .error e)
  | (s1, .ok b) => (s1, .ok (nbits (leNat b) (k * w % 8) w))

/-- The entry of a top-k line that a position takes: the slot, and whether an expert id was out of range; slots are
passed in ascending order, the highest match stands (R324). -/
def topkSlot (n x : Nat) : List (Nat × Nat) → Option Nat × Bool
  | [] => (none, false)
  | (j, e) :: l =>
    let r := topkSlot n x l
    if e % 2 = 1 then r
    else if n ≤ e / 2 ^ 48 then (r.1, true)
    else if e / 2 ^ 48 = x then (r.1.orElse fun _ => some j, r.2)
    else r

/-- Which element of DA the adjoint takes at an index, none for +0, and whether OOR is to be set (R324). -/
def adjointAt (base : Word) (h : Header) (side : Nat) (pass : Bool) (x : List Nat) (s : State) :
    State × Except Stop (Option (List Nat) × Bool) :=
  let empty := 2 ^ 2 ^ h.wlog - 1
  let one : List Nat → (Nat → Bool) → (Nat → Bool) → State × Except Stop (Option (List Nat) × Bool) := fun y hit bad =>
    match readField base h.wlog (ravel h.shape y) s with
    | (s1, .error e) => (s1, .error e)
    | (s1, .ok c) => (s1, .ok (if hit c then some y else none, bad c))
  let never : Nat → Bool := fun _ => false
  let y := x.take h.iax ++ x.drop (h.iax + 1)
  if h.op = 7 ∨ h.op = 8 then one x (fun c => c == side) never
  else if sameShape h.op side then one x (fun c => if side = 0 then c == 0 || c == 3 else c == side) never
  else if h.op = 4 then one y (fun c => c == 0 || c == 3) never
  else if h.op = 5 then one y (fun c => c == 0 || pass) never
  else if h.op = 6 then
    let slot : Nat → List Nat := fun j => y.take h.iax ++ j :: y.drop h.iax
    match eachRead (fun j s => readField base h.wlog (ravel h.shape (slot j)) s) (List.range (h.shape.getD h.iax 0)) s with
    | (s1, .error e) => (s1, .error e)
    | (s1, .ok es) =>
      let r := topkSlot h.n (x.getD h.iax 0) (es.zipIdx.map fun p => (p.2, p.1))
      (s1, .ok (r.1.map slot, r.2))
  else one y (fun c => c != empty && c == x.getD h.iax 0) (fun c => c != empty && decide (h.n ≤ c))

/-- The strip of `WADJ` (R327). -/
def adjointStrip (base : Word) (h : Header) (d : Desc) (shape : List Nat) (side : Nat) (pass : Bool) (e0 e1 : Nat)
    (s : State) : State × Except Stop Pan :=
  match eachRead (fun i s =>
      match adjointAt base h side pass (unravel shape i) s with
      | (s1, .error e) => (s1, .error e)
      | (s1, .ok (none, oor)) => (s1, .ok (0, oor))
      | (s1, .ok (some y, oor)) =>
        match readElem d y s1 with
        | (s2, .error e) => (s2, .error e)
        | (s2, .ok v) => (s2, .ok (v, oor))) (fromTo e0 e1) s with
  | (s1, .error e) => (s1, .error e)
  | (s1, .ok xs) =>
    (s1, .ok { Pan.of s1 (xs.zipIdx.map fun p => (e0 + p.2, p.1.1)) 0 with
      oor := xs.any fun x => x.2, head := some (leNat h.bytes) })

/-- The page of a witness's header belongs to a buffer that the kernel holds RO (R327). -/
def heldRo (base : Word) (s : State) : Bool :=
  match leafAt s (vecWho s s.cur) base.toNat with
  | .ok l => (match modeOf s (vecWho s s.cur) (fld l.leaf 16 12) with
    | some .ro => true
    | _ => false)
  | .error _ => false

/-- The loop of `WADJ` by the header that it read (R327). -/
def adjointJob (f : FmtA) (dd da w : Desc) (h : Header) (ls : Nat) (s : State) : ArrayJob :=
  let shape := inputShape h (f.fl.toNat % 4)
  let n := prodL shape
  { dd := f.dd, d := dd, shape := shape, total := n, next := plainNext dd.elemTag dd.elemTag ls n s
    body := adjointStrip w.base h da shape (f.fl.toNat % 4) (4 ≤ f.fl.toNat), wit := none, claim := claimUse w.base
    done := noMore }

/-- The checks of `WADJ` that need the header, in the order of R327. -/
def adjointChecks (f : FmtA) (dd da w : Desc) (h : Header) (version : Nat) (ls : Nat) (s : State) :
    Except Trap ArrayJob := do
  let base := w.base
  let side := f.fl.toNat % 4
  let r := h.reason version (s.me.epr = 0)
  if r = 1 then throw (witTrap 1 base)
  if (w.ext[0]).toNat < 64 + h.fbytes then throw (witTrap 6 base)
  if r ≠ 0 then throw (witTrap r base)
  if da.shape ≠ h.shape then throw (witTrap 4 base)
  if sideOk h.op side = false then throw (witTrap 5 base)
  if h.uses ≠ 255 ∧ heldRo base s = true then throw (Trap.vector .prot base)
  let shape := inputShape h side
  axesCheck shape
  capacity dd [(dd.elemTag, 0)] (prodL shape)
  .ok (adjointJob f dd da w h ls s)

/-- `WADJ` (R327, R328): an upstream gradient routed to the contributors that a witness names. The header is read once,
before the loop, and again where the instruction is executed anew after a stop. -/
def execWadj (f : FmtA) (s0 : State) : Host.Outcome State Fault Refusal :=
  let s := settleAll s0.cur s0
  let dd := s.me.desc f.dd
  let da := s.me.desc f.da
  let e0 := s.me.epr.toNat
  let first : Except Trap Nat := do
    orTrap (firstTrap [refuseAny (fun t => t.isSx || t.wideKey) [dd.elemTag, da.elemTag],
      if dd.elemTag = da.elemTag then none else badTag da.elemTag 1])
    stripLen [(dd.elemTag, 0)] s
  .next (
    match first with
    | .error t => arrayStop e0 (.trap t) s
    | .ok ls =>
      match (if s.me.strip then s.me.keptNow.bind Kept.head else none) with
      | some x => runArray (adjointJob f dd da (s.me.desc f.wd) (Header.ofNat x) ls s) s
      | none =>
        match witRegion (s.me.desc f.wd) 0 s with
        | .error t => arrayStop e0 (.trap t) s
        | .ok w =>
          match readHeader w.base s with
          | (s1, .error t) => arrayStop e0 t s1
          | (s1, .ok (h, v)) =>
            match adjointChecks f dd da w h v ls s1 with
            | .error t => arrayStop e0 (.trap t) s1
            | .ok j => runArray j s1)

/-- `WCHK` in check mode (R329): the serial, the uses left and the first of reasons 1 to 3, or 0, to SR[SA]. -/
def execWchk (f : FmtA) (s0 : State) : Host.Outcome State Fault Refusal :=
  let s := settleAll s0.cur s0
  .next (
    match witRegion (s.me.desc f.wd) 0 s with
    | .error t => takeTrap t s
    | .ok w =>
      match readHeader w.base s with
      | (s2, .error t) => stopAt t s2
      | (s2, .ok (h, v)) =>
        let r := h.reason v true
        if r ≠ 1 ∧ (w.ext[0]).toNat < 64 + h.fbytes then takeTrap (witTrap 6 w.base) s2
        else retireVec (s2.setSr f.sa (if r = 1 then 1 else wd (h.serial * 2 ^ 16 + h.uses * 2 ^ 8 + r))))

/-- `WCHK` in seal mode (R329): the header of a top-k witness whose fields already stand. -/
def execWchkSeal (f : FmtA) (s0 : State) : Host.Outcome State Fault Refusal :=
  let s := settleAll s0.cur s0
  let a := s.me.desc f.da
  let n := (s.sr f.sa).toNat
  .next (
    match witRegion (s.me.desc f.wd) (8 * a.count) s with
    | .error t => takeTrap t s
    | .ok w =>
      if a.rank = 0 ∨ 2 ^ 32 ≤ n then takeTrap (witTrap 8 w.base) s
      else if n = 0 ∨ 65535 < n then takeTrap (witTrap 7 w.base) s
      else
        let wit : Wit := { d := w, op := 6, n := n, iax := a.rank.toNat - 1, shape := a.shape }
        match putHeader w.base (wit.header (s.serialOf s.cur)) s with
        | (s2, some t) => stopAt t s2
        | (s2, none) => retireVec s2)

/-- `WREL` (R330): the witness is released, whatever its seal. -/
def execWrel (f : FmtA) (s0 : State) : Host.Outcome State Fault Refusal :=
  let s := settleAll s0.cur s0
  .next (
    match witRegion (s.me.desc f.wd) 0 s with
    | .error t => takeTrap t s
    | .ok w =>
      match readHeader w.base s with
      | (s2, .error t) => stopAt t s2
      | (s2, .ok (h, _)) =>
        if h.magic ≠ 0x5457 then takeTrap (witTrap 1 w.base) s2
        else if h.live = false then retireVec s2
        else
          match putHeader w.base { h with flags := h.flags - 1, uses := 0 } s2 with
          | (s3, some t) => stopAt t s3
          | (s3, none) => retireVec s3)

end Sys2Proof.Machine
end

