-- ==== Sys2Proof/Machine/Matrix.lean ====
section
/-!
DEFINITION. Major 0x80, the matrix array and its tiles: R282 to R294, with the sums of R63.
-/
namespace Sys2Proof.Machine

open Sys2Proof

/-! ## Shape, tiles and checks -/

/-- M of `mshape` (R283). -/
def Hart.tileM (h : Hart) : Nat := fld h.mshape 0 8
/-- N of `mshape` (R283). -/
def Hart.tileN (h : Hart) : Nat := fld h.mshape 8 8

/-- Element (i, j) of a tile as f32 bits (R282). -/
def tileGet (a : ByteStore) (i j : Nat) : Nat := bsNat a (4 * (128 * i + j)) 4
/-- A tile with an element written. -/
def tilePut (a : ByteStore) (i j x : Nat) : ByteStore := bsWrite a (4 * (128 * i + j)) (leBytes 4 x)

/-- A tile of the core of the hart whose turn it is. -/
def State.tile (s : State) (at_ : BitVec 1) : ByteStore := (s.core s.myCore).acc[at_.toNat]'at_.isLt
/-- The state with that tile replaced. -/
def State.setTile (s : State) (at_ : BitVec 1) (a : ByteStore) : State :=
  let c := s.core s.myCore
  s.setCore s.myCore { c with acc := c.acc.set at_.toNat a at_.isLt }

/-- A MATRIX trap (R285): reason, FN, and a row index. -/
def matrixTrap (reason fn : Nat) (row : Word) : Trap := Trap.vector .matrix (wd (reason + fn * 2 ^ 8 + row.toNat % 2 ^ 48 * 2 ^ 16))

/-- The row index must be below 128 (R285). -/
def rowCheck (fn : Nat) (row : Word) : Option Trap := if 128 ≤ row.toNat then some (matrixTrap 2 fn row) else none

/-- A length beyond MVL (R285). -/
def tileCap (s : State) (t : Tag) (pos n : Nat) : Option Trap := if s.mvl t < n then some (tagTrap t pos true) else none

/-- The checks of R285 up to the operands, then what an instruction does with them: bindings, the matrix-mode bit, the
entry's own checks. `dst` and `src` give registers with their lengths. -/
def matrixGo (fn ovr : Nat) (dst src : List (Nat × Nat)) (own : List (Option Trap)) (body : List Strip → State → State)
    (s : State) : State :=
  let h := s.me
  match firstTrap (dst.map (fun p => writeRefused s h ovr false p.1) ++ src.map (fun p => readRefused s h ovr p.2 p.1)
      ++ [if h.matrix then none else some (matrixTrap 1 fn 0)] ++ own) with
  | some t => takeTrap t s
  | none =>
    match eachRead (fun (p : Nat × Nat) s => operandStrip s.cur ovr p.1 p.2 s) (src.filter fun p => p.2 ≠ 0) s with
    | (s1, .error t) => stopAt t s1
    | (s1, .ok xs) => body xs s1

/-- Every bound source advances by its length, once (R301). -/
def advanceEach (src : List (Nat × Nat)) (s : State) : State :=
  ((src.map Prod.fst).eraseDups).foldl (fun s v =>
    let n := (src.filter fun p => p.1 = v).foldl (fun m p => max m p.2) 0
    if n = 0 then s
    else match s.me.binding? v with
      | some b => advance s.cur n b s
      | none => s) s

/-- The end of a matrix instruction: flags, positions of its sources (R290, R301). -/
def matrixEnd (src : List (Nat × Nat)) (fl : Flags) (s : State) : State := retireVec (advanceEach src (raise fl s))

/-- The elements of a strip as exact values (R46). -/
def Strip.exact (x : Strip) : List FVal := let p := x.flat; p.2.map fun v => (p.1.decode v).toF

/-- The word of an instruction, as the `tval` of an ILLEGAL trap that its operands cause (R87, R287). -/
def wordOf (i : Instr) : Word := (encode i).getD 0

/-! ## Mode and shape -/

/-- The group gives up the matrix array when no hart of it has matrix mode on; the tiles are discarded (R282, R286). -/
def giveUpArray (s : State) : State :=
  match s.myGroup with
  | none => s
  | some (g, x) =>
    let c := s.core x.core
    if c.mholder = some g ∧ (x.harts.all fun h => !(s.hart h).matrix) = true then
      s.setCore x.core { c with mholder := none, acc := Vector.replicate 2 [] }
    else s

/-- `MMODE on` (R286): the group takes the array, or waits for it. -/
def execMmodeOn (f : FmtX) (s0 : State) : Host.Outcome State Fault Refusal :=
  let s := settleAll s0.cur s0
  .next (
    if s.me.matrix then retireVec (endWait s)
    else
      match s.myGroup with
      | none => s
      | some (g, x) =>
        let c := s.core x.core
        let on : State → State := fun s => retireVec (endWait (s.modMe fun h => { h with matrix := true }))
        if c.mholder = some g then on s
        else if c.mholder = none then
          on (s.setCore x.core { c with mholder := some g, acc := Vector.replicate 2 [] })
        else waitAt (.mmode f) s)

/-- `MMODE off` (R286). -/
def execMmodeOff (_f : FmtX) (s : State) : Host.Outcome State Fault Refusal :=
  .next (retireVec (giveUpArray (s.modMe fun h => { h with matrix := false })))

/-- A tag for which a tile shape is granted (R287, R292). -/
def Tag.macSource (t : Tag) : Bool := t = .u8 || t = .i8 || t = .f16 || t = .bf16 || t = .f32 || t.isSx

/-- `MSHAPE` (R287): the granted shape to `mshape` and SR[XD]. -/
def execMshape (f : FmtX) (s : State) : Host.Outcome State Fault Refusal :=
  let q := s.sr f.xa
  let t := s.me.opTag f.ovr.toNat f.xb.toNat
  let v := s.mvl t
  let cut : Nat → Nat := fun x => if t.isSx then x / 16 * 16 else x
  let m := cut (min (min (fld q 0 16) 128) (v / 8))
  let n := cut (min (min (fld q 16 16) 128) v)
  let k := min (8 * ((fld q 32 16 + 7) / 8)) 0xFFF8
  let w := wd (t.code * 2 ^ 32 + k * 2 ^ 16 + n * 2 ^ 8 + m)
  .next (
    if fld q 48 16 ≠ 0 then takeTrap (Trap.vector .illegal (wordOf (.mshape f))) s
    else if t.macSource = false then takeTrap (tagTrap t 2 false) s
    else retireVec ((s.modMe fun h => { h with mshape := w }).setSr f.xd w))

/-- `MZERO` (R288). -/
def execMzero (f : FmtX) (s : State) : Host.Outcome State Fault Refusal :=
  .next (if s.me.matrix then retireVec (s.setTile f.at_ []) else takeTrap (matrixTrap 1 2 0) s)

/-! ## Outer products -/

/-- One element of a tile with the exact sum of products added, rounded once (R63, R289): `ab` are the pairs of the
slices that the mask selects. -/
def accumulate (old : Nat) (ab : List (FVal × FVal)) : Nat × Flags :=
  let s := ab.foldl (fun (a : FVal × Flags) p =>
    let m := p.1.mul p.2
    let r := a.1.add .rne m.1
    (r.1, a.2 ||| m.2 ||| r.2)) (FVal.zero false, 0)
  let r := ((Tag.ffmt .f32).decode old).add .rne s.1
  let y := (Tag.ffmt .f32).round .rne false 0 r.1
  (y.1, s.2 ||| r.2 ||| y.2)

/-- The first operand of `MACT` whose tag is not accepted or not shared (R289). -/
def mactTags (s : State) (f : FmtX) : Option Trap :=
  let okTag : Tag → Bool := fun t => t.macSource && !t.isInt
  if f.ovr ≠ 0 then
    let t := Tag.ofCode (f.ovr.toNat - 1)
    if okTag t then none else badTag t 1
  else
    let t := s.me.tagOf f.xa.toNat
    refuseFrom (fun u => !okTag u || decide (u ≠ t)) 1
      (t :: (List.range 8).map fun k => s.me.tagOf (f.xb.toNat + k))

/-- A tile after an outer-product step (R289): `pick i k` is the position of slice k's term for row i in XA. -/
def outerStep (tile : ByteStore) (m n : Nat) (ks : List Nat) (a : List FVal) (b : List (List FVal)) (pick : Nat → Nat → Nat) :
    ByteStore × Flags :=
  (List.range m).foldl (fun acc i =>
    (List.range n).foldl (fun (acc : ByteStore × Flags) j =>
      let r := accumulate (tileGet acc.1 i j) (ks.map fun k =>
        (a.getD (pick i k) (FVal.zero false), (b.getD k []).getD j (FVal.zero false)))
      (tilePut acc.1 i j r.1, acc.2 ||| r.2)) acc) (tile, 0)

/-- `MACT` and `MACTS` (R289, R290). -/
def mact (slide : Bool) (fn : Nat) (f : FmtX) (s : State) : State :=
  let h := s.me
  let ovr := f.ovr.toNat
  let m := h.tileM
  let n := h.tileN
  let t := h.opTag ovr f.xa.toNat
  let src := (f.xa.toNat, if slide then m + 7 else 8 * m) :: (List.range 8).map fun k => (f.xb.toNat + k, n)
  let own := [mactTags s f, tileCap s t 1 (8 * m), if slide then tileCap s t 1 (m + 7) else none, tileCap s t 2 n,
    if t.code = fld h.mshape 32 4 then none else some (matrixTrap 3 fn 0)]
  matrixGo fn ovr [] src own (fun xs s =>
    let ks := (List.range 8).filter fun k => (h.mask f.msk.toNat).getLsbD k
    let vals := xs.map Strip.exact
    if m = 0 ∨ n = 0 ∨ ks = [] then matrixEnd src (stripFlags xs) s
    else
      let r := outerStep (s.tile f.at_) m n ks (vals.headD []) (vals.drop 1) (fun i k => if slide then i + k else k * m + i)
      matrixEnd src (stripFlags xs ||| r.2) (s.setTile f.at_ r.1)) s

/-- `MACT` (R289): eight column slices of XA. -/
def execMact (f : FmtX) (s : State) : Host.Outcome State Fault Refusal := .next (mact false 3 f s)

/-- `MACTS` (R289): one sliding window of XA. -/
def execMacts (f : FmtX) (s : State) : Host.Outcome State Fault Refusal := .next (mact true 4 f s)

/-! ## Rows -/

/-- `MMOVN` (R291): a row of a tile to a vector register; with M or N of 0 nothing (R287). -/
def execMmovn (f : FmtX) (s : State) : Host.Outcome State Fault Refusal :=
  let h := s.me
  let xd := f.xd.toNat
  let ovr := f.ovr.toNat
  let n := h.tileN
  let d := h.opTag ovr xd
  let row := s.sr f.xa
  let rm := h.rmConv f.rm.toNat
  let own := [if d.wideKey then badTag d 0 else none,
    if s.mvl d < n ∨ (d.isSx = true ∧ n % 16 ≠ 0) then some (tagTrap d 0 true) else none, rowCheck 5 row]
  .next (matrixGo 5 ovr [(xd, n)] [] own (fun _ s =>
    let active : Nat → Bool := fun j => decide (j < n) && (h.mask f.msk.toNat).getLsbD j
    let at_ : Nat → Nat := fun j => tileGet (s.tile f.at_) row.toNat j
    let r : List (Option Nat) × Flags × Word :=
      if d.isSx then
        blockResults d rm active false (fun j => ((Tag.ffmt .f32).decode (at_ j), 0)) (n / 16) 0 h.seed
      else elemResults active false (rm = .rsto) (fun u j => roundTo .f32 d rm (f.sat = 1) u (at_ j)) n 0 h.seed
    let seeded : State → State := fun s => s.modMe fun h => { h with seed := r.2.2 }
    if h.tileM = 0 ∨ n = 0 then matrixEnd [] 0 s
    else
      match s.me.binding? xd with
      | none => matrixEnd [] r.2.1 (seeded (s.modMe (Hart.setUnits xd d 0 r.1)))
      | some b =>
        match sendStrip s.cur b d n r.1 s with
        | (s1, .error t) => stopAt t s1
        | (s1, .ok fl) => matrixEnd [] (r.2.1 ||| fl) (seeded s1)) s)

/-- A row of a tile with new elements where the mask is set (R292). -/
def rowStep (tile : ByteStore) (row n : Nat) (active : Nat → Bool) (fn : Nat → Nat → Nat × Flags) : ByteStore × Flags :=
  ((List.range n).filter active).foldl (fun acc j =>
    let r := fn j (tileGet acc.1 row j)
    (tilePut acc.1 row j r.1, acc.2 ||| r.2)) (tile, 0)

/-- An instruction that writes a row of a tile (R292); with M or N of 0 it changes nothing (R287). -/
def toRow (fn : Nat) (f : FmtX) (regs : List Nat) (bad : Tag → Bool) (op : List Strip → Nat → Nat → Nat × Flags)
    (s : State) : State :=
  let h := s.me
  let ovr := f.ovr.toNat
  let n := h.tileN
  let row := s.sr f.xd
  let tags := regs.map (h.opTag ovr)
  let src := regs.map fun v => (v, n)
  let own := [refuseFrom bad 1 tags] ++ (tags.zipIdx 1).map (fun p => tileCap s p.1 p.2 n) ++ [rowCheck fn row]
  matrixGo fn ovr [] src own (fun xs s =>
    if h.tileM = 0 ∨ n = 0 then matrixEnd src (stripFlags xs) s
    else
      let r := rowStep (s.tile f.at_) row.toNat n (fun j => (h.mask f.msk.toNat).getLsbD j) (op xs)
      matrixEnd src (stripFlags xs ||| r.2) (s.setTile f.at_ r.1)) s

/-- `MMOVW` (R292): a vector register to a row of a tile. -/
def execMmovw (f : FmtX) (s : State) : Host.Outcome State Fault Refusal :=
  .next (toRow 6 f [f.xa.toNat] Tag.wideKey (fun xs =>
    let p := (xs.headD { tag := .f32, vals := [], skew := 0, flags := 0 }).flat
    fun j _ => roundTo p.1 .f32 .rne false 0 (p.2.getD j 0)) s)

/-- `MVMAC` (R292): products added to a row of a tile. -/
def execMvmac (f : FmtX) (s : State) : Host.Outcome State Fault Refusal :=
  .next (toRow 7 f [f.xa.toNat, f.xb.toNat] (fun t => !t.macSource) (fun xs =>
    let vals := xs.map Strip.exact
    fun j old =>
      let p := ((vals.headD []).getD j (FVal.zero false)).mul (((vals.drop 1).headD []).getD j (FVal.zero false))
      let r := ((Tag.ffmt .f32).decode old).add .rne p.1
      let y := (Tag.ffmt .f32).round .rne false 0 r.1
      (y.1, p.2 ||| r.2 ||| y.2)) s)

end Sys2Proof.Machine
end

