-- ==== Sys2Proof/Machine/Collective.lean ====
section
/-!
DEFINITION. Collectives: the checks of a COLL record (R421, R422), calls and their states (R423 to R432, R448), wire
compression (R430), `CSTAT` and `CABORT` (R433, R434).
-/
namespace Sys2Proof.Machine

open Sys2Proof

/-! ## Record fields -/

/-- The offset of the first bad field of a list in ascending offset (R315). -/
def firstBad : List (Nat × Bool) → Option Nat
  | [] => none
  | (o, bad) :: l => if bad then some o else firstBad l

/-- TAG of a COLL record (R421). -/
def recTag (r : BitVec 512) : Nat := fld r 192 16
/-- MLB. -/
def Call.mlb (c : Call) : Nat := fld c.record 128 64
/-- MEMB. -/
def recMemb (r : BitVec 512) : Nat := fld r 256 64
/-- CREC. -/
def Call.crec (c : Call) : Nat := fld c.record 320 64
/-- BIT0. -/
def Call.bit0 (c : Call) : Nat := fld c.record 448 14
/-- VEC. -/
def Call.vec (c : Call) : Nat := fld c.record 464 11

/-- The fields of a COLL record that break R298 or R421 by themselves (reason 3). -/
def collFields (r : BitVec 512) : Option Nat :=
  let mtag := Tag.ofCode (fld r 16 4)
  firstBad
    [(1, fld r 8 1 ≠ 0 || fld r 9 3 ≠ 0 || fld r 12 4 ≠ 0),
     (2, !(mtag.isInt || mtag = .f16 || mtag = .bf16 || mtag = .f32) || fld r 20 44 ≠ 0),
     (8, decide (2 ^ 48 ≤ fld r 64 64)),
     (16, fld r 128 64 % 64 ≠ 0),
     (26, fld r 214 2 ≠ 0), (27, fld r 222 2 ≠ 0), (29, fld r 235 5 ≠ 0), (30, fld r 246 10 ≠ 0),
     (32, recMemb r % 2 ≠ 0), (40, fld r 320 64 % 32 ≠ 0), (48, fld r 384 64 % 64 ≠ 0),
     (57, fld r 462 2 ≠ 0), (59, fld r 475 37 ≠ 0)]

/-- The checks of R422 with reason 3 before the member list is read. -/
def collTerms (r : BitVec 512) : Option Nat :=
  let n := fld r 208 6 + 1
  let kindc := fld r 224 4
  let c := fld r 64 64
  let mtag := Tag.ofCode (fld r 16 4)
  match firstBad
    [(27, decide (n ≤ fld r 216 6)), (28, decide (4 < kindc) || decide (6 < fld r 228 4)), (29, fld r 233 2 = 3),
     (30, decide (n ≤ fld r 240 6)), (40, fld r 320 64 = 0 && fld r 233 2 ≠ 0)] with
  | some o => some o
  | none =>
    if (kindc = 1 ∨ kindc = 2 ∨ kindc = 4) ∧ c % n ≠ 0 then some 8
    else if fld r 232 1 = 1 ∧ (1 < kindc ∨ fld r 228 4 ≠ 0 ∨ !(mtag = .f16 || mtag = .bf16 || mtag = .f32) ∨
        c % (16 * n) ≠ 0) then some 29
    else none

/-- The member list names this device at its rank, no device twice, and only devices that can be reached (R422). -/
def membersOk (s : State) (rank : Nat) (l : List Nat) : Bool :=
  decide (l.getD rank 64 = devNo s) && (l.all fun d => decide (d < 64)) && decide (l.eraseDups.length = l.length)
    && (l.all fun d => decide (d = devNo s) || routeValid s d)

/-- The numbers of `k` bytes each in a list of bytes; `n` bounds how many. -/
def groupsOfBytes (k : Nat) : Nat → List Byte → List Nat
  | 0, _ => []
  | n + 1, l => leNat (l.take k) :: groupsOfBytes k n (l.drop k)

/-- The latest call of a TAG that harts of a context bound on a die's engine (R433). -/
def latestCall (s : State) (die asid tag : Nat) : Option Call :=
  s.calls.foldl (fun b c => if c.die = die ∧ c.asid = asid ∧ c.tag = tag then some c else b) none

/-- The call is neither DONE nor ABORTED. -/
def Call.live (c : Call) : Bool := decide (c.st ≠ .done ∧ c.st ≠ .aborted)

/-- The member list of a record, and what stops a COLL `BIND` (R422), in the order of its table; a fault of the list's
read is R150's. -/
def collCheck (w : Who) (h lm : Nat) (r : BitVec 512) (s : State) : State × Except Stop (List Nat) :=
  let n := fld r 208 6 + 1
  let no : Nat → Nat → State × Except Stop (List Nat) := fun k o => (s, .error (.trap (streamTrap k (o * 2 ^ 48))))
  if lm = 0 then no 5 0
  else
    match collTerms r with
    | some o => no 3 o
    | none =>
      match readRange w h 0 (wd (recMemb r)) (2 * n) s with
      | (s1, .error t) => (s1, .error t)
      | (s1, .ok d) =>
        let l := groupsOfBytes 2 n d
        let bits := if fld r 224 4 = 1 then 1 else n
        let busy := match latestCall s1 (dieOf (coreOf h)) w.asid (recTag r) with
          | some c => c.live
          | none => false
        if !(membersOk s1 (fld r 216 6) l) then (s1, .error (.trap (streamTrap 3 (32 * 2 ^ 48))))
        else if busy then (s1, .error (.trap (streamTrap 3 (24 * 2 ^ 48))))
        else if 16384 ≤ fld r 448 14 + bits - 1 then (s1, .error (.trap (streamTrap 6 (56 * 2 ^ 48))))
        else (s1, .ok l)

/-! ## Events and the completion record -/

/-- The agent of a call: the kernel of its hart, at the level of its `BIND`. -/
def callWho (s : State) (c : Call) : Who := { hartWho s c.hart with sup := c.sup }

/-- Raises events of a call in event mode (R426, R427): 1 SRC, 2 LOC, 4 ALL, 8 ERR. -/
def raiseEv (c : Call) (bits : Nat) (s : State) : State :=
  if c.cmode = 0 then s.modHart c.hart fun x => { x with ev := x.ev ||| BitVec.ofNat 32 (bits * 2 ^ (4 * c.slot)) } else s

/-- The completion record (R429). -/
def Call.recordBytes (c : Call) : List Byte :=
  leBytes 2 c.status ++ leBytes 2 c.tag ++ leBytes 2 c.lost ++ leBytes 2 0 ++ leBytes 8 c.count ++ bytesOf 8 c.order
    ++ bytesOf 8 c.time

/-- A write that the engine of some unit still owes, tried now: a MIGRATING page holds it (R374); where it is the
completion record of a call, a fault leaves it unwritten and shows in the call, and the interrupt follows in both cases
(R427, R448). -/
def tryHeld (w : HeldWrite) (s : State) : State :=
  match vwrite w.who w.va w.data s with
  | (s1, some .stall) => { s1 with held := s1.held ++ [w] }
  | (s1, r) => match w.call with
    | none => s1
    | some (i, vec) =>
      let s2 := match r, s1.call? i with
        | some _, some c => s1.setCall { c with status := 4, lost := devNo s1 }
        | _, _ => s1
      match vec with
      | some v => raiseMsix v s2
      | none => s2

/-- Every write that engines still owe is tried again, oldest first (R374). -/
def flushHeld (s : State) : State := s.held.foldl (fun s w => tryHeld w s) { s with held := [] }

/-- In record mode the completion record is written at DONE or ABORTED, then the interrupt of CMODE 2 raised (R427,
R448). -/
def postRecord (c : Call) (s : State) : State :=
  let s1 := s.setCall c
  if c.cmode = 0 then s1
  else tryHeld { who := callWho s c, va := c.crec, data := c.recordBytes,
                 call := some (c.id, if c.cmode = 2 then some c.vec else none) } s1

/-! ## Messages -/

/-- A message of the call's engine to a member (R422, R427, R434). -/
def mailTo (c : Call) (m : CallMsg) (d : Nat) (s : State) : State :=
  { s with mail := s.mail ++ [{ dest := d, die := c.die, asid := c.asid, tag := c.tag, seq := c.seq, msg := m }] }

/-- A control message to every other member that is not lost, in flits of collective control (R417). -/
def tellAll (c : Call) (m : CallMsg) (s : State) : State :=
  (c.memb.filter fun d => d != devNo s && !(s.lostDevs.contains d)).foldl (fun s d => sendTo d 5 (mailTo c m d s)) s

/-- The events that a call raises as it aborts: each that it has not raised yet, LOC and ALL with ERR (R427, R431). -/
def Call.unraised (c : Call) : Nat := 12 + (if c.st = .loc then 0 else 2) + (if c.srcDone then 0 else 1)

/-- A call becomes ABORTED (R428, R429, R431). -/
def abortCall (c : Call) (status lost : Nat) (s : State) : State :=
  let c' := { c with st := .aborted, status := status, lost := lost, time := s.time, srcDone := true
                     order := if c.st = .setup then 0 else c.order }
  postRecord c' (raiseEv c c.unraised s)

/-- A call becomes ABORTED by what this member does or meets; every member is sent the abort (R431, R434). -/
def abortAll (c : Call) (status lost : Nat) (s : State) : State :=
  abortCall c status lost (tellAll c (.abort status lost) s)

/-- A call that `BIND` makes, in SETUP, its terms sent to the other members; one with a lost member aborts at once (R422,
R426, R428). The result names the call and its event slot. -/
def newCall (h lm : Nat) (r : BitVec 512) (memb : List Nat) (s : State) : State × Nat × Nat :=
  let x := s.hart h
  let used := (x.binds.filter fun b => b.kind = 6).map fun b => b.slot
  let slot := ((List.range 8).find? fun i => !(used.contains i)).getD 0
  let a := s.asidOf h
  let die := dieOf (coreOf h)
  let tag := recTag r
  let c : Call :=
    { id := s.nextId, die := die, tag := tag, asid := a, serial := s.serialOf h, hart := h, lm := lm, slot := slot
      record := r, seq := smGet 0 (s.ctx a).calls tag, memb := memb, st := .setup, status := 0, lost := 0xFFFF
      sent := [], chunks := [], out := [], hops := [], count := 0, time := 0, order := 0, srcDone := false, named := true
      sup := decide (x.level = .s) }
  let old := s.calls.map fun d => if d.hart = h ∧ d.die = die ∧ d.tag = tag ∧ d.asid = a then { d with named := false } else d
  let s1 := { s with calls := old ++ [c], nextId := s.nextId + 1 }
  let s2 := s1.modCtx a fun y => { y with calls := smPut y.calls tag (smGet 0 y.calls tag + 1) }
  let s3 := tellAll c (.bound r memb) s2
  match memb.find? fun d => s.lostDevs.contains d with
  | some d => (abortAll c 1 d s3, c.id, slot)
  | none => (s3, c.id, slot)

/-! ## Values (R64, R425, R430) -/

/-- WC has an effect (R425). -/
def Call.packs (c : Call) : Bool := c.wc && decide (1 < c.n)

/-- The order signature of R64. -/
def Call.signature (c : Call) : Word := wd ((if c.n ≤ 8 then 0 else 1) * 2 ^ 62 + (c.n - 1) * 2 ^ 56 + b2n c.packs * 2 ^ 55)

/-- f32 bits. -/
def f32Bits (v : FVal) : Nat := ((Tag.ffmt .f32).round .rne false 0 v).1

/-- f32 values as sx2 blocks (R48); `n` bounds the blocks. -/
def packBlocks : Nat → List Nat → List Nat
  | 0, _ => []
  | n + 1, l => (sxQuantise .sx2 .rne ((l.take 16).map fun x => ((Tag.ffmt .f32).decode x, 0))).1 :: packBlocks n (l.drop 16)

/-- The f32 values of sx2 blocks. -/
def unpackBlocks (l : List Nat) : List Nat := l.flatMap fun b => (List.range 16).map fun i => f32Bits (sxElem .sx2 b i)

/-- Contributed elements with their residuals (R430): c = Round(x + r). -/
def withResidual (t : Tag) (xs rs : List Nat) : List Nat :=
  (xs.zip rs).map fun p => (combine 0 .f32 .rne false (convert t .f32 .rne false 0 p.1).1 p.2).1

/-- The new residuals of values c quantised to q (R430). -/
def residuals (cs qs : List Nat) : List Nat :=
  (cs.zip qs).map fun p => match (Tag.ffmt .f32).decode p.1 with
    | .num _ _ _ _ => (elemArith .sub .f32 .f32 .rne false [(.f32, p.1), (.f32, p.2)]).1
    | _ => 0

/-- Combining two lists element by element (R64, R425). -/
def combineLists (op : Nat) (t : Tag) (a b : List Nat) : List Nat :=
  (a.zip b).map fun p => (combine op t .rne false p.1 p.2).1

/-- Residuals of own elements `lo` to `lo + n` − 1, from MLB or +0 (R430). -/
def readResidual (c : Call) (lo n : Nat) (s : State) : State × Except Stop (List Nat) :=
  if c.mlb = 0 ∨ n = 0 then (s, .ok (List.replicate n 0))
  else
    match vread (callWho s c) .load (c.mlb + 4 * lo) (4 * n) s with
    | (s1, .error t) => (s1, .error t)
    | (s1, .ok d) => (s1, .ok (groupsOfBytes 4 n d))

/-- Own contributed elements `lo` to `hi` − 1. -/
def Call.own (c : Call) (lo hi : Nat) : List Nat := ((c.sent.take hi).drop lo).map BitVec.toNat

/-- This member combines chunk i (R425). -/
def Call.owns (c : Call) (i : Nat) : Bool := decide (c.kindc = 1) || (decide (c.kindc = 0) && decide (i = c.rank))

/-- The elements of a chunk as they travel: raw elements in MTAG, or sx2 blocks (R430); none where the length is wrong. -/
def Call.wire (c : Call) (n : Nat) (d : List Byte) : Option (List Nat) :=
  if c.packs then (if d.length = n / 16 * 8 then some (groupsOfBytes 8 (n / 16) d) else none)
  else if d.length = n * c.mtag.bytes then some (groupsOfBytes c.mtag.bytes n d) else none

/-- The wire elements of a list of chunks, where each has its length. -/
def Call.wires (c : Call) (n : Nat) : List (List Byte) → Option (List (List Nat))
  | [] => some []
  | d :: l => match c.wire n d, c.wires n l with
    | some x, some xs => some (x :: xs)
    | _, _ => none

/-- The other members' parts in the order in which the owner of a chunk combines them (R64): directly each member's own
elements, in the order of ranks after the owner's; in a ring the one partial value that arrives. -/
def Call.partsFrom (c : Call) (n : Nat) (contrib : List (List Byte)) : Option (List (List Nat)) :=
  if c.n = 1 then some []
  else if c.n ≤ 8 then c.wires n ((List.range (c.n - 1)).map fun i => contrib.getD ((c.rank + 1 + i) % c.n) [])
  else c.wires n (contrib.take 1)

/-- Two values of a chunk as they travel, combined in the given order (R64): in MTAG, or in f32 and quantised again
(R430). -/
def Call.join (c : Call) (a b : List Nat) : List Nat :=
  if c.packs then packBlocks a.length (combineLists 0 .f32 (unpackBlocks a) (unpackBlocks b)) else combineLists c.op c.mtag a b

/-- The final value of a chunk that this member combines, as it travels (R425, R430): `own` is its own value as it would
travel. Directly the owner's elements come first and only the sum is quantised; in a ring they come last. -/
def Call.reduce (c : Call) (own : List Nat) (parts : List (List Nat)) : List Nat :=
  if 8 < c.n then c.join (parts.headD []) own
  else if c.packs then
    packBlocks own.length ((parts.map unpackBlocks).foldl (combineLists 0 .f32) (unpackBlocks own))
  else parts.foldl (combineLists c.op c.mtag) own

/-- The result elements of a chunk as it travels: its owner's bits; with wire compression converted (R425, R430). -/
def Call.lands (c : Call) (l : List Nat) : List Nat :=
  if c.packs then (unpackBlocks l).map fun x => (convert .f32 c.mtag .rne false 0 x).1 else l

/-- Own contributed elements `lo` to `hi` − 1 as they travel: with wire compression each with its residual, quantised in
blocks (R430). -/
def ownWire (c : Call) (lo hi : Nat) (s : State) : State × Except Stop (List Nat) :=
  let xs := c.own lo hi
  if c.packs then
    match readResidual c lo (hi - lo) s with
    | (s1, .error t) => (s1, .error t)
    | (s1, .ok rs) => (s1, .ok (packBlocks ((hi - lo) / 16) (withResidual c.mtag xs rs)))
  else (s, .ok xs)

/-- The own elements that chunk bit i delivers here without travelling, in the kinds that move raw bits (R423). -/
def Call.mine (c : Call) (i : Nat) : Option (Nat × Nat) :=
  match c.kindc with
  | 2 => if i = c.rank then some (0, c.contributes) else none
  | 3 => if c.rank = c.root then some (c.span i) else none
  | 4 => if i = c.rank then some (c.span i) else none
  | _ => none

/-- The value of chunk bit i as it travels (R423, R425), given what arrives over the link; `none` where that does not
fit. -/
def chunkValue (c : Call) (i : Nat) (contrib : List (List Byte)) (s : State) : State × Except Stop (Option (List Nat)) :=
  let sp := c.chunkSpan i
  let n := sp.2 - sp.1
  if c.owns i then
    let own := c.span c.rank
    match ownWire c own.1 own.2 s with
    | (s1, .error t) => (s1, .error t)
    | (s1, .ok q) => (s1, .ok ((c.partsFrom n contrib).map (c.reduce q)))
  else
    match c.mine i with
    | some p => (s, .ok (some (c.own p.1 p.2)))
    | none => (s, .ok (c.wire n (contrib.headD [])))

/-! ## Sending (R418, R425) -/

/-- The rank after this one in the ring. -/
def Call.nextRank (c : Call) : Nat := (c.rank + 1) % c.n

/-- The ranks to which this member sends a value that every member needs: directly all the others, in a ring the next,
which passes it on. -/
def Call.everyone (c : Call) : List Nat :=
  if 8 < c.n then [c.nextRank] else (List.range c.n).filter fun r => r != c.rank

/-- The part of the call's contribution that goes out under one number: the message's chunk, the ranks it goes to, and the
span of own elements. -/
structure Send where
  key   : Nat
  ranks : List Nat
  lo    : Nat
  hi    : Nat

/-- Everything this member sends of its own elements (R423, R425). In a ring the partial value of a chunk starts at the
rank after its owner. In an all-to-all the chunk's number names its source and its destination. -/
def Call.sends (c : Call) : List Send :=
  let one : Nat → Nat → List Nat → Send := fun key j ranks => { key := key, ranks := ranks, lo := (c.span j).1, hi := (c.span j).2 }
  let others := (List.range c.n).filter fun r => r != c.rank
  let via : Nat → List Nat := fun j => if 8 < c.n then [c.nextRank] else [j]
  if c.n = 1 then []
  else match c.kindc with
    | 0 | 1 => (if 8 < c.n then [(c.rank + c.n - 1) % c.n] else others).map fun j => one j j (via j)
    | 2 => [{ key := c.rank, ranks := c.everyone, lo := 0, hi := c.contributes }]
    | 3 => if c.rank = c.root then (List.range c.n).map fun j => one j j c.everyone else []
    | _ => others.map fun j => one (c.rank * c.n + j) j (via j)

/-- The element groups of the full vector that elements `lo` to `hi` − 1 lie in (R418); a block travels as the group of its
first element (DESIGN CHOICE, notes/assumptions/53.md). -/
def Call.groups (c : Call) (lo hi : Nat) : List Nat :=
  let b := c.mtag.bytes
  if c.packs then (List.range ((hi - lo) / 16)).map fun k => (lo + 16 * k) * b / 8
  else if lo < hi then (List.range ((hi * b + 7) / 8 - lo * b / 8)).map fun k => lo * b / 8 + k
  else []

/-- A value of elements `lo` to `hi` − 1 of the full vector goes to ranks: one flit for each of its element groups (R418),
and the message that they carry. -/
def sendValue (c : Call) (m : CallMsg) (ranks : List Nat) (lo hi : Nat) (s : State) : State :=
  (ranks.map fun r => c.memb.getD r 64).foldl (fun s d =>
    (c.groups lo hi).foldl (fun s g => sendGroup d g s) (mailTo c m d s)) s

/-- The engine reads and sends. -/
def Call.busy (c : Call) : Bool := decide (c.st = .running ∨ c.st = .loc)

/-- A part of the contribution leaves once the program has written all of it; a fault of the residual's read aborts the
call (R428), in LOCAL the part only stays unsent (DESIGN CHOICE, notes/assumptions/53.md). -/
def flushSend (i : Nat) (x : Send) (s : State) : State :=
  match s.call? i with
  | none => s
  | some c =>
    if !c.busy || c.out.contains x.key || decide (c.sent.length < x.hi) then s
    else
      match ownWire c x.lo x.hi s with
      | (_, .error .stall) => s
      | (s1, .error (.trap _)) => if c.st = .loc then s else abortAll c 4 (devNo s) s1
      | (s1, .ok d) =>
        let at_ := if c.kindc = 2 then (c.span c.rank).1 else 0
        let m : CallMsg := if c.kindc = 2 ∨ c.kindc = 3 then .final x.key d else .part x.key d
        sendValue c m x.ranks (at_ + x.lo) (at_ + x.hi) (s1.setCall { c with out := c.out ++ [x.key] })

/-- The call's kernel is not ABORTED, which cancels the work of its engines (R197). -/
def Call.kept (s : State) (c : Call) : Bool := match s.kernel? c.serial with
  | some k => decide (k.st ≠ .aborted)
  | none => true

/-- Every part of the contribution has left. -/
def Call.allSent (c : Call) : Bool := decide (c.contributes ≤ c.sent.length) && c.sends.all fun x => c.out.contains x.key

/-- SRC is raised when every contributed element has been sent and its first receivers have acknowledged it (R427), at the
latest with LOC: `due`. -/
def noteSource (due : Bool) (i : Nat) (s : State) : State :=
  match s.call? i with
  | none => s
  | some c =>
    if c.srcDone then s
    else if due || (c.busy && c.allSent && (decide (c.n = 1) || Config.sourceAcked s.fresh)) then
      raiseEv c 1 (s.bump.setCall { c with srcDone := true })
    else s.bump

/-- The engine sends on what its call can send now, and looks at the acknowledgements. -/
def flushCall (i : Nat) (s : State) : State :=
  match s.call? i with
  | none => s
  | some c => if c.busy && c.kept s then noteSource false i (c.sends.foldl (fun s x => flushSend i x s) s) else s

/-- Every engine sends on what it can send now. -/
def flushCalls (s : State) : State := (s.calls.map fun (c : Call) => c.id).foldl (fun s i => flushCall i s) s

/-- The other members' terms agree with the call's, each at its rank (R428). -/
def termsAgree (c : Call) (others : List CallTerms) : Bool :=
  others.zip ((List.range c.n).filter fun r => decide (r ≠ c.rank)) |>.all fun p =>
    decide (p.1.kindc = c.kindc ∧ p.1.op = c.op ∧ p.1.mtag = c.mtag.code ∧ p.1.count = c.full ∧ p.1.nm1 + 1 = c.n ∧
      p.1.wc = c.wc ∧ p.1.root = c.root ∧ p.1.rank = p.2 ∧ p.1.memb = c.memb)

/-- `CALL_START` (R428): every other member has bound the call, with these terms in the order of their ranks. -/
def execCallStart (i : Nat) (others : List CallTerms) (s : State) : Host.Outcome State Fault Refusal :=
  .next (match s.call? i with
    | none => s
    | some c =>
      if c.st ≠ .setup ∨ others.length + 1 ≠ c.n ∨ c.kept s = false then s
      else if termsAgree c others then flushCall i (s.setCall { c with st := .running, order := c.signature })
      else abortCall c 3 0xFFFF s)

/-- The ranks to which a chunk goes on once it stands here (R425): its owner sends it to every member; in a ring each
member passes it on until it has come round to where it started. -/
def Call.passes (c : Call) (i : Nat) : List Nat :=
  let start := if c.kindc = 3 then c.root else i
  if c.n = 1 ∨ 3 < c.kindc ∨ c.kindc = 1 then []
  else if c.rank = start then (if c.kindc = 0 then c.everyone else [])
  else if 8 < c.n ∧ c.nextRank ≠ start then [c.nextRank]
  else []

/-- A chunk of the result is delivered to DST, its bit set, and the chunk sent on; a fault of the engine's accesses aborts
the call (R428). -/
def deliverChunk (c : Call) (chunk : Nat) (contrib : List (List Byte)) (s : State) : State :=
  if c.st ≠ .running ∨ c.chunks.contains chunk = true ∨ c.sent.length < c.needs chunk then s
  else
    match chunkValue c chunk contrib s with
    | (_, .error .stall) => s
    | (s1, .error (.trap _)) => abortAll c 4 (devNo s) s1
    | (_, .ok none) => s
    | (s1, .ok (some l)) =>
      let sp := c.chunkSpan chunk
      match vwrite (callWho s1 c) (c.dst + c.mtag.bytes * sp.1) ((c.lands l).flatMap (leBytes c.mtag.bytes)) s1 with
      | (_, some .stall) => s
      | (s2, some (.trap _)) => abortAll c 4 (devNo s) s2
      | (s2, none) =>
        let s3 := (s2.setCall { c with chunks := c.chunks ++ [chunk], count := c.count + (sp.2 - sp.1) }).modHart c.hart fun x =>
          { x with mreg := x.mreg.set! c.lm (setBit (x.mreg[c.lm]!) (c.bit0 + chunk) true) }
        sendValue c (.final chunk l) (c.passes chunk) sp.1 sp.2 s3

/-- A hop of the ring through this member (R425, R430): number `k` is the chunk whose partial value comes by, to which this
member adds its own elements, or in an all-to-all the source and the destination of a chunk that it only passes on. -/
def ringHop (c : Call) (k : Nat) (contrib : List (List Byte)) (s : State) : State :=
  let chunk := if c.kindc = 4 then k % c.n else k
  let from_ := if c.kindc = 4 then k / c.n else (k + 1) % c.n
  let sp := c.span chunk
  let onPath := decide (0 < (c.rank + c.n - from_) % c.n ∧ (c.rank + c.n - from_) % c.n < (chunk + c.n - from_) % c.n)
  if !c.busy || decide (c.n ≤ 8) || c.hops.contains k || !onPath || decide (c.n ≤ chunk) || decide (c.n ≤ from_) then s
  else
    let go : List Nat → State → State := fun d s =>
      sendValue c (.part k d) [c.nextRank] sp.1 sp.2 (s.setCall { c with hops := c.hops ++ [k] })
    match c.kindc, c.wire (sp.2 - sp.1) (contrib.headD []) with
    | 4, some d => go d s
    | 0, some d | 1, some d =>
      if c.sent.length < sp.2 then s
      else
        match ownWire c sp.1 sp.2 s with
        | (_, .error .stall) => s
        | (s1, .error (.trap _)) => if c.st = .loc then s else abortAll c 4 (devNo s) s1
        | (s1, .ok q) => go (c.join d q) s1
    | _, _ => s

/-- `COLLECTIVE_CHUNK_DONE` (R423, R425, R430): a chunk's data have arrived. Below the call's count of chunk bits, `chunk`
is the bit of a result that this member delivers; above, a hop of a ring. `contrib` is what arrives over the link: the
members' parts by rank where this member combines directly, the partial value of a ring, or the chunk itself. -/
def execCollectiveChunkDone (i chunk : Nat) (contrib : List (List Byte)) (s : State) : Host.Outcome State Fault Refusal :=
  .next (match s.call? i with
    | none => s
    | some c =>
      if c.kept s = false then s
      else flushCall i (if chunk < c.bits then deliverChunk c chunk contrib s else ringHop c (chunk - c.bits) contrib s))

/-- `CALL_LOCAL` (R427, R428): every chunk bit of this member is set; the report goes to the members. -/
def execCallLocal (i : Nat) (s : State) : Host.Outcome State Fault Refusal :=
  .next (match s.call? i with
    | none => s
    | some c =>
      if c.st = .running ∧ c.chunks.length = c.bits ∧ c.kept s = true then
        flushCall i (tellAll c .report (raiseEv c 2 (noteSource true i (s.setCall { c with st := .loc }))))
      else s)

/-- The residual write at DONE (R430): every new residual; where it faults, each aligned 8-byte word of MLB stands old
or new (R448); `none` while a MIGRATING page holds it back (R374). -/
def writeResidual (c : Call) (s : State) : Option (State × Bool) :=
  if !c.packs || c.mlb = 0 || c.contributes = 0 then some (s, true)
  else
    match readResidual c 0 c.contributes s with
    | (_, .error .stall) => none
    | (s1, .error (.trap _)) => some (s1, false)
    | (s1, .ok rs) =>
      let cs := withResidual c.mtag (c.own 0 c.contributes) rs
      let new := (residuals cs (unpackBlocks (packBlocks (c.contributes / 16) cs))).flatMap (leBytes 4)
      match vwrite (callWho s1 c) c.mlb new s1 with
      | (s2, none) => some (s2, true)
      | (_, some .stall) => none
      | (s2, some (.trap _)) =>
        some ((List.range (new.length / 8)).foldl (fun s j =>
          if Config.wroteWord s.fresh then (vwrite (callWho s c) (c.mlb + 8 * j) ((new.drop (8 * j)).take 8) s.bump).1
          else s.bump) s2, false)

/-- `CALL_DONE` (R428): the reports of every member have arrived, which they send only after what this member contributes
has reached them. -/
def execCallDone (i : Nat) (s : State) : Host.Outcome State Fault Refusal :=
  .next (match s.call? i with
    | none => s
    | some c =>
      if c.st ≠ .loc ∨ c.allSent = false ∨ c.kept s = false then s
      else
        match writeResidual c s with
        | none => s
        | some (s1, ok) =>
          let c1 := { c with st := .done, time := s.time
                             status := if ok then 0 else 4, lost := if ok then 0xFFFF else devNo s }
          postRecord c1 (raiseEv c (if ok then 4 else 12) s1))

/-- An access of this member's engine to DST, MLB or CREC faults (R428). -/
def ownFault (c : Call) (s : State) : Bool :=
  let w := callWho s c
  let bad : Nat → Nat → Bool := fun a n => match (vwriteCheck w a n s).2 with
    | .error (.trap _) => true
    | _ => false
  let unread := match (readResidual c 0 c.contributes s).2 with
    | .error (.trap _) => true
    | _ => false
  bad c.dst (c.receives * c.mtag.bytes) || (c.packs && decide (c.mlb ≠ 0) && (bad c.mlb (4 * c.contributes) || unread)) ||
    (decide (c.cmode ≠ 0) && bad c.crec 32)

/-- `CALL_ABORT` (R428, R431): an abort reaches this member: a member was lost (1), aborted the call (2) or met a fault
(4); `lost` names it. -/
def execCallAbort (i status lost : Nat) (s : State) : Host.Outcome State Fault Refusal :=
  .next (match s.call? i with
    | none => s
    | some c =>
      let mine := decide (lost = devNo s)
      let due := match status with
        | 1 => !mine && c.live
        | 2 => !mine && decide (c.st = .setup ∨ c.st = .running)
        | 4 => decide (c.st = .setup ∨ c.st = .running) && (!mine || ownFault c s)
        | _ => false
      if due && c.memb.contains lost && c.kept s then
        (if status = 4 ∧ mine = true then abortAll c status lost s else abortCall c status lost s)
      else s)

/-! ## Instructions -/

/-- The call that an instruction names (R433). -/
def namedCall (tag : Nat) (s : State) : Option Call :=
  match latestCall s (dieOf s.myCore) (s.asidOf s.cur) tag with
  | some c => if c.named then some c else none
  | none => none

/-- The code of a call's state (R433). -/
def CallState.code : CallState → Nat
  | .setup => 1 | .running => 2 | .loc => 3 | .done => 4 | .aborted => 5

/-- Item 0 of `CSTAT` (R433). -/
def Call.item0 (c : Call) : Word := wd (c.status * 2 ^ 48 + c.lost * 2 ^ 32 + c.st.code)

/-- `CSTAT` (R433). -/
def execCstat (f : FmtC) (s : State) : Host.Outcome State Fault Refusal :=
  let v := match namedCall (f.imm.toNat % 2 ^ 16) s with
    | none => 0
    | some c => match f.imm.toNat / 2 ^ 16 % 8 with
      | 0 => c.item0
      | 1 => c.order
      | 2 => wd c.count
      | _ => if c.live then 0 else c.time
  .next (retire (s.setSr f.sd v))

/-- `CABORT` (R434). -/
def execCabort (f : FmtC) (s : State) : Host.Outcome State Fault Refusal :=
  .next (match namedCall (f.imm.toNat % 2 ^ 16) s with
    | none => retire (s.setSr f.sd ones)
    | some c => match c.st with
      | .setup | .running => retire ((abortAll c 2 (devNo s) s).setSr f.sd 0)
      | .loc | .done => retire (s.setSr f.sd 1)
      | .aborted => retire (s.setSr f.sd ones))

end Sys2Proof.Machine
end

