-- ==== Sys2Proof/Machine/Stream.lean ====
section
/-!
DEFINITION. Bound streams: the checks of a stream record (R298 to R300, R309, R401), blocks and their codecs (R306,
R307), the inline decoder (R308 to R312), the stream unit (R304, R305), `BIND`, `UNBIND`, `SSTAT` and `VLDC` (R315 to
R318).
-/
namespace Sys2Proof.Machine

open Sys2Proof

/-! ## The Huffman code (R307) -/

/-- A code of R307: the symbols of each length from 1 to 15, and the longest length with its last code. -/
structure Huff where
  syms : List (List Nat)
  top  : Nat
  last : Nat
  deriving DecidableEq, Repr

/-- The code of a code-length table of 128 bytes, where it is valid (R307). -/
def huffOf (tbl : List Byte) : Option Huff :=
  let lens := tbl.flatMap fun b => [b.toNat % 16, b.toNat / 16]
  let syms := (List.range 15).map fun i => ((lens.zipIdx).filter fun p => p.1 == i + 1).map Prod.snd
  let kraft := lens.foldl (fun k l => k + if l = 0 then 0 else 2 ^ (15 - l)) 0
  if kraft = 0 ∨ 2 ^ 15 < kraft then none
  else
    let top := lens.foldl max 0
    let first := (syms.take (top - 1)).foldl (fun c l => 2 * (c + l.length)) 0
    some { syms := syms, top := top, last := first + (syms.getD (top - 1) []).length - 1 }

/-- The next symbol of a bitstream and the bits left, or a reason (R307, R312): 12 where the bits begin no code, 13
where they end. `len` is the length the code reaches with the next bit, `c` and `first` the bits read and the first code
of the length before. -/
def huffSym (top last : Nat) : List (List Nat) → Nat → Nat → Nat → List Bool → Except Nat (Nat × List Bool)
  | [], _, _, _, _ => .error 12
  | _ :: _, _, _, _, [] => .error 13
  | syms :: more, len, c, first, b :: bits =>
    let c' := 2 * c + b2n b
    if c' - first < syms.length then .ok (syms.getD (c' - first) 0, bits)
    else if top < len ∨ last / 2 ^ (top - len) < c' then .error 12
    else huffSym top last more (len + 1) c' (2 * (first + syms.length)) bits

/-- `n` decoded bytes of a bitstream: those decoded, the bits left, and the reason that stopped it. -/
def huffBytes (h : Huff) : Nat → List Bool → List Byte × List Bool × Option Nat
  | 0, bits => ([], bits, none)
  | n + 1, bits =>
    match huffSym h.top h.last h.syms 1 0 0 bits with
    | .error r => ([], bits, some r)
    | .ok (x, rest) =>
      let m := huffBytes h n rest
      (BitVec.ofNat 8 x :: m.1, m.2)

/-- The bits of bytes, from [7] to [0] of each (R307). -/
def streamBits (l : List Byte) : List Bool := l.flatMap fun b => (List.range 8).map fun i => b.getLsbD (7 - i)

/-! ## Blocks (R306, R307) -/

/-- What decoding a block gives. -/
inductive BlockRes where
  /-- a reason of R312, with the bytes decoded before it -/
  | bad (reason : Nat) (done : List Byte)
  | stop (t : Stop)
  | good (data : List Byte) (crc : Bool)
  deriving DecidableEq, Repr

/-- A block header (R306). -/
structure BHead where
  magic : Nat
  codec : Nat
  etag  : Nat
  count : Nat
  clen  : Nat
  crc   : Nat
  deriving DecidableEq, Repr

/-- A header from its 16 bytes. -/
def bhead (d : List Byte) : BHead :=
  let x := leNat d
  { magic := nbits x 0 16, codec := nbits x 16 8, etag := nbits x 24 8, count := nbits x 32 32, clen := nbits x 64 32
    crc := nbits x 96 32 }

/-- Decoded bytes D of a block. -/
def BHead.bytes (h : BHead) (t : Tag) : Nat := memBytes t h.count
/-- Bytes from a block's header to the next block's. -/
def BHead.size (h : BHead) : Nat := 16 + roundUp h.clen 16

/-- The check of a header that fails, against the memory tag (R306, R312). -/
def BHead.reason (h : BHead) (t : Tag) : Option Nat :=
  if h.magic ≠ 0x5342 then some 8
  else if 1 < h.codec then some 9
  else if h.etag ≠ t.code then some 10
  else if h.count = 0 ∨ (t.isSx = true ∧ h.count % 16 ≠ 0) ∨ 65536 < h.bytes t then some 13
  else if (h.codec = 0 ∧ h.clen ≠ h.bytes t) ∨ (h.codec = 1 ∧ h.clen < 128) then some 13
  else none

/-- Decoding a block whose header stands, its payload read by `rd` from an offset on (R306, R307). No code is longer
than 15 bits, so a payload longer than that of D symbols is wrong whatever stands there. -/
def blockBody (rd : Nat → Nat → State → State × Except Stop (List Byte)) (h : BHead) (t : Tag) (s : State) :
    State × BlockRes :=
  let d := h.bytes t
  let n := if h.codec = 0 then d else min h.clen (128 + 15 * d / 8 + 1)
  match rd 16 n s with
  | (s1, .error e) => (s1, .stop e)
  | (s1, .ok pay) =>
    let close : List Byte → BlockRes := fun out => .good out (decide ((crc32c out).toNat = h.crc))
    if h.codec = 0 then (s1, close pay)
    else
      match huffOf (pay.take 128) with
      | none => (s1, .bad 11 [])
      | some k =>
        let bits := streamBits (pay.drop 128)
        let r := huffBytes k d bits
        match r.2.2 with
        | some e => (s1, .bad e r.1)
        | none =>
          let used := bits.length - r.2.1.length
          if h.clen = 128 + (used + 7) / 8 then (s1, close r.1) else (s1, .bad 13 r.1)

/-! ## The checks of a record (R298 to R300, R309, R401) -/

/-- The fields of a record of KIND 1 to 5 that break R298, R299 or R401, in ascending offset (reason 3). -/
def recordFields (r : BitVec 512) : Option Nat :=
  let kind := fld r 0 8
  let sp := fld r 9 3
  let dir := fld r 8 1 = 1
  let mtag := Tag.ofCode (fld r 16 4)
  let ck := fld r 320 4
  let c := 2 ^ (ck + 5)
  let sx := decide (kind = 1) && mtag.isSx && (r.extractLsb' 192 64).toInt % mtag.blockBytes ≠ 0
  firstBad
    [(1, fld r 12 4 ≠ 0 || decide (5 < sp) || (dir && decide (3 ≤ kind)) || (decide (kind ≤ 3) && decide (sp = 3)) ||
      (decide (kind ≤ 2) && dir && decide (sp = 4)) || (decide (kind = 4) && decide (1 < sp)) || (decide (kind = 5) && decide (sp ≠ 0))),
     (2, fld r 20 44 ≠ 0 || (decide (kind = 2) && mtag ≠ .u16) || (decide (kind = 3) && decide (3 < mtag.code)) ||
      (decide (kind = 5) && mtag ≠ .kx)),
     (8, decide (2 ^ 48 ≤ fld r 64 64)),
     (16, (decide (kind = 4) && fld r 128 64 % 16 ≠ 0) || (decide (kind = 5) && fld r 128 64 % 8 ≠ 0)),
     (24, sx || (decide (kind = 2) && (fld r 192 2 = 3 || fld r 194 318 ≠ 0)) || (decide (kind = 4) && decide (2 ^ 33 < fld r 192 64))),
     (25, decide (kind = 5) && fld r 206 306 ≠ 0),
     (32, (decide (kind = 1) && fld r 256 256 ≠ 0) ||
      (decide (kind = 3) && (decide (fld r 256 4 < 8 ∨ 10 < fld r 256 4) || fld r 260 4 ≠ 0)) ||
      (decide (kind = 4) && decide (ck < 12) && fld r 256 32 % c ≠ 0)),
     (33, decide (kind = 3) && (decide (fld r 264 4 < 4 ∨ 12 < fld r 264 4) || fld r 268 244 ≠ 0)),
     (36, decide (kind = 4) && decide (ck < 12) && fld r 288 32 % c ≠ 0),
     (40, decide (kind = 4) && (decide (11 < ck) || fld r 324 60 ≠ 0)),
     (48, decide (kind = 4) && fld r 384 64 % 64 ≠ 0),
     (56, decide (kind = 4) && fld r 448 64 ≠ 0)]

/-- The destination of a COMP record lies in the allocation, and its chunk bits below 16,384 (R309). -/
def destOk (b : Binding) (alloc : Nat) : Bool :=
  let e := b.dest + (if b.ring = 0 then b.total else b.ring)
  decide (e ≤ alloc ∧ (e - 1) / b.chunk < 16384)

/-- The checks of a record by R298, R299, R309 and R401, in ascending order of reason (R315); a COLL record's LM and
chunk bits are checked by R422. -/
def recordTrap (b : Binding) (alloc : Nat) : Option Trap :=
  let no : Nat → Nat → Option Trap := fun k o => some (streamTrap k (o * 2 ^ 48))
  let kind := b.kind
  if kind = 0 ∨ 6 < kind then no 2 0
  else
    match (if kind = 6 then collFields b.record else recordFields b.record) with
    | some o => no 3 o
    | none =>
      if b.count = 0 then no 4 8
      else if (kind ≤ 3 ∧ b.lm ≠ 0) ∨ ((kind = 4 ∨ kind = 5) ∧ b.lm = 0) then no 5 0
      else if kind = 4 ∧ destOk b alloc = false then no 6 32
      else none

/-- R300, R401 and R422 refuse the tag of the bound register. -/
def tagRefused (b : Binding) (t : Tag) : Bool :=
  match b.kind with
  | 2 => t.packed
  | 3 => !t.isFloat
  | 5 => decide (t ≠ .kx)
  | 6 => decide (t ≠ b.mtag)
  | _ => (t.packed || b.mtag.packed) && decide (t ≠ b.mtag)

/-! ## BIND, UNBIND, SSTAT -/

/-- A binding of a record as it stands at `BIND` (R313). -/
def newBinding (vt lm : Nat) (addr : Word) (r : BitVec 512) (sup : Bool) : Binding :=
  { vt := vt, lm := lm, addr := addr, record := r, pos := 0, rpos := 0, st := .active, cause := 0, tval := 0, stall := 0
    ahead := [], sent := 0, lastN := 0, decOff := 0, decElems := 0, vbytes := 0, vblocks := 0, slot := 0, call := 0
    sup := sup, wrote := none }

/-- `BIND` on the record it has read (R315). -/
def bindRecord (b : Binding) (s : State) : State × Option Stop :=
  let h := s.me
  let stop : Trap → State × Option Stop := fun t => (s, some (.trap t))
  let alloc := match s.myGroup with
    | some (_, g) => g.spadSize
    | none => 0
  let t := h.tagOf b.vt
  let stand : Binding → State → State × Option Stop := fun b s =>
    if tagRefused b t then (s, some (.trap (tagTrap t 0 false)))
    else (s.modMe fun h => { h with binds := h.binds ++ [b], vreg := h.vreg.set! b.vt [] }, none)
  if (h.binding? b.vt).isSome then stop (bindTrap b.vt 1)
  else if 8 ≤ h.binds.length then stop (streamTrap 1 0)
  else
    match recordTrap b alloc with
    | some t => stop t
    | none =>
      if b.kind = 6 then
        match collCheck (vecWho s s.cur) s.cur b.lm b.record s with
        | (s1, .error e) => (s1, some e)
        | (s1, .ok memb) =>
          if tagRefused b t then (s1, some (.trap (tagTrap t 0 false)))
          else
            let (s2, c, slot) := newCall s1.cur b.lm b.record memb s1
            stand { b with call := c, slot := slot } s2
      else if b.kind = 4 ∧ b.bar ≠ 0 then
        match recordPlace (bindWho s s.cur b) b.bar 64 s with
        | (s1, .error (.trap t)) => (s1, some (.trap { t with vec := true }))
        | (s1, _) => stand b s1
      else stand b s

/-- `BIND` (R315): every earlier access of the hart has performed; the record is read and checked; the binding stands. -/
def execBind (f : FmtC) (s0 : State) : Host.Outcome State Fault Refusal :=
  let s := settleAll s0.cur s0
  let a := s.sr f.sa
  .next (
    if a.toNat % 64 ≠ 0 then takeTrap (Trap.vector .align a) s
    else
      match readSpace (vecWho s s.cur) s.cur 0 a 64 1 0 s with
      | (s1, .error t) => stopAt t s1
      | (s1, .ok d) =>
        match bindRecord (newBinding f.vt.toNat f.lm.toNat a (BitVec.ofNat 512 (leNat d)) (decide (s1.me.level = .s))) s1 with
        | (s2, some t) => stopAt t s2
        | (s2, none) => retire s2)

/-- The call of a COLL binding stands in the way of its release (R432). -/
def callHolds (s : State) (b : Binding) : Bool :=
  decide (b.kind = 6) && (match s.call? b.call with
    | some c => c.live
    | none => false)

/-- A binding is released (R316): write strips have performed, the latch of a held block is discarded, and the register
reads zero bits (R297). -/
def release (h : Nat) (b : Binding) (s : State) : State :=
  (settleAll h s).modHart h fun x =>
    { x with
      binds := x.binds.filter fun c => c.vt != b.vt
      vreg := x.vreg.set! b.vt []
      latches := x.latches.filter fun l => !(decide (l.work = .block b.vt)) }

/-- `UNBIND` (R316, R432). -/
def execUnbind (f : FmtC) (s : State) : Host.Outcome State Fault Refusal :=
  .next (match s.me.binding? f.vt.toNat with
    | none => retire (s.setSr f.sd ones)
    | some b => if callHolds s b then s else retire ((release s.cur b s).setSr f.sd (wd b.pos)))

/-- Stream elements in chunks whose bit has been set (R309, R317). -/
def Binding.chunked (b : Binding) : Nat :=
  let v := memBytes b.mtag b.decElems
  let n := if b.total ≤ v then b.total else v / b.chunk * b.chunk
  min b.count (if b.mtag.isSx then n / b.mtag.blockBytes * 16 else n / b.mtag.bytes)

/-- Items 8 to 15 of `SSTAT` (R401, R432). -/
def sstatMore (b : Binding) (item : Nat) (s : State) : Word :=
  match b.kind, item with
  | 5, 8 => wd (b2n ((s.me.mask b.lm).getLsbD (fld b.record 192 14)))
  | 6, 8 => wd b.slot
  | 6, 9 => wd b.rpos
  | 6, 10 => match s.call? b.call with
    | some c => c.item0
    | none => 0
  | _, _ => 0

/-- `SSTAT` (R317). -/
def execSstat (f : FmtC) (s : State) : Host.Outcome State Fault Refusal :=
  let item := f.imm.toNat % 16
  let v : Word := match s.me.binding? f.vt.toNat with
    | none => 0
    | some b =>
      let latched := decide (b.st = .held ∨ b.st = .failed)
      match item with
      | 0 => wd (b.kind * 2 ^ 16 + (if latched then b.cause.toNat else 0) * 2 ^ 8 + b2n (decide (b.st = .held)) * 4
          + (match b.st with
             | .active | .held => 1
             | .ended => 2
             | .failed => 3))
      | 1 => wd b.pos
      | 2 => match b.kind with
        | 4 => wd b.chunked
        | 1 | 2 | 3 => wd (min b.count (b.pos + b.ahead.length * (if b.mtag.isSx then 16 else 1)))
        | _ => 0
      | 3 => b.stall
      | 4 => wd b.vbytes
      | 5 => wd b.vblocks
      | 6 => if latched then b.tval else 0
      | _ => sstatMore b item s
  .next (retire (s.setSr f.sd v))

/-! ## VLDC -/

/-- What the loop of `VLDC` has decoded: elements, bytes used, and the decoded bytes. -/
structure Decoded where
  n    : Nat
  used : Nat
  data : List Byte
  deriving DecidableEq, Repr

/-- The loop of `VLDC` (R318); `fuel` bounds the blocks, which have at least 16 bytes each. -/
def vldcLoop (sp : Nat) (base : Word) (budget vl : Nat) (t : Tag) : Nat → Decoded → State → State × Except Stop Decoded
  | 0, d, s => (s, .ok d)
  | fuel + 1, d, s =>
    let rd : Nat → Nat → State → State × Except Stop (List Byte) := fun o n s =>
      let a := base + wd (d.used + o)
      match watchElem sp a n true false s with
      | some t => (s, .error t)
      | none => readRange (vecWho s s.cur) s.cur sp a n s
    let no : State → Nat → State × Except Stop Decoded := fun s k => (s, .error (.trap (streamTrap k d.used)))
    if budget < d.used + 16 then (s, .ok d)
    else
      match rd 0 16 s with
      | (s1, .error e) => (s1, .error e)
      | (s1, .ok hd) =>
        let h := bhead hd
        if budget < d.used + h.size then (s1, .ok d)
        else
          match h.reason t with
          | some k => no s1 k
          | none =>
            match blockBody rd h t s1 with
            | (s2, .stop e) => (s2, .error e)
            | (s2, .bad k _) => no s2 k
            | (s2, .good data crc) =>
              if vl < d.n + h.count then (if d.n = 0 then no s2 14 else (s2, .ok d))
              else if !crc then
                (s2, .error (.trap (Trap.vector .checksum (wd ((data.length - 1) * 2 ^ 48 + d.n % 2 ^ 19 * 2 ^ 29
                  + d.used / 16 % 2 ^ 29)))))
              else vldcLoop sp base budget vl t fuel { n := d.n + h.count, used := d.used + h.size, data := d.data ++ data } s2

/-- A hart's engines act for it (R202, R231): its group is placed, and the hart is neither saved nor done. -/
def engineActs (s : State) (h : Nat) : Bool :=
  !(s.hart h).exited && !(s.hart h).saved && (s.groupOf h).isSome

/-- The core's one decoder is held in a block of another binding (R310), which stands. -/
def decoderBusy (s : State) (c : Nat) (mine : Option (Nat × Nat)) : Bool :=
  match (s.core c).decoder with
  | none => false
  | some p => decide (mine ≠ some p) && engineActs s p.1 && (match (s.hart p.1).binding? p.2 with
      | some b => decide (b.kind = 4 ∧ (b.st = .active ∨ b.st = .ended))
      | none => false)

/-- The core's decoder with the binding that holds it (R310). -/
def State.setDecoder (s : State) (c : Nat) (p : Option (Nat × Nat)) : State :=
  s.setCore c { s.core c with decoder := p }

/-- `VLDC` (R318): whole or not at all; it waits while a block of a binding holds the decoder (R310). -/
def execVldc (f : FmtVM) (s0 : State) : Host.Outcome State Fault Refusal :=
  let s := settleAll s0.cur s0
  let h := s.me
  let vd := f.vd.toNat
  let td := h.tagOf vd
  let m := h.opTag f.ovr.toNat vd
  let base := s.sr f.sa + f.imm.signExtend 64
  let budget := (s.sr f.sb).toNat
  .next (
    match firstTrap
      [writeRefused s h f.ovr.toNat true vd,
       if (td.isSx || m.isSx || decide (td = .kx)) && decide (m ≠ td) then badTag td 0 else none,
       capCheck s [(td, 0)],
       if base.toNat % 16 ≠ 0 then some (Trap.vector .align base) else none] with
    | some t => takeTrap t s
    | none =>
      if decoderBusy s s.myCore none then s
      else match vldcLoop f.sp.toNat base budget h.len m (h.len + 1) { n := 0, used := 0, data := [] } s with
      | (s1, .error t) => stopAt t s1
      | (s1, .ok d) =>
        let raws := if m.isSx then groupsOfBytes m.blockBytes (d.n / 16) d.data else groupsOfBytes m.bytes d.n d.data
        let vals := raws.map fun x => if m.isSx then (x, 0) else convert m td (memRm s1) false 0 x
        let fl := vals.foldl (fun f p => f ||| p.2) (0 : Flags)
        retireVec (((raise fl s1).modMe fun h =>
          { h.setUnits vd td 0 (vals.map fun p => some p.1) with vl := BitVec.ofNat 15 d.n }).setSr f.sb (wd d.used)))

/-! ## The engines' steps -/

/-- The length that bounds the stream unit's reads ahead (R305): the last strip's, and until a strip has been delivered the
hart's vector length (DESIGN CHOICE, notes/assumptions/25.md). -/
def stripLength (h : Nat) (b : Binding) (s : State) : Nat := if b.lastN = 0 then (s.hart h).len else b.lastN

/-- `STREAM_UNIT_READ` (R304, R305): the stream unit reads the next element, or block under an sx MTAG, ahead of POS, from
BIND on and at most four strips. -/
def execStreamUnitRead (h vt : Nat) (s : State) : Host.Outcome State Fault Refusal :=
  .next (match (s.hart h).binding? vt with
    | none => s
    | some b =>
      let per := if b.mtag.isSx then 16 else 1
      let i := b.pos / per + b.ahead.length
      if b.kind ≤ 3 ∧ b.dir = 0 ∧ b.st = .active ∧ i * per < b.count ∧ (b.ahead.length + 1) * per ≤ 4 * stripLength h b s ∧
          engineActs s h = true then
        match streamRaw (bindWho s h b) h b i s with
        | (_, .error _) => s
        | (s1, .ok x) => setBinding h { b with ahead := b.ahead ++ [x] } s1
      else s)

/-- `WRITE_STRIP_PERFORM` (R305): the oldest write strip of a binding performs. -/
def execWriteStripPerform (h vt : Nat) (s : State) : Host.Outcome State Fault Refusal := .next (performStrip h vt s)

/-- The stretches of `n` stream bytes from position p on, as scratchpad offsets and lengths: one, or in a ring one for
each turn (R309); `fuel` bounds them. -/
def destRuns (b : Binding) : Nat → Nat → Nat → List (Nat × Nat)
  | 0, _, _ => []
  | fuel + 1, p, n =>
    if n = 0 then []
    else if b.ring = 0 then [(b.dest + p, n)]
    else
      let k := min n (b.ring - p % b.ring)
      (b.dest + p % b.ring, k) :: destRuns b fuel (p + k) (n - k)

/-- The decoder writes bytes at its destination (R309). -/
def putDecoded (w : Who) (h : Nat) : List (Nat × Nat) → List Byte → State → State × Option Stop
  | [], _, s => (s, none)
  | (o, n) :: l, d, s =>
    match spacePlaces w h .store 1 (wd o) n 1 0 s with
    | (s1, .error t) => (s1, some t)
    | (s1, .ok ps) => putDecoded w h l (d.drop n) (performAll (storesOf ps (d.take n)) s1)

/-- In a ring, the slots of those chunks are clear (R309). -/
def Binding.roomFor (b : Binding) (m : BitVec 16384) (p n : Nat) : Bool :=
  decide (b.ring = 0) || (b.chunksOf p n).all fun i => !(m.getLsbD (b.chunkBit i))

/-- A decoder block meets a fault (R312): HELD with a latch, or FAILED. -/
def decoderFault (h : Nat) (b : Binding) (t : Trap) (s : State) : State :=
  if retriable t.code then
    addLatch h { lm := b.lm, cause := t.code, tval := t.tval, work := .block b.vt, delivered := false }
      (setBinding h { b with st := .held, cause := t.code, tval := t.tval } s)
  else failBinding h b t.code t.tval s

/-- A block has verified: its chunks' bits are set, and after the last element the decoder arrives at BAR (R309, R312).
A failed arrival makes the binding FAILED. -/
def blockVerified (h : Nat) (b : Binding) (w : Wrote) (s : State) : State × Option Stop :=
  let p := memBytes b.mtag b.decElems
  let b1 := { b with decElems := b.decElems + w.elems, decOff := b.decOff + w.size, vbytes := b.vbytes + w.size, wrote := none
                     vblocks := b.vblocks + 1 }
  let v := memBytes b.mtag b1.decElems
  let full := (b.chunksOf p (v - p)).filter fun i => decide ((i + 1) * b.chunk ≤ v ∨ b.total ≤ v)
  let s1 := (setBinding h b1 s).modHart h fun x =>
    { x with mreg := x.mreg.set! b.lm (full.foldl (fun m i => setBit m (b.chunkBit i) true) (x.mreg[b.lm]!)) }
  if b.bar ≠ 0 ∧ b.count ≤ b1.decElems then
    match decoderArrival h b1 none s1 with
    | (s2, none) => (s2, none)
    | (s2, some .stall) => (s2, some .stall)
    | (s2, some (.trap t)) => (setBinding h { b1 with st := .failed, cause := t.code, tval := wd b.bar } s2, none)
  else (s1, none)

/-- The decoder's first step on a block whose header it has read: it decodes and writes the block, or as much as it can; the
verdict shows in its next step (R311, R312). -/
def decodeBlock (h : Nat) (b : Binding) (rd : Nat → Nat → State → State × Except Stop (List Byte)) (hd : BHead)
    (s : State) : State × Option Stop :=
  let w := bindWho s h b
  let p := memBytes b.mtag b.decElems
  let bad : Nat → State → State × Option Stop := fun k s =>
    (failBinding h b Cause.stream.code (wd (k * 2 ^ 56 + b.decOff)) s, none)
  let put : List Byte → Option (BitVec 6 × Word) → State → State × Option Stop := fun d verdict s =>
    if !(b.roomFor ((s.hart h).mask b.lm) p d.length) then (s, some .stall)
    else
      match putDecoded w h (destRuns b (d.length + 1) p d.length) d s with
      | (s1, some (.trap t)) => (decoderFault h b t s1, none)
      | (s1, some .stall) => (s1, some .stall)
      | (s1, none) => (setBinding h { b with wrote := some { elems := hd.count, size := hd.size, bad := verdict } } s1, none)
  match hd.reason b.mtag with
  | some k => bad k s
  | none =>
    if b.count < b.decElems + hd.count ∨ fld b.record 192 64 < b.decOff + 16 + hd.clen then bad 13 s
    else
      match blockBody rd hd b.mtag s with
      | (s1, .stop (.trap t)) => (decoderFault h b t s1, none)
      | (s1, .stop .stall) => (s1, some .stall)
      | (s1, .bad k done) => put done (some (Cause.stream.code, wd (k * 2 ^ 56 + b.decOff))) s1
      | (s1, .good data true) => put data none s1
      | (s1, .good data false) =>
        let off := b.dest + (if b.ring = 0 then p else p % b.ring)
        put data (some (Cause.checksum.code,
          wd ((data.length - 1) * 2 ^ 48 + off % 2 ^ 19 * 2 ^ 29 + b.decOff / 16 % 2 ^ 29))) s1

/-- `DECODER_BLOCK` (R308 to R312): the decoder reads, decodes and writes the next block of a COMP binding, or, where that
stands, verifies it; or the binding fails or is held. A slot that is not clear, or a page that is MIGRATING, holds the core's one decoder in the
block; it serves its other bindings at block boundaries only. -/
def execDecoderBlock (h vt : Nat) (s : State) : Host.Outcome State Fault Refusal :=
  .next (match (s.hart h).binding? vt with
    | none => s
    | some b =>
      if b.kind ≠ 4 ∨ (b.st ≠ .active ∧ b.st ≠ .ended) ∨ b.count ≤ b.decElems ∨ engineActs s h = false ∨ arrivalHeld h b s = true ∨
          decoderBusy s (coreOf h) (some (h, vt)) = true then s
      else
        let rd : Nat → Nat → State → State × Except Stop (List Byte) := fun o n s =>
          readRange (bindWho s h b) h b.sp (wd (fld b.record 128 64 + b.decOff + o)) n s
        let r : State × Option Stop :=
          match b.wrote with
          | some w => match w.bad with
            | some f => (failBinding h { b with wrote := none } f.1 f.2 s, none)
            | none => blockVerified h b w s
          | none =>
          if fld b.record 192 64 < b.decOff + 16 then
            (failBinding h b Cause.stream.code (wd (13 * 2 ^ 56 + b.decOff)) s, none)
          else
            match rd 0 16 s with
            | (s1, .error (.trap t)) => (decoderFault h b t s1, none)
            | (s1, .error .stall) => (s1, some .stall)
            | (s1, .ok d) => decodeBlock h b rd (bhead d) s1
        match r with
        | (s1, none) => s1.setDecoder (coreOf h) (if (((s1.hart h).binding? vt).bind Binding.wrote).isSome then some (h, vt) else none)
        | (_, some _) => s.setDecoder (coreOf h) (some (h, vt)))

end Sys2Proof.Machine
end

