-- ==== Sys2Proof/Machine/Resume.lean ====
section
/-!
DEFINITION. Resumption of a saved group (R213, R215, R294, R314): its harts, bindings, lanes and tiles.
-/
namespace Sys2Proof.Machine

open Sys2Proof

/-! ## Bindings (R314) -/

/-- A binding with the record that a resumption reads again; the old one stands where the read fails or what it gives is no
record for the binding (DEDUCED, notes/assumptions/25.md). -/
def rereadRecord (h : Nat) (b : Binding) (s : State) : State × Binding :=
  match readSpace { vecWho s h with sup := b.sup } h 0 b.addr 64 1 0 s with
  | (s1, .error _) => (s1, b)
  | (s1, .ok d) =>
    let r := { b with record := BitVec.ofNat 512 (leNat d) }
    let alloc := match s1.groupOf h with
      | some (_, g) => g.spadSize
      | none => 0
    (s1, if r.kind = b.kind ∧ (recordTrap r alloc).isNone then r else b)

/-- Chunk i of a COMP binding is set: its bit is, or in a ring POS has passed it (R309). -/
def Binding.chunkSet (b : Binding) (m : BitVec 16384) (i : Nat) : Bool :=
  let first := if b.count ≤ b.pos then (b.total + b.chunk - 1) / b.chunk else memBytes b.mtag b.pos / b.chunk
  (decide (b.ring ≠ 0) && decide (i < first)) ||
    (m.getLsbD (b.chunkBit i) && (decide (b.ring = 0) || decide (i < first + b.ring / b.chunk)))

/-- The decoder walks the block headers to the first block whose chunks are not all set, or that it cannot read; `fuel`
bounds the blocks. -/
def walkBlocks (h : Nat) : Nat → Binding → State → State × Binding
  | 0, b, s => (s, b)
  | fuel + 1, b, s =>
    let left := fld b.record 192 64
    if b.count ≤ b.decElems ∨ left < b.decOff + 16 then (s, b)
    else
      match readRange (bindWho s h b) h b.sp (wd (fld b.record 128 64 + b.decOff)) 16 s with
      | (s1, .error _) => (s1, b)
      | (s1, .ok d) =>
        let hd := bhead d
        let p := memBytes b.mtag b.decElems
        if (hd.reason b.mtag).isSome ∨ b.count < b.decElems + hd.count ∨ left < b.decOff + 16 + hd.clen then (s1, b)
        else if (b.chunksOf p (hd.bytes b.mtag)).all (b.chunkSet ((s1.hart h).mask b.lm)) then
          walkBlocks h fuel { b with decElems := b.decElems + hd.count, decOff := b.decOff + hd.size,
                                     vbytes := b.vbytes + hd.size, vblocks := b.vblocks + 1 } s1
        else (s1, b)

/-- A binding at resumption: the record is read again, and a decoder finds its block from the chunk bits; a call stays with
its engine (R432). -/
def resumeBinding (h : Nat) (b : Binding) (s : State) : State :=
  if b.kind = 6 then s
  else
    let r := rereadRecord h b s
    if r.2.kind = 4 ∧ r.2.st ≠ .failed then
      let w := walkBlocks h r.2.count { r.2 with decElems := 0, decOff := 0, vbytes := 0, vblocks := 0 } r.1
      setBinding h w.2 w.1
    else setBinding h r.2 r.1

/-! ## Harts and lanes -/

/-- A saved hart runs again, at the instruction it was saved at (R213, R230). -/
def resumeHart (h : Nat) (s : State) : State :=
  (s.hart h).binds.foldl (fun s b => resumeBinding h b s) (s.modHart h fun y => { y with saved := false, resumed := true })

/-- The harts of a resumed group run again; a PREEMPT trap's harts execute their `SETVL` (R213, R215). -/
def resumeHarts (g : Nat) (s : State) : State :=
  match s.group? g with
  | none => s
  | some x =>
    let s1 := s.setGroup g { x with st := .running, saveLp := [], saveAcc := none }
    x.harts.foldl (fun s h => resumeHart h s) (refillBolts g s1)

/-- The lane-private SRAM and the accumulators of a full save come back (R146, R179, R294). -/
def restoreLanes (g : Nat) (x : Group) (s : State) : State :=
  let c := s.core x.core
  s.setCore x.core { c with
    lpriv := x.saveLp.foldl (fun v p => v.set! p.1 p.2) c.lpriv
    acc := x.saveAcc.getD c.acc
    mholder := if x.saveAcc.isSome then some g else c.mholder }

/-- Reclaims for the lane groups that a group must have back, from holders of lower priority (R215). -/
def reclaimExact (g : Nat) (x : Group) (s : State) : State :=
  (coreGroups s x.core).foldl (fun s p =>
    let y := p.2
    let keep := y.quads &&& ~~~x.saveQuads
    if p.1 ≠ g ∧ y.quads &&& x.saveQuads ≠ 0 ∧ y.prio < x.prio ∧ y.shrinking = false ∧ y.lmin ≤ popCount keep then
      s.setGroup p.1 { y with rcl := true, next := keep }
    else s) s

/-- `GROUP_RESUME` (R213, R215, R294): a PREEMPTED group of a resident context resumes, after a PREEMPT trap without
lanes, else with its identical lane groups and, where its save holds tiles, the matrix array. -/
def execGroupResume (g : Nat) (s : State) : Host.Outcome State Fault Refusal :=
  .next (match s.group? g with
    | none => s
    | some x =>
      if x.st ≠ .preempted ∨ s.dispatches x.asid = false then s
      else if x.saveKind = .trap then resumeHarts g s
      else if x.saveAcc.isSome ∧ (s.core x.core).mholder ≠ none then s
      else if x.saveQuads &&& ~~~(freeQuads s x.core ||| offeredQuads s x.core) ≠ 0 then reclaimExact g x s
      else
        let s1 := takeQuads g x.saveQuads (withdrawOffers x.core x.saveQuads s)
        resumeHarts g (restoreLanes g x s1))

end Sys2Proof.Machine
end

