-- ==== Sys2Proof/Machine/Transducer.lean ====
section
/-!
DEFINITION. Sluice lanes: transducer tables, runs and their states, the brine pit, `XTAB`, `XRUN` and `XSTAT` (R378 to
R389).
-/
namespace Sys2Proof.Machine

open Sys2Proof

/-! ## Parts by name -/

/-- A channel's queue of tables and runs (R387, R388). -/
def State.chQueue (s : State) (ch : Nat) : List ChItem := smGet [] s.chq ch
/-- The state with a channel's queue replaced. -/
def State.setChQueue (s : State) (ch : Nat) (l : List ChItem) : State := { s with chq := smPut s.chq ch l }
/-- A run by its identity. -/
def State.run? (s : State) (r : Nat) : Option Run := s.runs.find? fun x => x.id == r
/-- The state with a run replaced. -/
def State.setRun (s : State) (r : Run) : State := { s with runs := s.runs.map fun x => if x.id = r.id then r else x }
/-- The table in a slot of a channel (R378). -/
def tableIn (s : State) (ch slot : Nat) : Option Table := s.tables.find? fun t => decide (t.ch = ch ∧ t.slot = slot)

/-- SRC of a run (R380). -/
def Run.src (r : Run) : Nat := fld r.entry 0 64
/-- SRCBITS. -/
def Run.srcBits (r : Run) : Nat := fld r.entry 64 64
/-- DST. -/
def Run.dst (r : Run) : Nat := fld r.entry 128 64
/-- DCAP. -/
def Run.dcap (r : Run) : Nat := fld r.entry 192 32
/-- SLOT. -/
def Run.slot (r : Run) : Nat := fld r.entry 224 8
/-- Bytes of an output element (OW). -/
def Run.outBytes (r : Run) : Nat := 2 ^ (fld r.entry 232 8 % 4)
/-- BIT. -/
def Run.bit (r : Run) : Nat := fld r.entry 272 16
/-- STATUS. -/
def Run.status (r : Run) : Nat := fld r.entry 384 64

/-- A field of a run entry breaks R380. -/
def Run.badEntry (r : Run) : Bool :=
  let e := r.entry
  decide (r.srcBits = 0 ∨ 2 ^ 36 < r.srcBits ∨ r.dst % r.outBytes ≠ 0 ∨ 6 < r.slot ∨ 3 < fld e 232 8 ∨ 15 < fld e 240 8 ∨
    fld e 248 8 ≠ 0 ∨ 4095 < fld e 256 16 ∨ 16383 < r.bit ∨ fld e 288 32 ≠ 0 ∨ r.status % 8 ≠ 0 ∨ fld e 448 64 ≠ 0)

/-- A run's code that is not decided yet. -/
def noCode : Nat := 256

/-- The agent of a run: its hart's kernel, at the level of the `XRUN`. -/
def runWho (s : State) (r : Run) : Who :=
  { asid := r.asid, serial := r.serial, group := (s.hart r.hart).group, sup := r.sup
    cluster := clusterOf (coreOf r.hart), slices := none }

/-- The ASID is in use (R169). -/
def Ctx.live (x : Ctx) : Bool := decide (x.st ≠ .absent ∧ x.st ≠ .tornDown)

/-- The engines of a context work: it has not been switched out (R169). -/
def enginesWork (s : State) (asid : Nat) : Bool := decide ((s.ctx asid).st = .resident ∨ (s.ctx asid).st = .faulted)

/-! ## Ends, holds and the pit (R382 to R385) -/

/-- A latch of a run for its mask register (R384). -/
def runLatch (r : Run) (cause : BitVec 6) (tval : Word) : Latch :=
  { lm := r.lm, cause := cause, tval := tval, work := .run r.id, delivered := false }

/-- A run becomes PITTED, the oldest entry of its pit latched; with LM = 0 it ends with code 9 and its pit is discarded
(R384). -/
def pitRun (r : Run) (s : State) : State :=
  match r.pit with
  | [] => s.setRun { r with st := .ending }
  | p :: _ =>
    if r.lm = 0 then s.setRun { r with st := .ending, code := 9, pit := [] }
    else addLatch r.hart (runLatch r p.2.2 p.1) (s.setRun { r with st := .pitted })

/-- A run ends with a code: an end with more elements than DCAP has code 2; a pit that is not empty holds it (R381,
R384). -/
def endRun (r : Run) (code : Nat) (s : State) : State :=
  pitRun { r with code := if code ≤ 1 ∧ r.dcap < r.n then 2 else code } s

/-- An input fault of a run (R384). -/
def inputFault (r : Run) (t : Trap) (s : State) : State :=
  if endsBinding t.code then endRun r 6 s
  else if r.lm = 0 then endRun r 9 s
  else addLatch r.hart (runLatch r t.code t.tval) (s.setRun { r with st := .held })

/-- An element emitted (R381, R384): written below DCAP, or with its address to the pit when the write faults; a
migration holds the step. -/
def emit (r : Run) (y : Word) (s : State) : State × Option Run :=
  let a := r.dst + r.n * r.outBytes
  let r1 := { r with n := r.n + 1 }
  if r.dcap ≤ r.n then (s, some r1)
  else
    match vwrite (runWho s r) a (leBytes r.outBytes y.toNat) s with
    | (s1, none) => (s1, some r1)
    | (s1, some (.trap t)) => (s1, some { r1 with pit := r.pit ++ [(t.tval, y, t.code)] })
    | (s1, some .stall) => (s1, none)

/-- What an entry's action does with symbol x of w bits (R379): the run with its registers, what it emits, or the code
with which it ends or fails. -/
def tableAct (e : BitVec 32) (x w : Nat) (r : Run) : Run × Option Word × Option Nat :=
  let arg := wd (fld e 0 12)
  let v := r.acc ||| (wd x <<< min r.k 64)
  let done : Run := { r with acc := 0, k := 0 }
  match fld e 12 4 with
  | 0 => (r, none, none)
  | 1 => (r, some arg, none)
  | 2 => ({ r with acc := v, k := (r.k + w) % 2 ^ 64 }, none, none)
  | 3 => if 63 < fld e 0 12 then (r, none, some 4) else ({ r with acc := r.acc <<< fld e 0 12, k := (r.k + fld e 0 12) % 2 ^ 64 }, none, none)
  | 4 => (done, some (r.acc + arg), none)
  | 5 => ({ done with prev := r.prev + v + arg }, some (r.prev + v + arg), none)
  | 6 => (done, some (v + arg), none)
  | 7 => (r, none, some 0)
  | _ => (r, none, some 4)

/-- The step of a run on symbol x (R381). -/
def applyEntry (r : Run) (e : BitVec 32) (x : Nat) (s : State) : State :=
  let (r1, out, code) := tableAct e x r.w { r with pos := r.pos + r.w }
  match code with
  | some c => endRun r1 c s
  | none =>
    let next : Run := { r1 with s := fld e 20 12, w := fld e 16 4 + 1 }
    match out with
    | none => s.setRun next
    | some y =>
      match emit next y s with
      | (_, none) => s
      | (s1, some r2) => if 4096 ≤ r2.pit.length then pitRun r2 s1 else s1.setRun r2

/-! ## Events -/

/-- The lanes of a channel that runs hold; a pair of lanes serves it. -/
def lanesBusy (s : State) (ch : Nat) : Nat := (s.runs.filter fun r => decide (r.ch = ch ∧ r.st ≠ .queued)).length

/-- `RUN_START` (R381, R385): the next entry of a channel's queue is a run of a context that is not switched out, and a
lane is free. -/
def execRunStart (ch : Nat) (s : State) : Host.Outcome State Fault Refusal :=
  .next (match s.chQueue ch with
    | .run i :: rest =>
      match s.run? i with
      | none => s.setChQueue ch rest
      | some r =>
        if 2 ≤ lanesBusy s ch ∨ enginesWork s r.asid = false then s
        else
          let s1 := s.setChQueue ch rest
          let r1 := { r with
            st := .running, s := fld r.entry 256 16, w := fld r.entry 240 4 + 1, acc := 0, k := 0
            prev := wd (fld r.entry 320 64), n := 0, pos := 0 }
          if r.badEntry then endRun r1 8 s1
          else match tableIn s ch r.slot with
            | some t => if t.asid = r.asid then s1.setRun r1 else endRun r1 5 s1
            | none => endRun r1 5 s1
    | _ => s)

/-- `TABLE_REPLACE` (R387): the next entry of a channel's queue is a table, and no earlier run of its slot stands; one of an
ASID that is gone is dropped (R378). -/
def execTableReplace (ch : Nat) (s : State) : Host.Outcome State Fault Refusal :=
  .next (match s.chQueue ch with
    | .table t :: rest =>
      if s.runs.any fun r => decide (r.ch = ch ∧ r.st ≠ .queued ∧ r.slot = t.slot) then s
      else
        let others := s.tables.filter fun u => !(decide (u.ch = ch ∧ u.slot = t.slot))
        if (s.ctx t.asid).live = false then s.setChQueue ch rest
        else { s.setChQueue ch rest with tables := if t.entries = [] then others else others ++ [t] }
    | _ => s)

/-- Replaying a pit in emission order (R384): the entries that fault again stay; whether a MIGRATING page holds an entry,
which leaves it and the ones after it for later (R374). -/
def replayPit (r : Run) : List (Word × Word × BitVec 6) → State → State × List (Word × Word × BitVec 6) × Bool
  | [], s => (s, [], false)
  | (a, y, c) :: l, s =>
    match vwrite (runWho s r) a.toNat (leBytes r.outBytes y.toNat) s with
    | (s1, none) => replayPit r l s1
    | (_, some .stall) => (s, (a, y, c) :: l, true)
    | (s1, some (.trap t)) => let m := replayPit r l s1; (m.1, (a, y, t.code) :: m.2.1, m.2.2)

/-- The lane replays a run's pit (R384): then the run goes on or ends, is PITTED again, or has to wait. -/
def replayRun (r : Run) (s : State) : State :=
  let m := replayPit r r.pit s
  let r1 := { r with pit := m.2.1 }
  if m.2.2 then m.1.setRun { r1 with st := .replaying }
  else if m.2.1 = [] then m.1.setRun { r1 with st := if r.code = noCode then .running else .ending }
  else pitRun r1 m.1

/-- `TRANSDUCER_STEP` (R381, R384): a lane reads one symbol of a run and applies its entry, or goes on with its pit. -/
def execTransducerStep (i : Nat) (s : State) : Host.Outcome State Fault Refusal :=
  .next (match s.run? i with
    | none => s
    | some r =>
      if enginesWork s r.asid = false then s
      else if r.st = .replaying then replayRun r s
      else if r.st ≠ .running then s
      else if r.srcBits < r.pos + r.w then endRun r 1 s
      else
        let lo := r.pos / 8
        match vread (runWho s r) .load (wd (r.src + lo)).toNat ((r.pos + r.w + 7) / 8 - lo) s with
        | (_, .error .stall) => s
        | (s1, .error (.trap t)) => inputFault r t s1
        | (s1, .ok d) =>
          let x := nbits (leNat d) (r.pos % 8) r.w
          match (tableIn s1 r.ch r.slot).bind fun t => t.entries[r.s + x]? with
          | none => endRun { r with pos := r.pos + r.w } 3 s1
          | some e => applyEntry r e x s1)

/-- The status word of a run (R382). -/
def Run.statusWord (r : Run) : Word := wd (2 ^ 63 + r.code * 2 ^ 48 + r.n % 2 ^ 48)

/-- R383: the outputs stand; the status word is written, then the run's bit set; the run leaves its lane. A status word
whose write faults, or whose address is no multiple of 8, is not written (DEDUCED, notes/assumptions/17.md); one that a
MIGRATING page holds is waited for (R374): `none`. -/
def finishRun (r : Run) (s : State) : Option State :=
  let go : State → State := fun s1 =>
    let s2 := if r.lm = 0 then s1
      else s1.modHart r.hart fun x => { x with mreg := x.mreg.set! r.lm (setBit (x.mreg[r.lm]!) r.bit true) }
    { s2 with runs := s2.runs.filter fun x => x.id != r.id }
  if r.status = 0 ∨ r.status % 8 ≠ 0 then some (go s)
  else match vwrite (runWho s r) r.status (bytesOf 8 r.statusWord) s with
    | (_, some .stall) => none
    | (s1, _) => some (go s1)

/-- `RUN_END` (R383): a run whose code is decided ends. -/
def execRunEnd (i : Nat) (s : State) : Host.Outcome State Fault Refusal :=
  .next (match s.run? i with
    | none => s
    | some r => if r.st = .ending then (finishRun r s).getD s else s)

/-- A HELD run retries its step, and a PITTED one replays its pit, after the `TRET` from its latched trap (R384, R385). -/
def resumeRun (i : Nat) (s : State) : State :=
  match s.run? i with
  | none => s
  | some r => match r.st with
    | .held => s.setRun { r with st := .running }
    | .pitted => replayRun r s
    | _ => s

/-- `KEXIT` ends a HELD or PITTED run with code 7, its pit discarded (R202, R385). -/
def abandonRun (r : Run) (s : State) : Option State := finishRun { r with code := 7, pit := [] } s

/-! ## Instructions -/

/-- The trap of a refused instruction of the vector queue (R81): its word. -/
def queueIllegal (i : Instr) : Trap := Trap.vector .illegal (wordOf i)

/-- `XTAB` (R386, R387). -/
def execXtab (f : FmtC) (s0 : State) : Host.Outcome State Fault Refusal :=
  let s := settleAll s0.cur s0
  let a := s.sr f.sa
  let n := (s.sr f.sb).toNat
  let ch := f.imm.toNat % 512
  let slot := f.imm.toNat / 512
  let asid := s.asidOf s.cur
  .next (
    if 4096 < n then takeTrap (queueIllegal (.xtab f)) s
    else if a.toNat % 64 ≠ 0 then takeTrap (Trap.vector .align a) s
    else
      match readRange (vecWho s s.cur) s.cur 0 a (4 * n) s with
      | (s1, .error t) => stopAt t s1
      | (s1, .ok d) =>
        if (match tableIn s1 ch slot with
            | some t => decide (t.asid ≠ asid) && (s1.ctx t.asid).live
            | none => false) then retire (s1.setSr f.sd ones)
        else
          let t : Table := { ch := ch, slot := slot, asid := asid, entries := (groupsOfBytes 4 n d).map (BitVec.ofNat 32) }
          retire ((s1.setChQueue ch (s1.chQueue ch ++ [.table t])).setSr f.sd 0))

/-- `XRUN` (R386, R388). -/
def execXrun (f : FmtC) (s : State) : Host.Outcome State Fault Refusal :=
  let a := s.sr f.sa
  let ch := f.imm.toNat % 512
  .next (
    if a.toNat % 64 ≠ 0 then takeTrap (Trap.vector .align a) s
    else
      match releaseGate s.cur s with
      | .error (.trap t) => takeTrap { t with vec := true } s
      | .error .stall => s
      | .ok s0 =>
        match readSpace (vecWho s0 s0.cur) s0.cur 0 a 64 1 0 s0 with
        | (s1, .error t) => stopAt t s1
        | (s1, .ok d) =>
          if 64 ≤ (s1.chQueue ch).length then retire (s1.setSr f.sd ones)
          else
            let seq := smGet 0 s1.chseq ch
            let r : Run :=
              { id := s1.nextId, ch := ch, seq := seq, hart := s1.cur, asid := s1.asidOf s1.cur, serial := s1.serialOf s1.cur
                entry := BitVec.ofNat 512 (leNat d), lm := f.lm.toNat, st := .queued, code := noCode, s := 0, w := 0
                acc := 0, k := 0, prev := 0, n := 0, pos := 0, pit := [], sup := decide (s1.me.level = .s) }
            let s2 := s1.setChQueue ch (s1.chQueue ch ++ [.run r.id])
            let s3 := { s2 with runs := s2.runs ++ [r], nextId := s2.nextId + 1, chseq := smPut s2.chseq ch ((seq + 1) % 2 ^ 32) }
            retire (s3.setSr f.sd (wd (ch * 2 ^ 32 + seq))))

/-- `XSTAT` (R389). -/
def execXstat (f : FmtC) (s : State) : Host.Outcome State Fault Refusal :=
  let t := (s.sr f.sa).toNat
  let v := match s.runs.find? fun r => decide (r.ch * 2 ^ 32 + r.seq = t ∧ r.asid = s.asidOf s.cur) with
    | none => 0
    | some r =>
      let c := match r.st with
        | .queued => 1
        | .running | .ending | .replaying => 2
        | .held => 3
        | .pitted => 4
      wd (c * 2 ^ 61 + r.n % 2 ^ 48)
  .next (retire (s.setSr f.sd v))

end Sys2Proof.Machine
end

