-- ==== Sys2Proof/Machine/Posting.lean ====
section
/-!
DEFINITION. The posting engine: posting lists (R390, R391), the query record and its evaluation (R392 to R398), the
states of a query (R399, R400), `PQRY` and `PSTAT` (R402, R403).
-/
namespace Sys2Proof.Machine

open Sys2Proof

/-- What ends the evaluation of a query: a code of R394 with its term, or a fault that holds it. -/
inductive QErr where
  | code (c term : Nat)
  | stop (t : Stop)
  deriving DecidableEq, Repr

/-- The evaluation of a query over the state, with the flags that its arithmetic raises (R394). -/
abbrev QM (α : Type) := ExceptT QErr (StateM (State × Flags)) α

/-- The agent of a query: its hart's kernel, at the level of the `PQRY`. -/
def queryWho (s : State) (q : Query) : Who :=
  { asid := q.asid, serial := q.serial, group := (s.hart q.hart).group, sup := q.sup, cluster := q.cluster, slices := none }

/-- A query by its identity. -/
def State.query? (s : State) (q : Nat) : Option Query := s.queries.find? fun x => x.id == q
/-- The state with a query replaced. -/
def State.setQuery (s : State) (q : Query) : State := { s with queries := s.queries.map fun x => if x.id = q.id then q else x }

/-- An access that stops: POISON and INTEGRITY are codes 5 and 6, PAGE, PROT and BOLT hold the query (R394, R400). -/
def queryStop : Stop → QErr
  | .stall => .stop .stall
  | .trap t => if t.code = Cause.poison.code then .code 5 0xFF else if t.code = Cause.integrity.code then .code 6 0xFF
      else .stop (.trap t)

/-- Ending the evaluation with a code. -/
def qFail {α : Type} (c term : Nat) : QM α := throw (.code c term)

/-- Reading n bytes in `main` as a little-endian number. -/
def qRead (q : Query) (a n : Nat) : QM Nat := do
  let p ← get
  match vread (queryWho p.1 q) .load (wd a).toNat n p.1 with
  | (s1, .ok d) => set (s1, p.2); pure (leNat d)
  | (s1, .error t) => set (s1, p.2); throw (queryStop t)

/-- Reading n bytes, none for n = 0. -/
def qReadSome (q : Query) (a n : Nat) : QM Nat := if n = 0 then pure 0 else qRead q a n

/-- A flagged f32 result (R396). -/
def qFlag (r : Nat × Flags) : QM Nat := do
  let p ← get
  set (p.1, p.2 ||| r.2)
  pure r.1

/-- `Round` of a + b, a − b, a × b or a / b in f32 (R396). -/
def qOp (op : AOp) (a b : Nat) : QM Nat := qFlag (elemArith op .f32 .f32 .rne false [(.f32, a), (.f32, b)])
/-- `Round` of an integer to f32. -/
def qInt (n : Nat) : QM Nat := qFlag ((Tag.ffmt .f32).round .rne false 0 (FVal.ofInt n))
/-- 1.0 in f32. -/
def f32One : Nat := 0x3F800000

/-! ## Lists (R390, R391) -/

/-- A skip entry (R390). -/
structure Skip where
  first : Nat
  last  : Nat
  count : Nat
  dw    : Nat
  fw    : Nat
  off   : Nat
  /-- its bytes 0 to 11 -/
  key   : Nat
  deriving DecidableEq, Repr

/-- A skip entry from its 16 bytes. -/
def skipOf (x : Nat) : Skip :=
  { first := nbits x 0 32, last := nbits x 32 32, count := nbits x 64 16, dw := nbits x 80 8, fw := nbits x 88 8
    off := nbits x 96 32, key := nbits x 0 96 }

/-- A term's list: its weight, DATA and skip table (R390, R393). -/
structure TermList where
  idf   : Nat
  npost : Nat
  data  : Nat
  skips : List Skip
  deriving DecidableEq, Repr

/-- A skip table that R391 refuses; `prev` is the previous entry's LAST. -/
def badSkips : Option Nat → List Skip → Bool
  | _, [] => false
  | prev, e :: l =>
    decide (e.last < e.first ∨ (e.count = 1 ∧ e.first ≠ e.last) ∨ e.count = 0 ∨ 128 < e.count ∨ 32 < e.dw ∨ 16 < e.fw) ||
      (match prev with
       | some p => decide (e.first ≤ p)
       | none => false) || badSkips (some e.last) l

/-- Reading a term's list header and skip table whole (R392, R395). -/
def readTerm (q : Query) (t list idf : Nat) : QM TermList := do
  let h ← qRead q list 16
  let nblk := nbits h 0 32
  let sk ← qReadSome q (list + 16) (16 * nblk)
  let skips := (List.range nblk).map fun j => skipOf (nbits sk (128 * j) 128)
  if nblk = 0 ∨ nbits h 32 32 ≠ (skips.foldl (fun n e => n + e.count) 0) ∨ badSkips none skips = true then qFail 2 t
  else pure { idf := idf, npost := nbits h 32 32, data := nbits h 64 64, skips := skips }

/-- The docids of a block from its deltas (R390). -/
def docsFrom (x dw : Nat) : Nat → Nat → Nat → List Nat
  | 0, _, d => [d]
  | n + 1, i, d => d :: docsFrom x dw n (i + 1) (d + nbits x (i * dw) dw + 1)

/-- Reading and decoding a block: its docids with their term frequencies (R390, R391). -/
def readBlock (q : Query) (t : Nat) (l : TermList) (e : Skip) : QM (List (Nat × Nat)) := do
  let a := l.data + e.off
  let h ← qRead q a 16
  let blen := ((e.count - 1) * e.dw + e.count * e.fw + 7) / 8
  if nbits h 0 96 ≠ e.key ∨ nbits h 96 32 ≠ blen then qFail 2 t
  else do
    let x ← qReadSome q (a + 16) blen
    let docs := docsFrom x e.dw (e.count - 1) 0 e.first
    let lastDoc := docs.getLastD 0
    if lastDoc ≠ e.last ∨ 0xFFFFFFFE < lastDoc then qFail 2 t
    else pure (docs.zipIdx.map fun p => (p.1, nbits x ((e.count - 1) * e.dw + p.2 * e.fw) e.fw + 1))

/-- Block ranges of two lists overlap. -/
def overlaps (e : Skip) (l : TermList) : Bool := l.skips.any fun f => decide (e.first ≤ f.last ∧ f.first ≤ e.last)

/-- The blocks of term t that the engine reads (R395). -/
def blocksRead (op t : Nat) (terms : List TermList) (l : TermList) : List Skip :=
  if op = 1 then l.skips
  else l.skips.filter fun e => (terms.zipIdx).all fun p => decide (p.2 = t) || overlaps e p.1

/-- Inserting a pair into a list in ascending order of its first component, after equal ones. -/
def insertAsc (p : Nat × Nat) : List (Nat × Nat) → List (Nat × Nat)
  | [] => [p]
  | x :: l => if p.1 < x.1 then p :: x :: l else x :: insertAsc p l

/-- Sorting pairs in ascending order of the first component; equal ones keep their order. -/
def sortAsc (l : List (Nat × Nat)) : List (Nat × Nat) := l.foldl (fun m p => insertAsc p m) []

/-- The terms in the order in which the engine reads their blocks: fewest postings first (R395). -/
def termOrder (terms : List TermList) : List Nat := (sortAsc (terms.zipIdx.map fun p => (p.1.npost, p.2))).map Prod.snd

/-- Reading the postings of the terms, in a given order: per term, its documents with their frequencies. -/
def readPosts (q : Query) (op : Nat) (terms : List TermList) : List Nat → List (Nat × List (Nat × Nat)) →
    QM (List (Nat × List (Nat × Nat)))
  | [], acc => pure acc
  | t :: ts, acc => do
    match terms[t]? with
    | none => readPosts q op terms ts acc
    | some l =>
      let bs ← (blocksRead op t terms l).mapM fun e => readBlock q t l e
      readPosts q op terms ts (acc ++ [(t, bs.flatten)])

/-! ## Scores (R395 to R398) -/

/-- The header of a query record (R393). -/
structure QHead where
  op   : Nat
  fuse : Nat
  nt   : Nat
  nv   : Nat
  k    : Nat
  k1   : Nat
  b    : Nat
  inv  : Nat
  wl   : Nat
  wv   : Nat
  kr   : Nat
  dlen : Nat
  res  : Nat
  bad  : Bool
  deriving DecidableEq, Repr

/-- A header from its 64 bytes, and whether a field is out of range or a reserved one not zero. -/
def qhead (x : Nat) : QHead :=
  let w : Nat → Nat := fun i => nbits x (8 * i) 32
  { op := nbits x 0 8, fuse := nbits x 8 8, nt := nbits x 16 8, nv := nbits x 32 16, k := nbits x 48 16
    k1 := w 8, b := w 12, inv := w 16, wl := w 20, wv := w 24, kr := w 28, dlen := nbits x 256 64, res := nbits x 320 64
    bad := decide (1 < nbits x 0 8 ∨ 2 < nbits x 8 8 ∨ nbits x 16 8 = 0 ∨ 16 < nbits x 16 8 ∨ nbits x 24 8 ≠ 0 ∨
      4096 < nbits x 32 16 ∨ nbits x 48 16 = 0 ∨ 1024 < nbits x 48 16 ∨ nbits x 448 64 ≠ 0) }

/-- The lexical documents in ascending order (R395): those in every term's list, or in any. -/
def lexical (op : Nat) (posts : List (Nat × List (Nat × Nat))) : List Nat :=
  let all := posts.flatMap fun p => p.2.map Prod.fst
  let asc := (sortAsc (all.eraseDups.map fun d => (d, 0))).map Prod.fst
  if op = 1 then asc else asc.filter fun d => posts.all fun p => p.2.any fun x => x.1 == d

/-- The frequency of a document in a term's list. -/
def freqIn (posts : List (Nat × List (Nat × Nat))) (t d : Nat) : Option Nat :=
  (posts.find? fun p => p.1 == t).bind fun p => (p.2.find? fun x => x.1 == d).map Prod.snd

/-- The lexical score of a document, term by term (R396). -/
def scoreTerms (h : QHead) (omb kp1 q : Nat) (posts : List (Nat × List (Nat × Nat))) (d : Nat) :
    List (TermList × Nat) → Nat → QM Nat
  | [], sum => pure sum
  | (l, t) :: more, sum =>
    match freqIn posts t d with
    | none => scoreTerms h omb kp1 q posts d more sum
    | some tf => do
      let x ← qInt tf
      let den ← qOp .add x (← qOp .mul h.k1 (← qOp .add omb q))
      let sc ← qOp .mul l.idf (← qOp .div (← qOp .mul x kp1) den)
      scoreTerms h omb kp1 q posts d more (← qOp .add sum sc)

/-- The lexical score L of a document (R396). -/
def scoreDoc (query : Query) (h : QHead) (omb kp1 : Nat) (terms : List TermList) (posts : List (Nat × List (Nat × Nat)))
    (d : Nat) : QM (Nat × Nat) := do
  let q ← if h.b % 2 ^ 31 = 0 then pure 0 else do
    let dl ← qRead query (h.dlen + 4 * d) 4
    qOp .mul h.b (← qOp .mul (← qInt dl) h.inv)
  pure (d, ← scoreTerms h omb kp1 q posts d terms.zipIdx 0)

/-- The key of an f32 score (R43). -/
def scoreKey (x : Nat) : Nat := (keyOf .f32 x).getD 0

/-- Documents best first: key descending, docid ascending (R397, R398). -/
def bestFirst (l : List (Nat × Nat)) : List (Nat × Nat) :=
  (sortAsc ((sortAsc l).map fun p => (2 ^ 32 - scoreKey p.2, p.1))).map fun p =>
    (p.2, ((l.find? fun x => x.1 == p.2).map Prod.snd).getD 0)

/-- The 1-based place of a document in a list, where it stands there. -/
def rankIn (l : List (Nat × Nat)) (d : Nat) : Option Nat := (l.map Prod.fst).idxOf? d |>.map (· + 1)

/-- A term of reciprocal-rank fusion (R397). -/
def reciprocal (kr : Nat) : Option Nat → QM Nat
  | none => pure 0
  | some r => do qOp .div f32One (← qOp .add kr (← qInt r))

/-- The fused scores (R397). -/
def fuse (h : QHead) (lex cand : List (Nat × Nat)) : QM (List (Nat × Nat)) := do
  if h.fuse = 0 then pure lex
  else
    let docs := (lex ++ cand).map Prod.fst |>.eraseDups
    let score : List (Nat × Nat) → Nat → Nat := fun l d => ((l.find? fun p => p.1 == d).map Prod.snd).getD 0
    let bl := bestFirst lex
    let bc := bestFirst cand
    docs.mapM fun d => do
      if h.fuse = 1 then pure (d, ← qOp .add (← qOp .mul h.wl (score lex d)) (← qOp .mul h.wv (score cand d)))
      else pure (d, ← qOp .add (← reciprocal h.kr (rankIn bl d)) (← reciprocal h.kr (rankIn bc d)))

/-- The candidates, or code 3 (R393, R394). -/
def candidates (h : QHead) (x : Nat) : QM (List (Nat × Nat)) :=
  if h.fuse = 0 then pure []
  else
    let l := (List.range h.nv).map fun c => (nbits x (64 * c) 32, nbits x (64 * c + 32) 32)
    if (l.any fun p => p.1 == 0xFFFFFFFF) || decide ((l.map Prod.fst).eraseDups.length ≠ l.length) then qFail 3 0xFF
    else pure l

/-- The header of a query record: read whole. -/
def readHead (q : Query) : QM QHead := do
  let x ← qRead q q.addr.toNat 64
  pure (qhead x)

/-- Evaluating a query whose header is read, in the order of R394: the results, best first. -/
def evalQuery (q : Query) (h : QHead) : QM (List Nat) := do
  if h.bad then qFail 1 0xFF
  else
    let a := q.addr.toNat + 64
    let tr ← qRead q a (16 * h.nt)
    if (List.range h.nt).any fun t => decide (nbits tr (128 * t + 96) 32 ≠ 0) then qFail 1 0xFF
    else
      let cv ← qReadSome q (a + 16 * h.nt) (8 * h.nv)
      let cand ← candidates h cv
      let terms ← (List.range h.nt).mapM fun t => readTerm q t (nbits tr (128 * t) 64) (nbits tr (128 * t + 64) 32)
      let posts ← readPosts q h.op terms (termOrder terms) []
      let lex := lexical h.op posts
      if h.fuse = 2 ∧ 65536 < lex.length then qFail 4 0xFF
      else
        let omb ← qOp .sub f32One h.b
        let kp1 ← qOp .add h.k1 f32One
        let scored ← lex.mapM fun d => scoreDoc q h omb kp1 terms posts d
        let f ← fuse h scored cand
        pure (((bestFirst f).take h.k).map fun p => scoreKey p.2 * 2 ^ 32 + p.1)

/-- What a query comes to: K and RES where the header was read with K in range, the flags, and its results or what
ended it. -/
structure QOut where
  k     : Nat
  res   : Nat
  flags : Flags
  out   : Except QErr (List Nat)

/-- Running the evaluation (R394, R398). -/
def runQuery (q : Query) (s : State) : State × QOut :=
  match (readHead q).run (s, 0) with
  | (.error e, p) => (p.1, { k := q.k, res := q.res, flags := p.2, out := .error e })
  | (.ok h, p) =>
    let ok := decide (h.k ≠ 0 ∧ h.k ≤ 1024)
    match (evalQuery q h).run p with
    | (r, p2) => (p2.1, { k := if ok then h.k else 0, res := h.res, flags := p2.2, out := r })

/-- The K results and the empty elements after them (R398). -/
def resSlots (k : Nat) (l : List Nat) : List Byte := (l ++ List.replicate (k - l.length) kxEmpty).flatMap (leBytes 8)

/-- QSTAT (R394). -/
def qstatWord (fl : Flags) (term cnt code : Nat) : Word :=
  wd (2 ^ 63 + fl.toNat % 32 * 2 ^ 40 + term * 2 ^ 32 + cnt * 2 ^ 16 + code)

/-- Steps 1 and 2 of R399: RES, then QSTAT; and what stopped them. -/
def writeQuery (q : Query) (k res : Nat) (l : List Nat) (w : Word) (s : State) : State × Option Stop :=
  match (if k = 0 then (s, none) else vwrite (queryWho s q) res (resSlots k l) s) with
  | (s1, some t) => (s1, some t)
  | (s1, none) => vwrite (queryWho s1 q) (q.addr + 48).toNat (bytesOf 8 w) s1

/-- A query leaves the engine; its bit is set (R399). -/
def leaveEngine (q : Query) (s : State) : State :=
  let s1 := s.modHart q.hart fun x => { x with mreg := x.mreg.set! q.lm (setBit (x.mreg[q.lm]!) q.bit true) }
  { s1 with queries := s1.queries.filter fun x => x.id != q.id }

/-- What a RUNNING query comes to, with its writes: the fault that stopped it, if one did. -/
def attemptQuery (q : Query) (s : State) : State × QOut × Option Stop :=
  let (s1, o) := runQuery q s
  match o.out with
  | .error (.stop t) => (s1, o, some t)
  | .error (.code c t) =>
    let r := writeQuery q o.k o.res [] (qstatWord o.flags t 0 c) s1
    (r.1, o, r.2)
  | .ok l =>
    let r := writeQuery q o.k o.res l (qstatWord o.flags 0xFF l.length 0) s1
    (r.1, o, r.2)

/-! ## Events -/

/-- `QUERY_START` (R400): the engine takes a queued query of a context that is not switched out. -/
def execQueryStart (i : Nat) (s : State) : Host.Outcome State Fault Refusal :=
  .next (match s.query? i with
    | some q => if q.st = .queued ∧ enginesWork s q.asid = true then s.setQuery { q with st := .running } else s
    | none => s)

/-- `QUERY_END` (R399): a running query that meets no fault of R400 ends. -/
def execQueryEnd (i : Nat) (s : State) : Host.Outcome State Fault Refusal :=
  .next (match s.query? i with
    | none => s
    | some q =>
      if q.st ≠ .running ∨ enginesWork s q.asid = false then s
      else match attemptQuery q s with
        | (s1, _, none) => leaveEngine q s1
        | (_, _, some _) => s)

/-- `QUERY_FAULT` (R400): a running query meets PAGE, PROT or BOLT; it is HELD, and the hart latches the cause. -/
def execQueryFault (i : Nat) (s : State) : Host.Outcome State Fault Refusal :=
  .next (match s.query? i with
    | none => s
    | some q =>
      if q.st ≠ .running ∨ enginesWork s q.asid = false then s
      else match attemptQuery q s with
        | (s1, o, some (.trap t)) =>
          addLatch q.hart { lm := q.lm, cause := t.code, tval := t.tval, work := .query q.id, delivered := false }
            (s1.setQuery { q with st := .held, k := o.k, res := o.res })
        | _ => s)

/-- A HELD query starts again after the `TRET` from its latched trap (R400). -/
def resumeQuery (i : Nat) (s : State) : State :=
  match s.query? i with
  | some q => if q.st = .held then s.setQuery { q with st := .queued } else s
  | none => s

/-- `KEXIT` ends a QUEUED or HELD query with code 7 (R202, R400): RES as far as it can be written, then QSTAT, then the bit;
writes that a MIGRATING page holds are waited for (R374): `none`. -/
def abandonQuery (q : Query) (s : State) : Option State :=
  match (if q.k = 0 then (s, none) else vwrite (queryWho s q) q.res (resSlots q.k []) s) with
  | (_, some .stall) => none
  | (s1, _) => match vwrite (queryWho s1 q) (q.addr + 48).toNat (bytesOf 8 (qstatWord 0 0xFF 0 7)) s1 with
    | (_, some .stall) => none
    | (s2, _) => some (leaveEngine q s2)

/-! ## Instructions -/

/-- `PQRY` (R402). -/
def execPqry (f : FmtC) (s : State) : Host.Outcome State Fault Refusal :=
  let a := s.sr f.sa
  let cl := clusterOf s.myCore
  .next (
    if a.toNat % 64 ≠ 0 then takeTrap (Trap.vector .align a) s
    else
      match releaseGate s.cur s with
      | .error (.trap t) => takeTrap { t with vec := true } s
      | .error .stall => s
      | .ok s0 =>
        match readSpace (vecWho s0 s0.cur) s0.cur 0 a 64 1 0 s0 with
        | (s1, .error t) => stopAt t s1
        | (s1, .ok d) =>
          let res := nbits (leNat d) 320 64
          if res % 8 ≠ 0 then takeTrap (Trap.vector .align (wd res)) s1
          else
            let used := (s1.queries.filter fun q => q.cluster = cl).map fun q => q.qid
            let free := (List.range 32).filter fun i => !(used.contains i)
            if free = [] then retire (s1.setSr f.sd ones)
            else
              let qid := free.getD (Config.queryId s1.fresh % free.length) 0
              let q : Query :=
                { id := s1.nextId, cluster := cl, qid := qid, hart := s1.cur, asid := s1.asidOf s1.cur
                  serial := s1.serialOf s1.cur, addr := a, lm := f.lm.toNat, bit := f.imm.toNat % 2 ^ 14, st := .queued
                  k := 0, res := 0, sup := decide (s1.me.level = .s) }
              let s2 := { s1.bump with queries := s1.queries ++ [q], nextId := s1.nextId + 1 }
              retire (s2.setSr f.sd (wd qid)))

/-- `PSTAT` (R403). How far a query has come is timing (R65). -/
def execPstat (f : FmtC) (s : State) : Host.Outcome State Fault Refusal :=
  let found := s.queries.find? fun q =>
    decide (q.cluster = clusterOf s.myCore ∧ wd q.qid = s.sr f.sa ∧ q.asid = s.asidOf s.cur)
  .next (match found with
    | none => retire (s.setSr f.sd 0)
    | some q =>
      let c := match q.st with
        | .queued => 1
        | .running => 2
        | .held => 3
      let n := if q.st = .queued then 0 else Config.docidsDone s.fresh % 2 ^ 48
      retire (s.bump.setSr f.sd (wd (c * 2 ^ 61 + n))))

end Sys2Proof.Machine
end

