-- ==== Sys2Proof/Machine/Barrier.lean ====
section
/-!
DEFINITION. `BAR` and `BINIT` (R355 to R358) and the release of waiters at a lost device (R354).
-/
namespace Sys2Proof.Machine

open Sys2Proof

/-- `BAR` completes with a value in SD. -/
def barDone (sd : BitVec 6) (v : Word) (s : State) : State := retire (endWait (s.setSr sd v))

/-- The checks of a record's address and place (R355): SCOPE 5 is `system`; only there may it lie in a peer's memory. -/
def barrierPlace (a : Word) (scope : BitVec 3) (s : State) : State × Except Stop Place :=
  if a.toNat % 64 ≠ 0 then (s, .error (.trap (Trap.scalar .align a)))
  else
    match linePlace (hartWho s s.cur) a.toNat 64 s with
    | (s1, .error (.trap t)) => (s1, .error (.trap t.asScalar))
    | (s1, .error .stall) => (s1, .error .stall)
    | (s1, .ok p) =>
      match p.loc with
      | .peer _ _ => if scope = 5 then (s1, .ok p) else (s1, .error (.trap (Trap.scalar .prot a)))
      | _ => (s1, .ok p)

/-- A forced save that a `BAR` held up at level U goes on (R231, R356). -/
def saveIfDue (h : Nat) (s : State) : State :=
  if (s.hart h).saveDue ∧ (s.hart h).level = .u then
    match s.groupOf h with
    | some (g, _) => finishSave g (forceHart h s)
    | none => s
  else s

/-- A hart that has arrived looks at its barrier again (R355, R356). -/
def barRecheck (f : FmtY) (latch : Bool) (gen : BitVec 32) (s : State) : State :=
  if s.me.saveDue ∧ s.me.level = .u then saveIfDue s.cur s
  else if latch then
    match s.myGroup with
    | none => s
    | some (_, x) => if x.lgen = gen then waitAt (.bar f latch gen) s else barDone f.sd (recAnswer gen.toNat (2 * 2 ^ 96)) s
  else
    match recordPlace (hartWho s s.cur) (s.sr f.sa).toNat 64 s with
    | (s1, .error (.trap t)) => takeTrap t (endWait s1)
    | (_, .error .stall) => s
    | (s1, .ok p) =>
      let x := recordGet p s1
      if recGen x = gen.toNat then waitAt (.bar f latch gen) s1 else barDone f.sd (recAnswer gen.toNat x) s1

/-- An arrival at the latch (R352, R353, R355). -/
def arriveLatch (f : FmtY) (s : State) : State :=
  match s.myGroup with
  | none => s
  | some (g, x) =>
    let y := latchArrive (latchTarget s x) x
    let s1 := s.setGroup g y
    if y.lgen = x.lgen then waitAt (.bar f true x.lgen) s1 else barDone f.sd (recAnswer x.lgen.toNat (2 * 2 ^ 96)) s1

/-- An arrival at a record (R353, R355): indivisible at the slice. -/
def arriveRecord (f : FmtY) (p : Place) (s : State) : State :=
  let x := recordGet p s
  if recState x = 3 then barDone f.sd (recAnswer (recGen x + 2 ^ 32 - 1) x) s
  else
    let y := recArrive x
    match recordUpdate p x y s with
    | .error t => stopAt t s
    | .ok s1 =>
      if recGen y = recGen x then waitAt (.bar f false (BitVec.ofNat 32 (recGen x))) s1
      else barDone f.sd (recAnswer (recGen x) y) s1

/-- `BAR` (R355): the checks; every earlier access performs at SCOPE; the arrival; the wait. A hart that has arrived only
looks again. -/
def execBar (f : FmtY) (s : State) : Host.Outcome State Fault Refusal :=
  .next (match s.me.wait with
    | some (.bar _ latch gen) => barRecheck f latch gen s
    | _ =>
      if f.sa = 0 then
        match releaseGate s.cur s with
        | .error t => stopAt t s
        | .ok s1 => arriveLatch f s1
      else
        match barrierPlace (s.sr f.sa) f.scope s with
        | (s1, .error t) => stopAt t s1
        | (s1, .ok p) =>
          match releaseGate s1.cur s1 with
          | .error t => stopAt t s1
          | .ok s2 => arriveRecord f p s2)

/-- `BARRIER_RECHECK` (R355): a hart that waits in `BAR` reads its barrier again. -/
def execBarrierRecheck (h : Nat) (s : State) : Host.Outcome State Fault Refusal :=
  .next (match (s.hart h).wait with
    | some (.bar f latch gen) => barRecheck f latch gen { s with cur := h }
    | _ => s)

/-- `BINIT.SET` (R353, R358). -/
def execBinitSet (f : FmtY) (s : State) : Host.Outcome State Fault Refusal :=
  .next (match barrierPlace (s.sr f.sa) f.scope s with
    | (s1, .error t) => stopAt t s1
    | (s1, .ok p) =>
      match releaseGate s1.cur s1 with
      | .error t => stopAt t s1
      | .ok s2 =>
        let x := recordGet p s2
        if recState x = 1 ∧ 0 < recCount x then retire (s2.setSr f.sd ones)
        else match recordWrite p (recSet ((s2.sr f.sb).toNat % 2 ^ 32) x) s2 with
          | .error t => stopAt t s2
          | .ok s3 => retire (s3.setSr f.sd (wd (recGen x))))

/-- `BINIT.FAULT` (R353, R358): FCAUSE 0 is stored as BRK; after the checks of `BAR`, a nonzero bit of SR[SB] above it traps
ILLEGAL. -/
def execBinitFault (f : FmtY) (s : State) : Host.Outcome State Fault Refusal :=
  let v := (s.sr f.sb).toNat
  .next (
      match barrierPlace (s.sr f.sa) f.scope s with
      | (s1, .error t) => stopAt t s1
      | (s1, .ok p) =>
        if 64 ≤ v then takeTrap (Trap.scalar .illegal (wordOf (.binitFault f))) s1
        else match releaseGate s1.cur s1 with
        | .error t => stopAt t s1
        | .ok s2 =>
          let x := recordGet p s2
          if recState x = 3 then retire (s2.setSr f.sd ones)
          else
            let y := recFault (if v = 0 then 0x11 else v) (hartIdOf s2.cur) (devNo s2) x
            match recordUpdate p x y s2 with
            | .error t => stopAt t s2
            | .ok s3 => retire (s3.setSr f.sd (wd (recGen y))))

/-- A hart waits at a record in the memory of a device (R354, R420). -/
def waitsAtDevice (d h : Nat) (s : State) : Bool :=
  match (s.hart h).wait with
  | some (.bar f false _) =>
    let a := ((s.hart h).get f.sa).toNat
    match (leafOf (hartWho s h) .both a s).2 with
    | .ok l => !(l.leaf.getLsbD 12) && inPeer (l.pa a) && decide ((peerOf (l.pa a)).1 = d)
    | .error _ => false
  | _ => false

/-- The waiters at a lost device's records are released as by a fault arrival with FCAUSE COLLECTIVE (R354). -/
def releaseLost (d : Nat) (s : State) : State :=
  (s.harts.map Prod.fst).foldl (fun s h =>
    if waitsAtDevice d h s then
      match (s.hart h).wait with
      | some (.bar f _ gen) =>
        let was := s.cur
        let s1 := barDone f.sd (recAnswer gen.toNat (3 * 2 ^ 96 + 0x17 * 2 ^ 104)) { s with cur := h }
        saveIfDue h { s1 with cur := was }
      | _ => s
    else s) s

end Sys2Proof.Machine
end

