-- ==== Sys2Proof/Machine/ScalarMem.lean ====
section
/-!
DEFINITION. Scalar loads, stores, atomics and fences: R98 to R103, with the accepted vector stores of R107 and the
releases and acquires of R339, R344, R345.
-/
namespace Sys2Proof.Machine

open Sys2Proof

/-- The first address of the scalar data window (R99). -/
def windowBase : Nat := 0x007F_FFFF_FFFF_C000

/-- An address in the scalar data window (R99). -/
def inWindow (ea : Nat) : Bool := decide (windowBase ≤ ea ∧ ea < windowBase + 0x4000)

/-- The access size of an SZ code (R72): b, h, w, d, bs, hs, ws. -/
def szBytes (sz : BitVec 3) : Nat := 2 ^ (sz.toNat % 4)

/-- The loaded value under an SZ code: sign-extended for bs, hs and ws (R100). -/
def extendSz (sz : BitVec 3) (x : Nat) : Word := if 4 ≤ sz.toNat then wi (signed (8 * szBytes sz) x) else wd x

/-- The checks of R98 that come before translation. -/
def eaCheck (ea : Word) (n : Nat) : Option Trap :=
  if 2 ^ 55 ≤ ea.toNat then some (Trap.scalar .page ea)
  else if ea.toNat % n ≠ 0 then some (Trap.scalar .align ea)
  else none

/-- WATCH at level U comes before the access performs (R237), here before every check of R98, an order no rule gives
(DESIGN CHOICE, notes/assumptions/49.md). -/
def watchCheck (s : State) (ea : Word) (n : Nat) (ld st : Bool) : Option Trap :=
  if watchHit s.me ea.toNat n ld st then some (Trap.scalar .watch ea) else none

/-- A stop of a scalar instruction: its trap carries none of the vector marks (R228). -/
def Stop.asScalar : Stop → Stop
  | .trap t => .trap t.asScalar
  | .stall => .stall

/-- The accepted vector stores that have performed before a scalar access: all of them at a release or an acquire, else
as many as it happens (R107, R339). -/
def beforeScalar (gated : Bool) (s : State) : Except Stop State :=
  if gated then releaseGate s.cur s else .ok (settleSome s.cur s)

/-- A word of the scalar data memory that an access in the window reads is marked poisoned (R98, R99, R150). -/
def windowPoison (ea : Word) (n : Nat) (s : State) : Option Trap :=
  if (s.core s.myCore).marked .sdata (ea.toNat - windowBase) n then
    some (Trap.scalar .poison (wd (ea.toNat / 64 * 64)))
  else none

/-- A scalar load of `n` bytes (R98 to R100). -/
def loadScalar (ea : Word) (n : Nat) (s : State) : State × Except Stop Nat :=
  match watchCheck s ea n true false with
  | some t => (s, .error (.trap t))
  | none =>
    match eaCheck ea n with
    | some t => (s, .error (.trap t))
    | none =>
      if inWindow ea.toNat then
        match windowPoison ea n s with
        | some t => (s, .error (.trap t))
        | none => (s, .ok (leNat (readLoc s (.sdata s.myCore (ea.toNat - windowBase)) n)))
      else vreadNat (hartWho s s.cur) ea.toNat n s

/-- A scalar store (R98 to R100). -/
def storeScalar (ea : Word) (data : List Byte) (s : State) : State × Option Stop :=
  match watchCheck s ea data.length false true with
  | some t => (s, some (.trap t))
  | none =>
    match eaCheck ea data.length with
    | some t => (s, some (.trap t))
    | none =>
      if inWindow ea.toNat then
        (writeLoc (.sdata s.myCore (ea.toNat - windowBase)) Cry.ovune data s, none)
      else
        match vwriteCheck (hartWho s s.cur) ea.toNat data.length s with
        | (s1, .error t) => (s1, some t)
        | (s1, .ok ps) =>
          let l := storesOf ps data
          (noteRemote s.cur false l ea.toNat (countHots (hartWho s s.cur) ps (performAll l s1)), none)

/-- `LD` (R98 to R100); with `acq` the accepted vector stores need not have performed. R106 lets a load perform early;
here every load performs in program order (DEDUCED, notes/assumptions/2.md). -/
def execLd (f : FmtM) (s : State) : Host.Outcome State Fault Refusal :=
  let ea := s.sr f.sa + f.imm.signExtend 64
  .next (match loadScalar ea (szBytes f.sz) (settleSome s.cur s) with
    | (s1, .error t) => stopAt t.asScalar s1
    | (s1, .ok x) => writeSd f.sd (extendSz f.sz x) s1)

/-- `ST` (R98 to R100); with `rel` every earlier access has performed (R339). A release's wait, and its PROT for a remote store
that was dropped (R419), come before WATCH and the checks of R98, as for `AMO`: no rule orders them (DESIGN CHOICE,
notes/assumptions/49.md). -/
def execSt (f : FmtM) (s : State) : Host.Outcome State Fault Refusal :=
  let ea := s.sr f.sa + f.imm.signExtend 64
  .next (match beforeScalar (f.ord = 2) s with
    | .error t => stopAt t s
    | .ok s0 =>
      match storeScalar ea (leBytes (szBytes f.sz) (s.sr f.sd).toNat) s0 with
      | (s1, some t) => stopAt t.asScalar s1
      | (s1, none) => retire s1)

/-- `AMO` (R98, R99, R101, R102, R345). -/
def execAmo (f : FmtM) (s : State) : Host.Outcome State Fault Refusal :=
  let n := szBytes f.sz
  let ea := s.sr f.sa + (BitVec.ofNat 19 f.imm.toNat).signExtend 64
  let v := (s.sr f.sv).toNat % 2 ^ (8 * n)
  let e := (s.sr f.se).toNat % 2 ^ (8 * n)
  let done : Nat → State → State := fun old s => writeSd f.sd (wi (signed (8 * n) old)) s
  .next (match beforeScalar (f.ord = 2 || f.ord = 3) s with
    | .error t => stopAt t s
    | .ok s0 =>
      match (watchCheck s0 ea n true true).or (eaCheck ea n) with
      | some t => takeTrap t s0
      | none =>
        if inWindow ea.toNat then
          let l : Loc := .sdata s0.myCore (ea.toNat - windowBase)
          let old := leNat (readLoc s0 l n)
          match windowPoison ea n s0 with
          | some t => takeTrap t s0
          | none => done old (writeLoc l Cry.ovune (leBytes n (amoFn f.aop.toNat (8 * n) old v e)) s0)
        else
          match vamoAt (hartWho s0 s0.cur) f.aop.toNat ea.toNat n v e s0 with
          | (s1, .error t) => stopAt t.asScalar s1
          | (s1, .ok old) => done old s1)

/-- The remote stores of the earlier class of a `FENCE` kind (R344): 0 `sv`, 1 `vs`, 2 `vv`, 3 `all`. -/
def fenceClass (kind : Nat) (r : Remote) : Bool := kind == 3 || (r.vec != (kind == 0))

/-- `FENCE` (R103, R344): the remote stores of its earlier class are acknowledged (R419); the kinds `vs` and `all`, whose
later class is the scalar one, let every accepted vector store perform. The kinds `sv` and `vv` enter the vector queue, so
that their trap has VEC = 1; `all` stops the scalar unit, and its trap has VEC = 0 (DEDUCED, notes/assumptions/11.md). Other
accesses perform in program order here (DEDUCED, notes/assumptions/2.md). -/
def execFence (f : FmtM) (s : State) : Host.Outcome State Fault Refusal :=
  let kind := f.imm.toNat % 4
  .next (match remoteGate (fenceClass kind) s.cur s with
    | some t => stopAt (if kind % 2 = 0 then t.asVector else t) s
    | none => retire (if kind % 2 = 1 then settleAll s.cur s else s))

end Sys2Proof.Machine
end

