-- ==== Sys2Proof/Machine/Kernel.lean ====
section
/-!
DEFINITION. The launch record and its checks (R193 to R196), kernels and buffer holds (R174, R175, R197), placement
(R198, R199), the transom tree (R200), and `LAUNCH`, `KEXIT` and `CWAIT` (R201 to R203).
-/
namespace Sys2Proof.Machine

open Sys2Proof

/-! ## The launch record -/

/-- The inline declarations of a launch record in use (R193, R194). -/
def inlineDecls (r : Nat) : List Nat := (List.range (nbits r 304 5)).map fun i => nbits r (512 + 16 * i) 16

/-- Codes 1 to 5 of R196, in order. -/
def recordBounds (r : Nat) : Option Nat :=
  if nbits r 192 32 = 0 then some 1
  else if nbits r 232 4 = 0 ∨ nbits r 240 4 < nbits r 232 4 ∨ 8 < nbits r 240 4 then some 2
  else if 128 < nbits r 248 8 then some 3
  else if nbits r 256 16 = 0 then some 4
  else if 16 < nbits r 304 5 ∨ 4096 < nbits r 304 5 + nbits r 384 13 then some 5
  else none

/-- A declaration that code 6 of R196 refuses by itself. -/
def declBad (x : Ctx) (d : Nat) : Bool :=
  decide (nbits d 14 2 = 0 ∨ nbits d 12 2 ≠ 0 ∨ x.nbuf < nbits d 0 12 ∨ (nbits d 0 12 = 0 ∧ nbits d 14 2 ≠ 3))

/-- The reserved fields of a launch record: lowest bit and width (R193). -/
def recordReserved : List (Nat × Nat) :=
  [(768, 256), (397, 115), (309, 11), (299, 5), (282, 6), (244, 4), (236, 4), (226, 6)]

/-- Codes 6 to 9 of R196, in order. -/
def recordRest (x : Ctx) (r : Nat) (decls : List Nat) : Option Nat :=
  let ids := decls.map fun d => nbits d 0 12
  if decls.any (declBad x) ∨ ids.eraseDups.length ≠ ids.length then some 6
  else if nbits r 0 64 % 8 ≠ 0 ∨ nbits r 64 64 % 8 ≠ 0 ∨ nbits r 128 64 % 8 ≠ 0 ∨ nbits r 320 64 % 8 ≠ 0 then some 7
  else if recordReserved.any fun p => nbits r p.1 p.2 ≠ 0 then some 8
  else if decls.any fun d => decide (nbits d 14 2 = 2 ∧ (x.buf (nbits d 0 12)).ver = BitVec.allOnes 32) then some 9
  else none

/-- What the check of a launch record gives: a stop of the extension list's read, a code of R196, or the declarations. -/
inductive RecCheck where
  | stop (t : Stop)
  | bad (k : Nat)
  | good (decls : List (Nat × Nat))
  deriving DecidableEq, Repr

/-- The check of a launch record of a context (R196). The extension list is read for no kernel (R449). -/
def checkRecord (asid cluster r : Nat) (s : State) : State × RecCheck :=
  match recordBounds r with
  | some k => (s, .bad k)
  | none =>
    let finish : State → List Nat → State × RecCheck := fun s l =>
      match recordRest (s.ctx asid) r l with
      | some k => (s, .bad k)
      | none => (s, .good (l.map fun d => (nbits d 14 2, nbits d 0 12)))
    let n := nbits r 384 13
    if n = 0 then finish s (inlineDecls r)
    else
      match vread (ctxWho asid cluster) .load (nbits r 320 64) (2 * n) s with
      | (s1, .error t) => (s1, .stop t)
      | (s1, .ok d) => finish s1 (inlineDecls r ++ groupsOfBytes 2 n d)

/-- The kernel of an accepted record, QUEUED (R197), with its bounds lowered to the quota (R176). -/
def kernelOf (asid r : Nat) (decls : List (Nat × Nat)) (queue : Option Nat) (prio : Nat) (dev : Bool) (x : Ctx) : Kernel :=
  { asid := asid, code := wd (nbits r 0 64), args := wd (nbits r 64 64), ctr := wd (nbits r 128 64)
    ngroups := nbits r 192 32, hpg := nbits r 224 2, lmin := min (nbits r 232 4) x.lq, lmax := min (nbits r 240 4) x.lq
    spad := nbits r 248 8, affinity := BitVec.ofNat 16 (nbits r 256 16), notify := BitVec.ofNat 10 (nbits r 272 10)
    vec := nbits r 288 11, decls := decls, st := .queued, queue := queue, prio := min prio x.prio, devMade := dev
    next := 0, lastCl := none, retired := 0, cores := [], doneCores := [], doneClusters := [], doneDies := []
    finished := false }

/-- The kernel takes the next serial (R197). -/
def addKernel (k : Kernel) (s : State) : State := { s.setKernel s.serial k with serial := s.serial + 1 }

/-! ## Buffer holds -/

/-- A launch conflicts on a declared buffer (R174). -/
def declConflict (x : Ctx) (d : Nat × Nat) : Bool :=
  let b := x.buf d.2
  decide (d.2 ≠ 0) && (if d.1 = 1 then decide (2 ≤ b.hold.toNat ∨ b.readers = BitVec.allOnes 12) else decide (b.hold ≠ 0))

/-- The entry of a buffer once a holder has taken it (R174). -/
def takeHold (mode : Nat) (b : Buf) : Buf :=
  if mode = 1 then { b with hold := 1, readers := b.readers + 1 } else { b with hold := BitVec.ofNat 2 mode }

/-- The entry of a buffer once a holder has left it, by retiring or aborting (R175). -/
def leaveHold (mode : Nat) (b : Buf) : Buf :=
  if mode = 1 then { b with readers := b.readers - 1, hold := if b.readers = 1 then 0 else b.hold }
  else if mode = 2 then { b with ver := b.ver + 1, lc := false, hold := 0 }
  else { b with lc := true, hold := 0 }

/-- The buffer table with a change made for each declaration; buffer 0 takes no hold (R173). -/
def overDecls (f : Nat → Buf → Buf) (decls : List (Nat × Nat)) (x : Ctx) : Ctx :=
  decls.foldl (fun x d => if d.2 = 0 then x else { x with bufs := smPut x.bufs d.2 (f d.1 (x.buf d.2)) }) x

/-- A kernel's declared buffers change in the table of its context, in memory too (R172). -/
def changeHolds (f : Nat → Buf → Buf) (x : Kernel) (s : State) : State :=
  x.decls.foldl (fun s d => if d.2 = 0 then s else storeBuf x.asid d.2 s) (s.modCtx x.asid (overDecls f x.decls))

/-- `KERNEL_DISPATCH` (R174, R197): a QUEUED kernel of a RESIDENT context without a conflict takes its holds. R196 looks at VER
only as the record is read: a WO kernel that waited until VER had become 0xFFFF_FFFF is dispatched, and VER then wraps to 0
(DESIGN CHOICE, notes/assumptions/30.md). -/
def execKernelDispatch (k : Nat) (s : State) : Host.Outcome State Fault Refusal :=
  .next (match s.kernel? k with
    | none => s
    | some x =>
      if x.st = .queued ∧ s.dispatches x.asid = true ∧ (x.decls.any (declConflict (s.ctx x.asid))) = false then
        (changeHolds takeHold x s).setKernel k { x with st := .dispatching }
      else s)

/-! ## The transom tree -/

/-- A level completes: what its NOTIFY code sends (R200, R238). An event is posted for a fault of the counter too. -/
def levelDone (serial : Nat) (x : Kernel) (level unit : Nat) (cause tval : Word) (s : State) : State :=
  let code := fld x.notify (2 * level) 2
  let e := eventRec 2 (b2n (decide (x.st = .aborted))) level 0 unit serial cause tval 0 0 0 s.time
  let s1 := if code % 2 = 1 ∨ cause ≠ 0 then queueEvent x.asid e s else s
  if 2 ≤ code then raiseMsix x.vec s1 else s1

/-- The core, cluster and die nodes that are due complete, children first (R200). -/
def nodesDone (k : Nat) (s : State) : State :=
  match s.kernel? k with
  | none => s
  | some x =>
    if x.st = .queued ∨ x.st = .dispatching then s
    else
      let ab := decide (x.st = .aborted)
      let used := x.cores.map Prod.fst
      let cores := (x.cores.filter fun p => (ab || decide (p.2.1 ≤ p.2.2)) && !(x.doneCores.contains p.1)).map Prod.fst
      let allCores := x.doneCores ++ cores
      let clusters := ((used.map clusterOf).eraseDups).filter fun c =>
        !(x.doneClusters.contains c) && used.all fun n => decide (clusterOf n ≠ c) || allCores.contains n
      let allClusters := x.doneClusters ++ clusters
      let dies := ((used.map dieOf).eraseDups).filter fun d =>
        !(x.doneDies.contains d) && used.all fun n => decide (dieOf n ≠ d) || allClusters.contains (clusterOf n)
      let s1 := s.setKernel k { x with doneCores := allCores, doneClusters := allClusters, doneDies := x.doneDies ++ dies }
      let s2 := cores.foldl (fun s n => levelDone k x 0 n 0 0 s) s1
      let s3 := clusters.foldl (fun s n => levelDone k x 1 n 0 0 s) s2
      dies.foldl (fun s n => levelDone k x 2 n 0 0 s) s3

/-- The device level completes, then the kernel level with the counter (R200, R449): a fault of the counter is posted, a
migration, or a peer that no port reaches, holds both levels. `last` says that nothing can be waited for any more, as in a
TEARDOWN: the counter then counts as out of reach, PROT (DESIGN CHOICE, notes/assumptions/32.md). -/
def finishKernel (last : Bool) (k : Nat) (s : State) : State :=
  match s.kernel? k with
  | none => s
  | some x =>
    let s0 := levelDone k x 3 0 0 0 (s.setKernel k { x with finished := true })
    if x.ctr = 0 then levelDone k x 4 0 0 0 s0
    else
      match vamoAt (ctxWho x.asid (x.lastCl.getD 0)) 0 x.ctr.toNat 8 (2 ^ 64 - 1) 0 s0 with
      | (s1, .ok _) => levelDone k x 4 0 0 0 s1
      | (s1, .error (.trap t)) => levelDone k x 4 0 (wd t.code.toNat) t.tval s1
      | (s1, .error .stall) => if last then levelDone k x 4 0 (wd Cause.prot.code.toNat) x.ctr s1 else s

/-- `KERNEL_RETIRE` (R197, R200): a DRAINING kernel of a RESIDENT context retires and its last levels complete; the last
levels of an ABORTED kernel that a migration held complete. -/
def execKernelRetire (k : Nat) (s : State) : Host.Outcome State Fault Refusal :=
  .next (match s.kernel? k with
    | none => s
    | some x =>
      if (s.ctx x.asid).st ≠ .resident then s
      else if x.st = .draining then
        let s1 := (changeHolds leaveHold x s).setKernel k { x with st := .retired }
        let s2 := finishKernel false k s1
        match s2.kernel? k with
        | some y => if y.finished then s2 else s
        | none => s
      else if x.st = .aborted ∧ x.finished = false then finishKernel false k s
      else s)

/-! ## Placement -/

/-- The hart slots of a core that no placed group holds. -/
def freeSlots (s : State) (core : Nat) : List Nat :=
  [0, 1, 2, 3].filter fun i => !((coreGroups s core).any fun p => p.2.slots.contains i)

/-- The lowest free range of `n` bytes of scratchpad, aligned to 4 KiB (R198). -/
def freeSpad (s : State) (core n : Nat) : Option Nat :=
  if n = 0 then some 0
  else ((List.range 128).map fun i => 4096 * i).find? fun b => decide (b + n ≤ 2 ^ 19) &&
    (coreGroups s core).all fun p => decide (p.2.spadSize = 0 ∨ b + n ≤ p.2.spadBase ∨ p.2.spadBase + p.2.spadSize ≤ b)

/-- The scratchpad offset at which a core can take a group of a kernel, where it meets the three conditions of R198. -/
def coreTakes (s : State) (k : Kernel) (core : Nat) : Option Nat :=
  if k.hpg + 1 ≤ (freeSlots s core).length ∧
      (coreGroups s core).foldl (fun n p => n + p.2.lmin) 0 + k.lmin ≤ 8 then freeSpad s core (4096 * k.spad)
  else none

/-- The clusters in the order in which a kernel's next group is offered to them (R198). -/
def clusterOrder (k : Kernel) : List Nat :=
  let l := setBits k.affinity 16
  match k.lastCl with
  | none => l
  | some c => (l.filter fun x => decide (c < x)) ++ l.filter fun x => decide (x ≤ c)

/-- The lowest free save frame of a context (R177). -/
def freeFrame (s : State) (asid : Nat) : Option Nat :=
  (List.range (s.ctx asid).nframe).find? fun f => s.groups.all fun p => decide (p.2.asid ≠ asid ∨ p.2.frame ≠ f)

/-- The core, scratchpad offset and save frame for a kernel's next group (R198). -/
def placeFor (s : State) (k : Kernel) : Option (Nat × Nat × Nat) :=
  match freeFrame s k.asid with
  | none => none
  | some f =>
    (clusterOrder k).findSome? fun c => (List.range 96).findSome? fun i =>
      (coreTakes s k (96 * c + i)).map fun b => (96 * c + i, b, f)

/-- A hart as placement starts it (R199); the debug registers that the host wrote take effect (R236). -/
def startHart (k : Kernel) (num g i : Nat) (old : Hart) : Hart :=
  let regs := (((Hart.reset.sreg.set! 1 k.args).set! 2 (wd num)).set! 3 (wd k.ngroups)).set! 4 (wd i)
  { Hart.reset with sreg := regs, pc := k.code, group := some g, dbgReg := old.dbgReg, dbg := old.dbgReg }

/-- The next group of a kernel is placed on a core and runs (R198, R199, R204, R215). -/
def placeGroup (serial : Nat) (k : Kernel) (core base frame : Nat) (s : State) : State :=
  let g := s.nextId
  let slots := ((freeSlots s core).rotateLeft (Config.slotOrder s.fresh)).take (k.hpg + 1)
  let x : Group :=
    { serial := serial, asid := k.asid, num := k.next, core := core, slots := slots, quads := 0, next := 0, pre := false
      rcl := false, lmin := k.lmin, lmax := k.lmax, prio := k.prio, spadBase := base, spadSize := 4096 * k.spad
      frame := frame, lstate := .idle, lgen := 0, lcount := 0, bolts := [], st := .running, saveKind := .full
      saveQuads := 0, saveLp := [], saveAcc := none }
  let s1 := ({ s with nextId := g + 1 }.bump).setGroup g x
  let s2 := slots.zipIdx.foldl (fun s p => s.modHart (4 * core + p.1) (startHart k k.next g p.2)) s1
  let n := smGet (0, 0) k.cores core
  let all := decide (k.ngroups ≤ k.next + 1)
  let k' := { k with
    next := k.next + 1, lastCl := some (clusterOf core), cores := smPut k.cores core (n.1 + 1, n.2)
    st := if all then .running else k.st }
  nodesDone serial (s2.setKernel serial k')

/-- The kernel that a dispatcher serves next: DISPATCHING, of a RESIDENT context, with room; highest priority, then lowest
serial (R198). -/
def nextPlacement (s : State) : Option (Nat × Kernel × Nat × Nat × Nat) :=
  s.kernels.foldl (fun b p =>
    if p.2.st ≠ .dispatching ∨ s.dispatches p.2.asid = false then b
    else
      let better := match b with
        | none => true
        | some q => decide (q.2.1.prio < p.2.prio)
      if better then match placeFor s p.2 with
        | some x => some (p.1, p.2, x)
        | none => b
      else b) none

/-- `GROUP_PLACE` (R198, R199). -/
def execGroupPlace (s : State) : Host.Outcome State Fault Refusal :=
  .next (match nextPlacement s with
    | none => s
    | some (serial, k, core, base, frame) => placeGroup serial k core base frame s)

/-! ## The end of groups and kernels -/

/-- A group leaves its core: slots, lanes, the matrix array and scratchpad are free (R202, R215). -/
def dropGroup (g : Nat) (s : State) : State :=
  match s.group? g with
  | none => s
  | some x =>
    let c := s.core x.core
    let s1 := if c.mholder = some g then s.setCore x.core { c with mholder := none, acc := Vector.replicate 2 [] } else s
    let s2 := x.harts.foldl (fun s h => (settleAll h s).modHart h fun y =>
      { y with group := none, binds := [], latches := [], wait := none, matrix := false }) s1
    { s2 with groups := smDel s2.groups g }

/-- The group retires at its last `KEXIT`; its core's count rises, and the last group of the kernel leaves it DRAINING
(R197, R200, R202). -/
def retireGroup (g : Nat) (s : State) : State :=
  match s.group? g with
  | none => s
  | some x =>
    let s1 := dropGroup g s
    match s1.kernel? x.serial with
    | none => s1
    | some k =>
      let n := smGet (0, 0) k.cores x.core
      let k' := { k with
        retired := k.retired + 1, cores := smPut k.cores x.core (n.1, n.2 + 1)
        st := if k.ngroups ≤ k.retired + 1 ∧ (k.st = .running ∨ k.st = .dispatching) then .draining else k.st }
      nodesDone x.serial (s1.setKernel x.serial k')

/-- The engine work of a set of harts is cancelled (R197, R385, R400). -/
def cancelWork (serial : Nat) (harts : List Nat) (s : State) : State :=
  let runs := s.runs.filter fun r => r.serial ≠ serial
  { s with
    copies := s.copies.filter fun c => match c.hart with
      | some (h, _) => !(harts.contains h)
      | none => true
    runs := runs
    chq := s.chq.map fun p => (p.1, p.2.filter fun
      | .run i => runs.any fun r => r.id == i
      | .table _ => true)
    queries := s.queries.filter fun q => q.serial ≠ serial
    calls := s.calls.filter fun c => c.serial ≠ serial }

/-- A kernel becomes ABORTED (R197): its groups stop without a save, its engine work is cancelled, its holds end (R175),
and every level completes with the abort flag. -/
def abortKernel (k : Nat) (s : State) : State :=
  match s.kernel? k with
  | none => s
  | some x =>
    if x.st = .retired ∨ x.st = .aborted then s
    else
      let gs := (s.groups.filter fun p => p.2.serial = k).map Prod.fst
      let harts := gs.flatMap fun g => match s.group? g with
        | some y => y.harts
        | none => []
      let s1 := gs.foldl (fun s g => dropGroup g s) s
      let s2 := cancelWork k harts s1
      let s3 := if x.st = .queued then s2 else changeHolds leaveHold x s2
      finishKernel false k (nodesDone k (s3.setKernel k { x with st := .aborted }))

/-! ## Instructions -/

/-- `LAUNCH` (R201): a release; the record is read and checked; the kernel is QUEUED at the priority of its launcher. -/
def execLaunch (f : FmtY) (s : State) : Host.Outcome State Fault Refusal :=
  let a := s.sr f.sa
  .next (
    if a.toNat % 128 ≠ 0 then takeTrap (Trap.vector .align a) s
    else
      match releaseGate s.cur s with
      | .error (.trap t) => takeTrap { t with vec := true } s
      | .error .stall => s
      | .ok s0 =>
        match readRange (vecWho s0 s0.cur) s0.cur 0 a 128 s0 with
        | (s1, .error t) => stopAt t s1
        | (s1, .ok d) =>
          let asid := s1.asidOf s1.cur
          let r := leNat d
          match checkRecord asid (clusterOf s1.myCore) r s1 with
          | (s2, .stop t) => stopAt t s2
          | (s2, .bad k) => takeTrap (Trap.vector .launch (wd k)) s2
          | (s2, .good decls) =>
            let made := s2.kernels.filter fun p => decide (p.2.asid = asid ∧ p.2.st = .queued) && p.2.devMade
            if 256 ≤ made.length then retire (s2.setSr f.sd ones)
            else
              let prio := ((s2.kernel? (s2.serialOf s2.cur)).map fun k => k.prio).getD 0
              let k := kernelOf asid r decls none prio true (s2.ctx asid)
              retire ((addKernel k s2).setSr f.sd (wd s2.serial)))

/-- Engine work that a `KEXIT` waits for (R202). -/
def exitBusy (s : State) (h : Nat) : Bool :=
  (s.copies.any fun c => !c.stopped && (match c.hart with
    | some (i, _) => i == h
    | none => false))
  || (s.calls.any fun c => decide (c.hart = h ∧ c.serial = s.serialOf h) && c.live)
  || (s.runs.any fun r => decide (r.hart = h ∧ (r.st = .queued ∨ r.st = .running ∨ r.st = .ending ∨ r.st = .replaying)))
  || (s.queries.any fun q => decide (q.hart = h ∧ q.st = .running))

/-- What a `KEXIT` ends itself (R202): HELD and PITTED runs, QUEUED and HELD queries; `none` where a write of one has to
wait. -/
def exitEnds (h : Nat) (s : State) : Option State :=
  let s1 := (s.runs.filter fun r => decide (r.hart = h ∧ (r.st = .held ∨ r.st = .pitted))).foldl
    (fun (s : Option State) r => s.bind (abandonRun r)) (some s)
  (s.queries.filter fun q => decide (q.hart = h ∧ (q.st = .queued ∨ q.st = .held))).foldl
    (fun (s : Option State) q => s.bind (abandonQuery q)) s1

/-- The hart stops (R202): its bindings are released, the matrix array given up, the S bank discarded. -/
def stopHart (h : Nat) (s : State) : State :=
  let s1 := (s.hart h).binds.foldl (fun s b => release h b s) (settleAll h s)
  let s2 := { s1 with
    copies := s1.copies.filter fun c => match c.hart with
      | some (i, _) => i != h
      | none => true
    calls := s1.calls.map fun (c : Call) => if c.hart = h then { c with named := false } else c }
  s2.modHart h fun x =>
    { x with exited := true, wait := none, level := .u, sbank := Vector.replicate 8 0, matrix := false, saveDue := false
             latches := [], unacked := [], dropped := [] }

/-- What the stop of its hart does to a group that has harts left (R210, R213, R215, R231, R352). -/
def afterExit (g : Nat) (s : State) : State :=
  match s.group? g with
  | none => s
  | some x =>
    let y := latchLower (latchTarget s x) x
    let y := if y.st = .running ∧ allWait s y = true then { y with st := .waiting } else y
    meetPreempt g (finishSave g (s.setGroup g y))

/-- The hart stops, and what follows for its group and kernel (R197, R202): at once, also where a hart still at level S
executes it in a FAULTED context, of which R197 says that kernels keep their state (DESIGN CHOICE,
notes/assumptions/30.md). -/
def leaveGroup (abort : Bool) (s : State) : State :=
  match s.myGroup with
  | none => s
  | some (g, x) =>
    let s1 := giveUpArray (stopHart s.cur s)
    let running := match s1.kernel? x.serial with
      | some k => decide (k.st = .dispatching ∨ k.st = .running)
      | none => false
    if abort && running then abortKernel x.serial s1
    else if x.harts.all fun h => (s1.hart h).exited then retireGroup g s1
    else afterExit g s1

/-- `KEXIT` and `KEXIT.ABORT` (R202): once the hart's engine work has ended it is a release, which a dropped remote store
makes trap (R343, R419). -/
def exitHart (abort : Bool) (s : State) : State :=
  match exitEnds s.cur s with
  | none => s
  | some s1 =>
    if exitBusy s1 s1.cur then s1
    else
      match releaseGate s1.cur s1 with
      | .error t => stopAt t s1
      | .ok s2 => leaveGroup abort s2

/-- `KEXIT` (R202). -/
def execKexit (_f : FmtY) (s : State) : Host.Outcome State Fault Refusal := .next (exitHart false s)

/-- `KEXIT.ABORT` (R202). -/
def execKexitAbort (_f : FmtY) (s : State) : Host.Outcome State Fault Refusal := .next (exitHart true s)

/-- The comparison of `CWAIT` (R203): 0 geu, 1 leu, 2 eq. -/
def cwaitHolds (cnd : Nat) (v b : Word) : Bool :=
  match cnd with
  | 0 => decide (b.toNat ≤ v.toNat)
  | 1 => decide (v.toNat ≤ b.toNat)
  | _ => decide (v = b)

/-- `CWAIT` (R203): the counter is read as a scalar load reads it, every trap at its address; the instruction completes or
waits. -/
def execCwait (f : FmtY) (s0 : State) : Host.Outcome State Fault Refusal :=
  let s := settleSome s0.cur s0
  let a := s.sr f.sa
  .next (
    match watchCheck s a 8 true false with
    | some t => takeTrap t (endWait s)
    | none =>
    if a.toNat % 8 ≠ 0 then takeTrap (Trap.scalar .align a) s
    else
      match loadScalar a 8 s with
      | (s1, .error (.trap t)) => takeTrap { t.asScalar with tval := a } (endWait s1)
      | (_, .error .stall) => s
      | (s1, .ok x) =>
        let v := wd x
        if cwaitHolds (f.imm.toNat % 4) v (s1.sr f.sb) then retire (endWait (s1.setSr f.sd v)) else waitAt (.cwait f) s1)

/-- `CWAIT_RECHECK` (R203): a hart that waits in `CWAIT` reads its counter again. -/
def execCwaitRecheck (h : Nat) (s : State) : Host.Outcome State Fault Refusal :=
  match (s.hart h).wait with
  | some (.cwait f) => execCwait f { s with cur := h }
  | _ => .next s

end Sys2Proof.Machine
end

