-- ==== Sys2Proof/Machine/Queue.lean ====
section
/-!
DEFINITION. Queues: the queue table and its commands (R180, R181), tail and progress (R182, R183), entries (R184, R185),
states, errors and scheduling (R186 to R189), `QPOST` and `QPOLL` (R190, R191).
-/
namespace Sys2Proof.Machine

open Sys2Proof

/-- An attached queue. -/
def State.queue? (s : State) (q : Nat) : Option Queue := smGet? s.queues q
/-- The state with a queue replaced. -/
def State.setQueue (s : State) (q : Nat) (x : Queue) : State := { s with queues := smPut s.queues q x }

/-- A queue record with the hardware fields of a queue, its reserved fields zero (R7, R180). -/
def Queue.inRecord (x : Queue) (r : Nat) : Nat :=
  let r1 := setFld (setFld (setFld r 384 64 x.tails.toNat) 320 64 x.progs.toNat) 112 16 x.cqhead
  setFld (setFld (setFld (setFld (setFld (setFld r1 96 16 x.sqhead) 68 1 (b2n x.phase)) 64 4 0) 40 8 x.err) 37 3 x.state) 1 31 0

/-- The hardware fields of the record of a queue are stored in the table in memory (R180). -/
def syncRecord (q : Nat) (s : State) : State :=
  match s.queue? q with
  | none => s
  | some x =>
    let a := s.regs.qtab.toNat + 64 * q
    if !(inHbm a || inLp a) then s
    else ovuneLine a (leBytes 64 (x.inRecord (leNat (readLoc s (.dev a) 64)))) s

/-- The state with a queue changed, in its record too (R180). -/
def State.putQueue (s : State) (q : Nat) (x : Queue) : State := syncRecord q (s.setQueue q x)

/-! ## Tail, progress and residence -/

/-- TAIL as a read of the register gives it (R182, R183). -/
def Queue.tailNow (x : Queue) : Word := if x.state = 4 then x.latch.getD x.tails else x.tail
/-- PROGRESS as a read of the register gives it: PROGS with STALE while switched out (R182, R183). -/
def Queue.progNow (x : Queue) : Word := if x.state = 4 then x.progs ||| wd (2 ^ 63) else x.prog

/-- EMPTY or READY by the counts; a drive queue's entries are the drive's, and it stays EMPTY. -/
def Queue.idleState (x : Queue) : Nat := if x.kind ≠ 2 ∧ x.prog.toNat < x.tail.toNat then 1 else 0

/-- An error of R187 in a resident state: the queue is in ERROR and its event is posted (R186, R238). A COPY that faults while
its queue is SWITCHED_OUT, a state that R186 does not name, leaves no error, then or later (DESIGN CHOICE,
notes/assumptions/31.md). -/
def queueError (q err : Nat) (s : State) : State :=
  match s.queue? q with
  | none => s
  | some x =>
    if x.state = 4 then s
    else queueEvent x.asid (eventRec 3 0 0 err 0 0 0 0 0 0 (wd q) s.time) (s.putQueue q { x with state := 5, err := err })

/-- A tail write to a resident queue (R182, R186). In ERROR, for which R186 lists none, it still moves TAIL, or sets ERR 1 again
and posts another event (DESIGN CHOICE, notes/assumptions/31.md). -/
def applyTail (q : Nat) (t : Word) (s : State) : State :=
  match s.queue? q with
  | none => s
  | some x =>
    if x.prog.toNat ≤ t.toNat ∧ t.toNat ≤ x.prog.toNat + x.depth ∧ x.tail.toNat ≤ t.toNat then
      let y := { x with tail := t }
      s.putQueue q (if x.state = 0 then { y with state := y.idleState } else y)
    else queueError q 1 s

/-- A resident queue is switched out (R186). -/
def switchQueueOut (q : Nat) (s : State) : State :=
  match s.queue? q with
  | none => s
  | some x =>
    if x.state = 0 ∨ x.state = 1 ∨ x.state = 3 then
      s.putQueue q { x with state := 4, was := x.state, tails := x.tail, progs := x.prog, latch := none }
    else s

/-- A queue is switched in: its saved state, re-evaluated, a BLOCKED one by trying its wait again
(`COUNTER_WAIT_RECHECK`); then the latched tail is applied (R183, R186). -/
def switchQueueIn (q : Nat) (s : State) : State :=
  match s.queue? q with
  | none => s
  | some x =>
    if x.state ≠ 4 then s
    else
      let y := { x with tail := x.tails, prog := x.progs, latch := none, cand := false }
      let s1 := s.putQueue q { y with state := if x.was = 3 then 3 else y.idleState }
      match x.latch with
      | some t => applyTail q t s1
      | none => s1

/-- The queues that are resident (R188). -/
def residentQueues (s : State) : List (Nat × Queue) := s.queues.filter fun p => p.2.state ≠ 4

/-- The queue that makes room: the EMPTY one, else the BLOCKED one, that has gone longest without being taken (R188). -/
def victim (s : State) : Option Nat :=
  let oldest : Nat → Option (Nat × Queue) := fun st => s.queues.foldl (fun b p =>
    if p.2.state ≠ st then b
    else match b with
      | none => some p
      | some o => if p.2.taken < o.2.taken then some p else b) none
  match oldest 0 with
  | some p => some p.1
  | none => (oldest 3).map Prod.fst

/-- Room for one more resident queue, by an eviction where 1024 are resident; none where no queue can leave (R188). -/
def makeRoom (s : State) : Option State :=
  if (residentQueues s).length < 1024 then some s else (victim s).map fun q => switchQueueOut q s

/-! ## QCMD -/

/-- A command of QCMD completes with a STATUS; the management vector is raised (R181, R438). -/
def qcmdDone (op q status : Nat) (s : State) : State :=
  raiseMsix 0 { s with regs := { s.regs with
    qGo := false, qOp := BitVec.ofNat 3 op, qQueue := BitVec.ofNat 16 q, qStatus := BitVec.ofNat 8 status } }

/-- The record of a queue in the table, read under Ovune's own key (R180, R437); one that cannot be read is no record. -/
def queueRecord (q : Nat) (s : State) : Option Nat :=
  let a := s.regs.qtab.toNat + 64 * q
  if (inHbm a || inLp a) && (lineFault s Cry.ovune a).isNone then some (leNat (readLoc s (.dev a) 64)) else none

/-- The queue of a record, resident and EMPTY (R180, R181). -/
def queueOf (r : Nat) : Queue :=
  { asid := nbits r 69 11, ring := wd (nbits r 448 64), depth := nbits r 48 16 + 1, prio := nbits r 34 3
    kind := nbits r 32 2, sqdb := wd (nbits r 256 64), cq := wd (nbits r 192 64), cqdb := wd (nbits r 128 64)
    cqdm1 := nbits r 80 16, tail := 0, prog := 0, tails := 0, progs := 0, latch := none, state := 0, was := 0, err := 0
    cqhead := 0, sqhead := 0, phase := true, boost := 0, taken := 0, cand := false, kernels := [], copies := [] }

/-- A queue of the context is resident: a CREATED context becomes RESIDENT (R169). -/
def queueResident (asid : Nat) (s : State) : State :=
  if (s.ctx asid).st = .created then s.modCtx asid fun x => { x with st := .resident } else s

/-- The queue of an accepted record is attached: resident where there is room, else SWITCHED_OUT (R181). R188 does not say how
long a queue has gone that was never taken: it counts from its ATTACH, and of equals the lowest number comes first (DESIGN
CHOICE, notes/assumptions/31.md). -/
def attachQueue (q : Nat) (x : Queue) (s : State) : State :=
  let out := s.putQueue q { x with state := 4 }
  if (s.ctx x.asid).st = .created ∨ (s.ctx x.asid).st = .resident then
    match makeRoom s with
    | some s1 => queueResident x.asid (s1.putQueue q { x with taken := s1.qturn })
    | none => out
  else out

/-- `ATTACH` (R181). -/
def execAttach (q : Nat) (s : State) : Host.Outcome State Fault Refusal :=
  .next (
    if (s.queue? q).isSome ∨ 65536 ≤ q then qcmdDone 1 q 2 s
    else match queueRecord q s with
      | none => qcmdDone 1 q 1 s
      | some r =>
        let st := (s.ctx (nbits r 69 11)).st
        if nbits r 0 1 = 0 ∨ nbits r 32 2 = 3 ∨ nbits r 64 4 ≠ 0 ∨ nbits r 1 31 ≠ 0 then qcmdDone 1 q 1 s
        else if st = .absent ∨ st = .tornDown then qcmdDone 1 q 4 s
        else qcmdDone 1 q 0 (attachQueue q (queueOf r) s))

/-- `DETACH` (R181). -/
def execDetach (q : Nat) (s : State) : Host.Outcome State Fault Refusal :=
  .next (match s.queue? q with
    | none => qcmdDone 2 q 2 s
    | some x =>
      if x.state = 0 ∨ x.state = 4 ∨ x.state = 5 then qcmdDone 2 q 0 { s with queues := smDel s.queues q }
      else qcmdDone 2 q 2 s)

/-- `RESET` (R181, R186). -/
def execReset (q : Nat) (s : State) : Host.Outcome State Fault Refusal :=
  .next (match s.queue? q with
    | none => qcmdDone 3 q 2 s
    | some x =>
      if x.state = 5 then
        qcmdDone 3 q 0 (s.putQueue q { x with state := 0, prog := x.tail, latch := none })
      else qcmdDone 3 q 2 s)

/-- `QCMD_BAD_OP` (R181): an OP that is no command. -/
def execQcmdBadOp (op q : Nat) (s : State) : Host.Outcome State Fault Refusal :=
  .next (if op = 1 ∨ op = 2 ∨ op = 3 then s else qcmdDone op q 3 s)

/-! ## The doorbell and residence events -/

/-- A queue that has been written while switched out is a candidate for switch-in (R181, R188). -/
def noteCandidate (q : Nat) (s : State) : State :=
  match s.queue? q with
  | none => s
  | some x => if x.state = 4 then s.setQueue q { x with cand := true } else s

/-- `TAIL` (R182, R183): a host write to the TAIL of a host command queue. -/
def execTail (q : Nat) (v : Word) (s : State) : Host.Outcome State Fault Refusal :=
  .next (match s.queue? q with
    | none => s
    | some x =>
      if x.kind ≠ 0 then s
      else if x.state = 4 then noteCandidate q (s.setQueue q { x with latch := some v })
      else applyTail q v s)

/-- `QUEUE_SWITCH_IN` (R181, R188): a candidate of a RESIDENT context, or of a CREATED one that this makes RESIDENT, becomes
resident. -/
def execQueueSwitchIn (q : Nat) (s : State) : Host.Outcome State Fault Refusal :=
  .next (match s.queue? q with
    | none => s
    | some x =>
      if x.cand ∧ x.state = 4 ∧ (s.dispatches x.asid = true ∨ (s.ctx x.asid).st = .created) then
        match makeRoom s with
        | some s1 => queueResident x.asid (switchQueueIn q s1)
        | none => s
      else s)

/-- `QUEUE_AGING` (R189): a READY queue that has waited 10 ms gains a level, up to the ceiling. -/
def execQueueAging (q : Nat) (s : State) : Host.Outcome State Fault Refusal :=
  .next (match s.queue? q with
    | none => s
    | some x =>
      if x.state = 1 ∧ x.prio + x.boost < (s.ctx x.asid).prio then s.setQueue q { x with boost := x.boost + 1 } else s)

/-! ## Taking entries -/

/-- The agent of a queue's own accesses (R449). -/
def queueWho (q : Nat) (x : Queue) : Who := ctxWho x.asid (q % 16)

/-- An entry breaks R184 in TYPE, FLAGS or a reserved byte (ERR 2). -/
def entryBad (e : Nat) : Bool :=
  let ty := nbits e 0 8
  let body := match ty with
    | 1 => nbits e 256 256
    | 2 => nbits e 448 64
    | 3 => nbits e 192 320 + (1 - nbits e 8 1)
    | 4 => nbits e 322 6 + nbits e 344 168
    | _ => 1
  decide (nbits e 9 7 ≠ 0 ∨ nbits e 16 48 ≠ 0 ∨ body ≠ 0)

/-- A counter of a queue entry as its scheduler reads it: a multiple of 8 (R184). -/
def counterRead (w : Who) (a : Nat) (s : State) : State × Except Stop Nat :=
  if a % 8 ≠ 0 then (s, .error (accTrap .align a)) else vreadNat w a 8 s

/-- Adding to, or storing to, a counter, indivisibly at the slice (R184). -/
def counterWrite (w : Who) (add : Bool) (a v : Nat) (s : State) : State × Option Stop :=
  if a % 8 ≠ 0 then (s, some (accTrap .align a))
  else if add then
    match vamoAt w 0 a 8 v 0 s with
    | (s1, .ok _) => (s1, none)
    | (s1, .error t) => (s1, some t)
  else vwrite w a (leBytes 8 v) s

/-- Work of earlier entries that is not complete (R184). -/
def Queue.pending (s : State) (x : Queue) : Bool :=
  !(x.copies.isEmpty) || x.kernels.any fun k => match s.kernel? k with
    | some y => decide (y.st ≠ .retired ∧ y.st ≠ .aborted)
    | none => false

/-- What comes of the head entry of a queue: it is taken, with the state it leaves; it waits; it errs; or nothing moves. -/
inductive Taken where
  | done (x : Queue)
  | blocked
  | error (err : Nat)
  | held
  deriving DecidableEq, Repr

/-- A fault as an error of R187; a wait moves nothing. -/
def takenStop (err : Nat) : Stop → Taken
  | .trap _ => .error err
  | .stall => .held

/-- The body of an entry whose wait is met (R184). -/
def takeBody (q : Nat) (x : Queue) (e : Nat) (s : State) : State × Taken :=
  let w := queueWho q x
  match nbits e 0 8 with
  | 1 =>
    let a := nbits e 192 64
    if a % 128 ≠ 0 then (s, .error 3)
    else
      match vreadNat w a 128 s with
      | (s1, .error t) => (s1, takenStop 3 t)
      | (s1, .ok r) =>
        match checkRecord x.asid w.cluster r s1 with
        | (s2, .stop t) => (s2, takenStop 3 t)
        | (s2, .bad _) => (s2, .error 4)
        | (s2, .good decls) =>
          let k := kernelOf x.asid r decls (some q) x.prio false (s2.ctx x.asid)
          (addKernel k s2, .done { x with kernels := x.kernels ++ [s2.serial] })
  | 2 =>
    let n := nbits e 320 64
    let en := if engineLoad s w.cluster 1 < engineLoad s w.cluster 0 then 1 else 0
    if n % 64 ≠ 0 then (s, .error 6)
    else if 64 ≤ engineLoad s w.cluster en then (s, .held)
    else
      let c : Copy :=
        { id := s.nextId, hart := none, queue := some (q, wd (nbits e 384 64)), asid := x.asid, cluster := w.cluster
          engine := en, dirOut := false, main := wd (nbits e 192 64), core := 0, off := 0, dst := wd (nbits e 256 64)
          len := n, chunk := 64, next := 0, sup := true, stopped := false }
      ({ s with copies := s.copies ++ [c], nextId := s.nextId + 1 }, .done { x with copies := x.copies ++ [c.id] })
  | 3 => (s, .done x)
  | _ =>
    if x.pending s then (s, .blocked)
    else
      match counterWrite w (nbits e 320 1 = 1) (nbits e 192 64) (nbits e 256 64) s with
      | (s1, some t) => (s1, takenStop 5 t)
      | (s1, none) => (if nbits e 321 1 = 1 ∧ nbits e 328 16 < 2048 then raiseMsix (nbits e 328 16) s1 else s1, .done { x with kernels := [] })

/-- The head entry of a queue: it is read and checked, its counter wait is tried, and its body taken (R184, R187). -/
def takeHead (q : Nat) (x : Queue) (s : State) : State × Taken :=
  let w := queueWho q x
  match vreadNat w (x.ring + wd (64 * (x.prog.toNat % x.depth))).toNat 64 s with
  | (s1, .error t) => (s1, takenStop 3 t)
  | (s1, .ok e) =>
    if entryBad e then (s1, .error 2)
    else if nbits e 8 1 = 1 then
      match counterRead w (nbits e 64 64) s1 with
      | (s2, .error t) => (s2, takenStop 5 t)
      | (s2, .ok v) => if v < nbits e 128 64 then (s2, .blocked) else takeBody q x e s2
    else takeBody q x e s1

/-- The scheduler's turn at a queue: its head entry is taken (PROGRESS + 1), waits, or errs (R185, R186). A COPY that finds both
engines full, and an entry that a MIGRATING page holds, leave the queue READY with no turn counted, so that the scheduler comes
back to it (DESIGN CHOICE, notes/assumptions/31.md). -/
def turnOf (q : Nat) (x : Queue) (s : State) : State :=
  match takeHead q x s with
  | (s1, .done y) =>
    let z := { y with prog := x.prog + 1, boost := 0, taken := s1.qturn + 1 }
    { s1.putQueue q { z with state := z.idleState } with qturn := s1.qturn + 1 }
  | (s1, .blocked) => s1.putQueue q { x with state := 3 }
  | (s1, .error k) => queueError q k s1
  | (_, .held) => s

/-- The effective priority of a queue (R176, R189). -/
def effPrio (s : State) (x : Queue) : Nat := min (x.prio + x.boost) (s.ctx x.asid).prio

/-- The READY queue the scheduler turns to: highest effective priority, then the longest since it was taken (R189); the
context must dispatch (R169, R197). -/
def nextQueue (s : State) : Option (Nat × Queue) :=
  s.queues.foldl (fun b p =>
    if p.2.state ≠ 1 ∨ s.dispatches p.2.asid = false then b
    else match b with
      | none => some p
      | some o =>
        if effPrio s o.2 < effPrio s p.2 ∨ (effPrio s o.2 = effPrio s p.2 ∧ p.2.taken < o.2.taken) then some p else b) none

/-- `QUEUE_SCHEDULE` (R189). -/
def execQueueSchedule (s : State) : Host.Outcome State Fault Refusal :=
  .next (match nextQueue s with
    | none => s
    | some (q, x) => turnOf q x s)

/-- `COUNTER_WAIT_RECHECK` (R184, R186): a BLOCKED queue's head entry is tried again. -/
def execCounterWaitRecheck (q : Nat) (s : State) : Host.Outcome State Fault Refusal :=
  .next (match s.queue? q with
    | none => s
    | some x => if x.state = 3 ∧ s.dispatches x.asid = true then turnOf q x s else s)

/-- The transfer of a COPY entry, line by line. -/
def copyEntry (c : Copy) (s : State) : State × Option Stop :=
  let w := copyWho s c
  loopFrom (fun i s =>
    match vread w .load (c.main + wd (64 * i)).toNat 64 s with
    | (s1, .error t) => (s1, some t)
    | (s1, .ok d) => vwrite w (c.dst + wd (64 * i)).toNat d s1) (c.len / 64) 0 s

/-- `QUEUE_COPY_DONE` (R184, R187): a COPY entry's transfer finishes and 1 is added to its done counter, or it faults. A done
counter that cannot be written gives ERR 5, which R187 names for reading a counter (DESIGN CHOICE, notes/assumptions/31.md). -/
def execQueueCopyDone (t : Nat) (s : State) : Host.Outcome State Fault Refusal :=
  .next (match s.copy? t with
    | none => s
    | some c =>
      match c.queue with
      | none => s
      | some (q, a) =>
        let leave : State → State := fun s =>
          match (s.dropCopy t).queue? q with
          | none => s.dropCopy t
          | some x => (s.dropCopy t).setQueue q { x with copies := x.copies.filter fun i => i != t }
        match copyEntry c s with
        | (s1, some (.trap _)) => queueError q 6 (leave s1)
        | (_, some .stall) => s
        | (s1, none) =>
          match counterWrite (copyWho s c) true a.toNat 1 s1 with
          | (s2, none) => leave s2
          | (s2, some (.trap _)) => queueError q 5 (leave s2)
          | (_, some .stall) => s)

/-! ## Instructions -/

/-- A QUEUE trap with a code (R190). -/
def queueTrap (code q : Nat) : Trap := Trap.vector .queue (wd (code * 2 ^ 16 + q % 2 ^ 16))

/-- The queue that an instruction names, or its QUEUE trap (R190, R191); `post` says whether kind 0 is refused. -/
def namedQueue (v : Nat) (post db : Bool) (s : State) : Except Trap (Nat × Queue) :=
  let q := v % 2 ^ 16
  if 2 ^ 16 ≤ v then .error (queueTrap 1 q)
  else match s.queue? q with
    | none => .error (queueTrap 1 q)
    | some x =>
      if x.asid ≠ s.asidOf s.cur then .error (queueTrap 1 q)
      else if (post ∧ x.kind = 0) ∨ (db ∧ x.kind ≠ 2) then .error (queueTrap 2 q)
      else if x.state = 5 then .error (queueTrap 3 q)
      else .ok (q, x)

/-- The tail of a queue moves by a `QPOST` (R190): into the latch while it is switched out. -/
def postTail (q : Nat) (x : Queue) (s : State) : State :=
  let t := x.tailNow + 1
  if x.state = 4 then noteCandidate q (s.setQueue q { x with latch := some t })
  else
    let y := { x with tail := t }
    s.putQueue q (if x.state = 0 then { y with state := y.idleState } else y)

/-- The entry as `QPOST` stores it: a drive's has the slot as its command identifier (R190). -/
def postEntry (x : Queue) (i : Nat) (d : List Byte) : List Byte :=
  if x.kind = 2 then d.take 2 ++ leBytes 2 (i % x.depth) ++ d.drop 4 else d

/-- `QPOST` (R190). -/
def execQpost (f : FmtY) (s : State) : Host.Outcome State Fault Refusal :=
  let a := s.sr f.sa
  let db := f.imm.getLsbD 0
  .next (match namedQueue (s.sr f.sb).toNat true db s with
    | .error t => takeTrap t s
    | .ok (q, x) =>
      if a.toNat % 64 ≠ 0 then takeTrap (Trap.vector .align a) s
      else
        match releaseGate s.cur s with
        | .error (.trap t) => takeTrap { t with vec := true } s
        | .error .stall => s
        | .ok s0 =>
          match readSpace (vecWho s0 s0.cur) s0.cur 0 a 64 1 0 s0 with
          | (s1, .error t) => stopAt t s1
          | (s1, .ok d) =>
            let i := x.tailNow
            let used := i.toNat - (if x.state = 4 then x.progs else x.prog).toNat
            if used = (if x.kind = 1 then x.depth else x.depth - 1) then retire (s1.setSr f.sd ones)
            else
              match vwrite (vecWho s1 s1.cur) (x.ring + wd (64 * (i.toNat % x.depth))).toNat (postEntry x i.toNat d) s1 with
              | (s2, some t) => stopAt t s2
              | (s2, none) =>
                let s3 := (postTail q x s2).setSr f.sd i
                retire (if db then { s3 with pcie := s3.pcie ++ [(x.sqdb, (i + 1).toNat % x.depth)] } else s3))

/-- The queue of a drive after a completion has been examined (R191). -/
def reaped (x : Queue) (c : Nat) : Queue :=
  let d := wd ((nbits c 64 16 + x.depth - x.sqhead % x.depth) % x.depth)
  let wraps := x.cqhead = x.cqdm1
  { x with
    prog := if x.state = 4 then x.prog else x.prog + d
    progs := if x.state = 4 then x.progs + d else x.progs
    sqhead := nbits c 64 16, cqhead := if wraps then 0 else x.cqhead + 1, phase := if wraps then !x.phase else x.phase }

/-- `QPOLL` of a drive queue (R191). -/
def pollDrive (f : FmtY) (q : Nat) (x : Queue) (s : State) : State :=
  let b := s.sr f.sb
  match readSpace (vecWho s s.cur) s.cur 0 (x.cq + wd (16 * x.cqhead)) 16 1 0 s with
  | (s1, .error t) => stopAt t s1
  | (s1, .ok d) =>
    let c := leNat d
    if nbits c 112 1 ≠ b2n x.phase then retire (s1.setSr f.sd ones)
    else
      let put : State × Option Stop :=
        if b = 0 then (s1, none)
        else if b.toNat % 16 ≠ 0 then (s1, some (.trap (Trap.vector .align b)))
        else vwrite (vecWho s1 s1.cur) b.toNat d s1
      match put with
      | (s2, some t) => stopAt t s2
      | (s2, none) =>
        let y := reaped x c
        let s3 := (s2.putQueue q y).setSr f.sd (wd (nbits c 96 32 - nbits c 112 1 * 2 ^ 16))
        retire (if f.imm.getLsbD 0 then { s3 with pcie := s3.pcie ++ [(x.cqdb, y.cqhead)] } else s3)

/-- `QPOLL` (R191). -/
def execQpoll (f : FmtY) (s0 : State) : Host.Outcome State Fault Refusal :=
  let s := settleAll s0.cur s0
  .next (match namedQueue (s.sr f.sa).toNat false (f.imm.getLsbD 0) s with
    | .error t => takeTrap t s
    | .ok (q, x) =>
      if x.kind = 2 then pollDrive f q x s
      else if f.sb ≠ 0 then takeTrap (queueIllegal (.qpoll f)) s
      else retire (s.setSr f.sd x.progNow))

/-! ## A context's queues -/

/-- The queues of a context. -/
def queuesOf (asid : Nat) (s : State) : List Nat := (s.queues.filter fun p => p.2.asid = asid).map Prod.fst

/-- Every queue of a context switches out (R169, R186). -/
def switchOutQueues (asid : Nat) (s : State) : State := (queuesOf asid s).foldl (fun s q => switchQueueOut q s) s

/-- The switched-out queue holds work. -/
def Queue.hasWork (x : Queue) : Bool := x.latch.isSome || decide (x.tails ≠ x.progs)

/-- The queues of a context switch in, as far as there is room (R169, R188); one with work that is left out is a
candidate. -/
def switchInQueues (asid : Nat) (s : State) : State :=
  (queuesOf asid s).foldl (fun s q => match s.queue? q with
    | none => s
    | some x => if x.state ≠ 4 then s else match makeRoom s with
      | some s1 => switchQueueIn q s1
      | none => if x.hasWork then noteCandidate q s else s) s

/-- A TEARDOWN detaches every queue of the context (R181). -/
def detachQueues (asid : Nat) (s : State) : State := { s with queues := s.queues.filter fun p => p.2.asid ≠ asid }

end Sys2Proof.Machine
end

