-- ==== Sys2Proof/Machine/System.lean ====
section
/-!
DEFINITION. Control registers (R83, R233), `EVWAIT` and `YIELD` (R221, R222), `SYSC`, `BRK`, `TRET` and `NOP` (R234,
R235, R447), event rings (R238, R446) and debug registers (R236).
-/
namespace Sys2Proof.Machine

open Sys2Proof

/-! ## GETC and SETC -/

/-- The value of a control register, or none where no register has the number or the level may not read it (R83). A hart
at level U stands at a `GETC` with `epr` 0 (R230). -/
def crRead (s : State) (cn : Nat) : Option Word :=
  let h := s.me
  let sup := decide (h.level = .s)
  match cn with
  | 0x000 => some (h.vl.zeroExtend 64)
  | 0x001 => some (s.grant s.cur)
  | 0x002 => some (if sup then h.epr else 0)
  | 0x003 => some h.carry
  | 0x004 => some h.mshape
  | 0x005 => some (h.rowcnt.zeroExtend 64)
  | 0x006 => some h.rowpitch
  | 0x008 => some h.tagtab[0]
  | 0x009 => some h.tagtab[1]
  | 0x00A => some h.tagtab[2]
  | 0x00B => some h.tagtab[3]
  | 0x010 => some (h.frm.zeroExtend 64)
  | 0x011 => some (h.fflags.zeroExtend 64)
  | 0x012 => some h.seed
  | 0x018 => some (h.ev.zeroExtend 64)
  | 0x019 => some (h.status.zeroExtend 64)
  | 0x020 => if sup then some h.cause else none
  | 0x021 => if sup then some h.tval else none
  | 0x022 => if sup then some h.epc else none
  | 0x030 => some (wd (hartIdOf s.cur))
  | 0x031 => some (s.groupId s.cur)
  | 0x032 => some (wd (coreIdOf s.myCore))
  | 0x033 => some (wd (s.asidOf s.cur))
  | _ => none

/-- `mshape` as a `SETC` at level S stores it (R283). -/
def storedShape (v : Word) : Word :=
  wd (fld v 32 4 * 2 ^ 32 + fld v 16 16 / 8 * 8 * 2 ^ 16 + min (fld v 8 8) 128 * 2 ^ 8 + min (fld v 0 8) 128)

/-- The hart with a control register written under its own rules, or none where the level may not write it (R83, R84,
R51, R53, R154, R207, R208, R223, R233, R283). -/
def crWrite (h : Hart) (cn : Nat) (v : Word) : Option Hart :=
  let sup := decide (h.level = .s)
  let atS : Hart → Option Hart := fun x => if sup then some x else none
  match cn with
  | 0x000 => atS { h with vl := BitVec.ofNat 15 (min (fld v 0 15) 16384) }
  | 0x001 => atS h
  | 0x002 => atS { h with epr := v }
  | 0x003 => some { h with carry := v }
  | 0x004 => atS { h with mshape := storedShape v }
  | 0x005 => some { h with rowcnt := BitVec.ofNat 4 (min (fld v 0 4) 8) }
  | 0x006 => some { h with rowpitch := v }
  | 0x008 => some { h with tagtab := h.tagtab.set 0 v }
  | 0x009 => some { h with tagtab := h.tagtab.set 1 v }
  | 0x00A => some { h with tagtab := h.tagtab.set 2 v }
  | 0x00B => some { h with tagtab := h.tagtab.set 3 v }
  | 0x010 => some { h with frm := if fld v 0 3 = 0 ∨ fld v 0 3 = 7 then 1 else BitVec.ofNat 3 (fld v 0 3) }
  | 0x011 => some { h with fflags := BitVec.ofNat 6 v.toNat }
  | 0x012 => some { h with seed := if v = 0 then 0x9E3779B97F4A7C15 else v }
  | 0x018 => some { h with ev := BitVec.ofNat 32 v.toNat }
  | 0x019 => some { h with status := BitVec.ofNat 3 v.toNat }
  | 0x020 => atS { h with cause := v &&& 0xF03F }
  | 0x021 => atS { h with tval := v }
  | 0x022 => atS { h with epc := wd (v.toNat / 8 * 8) }
  | _ => none

/-- `GETC` (R233). -/
def execGetc (f : FmtY) (s : State) : Host.Outcome State Fault Refusal :=
  .next (match crRead s f.cn.toNat with
    | none => takeTrap (Trap.scalar .illegal (wordOf (.getc f))) s
    | some v => retire (s.setSr f.sd v))

/-- `SETC` (R233). -/
def execSetc (f : FmtY) (s : State) : Host.Outcome State Fault Refusal :=
  .next (match crWrite s.me f.cn.toNat (s.sr f.sa) with
    | none => takeTrap (Trap.scalar .illegal (wordOf (.setc f))) s
    | some h => retire (s.setMe h))

/-! ## Waiting and yielding -/

/-- `EVWAIT` (R221). -/
def execEvwait (f : FmtY) (s : State) : Host.Outcome State Fault Refusal :=
  let m := s.sr f.sa ||| f.imm.zeroExtend 64
  let v : Word := s.me.ev.zeroExtend 64
  .next (if v &&& m ≠ 0 ∨ m = 0 then retire (endWait (s.setSr f.sd v)) else waitAt (.evwait f) s)

/-- `EVWAIT_WAKE` (R221): a hart that waits in `EVWAIT` examines `ev` again. -/
def execEvwaitWake (h : Nat) (s : State) : Host.Outcome State Fault Refusal :=
  match (s.hart h).wait with
  | some (.evwait f) => execEvwait f { s with cur := h }
  | _ => .next s

/-- The harts of the core other than the current one that have an instruction to execute (R222); one that its own `YIELD`
holds has none. -/
def readyHarts (s : State) : List Nat :=
  ([0, 1, 2, 3].map fun i => 4 * s.myCore + i).filter fun h => h ≠ s.cur && !(s.hart h).exited && !(s.hart h).saved &&
    (s.hart h).wait.isNone && !(s.agenda.contains (.back h)) && (match s.groupOf h with
      | some (_, g) => decide (g.st ≠ .preempted ∧ g.st ≠ .retired)
      | none => false)

/-- `YIELD` (R222): no register changes; each ready hart of the core has the next turn before this one goes on. -/
def execYield (_f : FmtY) (s : State) : Host.Outcome State Fault Refusal :=
  let y := readyHarts s
  .next (
    let s1 := retire s
    if y = [] then s1 else { s1 with agenda := y.map Turn.hart ++ [Turn.back s.cur] ++ s1.agenda })

/-- `NOP` (R235). -/
def execNop (_f : FmtY) (s : State) : Host.Outcome State Fault Refusal := .next (retire s)

/-- A word of major 0xFE (R87): a no-op. -/
def execHintNop (_bits : BitVec 56) (s : State) : Host.Outcome State Fault Refusal := .next (retire s)

/-! ## Event rings -/

/-- What a post to a context's ring comes to: the event's index, a full ring, a failed access at an address, or a wait. -/
inductive Posted where
  | at (i : Word)
  | full
  | fault (t : Trap)
  | held
  deriving DecidableEq, Repr

/-- The event queue of a context: a KIND 1 queue of the same context (R238). -/
def eventQueue (s : State) (asid : Nat) : Option Queue :=
  match s.queue? (s.ctx asid).evq with
  | some x => if x.kind = 1 ∧ x.asid = asid then some x else none
  | none => none

/-- A failed access of a ring, at the address accessed (R446). -/
def ringStop (a : Word) : Stop → Posted
  | .trap t => .fault { t.asScalar with tval := a }
  | .stall => .held

/-- Posting an event record to a context's ring (R238, R446, R449): slot, EVTAIL, then the vector. A context without an
event queue has no room. -/
def ringPost (asid : Nat) (e : BitVec 512) (s : State) : State × Posted :=
  match eventQueue s asid with
  | none => (s, .full)
  | some x =>
    let w := queueWho (s.ctx asid).evq x
    let tl := x.ring + wd (64 * x.depth)
    match vreadNat w tl.toNat 8 s with
    | (s1, .error t) => (s1, ringStop tl t)
    | (s1, .ok tail) =>
      match vreadNat w (tl + 8).toNat 8 s1 with
      | (s2, .error t) => (s2, ringStop (tl + 8) t)
      | (s2, .ok head) =>
        match vreadNat w (tl + 16).toNat 8 s2 with
        | (s3, .error t) => (s3, ringStop (tl + 16) t)
        | (s3, .ok ctl) =>
          if wd tail - wd head = wd x.depth then (s3, .full)
          else
            let slot := x.ring + wd (64 * (tail % x.depth))
            match vwriteCheck w tl.toNat 8 s3 with
            | (s4, .error t) => (s4, ringStop tl t)
            | (s4, .ok _) =>
              match vwrite w slot.toNat (leBytes 64 e.toNat) s4 with
              | (s5, some t) => (s5, ringStop slot t)
              | (s5, none) =>
                match vwrite w tl.toNat (leBytes 8 (tail + 1)) s5 with
                | (s6, some t) => (s6, ringStop tl t)
                | (s6, none) => (if nbits ctl 11 1 = 1 then raiseMsix (nbits ctl 0 11) s6 else s6, .at (wd tail))

/-- `EVENT_POST` (R238, R446): the oldest waiting event of a context is posted; a full ring leaves it, a failed access
faults the context and queues a context-fault event. -/
def execEventPost (asid : Nat) (s : State) : Host.Outcome State Fault Refusal :=
  .next (
    let x := s.ctx asid
    match x.events with
    | [] => s
    | e :: rest =>
      if x.ringBad ∨ x.st = .absent ∨ x.st = .tornDown then s
      else
        match ringPost asid e s with
        | (s1, .at _) => s1.modCtx asid fun y => { y with events := rest }
        | (s1, .fault t) =>
          let ev := eventRec 4 0 0 0 0 0 (wd t.code.toNat) t.tval 0 0 (wd x.evq) s.time
          raiseMsix 0 (queueEvent asid ev (markFaulted asid (s1.modCtx asid fun y => { y with ringBad := true })))
        | _ => s)

/-- The level-S request 1 of `SYSC`: a runtime post (R234, R446). -/
def runtimePost (f : FmtY) (s : State) : State :=
  let a := s.sr f.sa
  let fail : State → State := fun s => retire (s.setSr f.sd ones)
  if a.toNat % 64 ≠ 0 then fail s
  else
    match vread (hartWho s s.cur) .load a.toNat 64 s with
    | (_, .error .stall) => s
    | (s1, .error (.trap _)) => fail s1
    | (s1, .ok d) =>
      match ringPost (s1.asidOf s1.cur) (BitVec.ofNat 512 (leNat d)) s1 with
      | (s2, .at i) => retire (s2.setSr f.sd i)
      | (s2, .full) => contextFault (Trap.scalar .queue a) s2
      | (s2, .fault t) => contextFault t s2
      | (_, .held) => s

/-! ## SYSC, BRK and TRET -/

/-- `SYSC` (R234): a trap at level U, a request to Ovune at level S. -/
def execSysc (f : FmtY) (s : State) : Host.Outcome State Fault Refusal :=
  .next (
    if s.me.level = .u then
      takeTrap { Trap.scalar .sysc (wd (f.imm.toNat + f.sd.toNat * 2 ^ 12 + f.sa.toNat * 2 ^ 18)) with past := true } s
    else
      match f.imm.toNat with
      | 0 => retire (s.setSr f.sd 0)
      | 1 => runtimePost f (settleAll s.cur s)
      | 2 => retire (s.setSr f.sd s.time)
      | _ => retire (s.setSr f.sd ones))

/-- `BRK` (R234). -/
def execBrk (f : FmtY) (s : State) : Host.Outcome State Fault Refusal :=
  .next (takeTrap (Trap.scalar .brk (f.imm.zeroExtend 64)) s)

/-- The work of a delivered latch goes on (R447, R164, R312, R384, R400). -/
def resumeWork (h : Nat) (l : Latch) (s : State) : State :=
  match l.work with
  | .copy t => match s.copy? t with
    | some c => s.setCopy { c with stopped := false }
    | none => s
  | .block v => match (s.hart h).binding? v with
    | some b => if b.st = .held then setBinding h { b with st := .active } s else s
    | none => s
  | .run r => resumeRun r s
  | .query q => resumeQuery q s

/-- What a `TRET` sets going again: the bindings whose strip read trapped (R313) and the work of the delivered latches
(R447). -/
def resumeHeld (h : Nat) (s : State) : State :=
  let due := (s.hart h).latches.filter fun l => l.delivered
  let s1 := s.modHart h fun x => { x with
    latches := x.latches.filter fun l => !l.delivered
    binds := x.binds.map fun b => if b.st = .held ∧ b.kind ≠ 4 then { b with st := .active } else b }
  due.foldl (fun s l => resumeWork h l s) s1

/-- The hart resumes at the level PPL names, at `epc`; the debug registers the host wrote take effect (R230, R234, R236). -/
def Hart.tretTo (h : Hart) : Hart :=
  { h with level := if fld h.cause 14 2 = 1 then .s else .u, pc := h.epc, dbg := h.dbgReg, wait := none, resumed := true }

/-- `TRET` (R234, R231, R447): ILLEGAL at level U; at level S the hart returns, or is saved where a save is due. -/
def execTret (f : FmtY) (s : State) : Host.Outcome State Fault Refusal :=
  .next (
    if s.me.level = .u then takeTrap (Trap.scalar .illegal (wordOf (.tret f))) s
    else
      let s1 := resumeHeld s.cur (s.modMe Hart.tretTo)
      if s1.me.saveDue ∧ s1.me.level = .u then
        let s2 := saveHart s1.cur s1
        match s2.me.group with
        | some g => finishSave g s2
        | none => s2
      else match s1.me.group with
        | some g => meetPreempt g s1
        | none => s1)

/-! ## Debug registers -/

/-- `DEBUG_REGISTER_WRITE` (R236): the host writes a debug register of a hart; it takes effect at the next `TRET` or at
placement. -/
def execDebugRegisterWrite (h off : Nat) (v : Word) (s : State) : Host.Outcome State Fault Refusal :=
  let line := wd (fld v 6 49 * 64)
  .next (
    if 6144 ≤ h then s
    else match off with
      | 0x00 => s.modHart h fun x => { x with dbgReg := { x.dbgReg with ctl := wd (fld v 0 6) } }
      | 0x08 => s.modHart h fun x => { x with dbgReg := { x.dbgReg with watch0 := line } }
      | 0x10 => s.modHart h fun x => { x with dbgReg := { x.dbgReg with watch1 := line } }
      | _ => s)

end Sys2Proof.Machine
end

