-- ==== Sys2Proof/Machine/Page.lean ====
section
/-!
DEFINITION. Bolted ranges and TLB maintenance (R366 to R369), the page walker (R365), migrations (R372 to R374), hot
regions (R375), the rake (R377), refresh (R376) and host accesses through an HDM decoder (R437).
-/
namespace Sys2Proof.Machine

open Sys2Proof

/-! ## Bolted ranges -/

/-- What a walk of every page of a range finds, with R required: the translations, or the first fault (R362, R367).
`fuel` bounds the pages. -/
def boltLeaves (s : State) (asid : Nat) (sup : Bool) : Nat → Nat → Nat → Except Trap (List Leaf)
  | 0, _, _ => .ok []
  | k + 1, va, stop =>
    if stop ≤ va then .ok []
    else match walk s asid va with
      | .error c => .error (Trap.scalar c (wd (va / 2 ^ 16 * 2 ^ 16)))
      | .ok l =>
        if permits l .load sup then
          match boltLeaves s asid sup k ((l.base + l.pages) * 2 ^ 16) stop with
          | .error t => .error t
          | .ok ls => .ok (l :: ls)
        else .error (Trap.scalar .prot (wd (l.base * 2 ^ 16)))

/-- A BOLT trap of `TLBB` (R367). -/
def boltTrap (reason : Nat) (v : Word) : Trap := Trap.scalar .bolt (wd (reason * 2 ^ 56 + v.toNat))

/-- The checks of `TLBB` on its range before its walks, in order (R367). -/
def boltRange (f : FmtY) (x : Group) (v : Word) (n : Nat) : Option Trap :=
  let a := v.toNat
  if a % 2 ^ 16 ≠ 0 ∨ n % 2 ^ 16 ≠ 0 ∨ n = 0 ∨ 2 ^ 55 < a + n then some (Trap.scalar .illegal (wordOf (.tlbb f)))
  else if 4 ≤ x.bolts.length then some (boltTrap 1 v)
  else if x.bolts.any fun b => decide (a < b.start + b.len ∧ b.start < a + n) then some (boltTrap 3 v)
  else none

/-- What the walks of `TLBB` give: the range's entries, or the trap (R367). -/
def boltCheck (x : Group) (v : Word) (n : Nat) (s : State) : Except Trap (List Leaf) :=
  let a := v.toNat
  match boltLeaves s x.asid (decide (s.me.level = .s)) (n / 2 ^ 16 + 1) a (a + n) with
  | .error t => .error t
  | .ok ls =>
    if 16 < (x.bolts.foldl (fun k b => k + b.entries.length) 0) + ls.length then .error (boltTrap 2 v) else .ok ls

/-- The walks of `TLBB` are counted, up to the first that fails or does not permit a read (R375). -/
def countBolts (asid : Nat) (v : Word) (n : Nat) (s : State) : State :=
  countRange asid (fun r => match r with
    | .ok l => permits l .load (decide (s.me.level = .s))
    | .error _ => false) v.toNat n s

/-- `TLBB` (R367). -/
def execTlbb (f : FmtY) (s : State) : Host.Outcome State Fault Refusal :=
  let v := s.sr f.sa
  let n := (s.sr f.sb).toNat
  .next (match s.myGroup with
    | none => s
    | some (g, x) =>
      match boltRange f x v n with
      | some t => takeTrap t s
      | none =>
        let s1 := countBolts x.asid v n s
        match boltCheck x v n s with
        | .error t => takeTrap t s1
        | .ok ls =>
          let slot := ([0, 1, 2, 3].find? fun k => x.bolts.all fun b => decide (b.slot ≠ k)).getD 0
          let b : Bolt := { slot := slot, start := v.toNat, len := n, entries := ls }
          retire ((s1.setGroup g { x with bolts := x.bolts ++ [b] }).setSr f.sd (wd slot)))

/-- The entries of a bolted range become ordinary entries of the second-level TLB and of the held slices (R368). -/
def unbolt (w : Who) (b : Bolt) (s : State) : State :=
  b.entries.foldl (fun s l =>
    let s1 := tlbFill (.second w.cluster) l s
    match w.slices with
    | none => s1
    | some (core, quads) =>
      if l.pages = 1 then
        match sliceOf w (l.base * 2 ^ 16) with
        | some t => tlbFill t l s1
        | none => s1
      else (setBits quads 8).foldl (fun s q => tlbFill (.slice core q) l s) s1) s

/-- `TLBU` (R368). -/
def execTlbu (f : FmtY) (s : State) : Host.Outcome State Fault Refusal :=
  let k := (s.sr f.sa).toNat
  .next (match s.myGroup with
    | none => s
    | some (g, x) =>
      match x.bolts.find? fun b => b.slot == k with
      | none => retire (s.setSr f.sd ones)
      | some b =>
        retire ((unbolt (vecWho s s.cur) b (s.setGroup g { x with bolts := x.bolts.filter fun c => c.slot != k })).setSr
          f.sd 0))

/-! ## Invalidation -/

/-- The cluster of a TLB. -/
def TlbAt.cluster : TlbAt → Nat
  | .second c => c
  | .slice core _ => clusterOf core

/-- A translation maps a byte of a range. -/
def Leaf.meets (l : Leaf) (a n : Nat) : Bool :=
  decide (n ≠ 0 ∧ l.base * 2 ^ 16 < a + n ∧ a < (l.base + l.pages) * 2 ^ 16)

/-- The entries of an ASID that a test picks are dropped from the TLBs and bolted entries of the clusters that a second
test picks (R369, R374). -/
def dropEntries (asid : Nat) (p : Leaf → Bool) (at_ : Nat → Bool) (s : State) : State :=
  { s with
    tlb := s.tlb.filter fun e => !(decide (e.2.asid = asid) && at_ e.1.cluster && p e.2)
    groups := s.groups.map fun e =>
      if e.2.asid = asid ∧ at_ (clusterOf e.2.core) = true then
        (e.1, { e.2 with bolts := e.2.bolts.map fun b => { b with entries := b.entries.filter fun l => !(p l) } })
      else e }

/-- The stores that any hart has had accepted perform: they used translations that are to be dropped (R369, R374). -/
def settleHarts (s : State) : State := (s.harts.map Prod.fst).foldl (fun s h => settleAll h s) s

/-- `TLBI` (R369): ILLEGAL at level U; SCOPE 3 is the own cluster, 4 and 5 all of them. -/
def execTlbi (f : FmtY) (s0 : State) : Host.Outcome State Fault Refusal :=
  .next (
    if s0.me.level = .u then takeTrap (Trap.scalar .illegal (wordOf (.tlbi f))) s0
    else
      let s := settleHarts s0
      let a := (s.sr f.sa).toNat
      let n := (s.sr f.sb).toNat
      let own := clusterOf s.myCore
      retire (dropEntries (s.asidOf s.cur) (fun l => f.imm.getLsbD 0 || l.meets a n)
        (fun c => decide (f.scope ≠ 3) || decide (c = own)) s))

/-- `PAGE_WALK` (R365): the walker makes a walk for an access of a hart's group; one that ends well fills the TLBs. -/
def execPageWalk (h : Nat) (va : Word) (acc : Access) (s : State) : Host.Outcome State Fault Refusal :=
  .next (
    if 2 ^ 55 ≤ va.toNat ∨ (s.groupOf h).isNone then s
    else (leafOf (vecWho s h) acc va.toNat s).1)

/-! ## Migration -/

/-- The pages of 64 KiB that a migration moves. -/
def Mig.pages (m : Mig) : Nat := if m.size = 1 then 32 else 1

/-- The page table accesses of a migration engine: as for the walker (R363). -/
def tableCry (asid : Nat) : Cry := { asid := asid, buf := 0, mode := .rw }

/-- A code of R373 in place of a page table read that failed. -/
def tableRead (s : State) (asid pa : Nat) : Except Nat Nat :=
  match pteRead s asid pa with
  | .ok e => .ok e
  | .error _ => .error 5

/-- The leaves of the page of a migration: physical addresses and values, or the code that refuses it (R373). A leaf whose
frame lies outside its tier is not valid (R362); one in a peer's window is refused as well (DESIGN CHOICE,
notes/assumptions/50.md). -/
def migLeaves (s : State) (m : Mig) : Except Nat (List (Nat × Nat)) := do
  if 1 < m.size then .error 9
  if m.va % (m.pages * 2 ^ 16) ≠ 0 ∨ 2 ^ 55 ≤ m.va then .error 1
  let pointer : Nat → Except Nat Nat := fun e => match ptePointer e with
    | .ok t => .ok t
    | .error _ => .error 1
  let t1 ← pointer (← tableRead s m.asid ((s.ctx m.asid).root + 8 * nbits m.va 42 13))
  let t0 ← pointer (← tableRead s m.asid (t1 + 8 * nbits m.va 29 13))
  let p0 := t0 + 8 * nbits m.va 16 13
  let e0 ← tableRead s m.asid p0
  let frame := nbits e0 28 36 * 2 ^ 16
  let last := frame + m.pages * 2 ^ 16 - 1
  let inTier := decide (nbits e0 12 1 = 1) || (if nbits e0 13 1 = 0 then inHbm frame && inHbm last else inLp frame && inLp last)
  if e0 % 2 = 0 ∨ nbits e0 11 1 = 0 ∨ nbits e0 4 6 ≠ 0 ∨ nbits e0 14 1 ≠ m.size then .error 1
  if nbits e0 12 1 = 0 ∧ inPeer frame = true then .error 1
  if m.size = 0 then (if inTier then .ok [(p0, e0)] else .error 1)
  else if !inTier then .error 9
  else
    let es ← (List.range 32).mapM fun i => tableRead s m.asid (p0 + 8 * i)
    if groupOk es e0 then .ok (es.zipIdx.map fun p => (p0 + 8 * p.2, p.1)) else .error 9

/-- The destination of a migration keeps R373: aligned, in the target tier, another page than the source. -/
def migDestOk (m : Mig) (frame : Nat) : Bool :=
  let last := m.dest + m.pages * 2 ^ 16 - 1
  decide (m.dest % (m.pages * 2 ^ 16) = 0 ∧ m.dest ≠ frame * 2 ^ 16) &&
    (if m.tier = 0 then inHbm m.dest && inHbm last else decide (m.tier = 1) && inLp m.dest && inLp last)

/-- A write to a physical address waits at the slice while its page is MIGRATING (R374). -/
def migHolds (s : State) (pa : Nat) : Bool :=
  s.migs.any fun m => m.leaves.any fun l =>
    decide (fld l.2 28 36 * 2 ^ 16 ≤ pa ∧ pa < (fld l.2 28 36 + 1) * 2 ^ 16)

/-- A write of the host through an HDM decoder performs, but for lines whose CNT can rise no more (R173, R437). -/
def hostWrite (w : HostWrite) (s : State) : State :=
  (piecesOf w.pa w.data.length).foldl (fun s p =>
    if cntFull s [] w.cry p.1 then s else writeLine w.cry p.1 ((w.data.drop (p.1 - w.pa)).take p.2) s) s

/-- A write of the host that arrives or has waited: a MIGRATING page holds it back (R374). -/
def tryHost (w : HostWrite) (s : State) : State :=
  if (piecesOf w.pa w.data.length).any fun p => migHolds s p.1 then { s with heldHost := s.heldHost ++ [w] } else hostWrite w s

/-- A write that waited for a migration performs at the new frame where the page has moved (R374); one that begins in another
page names that page still (DEDUCED, notes/assumptions/33.md). -/
def HostWrite.moved (m : Mig) (code : Nat) (w : HostWrite) : HostWrite :=
  let src := fld ((m.leaves.headD (0, 0)).2) 28 36 * 2 ^ 16
  if code = 0 ∧ src ≤ w.pa ∧ w.pa < src + m.pages * 2 ^ 16 then { w with pa := w.pa - src + m.dest } else w

/-- Host writes that have waited are tried again, oldest first (R374). -/
def retryHost (l : List HostWrite) (s : State) : State := l.foldl (fun s w => tryHost w s) { s with heldHost := [] }

/-- STATUS is written with DONE and the migration is over (R373); the writes that waited for it perform (R374). -/
def endMig (m : Mig) (code lost : Nat) (s : State) : State :=
  let w : Who := { asid := m.asid, serial := m.serial, group := none, sup := true, cluster := m.cluster, slices := none }
  let s1 := { s with migs := s.migs.filter fun x => x.id != m.id }
  let word := leBytes 8 (2 ^ 63 + lost % 2 ^ 16 * 2 ^ 16 + code)
  let s2 := flushHeld (tryHeld { who := w, va := (m.record + 16).toNat, data := word, call := none } s1)
  retryHost (s2.heldHost.map (HostWrite.moved m code)) s2

/-- The entries of the page of a migration are dropped device-wide (R374). -/
def dropPage (m : Mig) (s : State) : State :=
  dropEntries m.asid (fun l => l.meets m.va (m.pages * 2 ^ 16)) (fun _ => true) s

/-- A leaf is stored by a compare with the value it must hold; a line whose CNT can rise no more stays as it is (R173). -/
def casLeaf (asid pa old new : Nat) (s : State) : State :=
  let s1 := countHot asid none pa s
  if bsNat s.mem pa 8 = old ∧ cntFull s [] (tableCry asid) pa = false then
    writeLoc (.dev pa) (tableCry asid) (leBytes 8 new) s1
  else s1

/-- The leaves at some physical addresses can all be stored once more: CNT of their lines can rise that often (R173). -/
def leavesRoom (s : State) (pas : List Nat) : Bool :=
  pas.all fun p => decide ((s.line (p / 64)).cnt.toNat + pendingTo s (p / 64)
    + (pas.filter fun q => decide (q / 64 = p / 64)).length < 2 ^ 31)

/-- MIG of the leaves that still hold what the engine stored is cleared, and cached copies are dropped (R374). -/
def clearMig (m : Mig) (s : State) : State :=
  dropPage m (m.leaves.foldl (fun s l => casLeaf m.asid l.1 (l.2.toNat + 2 ^ 15) l.2.toNat s) s)

/-- The steps 1 and 2 of R374: the record is checked, MIG set in each leaf, the page's entries dropped once the stores that
used them have performed. R373 gives its codes no order: where several apply, a code of the leaves comes first, then HS, MIG
and DEST (DESIGN CHOICE, notes/assumptions/50.md); leaves that can be stored no more (R173) end it with code 5 (DEDUCED,
notes/assumptions/50.md). -/
def startMig (m : Mig) (s0 : State) : State :=
  let s := countWalk m.asid m.va (settleHarts s0)
  match migLeaves s m with
  | .error c => endMig m c 0 s
  | .ok ls =>
    let e := (ls.headD (0, 0)).2
    if nbits e 12 1 = 1 then endMig m 4 0 s
    else if nbits e 15 1 = 1 then endMig m 2 0 s
    else if !(migDestOk m (nbits e 28 36)) then endMig m 3 0 s
    else if !(leavesRoom s (ls.map Prod.fst)) then endMig m 5 0 s
    else
      let m1 := { m with leaves := ls.map fun p => (p.1, wd p.2) }
      let s1 := ls.foldl (fun s p => casLeaf m.asid p.1 p.2 (p.2 + 2 ^ 15) s) s
      dropPage m { s1 with migs := s1.migs.map fun x => if x.id = m.id then m1 else x }

/-- Bytes moved from one range of physical addresses to another. -/
def moveBytes (src dst n : Nat) (m : ByteStore) : ByteStore :=
  let cells := m.filter fun p => decide (src ≤ p.1 ∧ p.1 < src + n)
  cells.foldl (fun m p => bsPut m (p.1 - src + dst) p.2) (m.filter fun p => !(decide (dst ≤ p.1 ∧ p.1 < dst + n)))

/-- Line metadata carried over with the lines (R374); lines are counted by PA / 64. -/
def moveLines (src dst n : Nat) (m : Sparse Line) : Sparse Line :=
  let ls := m.filter fun p => decide (src ≤ p.1 ∧ p.1 < src + n)
  ls.foldl (fun m p => smPut m (p.1 - src + dst) p.2) (m.filter fun p => !(decide (dst ≤ p.1 ∧ p.1 < dst + n)))

/-- The accesses of a copy: one to each line of the page at its source, and one at its destination (R375). -/
def countCopy (m : Mig) (src : Nat) (s : State) : State :=
  let k := m.pages * 2 ^ 16 / 64
  countHotBy k m.asid (some m.va) m.dest (countHotBy k m.asid (some m.va) src s)

/-- The steps 3 to 6 of R374: the page is copied with its metadata, the leaves rewritten by compares, STATUS written. -/
def copyMig (m : Mig) (s0 : State) : State :=
  let n := m.pages * 2 ^ 16
  let src := fld ((m.leaves.headD (0, 0)).2) 28 36 * 2 ^ 16
  let s := countCopy m src s0
  let lines := s.lines.filter fun p => decide (src / 64 ≤ p.1 ∧ p.1 < (src + n) / 64)
  let bad := lines.any fun p => !p.2.poison && (match p.2.key with
    | some k => decide (k ≠ (s.ctx m.asid).key)
    | none => false)
  if bad then endMig m 6 0 (clearMig m s)
  else
    let lost := (lines.filter fun p => p.2.poison).length
    let s1 := { s with mem := moveBytes src m.dest n s.mem, lines := moveLines (src / 64) (m.dest / 64) (n / 64) s.lines }
    if (m.leaves.any fun l => (lineFault s1 (tableCry m.asid) l.1).isSome) || !(leavesRoom s1 (m.leaves.map Prod.fst)) then
      endMig m 5 lost (clearMig m s1)
    else if m.leaves.any fun l => decide (bsNat s1.mem l.1 8 ≠ l.2.toNat + 2 ^ 15) then endMig m 7 lost (clearMig m s1)
    else
      let s2 := m.leaves.zipIdx.foldl (fun s p =>
        let low := p.1.2.toNat % 2 ^ 28
        let new := (m.dest / 2 ^ 16 + p.2) * 2 ^ 28 + setFld low 13 1 m.tier
        casLeaf m.asid p.1.1 (p.1.2.toNat + 2 ^ 15) new s) s1
      endMig m 0 lost (dropPage m s2)

/-- `MIGRATION` (R374): the engine's next step: MIG is set, or the page is copied and the migration ends. -/
def execMigration (i : Nat) (s : State) : Host.Outcome State Fault Refusal :=
  .next (match s.migs.find? fun m => m.id == i with
    | none => s
    | some m => if m.leaves = [] then startMig m s else copyMig m s)

/-- `MIGRATION_TIMEOUT` (R374): a write has waited 30 µs for a MIGRATING page. -/
def execMigrationTimeout (i : Nat) (s : State) : Host.Outcome State Fault Refusal :=
  .next (match s.migs.find? fun m => m.id == i with
    | none => s
    | some m => if m.leaves = [] then s else endMig m 8 0 (clearMig m s))

/-- `PMIG` (R373): the record is read and handed to the migration engine of the channel that holds it. A record that no
channel holds traps PROT, and the reserved bytes 26 to 31, for which R373 gives no treatment, are ignored (DESIGN CHOICE,
notes/assumptions/50.md). -/
def execPmig (f : FmtY) (s0 : State) : Host.Outcome State Fault Refusal :=
  .next (
    if s0.me.level = .u then takeTrap (Trap.scalar .illegal (wordOf (.pmig f))) s0
    else
      let s := settleSome s0.cur s0
      let a := s.sr f.sa
      if a.toNat % 32 ≠ 0 then takeTrap (Trap.scalar .align a) s
      else
        match vread (hartWho s s.cur) .load a.toNat 32 s with
        | (_, .error .stall) => s
        | (s1, .error (.trap t)) => takeTrap t.asScalar s1
        | (s1, .ok d) =>
          match (translate (hartWho s1 s1.cur) .load a.toNat 32 s1).2 with
          | .ok p =>
            match p.loc with
            | .dev pa =>
              let ch := channelOf pa
              let r := leNat d
              if 16 ≤ (s1.migs.filter fun m => decide (m.chan = ch)).length then retire (s1.setSr f.sd ones)
              else
                let m : Mig :=
                  { id := s1.nextId, asid := s1.asidOf s1.cur, serial := s1.serialOf s1.cur, cluster := clusterOf s1.myCore
                    record := a, chan := ch, va := nbits r 0 64, dest := nbits r 64 64, size := nbits r 192 8
                    tier := nbits r 200 8, leaves := [] }
                retire ({ s1 with migs := s1.migs ++ [m], nextId := s1.nextId + 1 }.setSr f.sd 0)
            | _ => takeTrap (Trap.scalar .prot a) s1
          | .error c => takeTrap (Trap.scalar c a) s1)

/-! ## Controllers -/

/-- The address of slot i of a ring register: ADDR and LGD (R375, R377). -/
def ringSlot (r : Word) (i : Nat) : Nat := fld r 12 40 * 2 ^ 12 + 16 * (i % 2 ^ (fld r 8 4 + 6))

/-- A 16-byte entry of a device ring. -/
def putRing (r : Word) (i x : Nat) (s : State) : State := ovuneWrite (ringSlot r i) (leBytes 16 x) s

/-- A promotion proposal (R375): a region's count, VA and ASID; a full ring drops it. Where no access named a virtual
address, the VA is a free value (DESIGN CHOICE, notes/assumptions/8.md). -/
def proposal (p : Nat × Option Nat × Nat) (s : State) : State :=
  let r := s.regs
  let va := p.2.1.getD ((Config.unstated s.fresh).toNat / 2 ^ 21 * 2 ^ 21)
  if fld r.hotRing 12 40 = 0 ∨ r.hotTail - r.hotHead = wd (2 ^ (fld r.hotRing 8 4 + 6)) then s
  else
    let s1 := putRing r.hotRing r.hotTail.toNat (va + p.2.2 % 2 ^ 11 * 2 ^ 64 + p.1 % 2 ^ 32 * 2 ^ 96) s.bump
    { s1 with regs := { s1.regs with hotTail := s1.regs.hotTail + 1 } }

/-- `HOT_WINDOW` (R375): the regions that reached HOTTH are proposed, and the next window counts from 0. -/
def execHotWindow (s : State) : Host.Outcome State Fault Refusal :=
  let due := s.hot.filter fun p => decide (s.regs.hotTh.toNat ≤ p.2.1)
  .next { due.foldl (fun s p => proposal p.2 s) s with hot := [] }

/-- An entry of the scrub log (R377): kind 1 corrected, 2 marked. -/
def scrubLog (pa kind : Nat) (s : State) : State :=
  if fld s.regs.slogRing 12 40 = 0 then s
  else
    let ms := s.time.toNat / 1000000
    let s1 := putRing s.regs.slogRing s.regs.slogTail.toNat
      (pa + channelOf pa * 2 ^ 64 + kind * 2 ^ 80 + ms % 2 ^ 32 * 2 ^ 96) s
    { s1 with regs := { s1.regs with slogTail := s1.regs.slogTail + 1 } }

/-- `RAKE_SCRUB` (R377): the rake reads a line and corrects it, or marks it with the bittern pattern. -/
def execRakeScrub (pa : Nat) (found : Scrub) (s : State) : Host.Outcome State Fault Refusal :=
  let a := pa / 64 * 64
  .next (
    if !(inHbm a || inLp a) then s
    else match found with
      | .clean => s
      | .corrected => scrubLog a 1 s
      | .uncorrectable =>
        let l := s.line (a / 64)
        if l.poison then s else scrubLog a 2 (s.setLine (a / 64) { l with poison := true }))

/-- `BANK_REFRESH` (R376): only latency changes. -/
def execBankRefresh (_bank : Nat) (s : State) : Host.Outcome State Fault Refusal := .next s

/-! ## Host accesses -/

/-- The key and counters that HDMCTX names, or none for an ASID that is ABSENT or TORN_DOWN (R437). -/
def hdmCry (s : State) : Option Cry :=
  let a := fld s.regs.hdmCtx 0 11
  if s.regs.hdmCtx.getLsbD 11 then some Cry.ovune
  else if (s.ctx a).st = .absent ∨ (s.ctx a).st = .tornDown then none
  else some { asid := a, buf := 0, mode := .rw }

/-- `HOST_MEMORY_ACCESS` (R437): a host access within the ranges of the two decoders; a read that fails its check returns
what no key recovers. -/
def execHostMemoryAccess (pa : Nat) (rq : HostReq) (s : State) : Host.Outcome State Fault Refusal :=
  let n := match rq with
    | .read n => n
    | .write d => d.length
  let last := pa + n - 1
  let hot : State → State := fun s => (piecesOf pa n).foldl (fun s p => countHot (fld s.regs.hdmCtx 0 11) none p.1 s) s
  .next (
    if n = 0 ∨ !((inHbm pa && inHbm last) || (inLp pa && inLp last)) then s
    else match hdmCry s, rq with
      | none, .read n => { s with reply := List.replicate n 0xFF }
      | none, .write _ => s
      | some c, .read n =>
        if (piecesOf pa n).any fun p => (lineFault s c p.1).isSome then
          { (hot s).bump with reply := (List.range n).map fun i => Config.unreadable (64 * s.fresh + i) }
        else { hot s with reply := bsRead s.mem pa n }
      | some c, .write d => tryHost { cry := c, pa := pa, data := d } (hot s))

end Sys2Proof.Machine
end

