-- ==== Sys2Proof/Machine/Link.lean ====
section
/-!
DEFINITION. Link ports, flits and routes (R413 to R418), liveness and lost devices (R419, R354), and the accesses of peers
to this device's memory (R420).
-/
namespace Sys2Proof.Machine

open Sys2Proof

/-- The port enters another state: REPLAY counts from there (R415, R416). -/
def Port.enter (x : Port) (st : PortState) : Port := { x with st := st, replay := 0, wantSeq := none }

/-- The port starts training (R416). -/
def Port.train (x : Port) : Port := { x.enter .training with attempt := 1, lanes := 0 }

/-- The port stops: its unacknowledged flits are discarded (R416). -/
def Port.stop (x : Port) (st : PortState) : Port := { x.enter st with unacked := [], lanes := 0 }

/-! ## Port states (R416) -/

/-- Remote stores of the hart that a test picks by their identity will never be acknowledged (R416). -/
def Hart.neverAcked (p : Nat → Bool) (h : Hart) : Hart :=
  { h with unacked := h.unacked.map fun r => if p r.id then { r with gone := true } else r }

/-- A port holds the request of a remote store among its unacknowledged flits. -/
def Port.holds (x : Port) (i : Nat) : Bool := x.unacked.any fun f => decide (f.store = some i)

/-- The stores whose requests stood in a port's unacknowledged flits before a change and do not stand there after it count as
never acknowledged (R416). -/
def discarded (before after : Port) (s : State) : State :=
  if before.unacked.all fun f => f.store.isNone then s
  else (s.harts.map Prod.fst).foldl (fun s h => s.modHart h (Hart.neverAcked fun i => before.holds i && !(after.holds i))) s

/-- A port changes state. The stores whose flits it discards are never acknowledged; flits that wait for it alone are gone
once it is DOWN or FAILED; the others look for their way again. -/
def changePort (p : Nat) (f : Port → Port) (s : State) : State :=
  if 24 ≤ p then s
  else
    let s1 := discarded (s.port p) (f (s.port p)) (s.modPort p f)
    let dead := decide ((s1.port p).st = .down ∨ (s1.port p).st = .failed)
    pump { s1 with outq := if dead then s1.outq.filter fun x => decide (x.port ≠ some p) else s1.outq }

/-- `LINK_ENABLE` (R416): EN is written 1; a DOWN port starts training, with fresh sequence numbers. -/
def execLinkEnable (p : Nat) (s : State) : Host.Outcome State Fault Refusal :=
  .next (changePort p (fun x =>
    let y := { x with en := true }
    if x.st = .down then { y.train with txSeq := 0, rxSeq := 0, unacked := [] } else y) s)

/-- `LINK_DISABLE` (R416): EN is written 0. -/
def execLinkDisable (p : Nat) (s : State) : Host.Outcome State Fault Refusal :=
  .next (changePort p (fun x =>
    let y := { x with en := false }
    if x.st = .down then y else y.stop .down) s)

/-- `DRAIN` (R416): DRAIN is written 1. -/
def execDrain (p : Nat) (s : State) : Host.Outcome State Fault Refusal :=
  .next (changePort p (fun x =>
    let y := { x with drain := true }
    if x.live then y.enter .draining else y) s)

/-- `TRAINING_END` (R416): a training attempt ends with a number of lanes and the far end's device and port; flits kept
across the training are sent again in order. -/
def execTrainingEnd (p lanes peer peerPort : Nat) (s : State) : Host.Outcome State Fault Refusal :=
  .next (flushHeld (changePort p (fun x =>
    if x.st ≠ .training then x
    else if 4 ≤ lanes then
      { x.enter (if 8 ≤ lanes then .up else .degraded) with
        lanes := if 8 ≤ lanes then 8 else 4, peer := BitVec.ofNat 16 peer, peerPort := BitVec.ofNat 5 peerPort
        wire := x.wire ++ x.unacked.map Sent.flit }
    else if x.attempt < 3 then { x with attempt := x.attempt + 1 }
    else x.enter .failed) s))

/-- `LANE_LOST` (R416): the port trains again and keeps its unacknowledged flits. -/
def execLaneLost (p : Nat) (s : State) : Host.Outcome State Fault Refusal :=
  .next (changePort p (fun x => if x.live then x.train else x) s)

/-- `REPLAY_LIMIT` (R416): 16 consecutive replays have failed. -/
def execReplayLimit (p : Nat) (s : State) : Host.Outcome State Fault Refusal :=
  .next (changePort p (fun x => if x.live then x.train else x) s)

/-- `DEAD_TIME` (R416): no flit has been received for DEADUS. -/
def execDeadTime (p : Nat) (s : State) : Host.Outcome State Fault Refusal :=
  .next (changePort p (fun x => if x.live || decide (x.st = .draining) then x.stop .failed else x) s)

/-- `DRAIN_DONE` (R416): every flit sent has been acknowledged. -/
def execDrainDone (p : Nat) (s : State) : Host.Outcome State Fault Refusal :=
  .next (changePort p (fun x =>
    if x.st = .draining ∧ x.unacked = [] then { x.enter .down with drain := false, en := false, lanes := 0 } else x) s)

/-! ## Flits (R417) -/

/-- `HEARTBEAT` (R419): one on each UP, DEGRADED or DRAINING port, and one for each other member of each active call, along
its route; the collective engines send on what they can. -/
def execHeartbeat (s : State) : Host.Outcome State Fault Refusal :=
  let ports := (List.range 24).filter fun p => (s.port p).live || decide ((s.port p).st = .draining)
  let s1 := ports.foldl (fun s p => sendFlit p 1 s) s
  let dests := (s.calls.filter Call.live).flatMap fun c => c.memb.filter fun d => d != devNo s
  .next (flushCalls (dests.foldl (fun s d => sendTo d 1 s) s1))

/-- A replay is requested from the first bad SEQ. -/
def Port.askReplay (x : Port) : Port :=
  { x with wantSeq := some x.rxSeq, replay := if x.replay = BitVec.allOnes 8 then x.replay else x.replay + 1 }

/-- TYPE of a flit. -/
def flitType (f : List Byte) : Nat := leNat ((f.drop 56).take 1)

/-- What an in-order flit does at the port it came in by: it is delivered; a response or acknowledgement frees the flits that
it acknowledges, and one that asks for a replay makes the rest leave again (R417). `here` says that it is for this
device. -/
def Port.take (here : Bool) (flit : List Byte) (x : Port) : Port :=
  let y := { x with rxSeq := x.rxSeq + 1, wantSeq := none, got := if here then x.got ++ [flit] else x.got }
  if flitType flit = 3 then
    let left := x.unacked.drop (Config.flitAcks flit)
    { y with unacked := left, wire := if Config.flitReplay flit then x.wire ++ left.map Sent.flit else x.wire }
  else y

/-- A flit that is addressed to another device leaves by this device's routes, in its slice (R414, R418). -/
def forward (flit : List Byte) (s : State) : State :=
  queueFlit { port := none, dest := (Config.flitDest flit).toNat, ty := flitType flit, slice := leNat ((flit.drop 57).take 1),
              payload := flit.take 56, store := none } s

/-- A response flit acknowledges a remote store: which ones, R417 gives no layout for; never one whose request has not left or
was discarded (R416, R419). -/
def Remote.ackedBy (flit : List Byte) (outq : List OutFlit) (r : Remote) : Bool :=
  !r.gone && !(outq.any fun f => decide (f.store = some r.id)) && Config.acksStore flit r.id

/-- A response flit acknowledges remote stores of the harts; a store is visible at the peer before that (R420). -/
def ackStores (flit : List Byte) (s : State) : State :=
  (s.harts.map Prod.fst).foldl (fun s h =>
    if (s.hart h).unacked.any (Remote.ackedBy flit s.outq) then
      (settleAll h s).modHart h fun x => { x with unacked := x.unacked.filter fun r => !(r.ackedBy flit s.outq) }
    else s) s

/-- `FLIT_RECEIVE` (R414, R417): a flit is acknowledged, and delivered or forwarded, once and in order; a bad or early one
asks for a replay; one seen before is dropped. -/
def execFlitReceive (p : Nat) (flit : List Byte) (s : State) : Host.Outcome State Fault Refusal :=
  let crcOk := decide (flit.length = 64 ∧ leNat (flit.drop 60) = (crc32c (flit.take 60)).toNat)
  let ty := flitType flit
  let seq : BitVec 12 := BitVec.ofNat 12 (leNat ((flit.drop 58).take 2))
  let x := s.port p
  let ask : State := sendFlit p 3 (s.modPort p Port.askReplay)
  let other := decide (ty ≠ 0 ∧ (Config.flitDest flit).toNat ≠ devNo s)
  .next (
    if 24 ≤ p ∨ !(x.live || decide (x.st = .draining)) then s
    else if !crcOk || decide (5 < ty) then ask
    else if seq = x.rxSeq then
      let s1 := s.modPort p (Port.take (!other) flit)
      let s2 := if ty = 3 then (if other then pump s1 else ackStores flit (pump s1)) else sendFlit p 3 s1
      flushCalls (if other then forward flit s2 else s2)
    else if (x.rxSeq - seq).toNat ≤ 2048 then s
    else ask)

/-! ## Routes and lost devices -/

/-- `ROUTE_ENTRY_WRITE` (R414): the RW fields of an entry are stored and the lost declaration of the device is cleared; what
waited for a route looks for it again. -/
def execRouteEntryWrite (d : Nat) (v : Word) (s : State) : Host.Outcome State Fault Refusal :=
  .next (if 64 ≤ d then s
    else flushHeld (pump { s with routes := s.routes.set! d (v &&& 0x19F1F), lostDevs := s.lostDevs.filter fun x => x != d }))

/-- The store goes to a device. -/
def PStore.goesTo (d : Nat) (p : PStore) : Bool := match p.loc with
  | .peer e _ => decide (e = d)
  | _ => false

/-- The hart's unacknowledged stores to a lost device are dropped, in their order (R419). -/
def Hart.dropStores (d : Nat) (h : Hart) : Hart :=
  { h with
    unacked := h.unacked.filter fun r => r.dev != d
    dropped := h.dropped ++ h.unacked.filter fun r => r.dev == d
    pend := h.pend.filter fun p => !(p.goesTo d) }

/-- An active call with the lost device as a member aborts with MEMBER_LOST, unless that member's report had arrived; in SETUP
none has (R428, R431). -/
def loseMember (d : Nat) (i : Nat) (s : State) : State :=
  match s.call? i with
  | none => s
  | some c =>
    if !c.live || !(c.memb.contains d) || !(c.kept s) then s
    else if c.st ≠ .setup ∧ Config.reportArrived s.fresh = true then s.bump
    else abortAll c 1 d s.bump

/-- A device may be declared lost (R419): it is a member of an active call, or no port that its route entry names is UP or
DEGRADED. -/
def maybeLost (d : Nat) (s : State) : Bool :=
  (s.calls.any fun c => c.live && c.kept s && c.memb.contains d) || (routePort s d).isNone

/-- `DEVICE_LOST` (R419): a device other than this one is declared lost. -/
def execDeviceLost (d : Nat) (s : State) : Host.Outcome State Fault Refusal :=
  .next (
    if 64 ≤ d ∨ d = devNo s ∨ s.lostDevs.contains d = true ∨ maybeLost d s = false then s
    else
      let s1 := releaseLost d s
      let s2 := (s1.harts.map Prod.fst).foldl (fun s h => s.modHart h (Hart.dropStores d))
        { s1 with lostDevs := s1.lostDevs ++ [d]
                  outq := s1.outq.filter fun f => f.store.isNone || decide (f.dest ≠ d) }
      flushHeld ((s2.calls.map fun (c : Call) => c.id).foldl (fun s i => loseMember d i s) s2))

/-! ## Remote accesses (R420) -/

/-- The declared mode by its code (R194). -/
def modeOfCode : Nat → Mode
  | 1 => .ro
  | 2 => .wo
  | 3 => .rw
  | _ => .none

/-- A context of this device that serves a peer's accesses (R420). -/
def servesPeer (x : Ctx) : Bool := decide (x.st = .resident ∨ x.st = .switchedOut ∨ x.st = .faulted)

/-- The record after a peer's update, or none where the update has no effect on it (R353, R355, R356, R358). -/
def barUpdate (u : BarUpdate) (x : Nat) : Option Nat :=
  match u with
  | .arrive => if recState x = 3 then none else some (recArrive x)
  | .withdraw gen => if recGen x = gen.toNat ∧ recState x = 1 ∧ 0 < recCount x then some (recWithdraw x) else none
  | .fault cause hart dev => if recState x = 3 then none else some (recFault cause.toNat hart dev x)
  | .set target => if recState x = 1 ∧ 0 < recCount x then none else some (recSet target.toNat x)

/-- What a peer's request writes where the bytes there are `old`; nothing, for a load and for an update without effect. -/
def remoteData (rq : RemoteReq) (old : List Byte) : List Byte :=
  match rq with
  | .load _ => []
  | .store d => d
  | .barrier u => match barUpdate u (leNat old) with
    | some y => leBytes 24 (recClean y)
    | none => []
  | .amo aop size v e => leBytes size (amoFn aop (8 * size) (leNat old) (v.toNat % 2 ^ (8 * size)) (e.toNat % 2 ^ (8 * size)))

/-- A peer's barrier update that names no address of a record (R351). -/
def misplaced (rq : RemoteReq) (pa : Nat) : Bool :=
  match rq with
  | .barrier _ => decide (pa % 64 ≠ 0)
  | _ => false

/-- `REMOTE_ACCESS` (R420): performed at this device's point of coherence under the context of the same ASID; the reply
holds what the access read, and is empty where it is refused. A response goes back to the device (R417). -/
def execRemoteAccess (dev asid pa buf mode : Nat) (rq : RemoteReq) (s : State) : Host.Outcome State Fault Refusal :=
  let c : Cry := { asid := asid, buf := buf, mode := modeOfCode mode }
  let n := match rq with
    | .load n => n
    | .store d => d.length
    | .amo _ size _ _ => size
    | .barrier _ => 24
  let stores := match rq with
    | .load _ => false
    | _ => true
  let reads := match rq with
    | .store _ => false
    | _ => true
  let ps := piecesOf pa n
  let refuse : State := sendTo dev 3 { s with reply := [] }
  .next (
    if !(servesPeer (s.ctx asid)) || decide (dev = devNo s) || decide ((s.ctx asid).nbuf < buf) || decide (n = 0)
        || misplaced rq pa
        || !((inHbm pa && inHbm (pa + n - 1)) || (inLp pa && inLp (pa + n - 1))) then refuse
    else if stores && decide (c.mode = .ro) then refuse
    else if stores && ps.any fun p => migHolds s p.1 then s
    else if reads && ps.any fun p => (lineFault s c p.1).isSome then refuse
    else if decide (remoteData rq (bsRead s.mem pa n) ≠ []) && ps.any fun p => cntFull s [] c p.1 then refuse
    else
      let old := bsRead s.mem pa n
      let s1 := ps.foldl (fun s p => countHot asid none p.1 s) { s with reply := if reads then old else [] }
      let d := remoteData rq old
      if d = [] then sendTo dev 3 s1
      else
        sendTo dev 3 (ps.foldl (fun s p => writeLine c p.1 ((d.drop (p.1 - pa)).take p.2) s) s1))

end Sys2Proof.Machine
end

