-- ==== Sys2Proof/Machine/Sha.lean ====
section
/-!
DEFINITION. SHA-256 (FIPS 180-4), which the measurement chain (R441) and the fatal dump (R239) use.
-/
namespace Sys2Proof.Machine

open Sys2Proof

/-- The largest number with at most `n` more binary digits whose k-th power does not exceed x, digit by digit. -/
def rootDigits (k x : Nat) : Nat → Nat → Nat
  | 0, r => r
  | n + 1, r => rootDigits k x n (if (r + 2 ^ n) ^ k ≤ x then r + 2 ^ n else r)

/-- The first 32 bits of the fractional part of the k-th root of p, by which FIPS 180-4 defines its constants. -/
def rootFraction (k p : Nat) : BitVec 32 := BitVec.ofNat 32 (rootDigits k (p * 2 ^ (32 * k)) 40 0)

/-- The primes below a bound, in order. -/
def primesBelow (n : Nat) : List Nat :=
  (List.range n).filter fun p => 2 ≤ p && (List.range p).all fun d => d < 2 || p % d ≠ 0

/-- The round constants: the cube roots of the first 64 primes. -/
def shaK : List (BitVec 32) := (primesBelow 312).map (rootFraction 3)

/-- The initial hash value: the square roots of the first eight primes. -/
def shaH0 : List (BitVec 32) := (primesBelow 20).map (rootFraction 2)

/-- A big-endian number of bytes. -/
def beNat (l : List Byte) : Nat := l.foldl (fun n b => n * 256 + b.toNat) 0
/-- The n bytes of a number, big-endian. -/
def beBytes (n x : Nat) : List Byte := (leBytes n x).reverse

/-- The padded message. -/
def shaPad (l : List Byte) : List Byte :=
  l ++ [0x80] ++ List.replicate ((119 - l.length % 64) % 64) 0 ++ beBytes 8 (8 * l.length)

/-- The exclusive or of the rotations of a word to the right by each of some amounts. -/
def rotations (x : BitVec 32) (ns : List Nat) : BitVec 32 := ns.foldl (fun y n => y ^^^ x.rotateRight n) 0

/-- The message schedule, newest word first: `n` further words. -/
def shaSchedule : Nat → List (BitVec 32) → List (BitVec 32)
  | 0, w => w
  | n + 1, w =>
    let old := w.getD 14 0
    let new := w.getD 1 0
    shaSchedule n ((w.getD 15 0 + (rotations old [7, 18] ^^^ old >>> 3) + w.getD 6 0
      + (rotations new [17, 19] ^^^ new >>> 10)) :: w)

/-- The bits of y where x is set and of z where it is clear. -/
def choose (x y z : BitVec 32) : BitVec 32 := z ^^^ (x &&& (y ^^^ z))

/-- One round over the eight working variables, with the sum of the round's constant and word. -/
def shaRound (v : Vector (BitVec 32) 8) (kw : BitVec 32) : Vector (BitVec 32) 8 :=
  let feed := v[7] + rotations v[4] [6, 11, 25] + choose v[4] v[5] v[6] + kw
  let most := choose (v[0] ^^^ v[1]) v[2] v[0]
  #v[feed + rotations v[0] [2, 13, 22] + most, v[0], v[1], v[2], v[3] + feed, v[4], v[5], v[6]]

/-- One block of 64 bytes. -/
def shaBlock (h : List (BitVec 32)) (blk : List Byte) : List (BitVec 32) :=
  let w := (List.range 16).map fun i => BitVec.ofNat 32 (beNat ((blk.drop (4 * i)).take 4))
  let words := List.zipWith (· + ·) shaK (shaSchedule 48 w.reverse).reverse
  List.zipWith (· + ·) h (words.foldl shaRound (Vector.ofFn fun i => h.getD i 0)).toList

/-- The blocks of a padded message; `n` bounds them. -/
def shaBlocks : Nat → List (BitVec 32) → List Byte → List (BitVec 32)
  | 0, h, _ => h
  | n + 1, h, l => if l = [] then h else shaBlocks n (shaBlock h (l.take 64)) (l.drop 64)

/-- SHA-256 of a list of bytes. -/
def sha256 (l : List Byte) : List Byte :=
  let p := shaPad l
  (shaBlocks (p.length / 64) shaH0 p).flatMap fun w => beBytes 4 w.toNat

end Sys2Proof.Machine
end

