-- ==== Sys2Proof/Machine/Context.lean ====
section
/-!
DEFINITION. Contexts: their record, keys and commands (R166 to R171), and the measurement chain (R441).
-/
namespace Sys2Proof.Machine

open Sys2Proof

/-! ## CTXCMD -/

/-- A command of CTXCMD starts, with the STATUS it will show; while one runs, another is ignored (R168). -/
def ctxCmd (op asid status : Nat) (s : State) : State :=
  { s with regs := { s.regs with
    ctxGo := true, ctxOp := BitVec.ofNat 3 op, ctxAsid := BitVec.ofNat 11 asid, ctxStatus := BitVec.ofNat 8 status } }

/-- The bytes of the head of the measurement chain. -/
def chainBytes (s : State) : List Byte := leBytes 32 s.regs.chain.toNat

/-- An image is measured: the chain gains a link (R441). -/
def measure (image : List Byte) (s : State) : State :=
  { s with regs := { s.regs with chain := BitVec.ofNat 256 (leNat (sha256 (chainBytes s ++ sha256 image))) } }

/-- The context record at CTXADDR, read under Ovune's own key (R167); one that cannot be read is no record. -/
def ctxRecord (s : State) : Option Nat :=
  let a := s.regs.ctxAddr.toNat
  if (inHbm a || inLp a) && (lineFault s Cry.ovune a).isNone then some (leNat (readLoc s (.dev a) 64)) else none

/-- A field of a context record breaks R167, NFRAME is 0, or LQ is outside 1 to 8 (R168). -/
def ctxRecordBad (r : Nat) : Bool :=
  decide (nbits r 304 208 ≠ 0 ∨ nbits r 275 1 ≠ 0 ∨ nbits r 292 12 = 0 ∨ nbits r 276 4 = 0 ∨ 8 < nbits r 276 4
    ∨ nbits r 192 64 % 8 ≠ 0 ∨ nbits r 128 64 % 0x10_0000 ≠ 0 ∨ nbits r 64 64 % 0x1_0000 ≠ 0
    ∨ nbits r 0 64 % 0x1_0000 ≠ 0 ∨ 2 ^ 52 ≤ nbits r 0 64)

/-- The context of a record, CREATED under a key generation (R166, R169). -/
def ctxOf (r key : Nat) : Ctx :=
  { Ctx.absent with
    st := .created, root := nbits r 0 64, btab := nbits r 64 64, save := nbits r 128 64, sentry := wd (nbits r 192 64)
    evq := nbits r 256 16, prio := nbits r 272 3, lq := nbits r 276 4, nbuf := nbits r 280 12, nframe := nbits r 292 12
    key := key }

/-- The buffer table of a context is stored entry by entry (R169, R172). -/
def storeTable (asid : Nat) (s : State) : State :=
  (List.range ((s.ctx asid).nbuf + 1)).foldl (fun s b => storeBuf asid b s) s

/-- `CREATE` (R166, R168, R169). -/
def execCreate (asid : Nat) (s : State) : Host.Outcome State Fault Refusal :=
  .next (
    if s.regs.ctxGo ∨ 2048 ≤ asid then s
    else if (s.ctx asid).st ≠ .absent then ctxCmd 1 asid 2 s
    else match ctxRecord s with
      | none => ctxCmd 1 asid 1 s
      | some r =>
        if ctxRecordBad r then ctxCmd 1 asid 1 s
        else
          let k := s.keyGen + 1
          let s1 := storeTable asid ({ s with keyGen := k }.setCtx asid (ctxOf r k))
          ctxCmd 1 asid 0 (measure (Config.runtimeImage s1.fresh) s1.bump))

/-- `SWITCH_OUT` (R169, R213): every group is saved by force, the queues switch out; the command ends when the context
stands still. -/
def execSwitchOut (asid : Nat) (s : State) : Host.Outcome State Fault Refusal :=
  .next (
    if s.regs.ctxGo ∨ 2048 ≤ asid then s
    else if (s.ctx asid).st = .resident then switchOutQueues asid (forceSaveAll asid (ctxCmd 2 asid 0 s))
    else ctxCmd 2 asid 3 s)

/-- `SWITCH_IN` (R169, R170). -/
def execSwitchIn (asid : Nat) (s : State) : Host.Outcome State Fault Refusal :=
  .next (
    if s.regs.ctxGo ∨ 2048 ≤ asid then s
    else
      let x := s.ctx asid
      if x.st ≠ .switchedOut then ctxCmd 3 asid 3 s
      else if x.held then ctxCmd 3 asid 0 (s.setCtx asid { x with st := .faulted, held := false })
      else ctxCmd 3 asid 0 (switchInQueues asid (s.setCtx asid { x with st := .resident })))

/-- The events of a context are posted, oldest first, as far as its ring takes them (R200, R238; DEDUCED,
notes/assumptions/32.md). -/
def postEvents (asid : Nat) : List (BitVec 512) → State → State
  | [], s => s
  | e :: l, s => match ringPost asid e s with
    | (s1, .at _) => postEvents asid l s1
    | _ => s

/-- The migrations of a context stop: MIG is cleared and each page stays at its source, with no STATUS, and the writes that
waited perform (DEDUCED, notes/assumptions/32.md). -/
def endMigs (asid : Nat) (s : State) : State :=
  let mine := s.migs.filter fun m => m.asid = asid
  if mine = [] then s
  else
    let s1 := mine.foldl (fun s m => clearMig m s) s
    let s2 := flushHeld { s1 with migs := s1.migs.filter fun m => m.asid ≠ asid }
    retryHost s2.heldHost s2

/-- The last levels of an ABORTED kernel complete where they were held (R197, R200). -/
def finishLast (k : Nat) (s : State) : State :=
  match s.kernel? k with
  | none => s
  | some x => if x.st = .aborted ∧ x.finished = false then finishKernel true k s else s

/-- A context's work is ended, the events of its last levels posted, and what the device holds of it dropped (R169, R200,
R378). -/
def teardown (asid : Nat) (s : State) : State :=
  let ks := (s.kernels.filter fun p => p.2.asid = asid).map Prod.fst
  let s0 := ks.foldl (fun s k => finishLast k (abortKernel k s)) (endMigs asid s)
  let s1 := if (s0.ctx asid).ringBad then s0 else postEvents asid (s0.ctx asid).events s0
  let s2 := { detachQueues asid s1 with
    tlb := s1.tlb.filter fun p => p.2.asid ≠ asid
    copies := s1.copies.filter fun c => c.asid ≠ asid
    tables := s1.tables.filter fun t => t.asid ≠ asid
    chq := s1.chq.map fun (p : Nat × List ChItem) => (p.1, p.2.filter fun
      | .table t => decide (t.asid ≠ asid)
      | .run _ => true)
    held := s1.held.filter fun w => w.who.asid ≠ asid
    calls := s1.calls.filter fun c => c.asid ≠ asid }
  storeTable asid (s2.modCtx asid fun x => { x with st := .tornDown, held := false, bufs := [], events := [] })

/-- `TEARDOWN` (R169): zeroisation starts; the command ends once every unit has confirmed it. -/
def execTeardown (asid : Nat) (s : State) : Host.Outcome State Fault Refusal :=
  .next (
    if s.regs.ctxGo ∨ 2048 ≤ asid then s
    else if (s.ctx asid).st = .absent ∨ (s.ctx asid).st = .tornDown then ctxCmd 4 asid 3 s
    else ctxCmd 4 asid 0 (teardown asid s))

/-- The harts of a context that faulted it enter SENTRY again at level S, on the same level-U trap (R171). -/
def reenter (asid : Nat) (s : State) : State :=
  let sentry := (s.ctx asid).sentry
  (groupsOf asid s).foldl (fun s g => match s.group? g with
    | none => s
    | some x => x.harts.foldl (fun s h => s.modHart h fun y =>
        if y.fs then { y with fs := false, level := .s, pc := sentry, wait := none, sbank := Vector.replicate 8 0 } else y) s) s

/-- The switched-out queues of a context that hold work may be switched in again (R188). -/
def recallQueues (asid : Nat) (s : State) : State :=
  (queuesOf asid s).foldl (fun s q => match s.queue? q with
    | none => s
    | some x => if x.hasWork then noteCandidate q s else s) s

/-- `RESUME` (R169, R171, R446). -/
def execResume (asid : Nat) (s : State) : Host.Outcome State Fault Refusal :=
  .next (
    if s.regs.ctxGo ∨ 2048 ≤ asid then s
    else if (s.ctx asid).st ≠ .faulted then ctxCmd 5 asid 3 s
    else ctxCmd 5 asid 0 (recallQueues asid (reenter asid (s.modCtx asid fun x => { x with st := .resident, ringBad := false }))))

/-- `BAD_OP` (R168): an OP that is no command. -/
def execBadOp (op asid : Nat) (s : State) : Host.Outcome State Fault Refusal :=
  .next (if s.regs.ctxGo ∨ 2048 ≤ asid ∨ (1 ≤ op ∧ op ≤ 5) then s else ctxCmd op asid 4 s)

/-- `ZEROISATION_CONFIRMED` (R166, R169): the ASID is free. -/
def execZeroisationConfirmed (asid : Nat) (s : State) : Host.Outcome State Fault Refusal :=
  .next (if (s.ctx asid).st = .tornDown then { s with ctxs := smDel s.ctxs asid } else s)

/-! ## Completion -/

/-- A run waits for a `TRET` (R385). -/
def Run.waits (r : Run) : Bool := decide (r.st = .held ∨ r.st = .pitted)

/-- An earlier entry of a channel's queue that cannot start: a table whose slot a run that waits still uses, or a run of a
context whose engines do not work (R385, R387). -/
def itemStuck (s : State) (ch : Nat) (i : ChItem) : Bool :=
  match i with
  | .table t => s.runs.any fun x => decide (x.ch = ch ∧ x.slot = t.slot) && x.waits
  | .run j => match s.run? j with
    | none => false
    | some x => !(enginesWork s x.asid)

/-- A QUEUED run that cannot start before a `TRET` or a SWITCH_IN: both lanes of its channel are held by runs that wait, or an
earlier entry of its queue cannot start (R385, R387). -/
def runStopped (s : State) (r : Run) : Bool :=
  decide (r.st = .queued) &&
    (decide (2 ≤ (s.runs.filter fun x => decide (x.ch = r.ch) && x.waits).length) ||
      ((s.chQueue r.ch).takeWhile fun i => decide (i ≠ .run r.id)).any (itemStuck s r.ch))

/-- Every group of the context is saved, and its engines have finished or reached their stopping points (R169). -/
def standsStill (asid : Nat) (s : State) : Bool :=
  (s.groups.all fun p => decide (p.2.asid ≠ asid ∨ p.2.st = .preempted)) &&
    (s.copies.all fun c => decide (c.asid ≠ asid) || c.stopped) &&
    (s.runs.all fun r => decide (r.asid ≠ asid ∨ r.st = .held ∨ r.st = .pitted) || runStopped s r) &&
    (s.queries.all fun q => decide (q.asid ≠ asid ∨ q.st = .held)) && (s.migs.all fun m => m.asid ≠ asid) &&
    (s.held.all fun w => w.who.asid ≠ asid)

/-- The context leaves RESIDENT at the end of a SWITCH_OUT (R169). -/
def leaveResident (asid : Nat) (s : State) : State :=
  let s1 := switchOutQueues asid s
  { s1 with tlb := s1.tlb.filter fun p => p.2.asid ≠ asid }.modCtx asid fun x => { x with st := .switchedOut }

/-- GO clears and the management vector is raised (R168, R438). -/
def ctxDone (s : State) : State := raiseMsix 0 { s with regs := { s.regs with ctxGo := false } }

/-- `CONTEXT_COMMAND_COMPLETE` (R168): the running command completes, where it can. -/
def execContextCommandComplete (s : State) : Host.Outcome State Fault Refusal :=
  let asid := s.regs.ctxAsid.toNat
  .next (
    if !s.regs.ctxGo then s
    else if s.switchingOut asid then
      if standsStill asid s then ctxDone (leaveResident asid s) else s
    else if s.regs.ctxOp = 4 ∧ s.regs.ctxStatus = 0 ∧ (s.ctx asid).st = .tornDown then s
    else ctxDone s)

end Sys2Proof.Machine
end

