-- ==== Sys2Proof/Machine/Control.lean ====
section
/-!
DEFINITION. The control instructions: R97.
-/
namespace Sys2Proof.Machine

open Sys2Proof

/-- A branch target: PC + 8 × the sign-extended offset (R97). -/
def target (pc : Word) {n : Nat} (off : BitVec n) : Word := pc + off.signExtend 64 * 8

/-- The condition codes of `BR` (R70). -/
def branches (cnd : BitVec 4) (a b : Word) : Bool :=
  match cnd.toNat with
  | 0 => a == b
  | 1 => a != b
  | 2 => a.slt b
  | 3 => !(a.slt b)
  | 4 => a.ult b
  | _ => !(a.ult b)

/-- `BR` (R97). -/
def execBr (f : FmtB) (s : State) : Host.Outcome State Fault Refusal :=
  .next (retireTo (if branches f.cnd (s.sr f.sa) (s.sr f.sb) then target s.me.pc f.off else s.me.pc + 8) s)

/-- `JMP` (R97). -/
def execJmp (f : FmtJ) (s : State) : Host.Outcome State Fault Refusal := .next (retireTo (target s.me.pc f.off) s)

/-- `CALL` (R97). -/
def execCall (f : FmtJ) (s : State) : Host.Outcome State Fault Refusal :=
  .next (retireTo (target s.me.pc f.off) (s.setSr f.sd (s.me.pc + 8)))

/-- `JR` (R97): the target is read before SD is written; a misaligned one traps ALIGN and writes nothing. -/
def execJr (f : FmtI) (s : State) : Host.Outcome State Fault Refusal :=
  let t := s.sr f.sa + immOf f
  .next (if t.toNat % 8 = 0 then retireTo t (s.setSr f.sd (s.me.pc + 8)) else takeTrap (Trap.scalar .align t) s)

/-- `LOOP` (R97): the count is decremented, and the branch taken while it is not 0. -/
def execLoop (f : FmtB) (s : State) : Host.Outcome State Fault Refusal :=
  let n := s.sr f.sa - 1
  .next (retireTo (if n = 0 then s.me.pc + 8 else target s.me.pc f.off) (s.setSr f.sa n))

end Sys2Proof.Machine
end

