-- ==== Sys2Proof/Machine/Platform.lean ====
section
/-!
DEFINITION. The host attachment and Ovune: the registers of BAR0 and BAR2 as the host writes and reads them (R6, R435), the
islands and the power cap (R439, R440), boot, attestation, reset and the fatal dump (R239, R441 to R444).
-/
namespace Sys2Proof.Machine

open Sys2Proof

/-! ## Islands and power (R439, R440) -/

/-- An island as reset leaves it: the highest frequency and no voltage yet (DESIGN CHOICE, notes/assumptions/6.md). -/
def Island.reset : Island := { mhz := 1200, mv := 0, stretch := none, cut := 0 }
/-- An island by its number. -/
def State.island (s : State) (i : Nat) : Island := smGet Island.reset s.islands i
/-- The state with an island changed. -/
def State.modIsland (s : State) (i : Nat) (f : Island → Island) : State :=
  { s with islands := smPut s.islands i (f (s.island i)) }

/-- `ISLAND_DVFS` (R439): the loop of an island chooses a frequency from 0.6 to 1.2 GHz, and a voltage, which is a free
value (DESIGN CHOICE, notes/assumptions/8.md). -/
def execIslandDvfs (i mhz : Nat) (s : State) : Host.Outcome State Fault Refusal :=
  .next (if 128 ≤ i ∨ mhz < 600 ∨ 1200 < mhz then s
    else s.bump.modIsland i fun x => { x with mhz := mhz, mv := Config.islandVoltage s.fresh, cut := 0 })

/-- `DROOP_STRETCH` (R439): the island's next cycle, which is that of the next step, is one period longer. -/
def execDroopStretch (i : Nat) (s : State) : Host.Outcome State Fault Refusal :=
  .next (if 128 ≤ i then s else s.modIsland i fun x => { x with stretch := some (s.clock + 1) })

/-- A cluster island under the power cap (R440): its frequency goes down by a step of 50 MHz, never below 600 MHz. -/
def Island.lower (x : Island) : Island :=
  let n := min 50 (x.mhz - 600)
  { x with mhz := x.mhz - n, cut := x.cut + n }

/-- The cap raises again what it has lowered (R440). -/
def Island.lift (x : Island) : Island :=
  let n := min (min 50 x.cut) (1200 - x.mhz)
  { x with mhz := x.mhz + n, cut := x.cut - min 50 x.cut }

/-- A change of every cluster island (R26, R440). -/
def modClusterIslands (f : Island → Island) (s : State) : State := (List.range 96).foldl (fun s i => s.modIsland i f) s

/-- `POWER_CAP_TICK` (R440): a millisecond ends with a measured DRAW. -/
def execPowerCapTick (draw : Nat) (s : State) : Host.Outcome State Fault Refusal :=
  let d : BitVec 16 := BitVec.ofNat 16 draw
  let limit := s.regs.pwrLimit.toNat
  let s1 := { s with regs := { s.regs with pwrDraw := d } }
  .next (
    if limit < d.toNat then
      modClusterIslands Island.lower { s1 with regs := { s1.regs with capped := true } }
    else if 100 * d.toNat ≤ 95 * limit then
      modClusterIslands Island.lift { s1 with regs := { s1.regs with capped := false } }
    else s1)

/-! ## Attestation (R443) -/

/-- `ATTCMD` (R443): the host requests a report. -/
def execAttcmd (s : State) : Host.Outcome State Fault Refusal :=
  .next (if s.fatal then s else { s with regs := { s.regs with attGo := true } })

/-- A signature of 29,792 bytes under the device key (R239, R443). -/
def signedBy (data : List Byte) : List Byte := padTo 29792 (Config.signature data)

/-- The host's nonce beside the report (R443), in device memory or the host's; where the line cannot be read, what comes of
it is free. -/
def nonce (s : State) (a : Nat) : List Byte :=
  if inHost a then bsRead s.hostMem a 32
  else if (lineFault s Cry.ovune a).isNone then readLoc s (.dev a) 32
  else (List.range 32).map fun i => Config.unreadable (64 * s.fresh + i)

/-- The first 128 bytes of the report (R443). -/
def reportHead (s : State) : List Byte :=
  [0x4B, 0x4D, 0x41, 0x54] ++ leBytes 4 1 ++ leBytes 2 (devNo s) ++ List.replicate 22 0 ++ chainBytes s
    ++ nonce s (s.regs.attAddr.toNat + 0x40) ++ List.replicate 32 0

/-- `ATTESTATION_REPORT` (R443): Ovune writes the report and raises vector 0. -/
def execAttestationReport (s : State) : Host.Outcome State Fault Refusal :=
  .next (
    if !s.regs.attGo then s
    else
      let head := reportHead s
      let s1 := ovuneWrite s.regs.attAddr.toNat (head ++ signedBy head) s.bump
      raiseMsix 0 { s1 with regs := { s1.regs with attGo := false } })

/-! ## Reset and boot (R442, R444) -/

/-- A line under a key that a reset has zeroised: it keeps its bytes, under a key generation that is gone (R444). -/
def Line.orphan (gone : Nat) (l : Line) : Line :=
  match l.key with
  | none => l
  | some 0 => { l with key := some gone }
  | some _ => l

/-- `DEVRST` (R444): every state at its reset value; the memories keep their bytes, and what has left the device stands
outside it. -/
def execDevrst (s : State) : Host.Outcome State Fault Refusal :=
  .next { State.reset with
    mem := s.mem, hostMem := s.hostMem, peerMem := s.peerMem, outMarks := s.outMarks, msix := s.msix, pcie := s.pcie
    mail := s.mail, ports := s.ports.map fun x => { Port.reset with wire := x.wire }
    lines := s.lines.map fun (p : Nat × Line) => (p.1, p.2.orphan (s.keyGen + 1))
    keyGen := s.keyGen + 1, nextId := s.nextId, fresh := s.fresh, agenda := s.agenda }

/-- The images of a boot in load order, each with its signature of 29,792 bytes: measured while they verify (R441, R442). -/
def bootImages : List (List Byte × List Byte) → State → State × Bool
  | [], s => (s, true)
  | (image, sig) :: rest, s => if sig.length = 29792 ∧ Config.verifies image sig = true then bootImages rest (measure image s) else (s, false)

/-- `FIRMWARE_BOOT` (R442): IDENT.BOOT becomes 1 when every image verifies, 2 at the first that does not. -/
def execFirmwareBoot (images : List (List Byte × List Byte)) (s : State) : Host.Outcome State Fault Refusal :=
  .next (
    if s.regs.boot ≠ 0 ∨ images = [] then s
    else match bootImages images s with
      | (s1, ok) => { s1 with regs := { s1.regs with boot := if ok then 1 else 2 } })

/-! ## The fatal dump (R239) -/

/-- The base of the fatal dump: the top 4 GiB of the LPDDR6 range (R239, R360). -/
def dumpBase : Nat := 0x01E7_0000_0000

/-- A section of the dump (R239). -/
def sectionOf (ty unit : Nat) (data : List Byte) : List Byte :=
  leBytes 2 ty ++ leBytes 2 unit ++ leBytes 4 0 ++ leBytes 8 data.length ++ data

/-- The vector register file of a core, lane by lane, as far as groups hold its lanes (R179). -/
def coreFile (s : State) (c : Nat) : List Byte :=
  (List.range 32).flatMap fun lane =>
    match s.groups.find? fun p => decide (p.2.core = c) && p.2.quads.getLsbD (lane / 4) with
    | some (_, x) => (match (List.range x.lanes).find? fun l => x.laneOf l == lane with
        | some l => (laneImages s x).getD l []
        | none => [])
    | none => (List.range 0x4000).map fun i => Config.lostLane (s.fresh + i)

/-- The sections of a type, one per unit in ascending unit number (R239). -/
def sections (s : State) (ty : Nat) : List Byte :=
  let cores := fun (f : Nat → List Byte) => (List.range 1536).flatMap fun c => sectionOf ty c (f c)
  match ty with
  | 1 => (List.range 6144).flatMap fun h => sectionOf ty h (hartArea s h true)
  | 2 => cores (coreFile s)
  | 3 => cores fun c => bsRead (s.core c).acc[0] 0 0x1_0000 ++ bsRead (s.core c).acc[1] 0 0x1_0000
  | 4 => cores fun c => bsRead (s.core c).spad 0 0x8_0000
  | 5 => cores fun c => (List.range 32).flatMap fun l => bsRead ((s.core c).lpriv[l]!) 0 0x1000
  | 6 => cores fun c => bsRead (s.core c).sdata 0 0x4000
  | _ => (List.range (Config.dumpUnits ty)).flatMap fun u => sectionOf ty u (Config.dumpSection ty u)

/-- The body of the dump. -/
def dumpBody (s : State) : List Byte := (List.range 8).flatMap fun i => sections s (i + 1)

/-- The first 96 bytes of the dump (R239). -/
def dumpHead (s : State) (reason : Nat) (body : List Byte) : List Byte :=
  [0x4B, 0x4D, 0x44, 0x50] ++ leBytes 4 1 ++ leBytes 8 body.length ++ leBytes 8 s.time.toNat ++ leBytes 8 reason
    ++ sha256 body ++ chainBytes s

/-- The dump with its signature, at its place. -/
def writeDump (reason : Nat) (s : State) : State :=
  let body := dumpBody s
  let head := dumpHead s reason body
  ovuneWrite dumpBase (head ++ signedBy head ++ List.replicate 2880 0 ++ body) s

/-- `FATAL_ERROR` (R239): every hart and engine stops, Ovune writes the dump and raises the management vector. -/
def execFatalError (cause cls unit detail : Nat) (s : State) : Host.Outcome State Fault Refusal :=
  .next (
    if s.fatal then s
    else
      let reason := cause % 64 + cls % 256 * 2 ^ 8 + unit % 2 ^ 16 * 2 ^ 16 + detail % 2 ^ 32 * 2 ^ 32
      let s1 := writeDump reason s
      raiseMsix 0 { s1 with fatal := true, regs := { s1.regs with boot := 3 } })

/-! ## Registers (R6, R435) -/

/-- A number held within bounds. -/
def clamp (lo hi x : Nat) : Nat := max lo (min hi x)

/-- The state with the device registers changed. -/
def State.modRegs (s : State) (f : Regs → Regs) : State := { s with regs := f s.regs }

/-- The state of an outcome that goes on; the meanings that a register write calls all do. -/
def goesOn (s : State) (o : Host.Outcome State Fault Refusal) : State :=
  match o with
  | .next t => t
  | _ => s

/-- A write of CTXCMD (R168). -/
def writeCtxCmd (v : Word) (s : State) : State :=
  let op := fld v 60 3
  let asid := fld v 0 11
  if s.regs.ctxGo then s
  else if fld v 63 1 = 0 then s.modRegs fun r => { r with ctxOp := BitVec.ofNat 3 op, ctxAsid := BitVec.ofNat 11 asid }
  else goesOn s (match op with
    | 1 => execCreate asid s
    | 2 => execSwitchOut asid s
    | 3 => execSwitchIn asid s
    | 4 => execTeardown asid s
    | 5 => execResume asid s
    | op => execBadOp op asid s)

/-- A write of QCMD (R181). -/
def writeQcmd (v : Word) (s : State) : State :=
  let op := fld v 60 3
  let q := fld v 0 16
  if fld v 63 1 = 0 then s.modRegs fun r => { r with qOp := BitVec.ofNat 3 op, qQueue := BitVec.ofNat 16 q }
  else goesOn s (match op with
    | 1 => execAttach q s
    | 2 => execDetach q s
    | 3 => execReset q s
    | op => execQcmdBadOp op q s)

/-- A write of a port's register (R415): EN and DRAIN. -/
def writePort (p : Nat) (v : Word) (s : State) : State :=
  let s1 := goesOn s (if fld v 0 1 = 1 then execLinkEnable p s else execLinkDisable p s)
  if fld v 1 1 = 1 then goesOn s1 (execDrain p s1) else s1.modPort p fun x => { x with drain := false }

/-- A write of LINKCFG (R413). -/
def writeLinkCfg (v : Word) (s : State) : State :=
  if s.ports.toList.all fun (x : Port) => decide (x.st = .down) then
    s.modRegs fun r => { r with linkCfg := wd (clamp 100 1000000 (fld v 12 20) * 2 ^ 12 + fld v 0 6) }
  else s

/-- HOURS of RAKECTL after a write (R377). -/
def hoursOf (n fresh : Nat) : Nat := if n = 0 then 1 else if 8760 < n then (Config.rakeHours fresh).toNat else n

/-- A write of a configuration register of BAR0 that takes no command (R168, R181, R212, R375, R377, R437, R440, R443). -/
def writeConfig (off : Nat) (v : Word) (s : State) : State :=
  match off with
  | 0x1000 => if s.regs.ctxGo then s else s.modRegs fun r => { r with ctxAddr := wd (fld v 6 46 * 64) }
  | 0x1010 => if s.queues = [] then s.modRegs fun r => { r with qtab := wd (fld v 16 36 * 2 ^ 16) } else s
  | 0x1020 => s.modRegs fun r => { r with rcldl := BitVec.ofNat 14 (clamp 1 10000 (fld v 0 14)) }
  | 0x1040 => s.modRegs fun r => { r with hotRing := wd (fld v 8 44 * 256) }
  | 0x1048 => s.modRegs fun r => { r with hotTh := v.setWidth 32 }
  | 0x1058 => s.modRegs fun r => { r with hotHead := v }
  | 0x1060 => (s.modRegs fun r => { r with rakeCtl := wd (hoursOf (fld v 16 16) s.fresh * 2 ^ 16 + fld v 0 1) }).bump
  | 0x1068 => s.modRegs fun r => { r with slogRing := wd (fld v 8 44 * 256) }
  | 0x1080 => writeLinkCfg v s
  | 0x1090 => s.modRegs fun r => { r with hdmCtx := wd (fld v 0 12) }
  | 0x1098 => s.modRegs fun r => { r with pwrLimit := BitVec.ofNat 16 (clamp 1500 4500 (fld v 0 16)) }
  | 0x10A0 => if s.regs.attGo then s else s.modRegs fun r => { r with attAddr := v }
  | _ => s

/-- A write of BAR0 (R435): the registers that run commands, the ports, the routes, the debug registers, and the rest. -/
def writeBar0 (off : Nat) (v : Word) (s : State) : State :=
  if off = 0x0008 then (if fld v 0 1 = 1 then goesOn s (execDevrst s) else s)
  else if off = 0x1008 then writeCtxCmd v s
  else if off = 0x1018 then writeQcmd v s
  else if off = 0x10A8 then (if fld v 0 1 = 1 then goesOn s (execAttcmd s) else s)
  else if 0x1100 ≤ off ∧ off < 0x11C0 then (if off % 8 = 0 then writePort ((off - 0x1100) / 8) v s else s)
  else if 0x1200 ≤ off ∧ off < 0x1400 then (if off % 8 = 0 then goesOn s (execRouteEntryWrite ((off - 0x1200) / 8) v s) else s)
  else if 0x2_0000 ≤ off ∧ off < 0x5_0000 then
    goesOn s (execDebugRegisterWrite ((off - 0x2_0000) / 0x20) (off % 0x20) v s)
  else writeConfig off v s

/-- `REGISTER_WRITE` (R6, R182, R435): a host write to a register of BAR0 or BAR2. -/
def execRegisterWrite (bar off : Nat) (v : Word) (s : State) : Host.Outcome State Fault Refusal :=
  .next (
    if bar = 0 then writeBar0 off v s
    else if bar = 2 ∧ off < 0x10_0000 ∧ off % 16 = 0 then goesOn s (execTail (off / 16) v s)
    else s)

/-- The code of a port state (R415). -/
def PortState.code : PortState → Nat
  | .down => 0 | .training => 1 | .up => 2 | .degraded => 3 | .draining => 4 | .failed => 5

/-- A port's register as a read gives it (R415). -/
def portReg (x : Port) : Word :=
  wd (x.peer.toNat * 2 ^ 48 + x.peerPort.toNat * 2 ^ 43 + x.replay.toNat * 2 ^ 32 + x.lanes.toNat * 2 ^ 24
    + x.st.code * 2 ^ 16 + b2n x.drain * 2 + b2n x.en)

/-- A register of BAR0 that has a fixed place, as a read gives it (R168, R181, R212, R239, R375, R377, R413, R437, R440,
R441, R443, R444). -/
def readConfig (off : Nat) (s : State) : Word :=
  let r := s.regs
  match off with
  | 0x0000 => wd (r.boot.toNat * 2 ^ 32 + 0x9400 * 2 ^ 16 + Config.siliconRev.toNat)
  | 0x1000 => r.ctxAddr
  | 0x1008 => wd (b2n r.ctxGo * 2 ^ 63 + r.ctxOp.toNat * 2 ^ 60 + r.ctxStatus.toNat * 2 ^ 48 + r.ctxAsid.toNat)
  | 0x1010 => r.qtab
  | 0x1018 => wd (b2n r.qGo * 2 ^ 63 + r.qOp.toNat * 2 ^ 60 + r.qStatus.toNat * 2 ^ 48 + r.qQueue.toNat)
  | 0x1020 => r.rcldl.setWidth 64
  | 0x1030 => wd dumpBase
  | 0x1040 => r.hotRing
  | 0x1048 => r.hotTh.setWidth 64
  | 0x1050 => r.hotTail
  | 0x1058 => r.hotHead
  | 0x1060 => r.rakeCtl
  | 0x1068 => r.slogRing
  | 0x1070 => r.slogTail
  | 0x1080 => r.linkCfg
  | 0x1090 => r.hdmCtx
  | 0x1098 => wd (r.pwrDraw.toNat * 2 ^ 32 + b2n r.capped * 2 ^ 16 + r.pwrLimit.toNat)
  | 0x10A0 => r.attAddr
  | 0x10A8 => wd (b2n r.attGo)
  | 0x10B0 => r.chain.setWidth 64
  | 0x10B8 => (r.chain >>> 64).setWidth 64
  | 0x10C0 => (r.chain >>> 128).setWidth 64
  | 0x10C8 => (r.chain >>> 192).setWidth 64
  | _ => 0

/-- What a host read of 8 bytes of BAR0 or BAR2 gives (R435); it changes nothing. TAIL and PROGRESS of a queue that is not
attached read as 0 (DESIGN CHOICE, notes/assumptions/43.md). -/
def barRead (bar off : Nat) (s : State) : Word :=
  if bar = 2 then
    match s.queue? (off / 16) with
    | none => 0
    | some x => if off % 16 = 0 then x.tailNow else if off % 16 = 8 then x.progNow else 0
  else if bar ≠ 0 ∨ off % 8 ≠ 0 then 0
  else if 0x1100 ≤ off ∧ off < 0x11C0 then portReg (s.port ((off - 0x1100) / 8))
  else if 0x1200 ≤ off ∧ off < 0x1400 then s.routes[(off - 0x1200) / 8]!
  else if 0x2_0000 ≤ off ∧ off < 0x5_0000 then
    let x := (s.hart ((off - 0x2_0000) / 0x20)).dbgReg
    match off % 0x20 with
    | 0x00 => x.ctl
    | 0x08 => x.watch0
    | 0x10 => x.watch1
    | _ => 0
  else readConfig off s

end Sys2Proof.Machine
end

