-- ==== Sys2Proof/Machine/VConv.lean ====
section
/-!
DEFINITION. Major 0x43, conversion, quantising and pixels: R126 to R128, with the blocks of R48.
-/
namespace Sys2Proof.Machine

open Sys2Proof

/-- A length that is no multiple of 16 for an sx destination (R127). -/
def raggedCheck (td : Tag) (n : Nat) : Option Trap :=
  if td.isSx && decide (n % 16 ≠ 0) then some (tagTrap td 0 true) else none

/-- A conversion to Tag(VD) (R126, R127): `plain` gives an element for a destination that is not sx from its draw,
`exact` the value that an sx destination's block quantises. -/
def runConversion (f : FmtV) (n : Nat) (plain : Tag → Rm → Nat → List (Tag × Nat) → Nat × Flags)
    (exact : List (Tag × Nat) → FVal × Flags) (s : State) : State :=
  let vd := f.vd.toNat
  let src := FmtV.sources f n
  let td := s.me.opTag 0 vd
  let tags := src.map (s.me.opTag 0)
  let rm := s.me.rmConv f.rm.toNat
  let refused := firstTrap
    [refuseAny (fun t => t = .kx) (td :: tags), capCheck s (withPos (td :: tags)), raggedCheck td s.me.len]
  if td.isSx then
    vecGo 0 [vd] src refused [] (fun xs s =>
      let h := s.me
      let cols := columns 0 h.len none xs
      let w := h.window td
      let b0 := w.1 / 16
      let r := blockResults td rm (h.active f.msk.toNat) (f.z = 1) (fun e => exact (rowAt cols e))
        ((w.2 + 15) / 16 - b0) b0 h.seed
      let acts := (List.range ((h.len + 15) / 16)).map fun b =>
        decide (f.z = 1) || (List.range 16).any fun i => h.active f.msk.toNat (16 * b + i)
      vecWrite vd td b0 r.1 acts r.2.1 (fun h => { h with seed := r.2.2 })
        { e1 := w.2, src := src, strips := stripFlags xs } s) s
  else
    runElementwise f
      { src := src, modAt := none, refused := refused, draws := rm = .rsto, fn := fun u xs => plain td rm u xs } s

/-- `VCVT` (R126): a converted to Tag(VD). -/
def execVcvt (f : FmtV) (s : State) : Host.Outcome State Fault Refusal :=
  .next (runConversion f 1
    (fun td rm u xs => let x := xs.getD 0 (.u8, 0); roundTo x.1 td rm (f.sat = 1) u x.2)
    (fun xs => let x := xs.getD 0 (.u8, 0); ((x.1.decode x.2).toF, 0)) s)

/-- `VQNT` (R127): the exact product a × b converted to Tag(VD), saturating. -/
def execVqnt (f : FmtV) (s : State) : Host.Outcome State Fault Refusal :=
  let operand : List (Tag × Nat) → Nat → Val := fun xs i => let x := xs.getD i (.u8, 0); x.1.decode x.2
  .next (runConversion f 2
    (fun td rm u xs => elemQnt td rm u (operand xs 0) (operand xs 1))
    (fun xs => qntProduct (operand xs 0) (operand xs 1)) s)

/-- The byte of a pixel group that is free: its register is bound, and the strip holds no more (R128 with R301, R302
gives none; DESIGN CHOICE, notes/assumptions/8.md). -/
def freeBytes (s : State) (n : Nat) : List Nat := (List.range n).map fun i => (Config.unstated (s.fresh + i)).toNat % 256

/-- The bytes of the packed groups that hold `n` pixels of a layout (R49). -/
def packedLen (lay n : Nat) : Nat := (n + (pixLayout lay).2 - 1) / (pixLayout lay).2 * pixGroupBytes lay

/-- The bit position of pixel e in the packed bytes (R49). -/
def pixelBit (lay e : Nat) : Nat :=
  e / (pixLayout lay).2 * pixGroupBytes lay * 8 + e % (pixLayout lay).2 * (pixLayout lay).1

/-- A number whose base-256 digits are bytes, lowest first. -/
def digits256 (l : List Nat) : Nat := l.foldr (fun b n => b % 256 + 256 * n) 0

/-- The tags that a pixel instruction needs (R128). -/
def refusePixels (need tags : List Tag) : Option Trap :=
  firstTrap ((tags.zip need).zipIdx.map fun p => if p.1.1 = p.1.2 then none else badTag p.1.1 p.2)

/-- `VPXUNP` (R128): pixels of VA's packed bytes to u16 elements. -/
def execVpxunp (f : FmtV) (s : State) : Host.Outcome State Fault Refusal :=
  let vd := f.vd.toNat
  let va := f.va.toNat
  let lay := f.vc.toNat
  let tags := [s.me.opTag 0 vd, s.me.opTag 0 va]
  .next (vecGo 0 [vd] [va] (refusePixels [.u16, .u8] tags) (withPos tags) (fun xs s =>
    let h := s.me
    let more := packedLen lay h.len - h.len
    let got := (xs.headD { tag := .u8, vals := [], skew := 0, flags := 0 }).vals
    let bound := (h.binding? va).isSome
    let rest := if bound then freeBytes s more else (List.range more).map fun i => h.elem va .u8 (h.len + i)
    let all := digits256 (got.take (packedLen lay h.len) ++ rest)
    let outs := (List.range h.len).map fun e =>
      if h.active f.msk.toNat e then some (nbits all (pixelBit lay e) (pixLayout lay).1)
      else if f.z = 1 then some 0 else none
    vecWhole vd .u16 outs [] (stripFlags xs) id [va] (if bound then { s with fresh := s.fresh + more } else s)) s)

/-- `VPXPAK` (R128): u16 elements to pixels in VD's packed bytes, clamped with SATF. A step's pixels fill whole groups of
bytes (R49). -/
def execVpxpak (f : FmtV) (s : State) : Host.Outcome State Fault Refusal :=
  let vd := f.vd.toNat
  let va := f.va.toNat
  let lay := f.vc.toNat
  let tags := [s.me.opTag 0 vd, s.me.opTag 0 va]
  let width := (pixLayout lay).1
  .next (vecGo 0 [vd] [va] (refusePixels [.u8, .u16] tags) (withPos tags) (fun xs s =>
    let h := s.me
    let w := h.window .u16
    let lo := packedLen lay w.1
    let n := packedLen lay w.2 - lo
    let got := (xs.headD { tag := .u16, vals := [], skew := 0, flags := 0 }).vals
    let bound := (h.binding? vd).isSome
    let old := if bound then freeBytes s n else (List.range n).map fun i => h.elem vd .u8 (lo + i)
    let here := (List.range (w.2 - w.1)).map fun i => w.1 + i
    let put : Nat → Nat → Nat → Nat := fun acc e x =>
      let at_ := pixelBit lay e - 8 * lo
      acc - nbits acc at_ width * 2 ^ at_ + x * 2 ^ at_
    let all := here.foldl (fun acc e =>
      if h.active f.msk.toNat e then put acc e (min (got.getD e 0) (2 ^ width - 1))
      else if f.z = 1 then put acc e 0 else acc) (digits256 old)
    let clamped := here.any fun e => h.active f.msk.toNat e && decide (2 ^ width ≤ got.getD e 0)
    let outs := (List.range (if bound then min (lo + n) h.len - lo else n)).map fun i => some (nbits all (8 * i) 8)
    vecWrite vd .u8 lo outs (List.replicate h.len true) (if clamped then fSAT else 0) id
      { e1 := w.2, src := [va], strips := stripFlags xs } (if bound then { s with fresh := s.fresh + n } else s)) s)

end Sys2Proof.Machine
end

