-- ==== Sys2Proof/Machine/VLogic.lean ====
section
/-!
DEFINITION. Majors 0x41 and 0x42, vector logic, compare and select: R122 to R125.
-/
namespace Sys2Proof.Machine

open Sys2Proof

/-- What the entry of a bit function refuses (R122). -/
def refuseLogic (op : LOp) (td : Tag) (tags : List Tag) : Option Trap :=
  let ta := tags.headD .u8
  firstTrap
    [refuseAny Tag.packed (td :: tags),
     if op.bitwise then refuseAny (fun t => decide (t.width ≠ ta.width)) (td :: tags)
     else refuseFrom (fun t => !t.isInt) 1 tags]

/-- A bit function of `n` sources (R122). -/
def logic (op : LOp) (n : Nat) (f : FmtV) (s : State) : State :=
  let src := FmtV.sources f n
  let td := s.me.opTag f.ovr.toNat f.vd.toNat
  let tags := src.map (s.me.opTag f.ovr.toNat)
  runElementwise f
    { src := src, modAt := some 1, refused := refuseLogic op td tags, draws := false
      fn := fun _ xs => elemLogic op (tags.headD .u8) td (f.sat = 1) (xs.getD 0 (.u8, 0)).2 (xs.getD 1 (.u8, 0)).2 } s

/-- `VAND` (R122): a AND b. -/
def execVand (f : FmtV) (s : State) : Host.Outcome State Fault Refusal := .next (logic .and 2 f s)

/-- `VOR` (R122): a OR b. -/
def execVor (f : FmtV) (s : State) : Host.Outcome State Fault Refusal := .next (logic .or 2 f s)

/-- `VXOR` (R122): a XOR b. -/
def execVxor (f : FmtV) (s : State) : Host.Outcome State Fault Refusal := .next (logic .xor 2 f s)

/-- `VNOT` (R122): NOT a. -/
def execVnot (f : FmtV) (s : State) : Host.Outcome State Fault Refusal := .next (logic .not 1 f s)

/-- `VSHL` (R122): a shifted left. -/
def execVshl (f : FmtV) (s : State) : Host.Outcome State Fault Refusal := .next (logic .shl 2 f s)

/-- `VSHR` (R122): a shifted right, signed or unsigned by its tag. -/
def execVshr (f : FmtV) (s : State) : Host.Outcome State Fault Refusal := .next (logic .shr 2 f s)

/-- `VROL` (R122): a rotated left. -/
def execVrol (f : FmtV) (s : State) : Host.Outcome State Fault Refusal := .next (logic .rol 2 f s)

/-- `VPOPC` (R122): the one bits of a. -/
def execVpopc (f : FmtV) (s : State) : Host.Outcome State Fault Refusal := .next (logic .popc 1 f s)

/-- `VCLZ` (R122): the leading zero bits of a. -/
def execVclz (f : FmtV) (s : State) : Host.Outcome State Fault Refusal := .next (logic .clz 1 f s)

/-- `VCMP` (R123): all ones where the condition in VC holds of a and b. -/
def execVcmp (f : FmtV) (s : State) : Host.Outcome State Fault Refusal :=
  let src := FmtV.sources f 2
  let td := s.me.opTag f.ovr.toNat f.vd.toNat
  let tags := src.map (s.me.opTag f.ovr.toNat)
  let t := workTag tags
  let rm := s.me.rmOf 0
  let refused := firstTrap
    [refuseAny Tag.isSx (td :: tags), if td.isInt then none else badTag td 0,
     match promoteAll tags with
     | .ok _ => none
     | .error (u, p) => badTag u p]
  .next (runElementwise f
    { src := src, modAt := some 1, refused := refused, draws := false
      fn := fun _ xs => elemCmp f.vc.toNat t td rm false (xs.getD 0 (.u8, 0)) (xs.getD 1 (.u8, 0)) } s)

/-- `VSEL` (R124): a where the bits of c are not all zero, else b, converted from its own tag. -/
def execVsel (f : FmtV) (s : State) : Host.Outcome State Fault Refusal :=
  let src := FmtV.sources f 3
  let td := s.me.opTag f.ovr.toNat f.vd.toNat
  let tags := src.map (s.me.opTag f.ovr.toNat)
  let rm := s.me.rmOf f.rm.toNat
  let picked := td :: tags.take 2
  let refused := firstTrap
    [refuseAny Tag.isSx (td :: tags),
     if picked.all fun t => t = .kx then none else refuseAny (fun t => t = .kx) picked]
  .next (runElementwise f
    { src := src, modAt := some 1, refused := refused, draws := false
      fn := fun _ xs =>
        let x := if (xs.getD 2 (.u8, 0)).2 = 0 then xs.getD 1 (.u8, 0) else xs.getD 0 (.u8, 0)
        convert x.1 td rm (f.sat = 1) 0 x.2 } s)

/-- `VCLASS` (R125): the class bit of each float. -/
def execVclass (f : FmtV) (s : State) : Host.Outcome State Fault Refusal :=
  let src := FmtV.sources f 1
  let td := s.me.opTag f.ovr.toNat f.vd.toNat
  let ta := s.me.opTag f.ovr.toNat f.va.toNat
  let refused := firstTrap
    [if td.isInt && decide (16 ≤ td.width) then none else badTag td 0, if ta.isFloat then none else badTag ta 1]
  .next (runElementwise f
    { src := src, modAt := none, refused := refused, draws := false
      fn := fun _ xs => (2 ^ classBit ta (xs.getD 0 (.u8, 0)).2, 0) } s)

end Sys2Proof.Machine
end

