-- ==== Sys2Proof/Machine/Dispatch.lean ====
section
/-!
DEFINITION. One arm per instruction of the opcode table: a call of its meaning.
-/
namespace Sys2Proof.Machine

open Sys2Proof

/-- What an instruction does to a state. -/
def exec (i : Instr) (s : State) : Host.Outcome State Fault Refusal :=
  match i with
  | .add f => Sys2Proof.Machine.execAdd f s
  | .sub f => Sys2Proof.Machine.execSub f s
  | .andS f => Sys2Proof.Machine.execAndS f s
  | .orS f => Sys2Proof.Machine.execOrS f s
  | .xorS f => Sys2Proof.Machine.execXorS f s
  | .andn f => Sys2Proof.Machine.execAndn f s
  | .minS f => Sys2Proof.Machine.execMinS f s
  | .maxS f => Sys2Proof.Machine.execMaxS f s
  | .minu f => Sys2Proof.Machine.execMinu f s
  | .maxu f => Sys2Proof.Machine.execMaxu f s
  | .sel f => Sys2Proof.Machine.execSel f s
  | .lea f => Sys2Proof.Machine.execLea f s
  | .mul f => Sys2Proof.Machine.execMul f s
  | .mulh f => Sys2Proof.Machine.execMulh f s
  | .mulhu f => Sys2Proof.Machine.execMulhu f s
  | .div f => Sys2Proof.Machine.execDiv f s
  | .divu f => Sys2Proof.Machine.execDivu f s
  | .rem f => Sys2Proof.Machine.execRem f s
  | .remu f => Sys2Proof.Machine.execRemu f s
  | .madd f => Sys2Proof.Machine.execMadd f s
  | .shl f => Sys2Proof.Machine.execShl f s
  | .shr f => Sys2Proof.Machine.execShr f s
  | .sra f => Sys2Proof.Machine.execSra f s
  | .rol f => Sys2Proof.Machine.execRol f s
  | .clz f => Sys2Proof.Machine.execClz f s
  | .ctz f => Sys2Proof.Machine.execCtz f s
  | .popc f => Sys2Proof.Machine.execPopc f s
  | .sext f => Sys2Proof.Machine.execSext f s
  | .zext f => Sys2Proof.Machine.execZext f s
  | .slt f => Sys2Proof.Machine.execSlt f s
  | .sltu f => Sys2Proof.Machine.execSltu f s
  | .seq f => Sys2Proof.Machine.execSeq f s
  | .sne f => Sys2Proof.Machine.execSne f s
  | .addi f => Sys2Proof.Machine.execAddi f s
  | .andi f => Sys2Proof.Machine.execAndi f s
  | .ori f => Sys2Proof.Machine.execOri f s
  | .xori f => Sys2Proof.Machine.execXori f s
  | .shli f => Sys2Proof.Machine.execShli f s
  | .shri f => Sys2Proof.Machine.execShri f s
  | .srai f => Sys2Proof.Machine.execSrai f s
  | .li f => Sys2Proof.Machine.execLi f s
  | .lih f => Sys2Proof.Machine.execLih f s
  | .slti f => Sys2Proof.Machine.execSlti f s
  | .sltiu f => Sys2Proof.Machine.execSltiu f s
  | .br f => Sys2Proof.Machine.execBr f s
  | .jmp f => Sys2Proof.Machine.execJmp f s
  | .call f => Sys2Proof.Machine.execCall f s
  | .jr f => Sys2Proof.Machine.execJr f s
  | .loop f => Sys2Proof.Machine.execLoop f s
  | .ld f => Sys2Proof.Machine.execLd f s
  | .st f => Sys2Proof.Machine.execSt f s
  | .amo f => Sys2Proof.Machine.execAmo f s
  | .fence f => Sys2Proof.Machine.execFence f s
  | .vadd f => Sys2Proof.Machine.execVadd f s
  | .vsub f => Sys2Proof.Machine.execVsub f s
  | .vmul f => Sys2Proof.Machine.execVmul f s
  | .vmulh f => Sys2Proof.Machine.execVmulh f s
  | .vdiv f => Sys2Proof.Machine.execVdiv f s
  | .vrem f => Sys2Proof.Machine.execVrem f s
  | .vmin f => Sys2Proof.Machine.execVmin f s
  | .vmax f => Sys2Proof.Machine.execVmax f s
  | .vabs f => Sys2Proof.Machine.execVabs f s
  | .vneg f => Sys2Proof.Machine.execVneg f s
  | .vabsd f => Sys2Proof.Machine.execVabsd f s
  | .vavg f => Sys2Proof.Machine.execVavg f s
  | .vfma f => Sys2Proof.Machine.execVfma f s
  | .vfms f => Sys2Proof.Machine.execVfms f s
  | .vfnma f => Sys2Proof.Machine.execVfnma f s
  | .vclamp f => Sys2Proof.Machine.execVclamp f s
  | .vsqrt f => Sys2Proof.Machine.execVsqrt f s
  | .vexp2 f => Sys2Proof.Machine.execVexp2 f s
  | .vlog2 f => Sys2Proof.Machine.execVlog2 f s
  | .vrcpe f => Sys2Proof.Machine.execVrcpe f s
  | .vrcps f => Sys2Proof.Machine.execVrcps f s
  | .vrsqe f => Sys2Proof.Machine.execVrsqe f s
  | .vrsqs f => Sys2Proof.Machine.execVrsqs f s
  | .vand f => Sys2Proof.Machine.execVand f s
  | .vor f => Sys2Proof.Machine.execVor f s
  | .vxor f => Sys2Proof.Machine.execVxor f s
  | .vnot f => Sys2Proof.Machine.execVnot f s
  | .vshl f => Sys2Proof.Machine.execVshl f s
  | .vshr f => Sys2Proof.Machine.execVshr f s
  | .vrol f => Sys2Proof.Machine.execVrol f s
  | .vpopc f => Sys2Proof.Machine.execVpopc f s
  | .vclz f => Sys2Proof.Machine.execVclz f s
  | .vcmp f => Sys2Proof.Machine.execVcmp f s
  | .vsel f => Sys2Proof.Machine.execVsel f s
  | .vclass f => Sys2Proof.Machine.execVclass f s
  | .vcvt f => Sys2Proof.Machine.execVcvt f s
  | .vqnt f => Sys2Proof.Machine.execVqnt f s
  | .vpxunp f => Sys2Proof.Machine.execVpxunp f s
  | .vpxpak f => Sys2Proof.Machine.execVpxpak f s
  | .vred f => Sys2Proof.Machine.execVred f s
  | .vscan f => Sys2Proof.Machine.execVscan f s
  | .vperm f => Sys2Proof.Machine.execVperm f s
  | .vslideup f => Sys2Proof.Machine.execVslideup f s
  | .vslidedn f => Sys2Proof.Machine.execVslidedn f s
  | .vcompress f => Sys2Proof.Machine.execVcompress f s
  | .vexpand f => Sys2Proof.Machine.execVexpand f s
  | .viota f => Sys2Proof.Machine.execViota f s
  | .vid f => Sys2Proof.Machine.execVid f s
  | .vsplat f => Sys2Proof.Machine.execVsplat f s
  | .vmv f => Sys2Proof.Machine.execVmv f s
  | .vextr f => Sys2Proof.Machine.execVextr f s
  | .vins f => Sys2Proof.Machine.execVins f s
  | .vkey f => Sys2Proof.Machine.execVkey f s
  | .vsortk f => Sys2Proof.Machine.execVsortk f s
  | .vmergek f => Sys2Proof.Machine.execVmergek f s
  | .vtopk f => Sys2Proof.Machine.execVtopk f s
  | .vunkey f => Sys2Proof.Machine.execVunkey f s
  | .mand f => Sys2Proof.Machine.execMand f s
  | .mor f => Sys2Proof.Machine.execMor f s
  | .mxor f => Sys2Proof.Machine.execMxor f s
  | .mandn f => Sys2Proof.Machine.execMandn f s
  | .mnot f => Sys2Proof.Machine.execMnot f s
  | .mpopc f => Sys2Proof.Machine.execMpopc f s
  | .mfirst f => Sys2Proof.Machine.execMfirst f s
  | .mset f => Sys2Proof.Machine.execMset f s
  | .mget f => Sys2Proof.Machine.execMget f s
  | .mwait f => Sys2Proof.Machine.execMwait f s
  | .mwaitComplete h => Sys2Proof.Machine.execMwaitComplete h s
  | .setvl f => Sys2Proof.Machine.execSetvl f s
  | .settag f => Sys2Proof.Machine.execSettag f s
  | .vld f => Sys2Proof.Machine.execVld f s
  | .vlds f => Sys2Proof.Machine.execVlds f s
  | .vldx f => Sys2Proof.Machine.execVldx f s
  | .vldt f => Sys2Proof.Machine.execVldt f s
  | .vldl f => Sys2Proof.Machine.execVldl f s
  | .vldc f => Sys2Proof.Machine.execVldc f s
  | .vst f => Sys2Proof.Machine.execVst f s
  | .vsts f => Sys2Proof.Machine.execVsts f s
  | .vstx f => Sys2Proof.Machine.execVstx f s
  | .vstt f => Sys2Proof.Machine.execVstt f s
  | .vstl f => Sys2Proof.Machine.execVstl f s
  | .vamo f => Sys2Proof.Machine.execVamo f s
  | .vpf f => Sys2Proof.Machine.execVpf f s
  | .cpy f => Sys2Proof.Machine.execCpy f s
  | .tileCopyChunkDone t => Sys2Proof.Machine.execTileCopyChunkDone t s
  | .tileCopyFault t => Sys2Proof.Machine.execTileCopyFault t s
  | .dld f => Sys2Proof.Machine.execDld f s
  | .dstr f => Sys2Proof.Machine.execDstr f s
  | .dget f => Sys2Proof.Machine.execDget f s
  | .dsetx f => Sys2Proof.Machine.execDsetx f s
  | .dresh f => Sys2Proof.Machine.execDresh f s
  | .dtrans f => Sys2Proof.Machine.execDtrans f s
  | .dtake f => Sys2Proof.Machine.execDtake f s
  | .aadd f => Sys2Proof.Machine.execAadd f s
  | .asub f => Sys2Proof.Machine.execAsub f s
  | .amul f => Sys2Proof.Machine.execAmul f s
  | .adiv f => Sys2Proof.Machine.execAdiv f s
  | .amin f => Sys2Proof.Machine.execAmin f s
  | .amax f => Sys2Proof.Machine.execAmax f s
  | .afma f => Sys2Proof.Machine.execAfma f s
  | .aclamp f => Sys2Proof.Machine.execAclamp f s
  | .acmp f => Sys2Proof.Machine.execAcmp f s
  | .asel f => Sys2Proof.Machine.execAsel f s
  | .acvt f => Sys2Proof.Machine.execAcvt f s
  | .aand f => Sys2Proof.Machine.execAand f s
  | .aor f => Sys2Proof.Machine.execAor f s
  | .axor f => Sys2Proof.Machine.execAxor f s
  | .anot f => Sys2Proof.Machine.execAnot f s
  | .aabs f => Sys2Proof.Machine.execAabs f s
  | .aneg f => Sys2Proof.Machine.execAneg f s
  | .asqrt f => Sys2Proof.Machine.execAsqrt f s
  | .aexp2 f => Sys2Proof.Machine.execAexp2 f s
  | .alog2 f => Sys2Proof.Machine.execAlog2 f s
  | .aqnt f => Sys2Proof.Machine.execAqnt f s
  | .aiota f => Sys2Proof.Machine.execAiota f s
  | .afill f => Sys2Proof.Machine.execAfill f s
  | .acopy f => Sys2Proof.Machine.execAcopy f s
  | .arot f => Sys2Proof.Machine.execArot f s
  | .arev f => Sys2Proof.Machine.execArev f s
  | .atake f => Sys2Proof.Machine.execAtake f s
  | .aresh f => Sys2Proof.Machine.execAresh f s
  | .acat f => Sys2Proof.Machine.execAcat f s
  | .agath f => Sys2Proof.Machine.execAgath f s
  | .acomp f => Sys2Proof.Machine.execAcomp f s
  | .aexpd f => Sys2Proof.Machine.execAexpd f s
  | .agrade f => Sys2Proof.Machine.execAgrade f s
  | .aouter f => Sys2Proof.Machine.execAouter f s
  | .ainner f => Sys2Proof.Machine.execAinner f s
  | .atopk f => Sys2Proof.Machine.execAtopk f s
  | .ared f => Sys2Proof.Machine.execAred f s
  | .ascan f => Sys2Proof.Machine.execAscan f s
  | .amed f => Sys2Proof.Machine.execAmed f s
  | .wadj f => Sys2Proof.Machine.execWadj f s
  | .wchk f => Sys2Proof.Machine.execWchk f s
  | .wchkSeal f => Sys2Proof.Machine.execWchkSeal f s
  | .wrel f => Sys2Proof.Machine.execWrel f s
  | .mmodeOn f => Sys2Proof.Machine.execMmodeOn f s
  | .mmodeOff f => Sys2Proof.Machine.execMmodeOff f s
  | .mshape f => Sys2Proof.Machine.execMshape f s
  | .mzero f => Sys2Proof.Machine.execMzero f s
  | .mact f => Sys2Proof.Machine.execMact f s
  | .macts f => Sys2Proof.Machine.execMacts f s
  | .mmovn f => Sys2Proof.Machine.execMmovn f s
  | .mmovw f => Sys2Proof.Machine.execMmovw f s
  | .mvmac f => Sys2Proof.Machine.execMvmac f s
  | .bind f => Sys2Proof.Machine.execBind f s
  | .unbind f => Sys2Proof.Machine.execUnbind f s
  | .sstat f => Sys2Proof.Machine.execSstat f s
  | .streamUnitRead h vt => Sys2Proof.Machine.execStreamUnitRead h vt s
  | .writeStripPerform h vt => Sys2Proof.Machine.execWriteStripPerform h vt s
  | .decoderBlock h vt => Sys2Proof.Machine.execDecoderBlock h vt s
  | .xtab f => Sys2Proof.Machine.execXtab f s
  | .tableReplace ch => Sys2Proof.Machine.execTableReplace ch s
  | .xrun f => Sys2Proof.Machine.execXrun f s
  | .xstat f => Sys2Proof.Machine.execXstat f s
  | .runStart ch => Sys2Proof.Machine.execRunStart ch s
  | .transducerStep r => Sys2Proof.Machine.execTransducerStep r s
  | .runEnd r => Sys2Proof.Machine.execRunEnd r s
  | .pqry f => Sys2Proof.Machine.execPqry f s
  | .pstat f => Sys2Proof.Machine.execPstat f s
  | .queryStart q => Sys2Proof.Machine.execQueryStart q s
  | .queryEnd q => Sys2Proof.Machine.execQueryEnd q s
  | .cstat f => Sys2Proof.Machine.execCstat f s
  | .cabort f => Sys2Proof.Machine.execCabort f s
  | .bar f => Sys2Proof.Machine.execBar f s
  | .barrierRecheck h => Sys2Proof.Machine.execBarrierRecheck h s
  | .binitSet f => Sys2Proof.Machine.execBinitSet f s
  | .binitFault f => Sys2Proof.Machine.execBinitFault f s
  | .qpost f => Sys2Proof.Machine.execQpost f s
  | .qpoll f => Sys2Proof.Machine.execQpoll f s
  | .launch f => Sys2Proof.Machine.execLaunch f s
  | .kexit f => Sys2Proof.Machine.execKexit f s
  | .kexitAbort f => Sys2Proof.Machine.execKexitAbort f s
  | .cwait f => Sys2Proof.Machine.execCwait f s
  | .cwaitRecheck h => Sys2Proof.Machine.execCwaitRecheck h s
  | .evwait f => Sys2Proof.Machine.execEvwait f s
  | .evwaitWake h => Sys2Proof.Machine.execEvwaitWake h s
  | .yield f => Sys2Proof.Machine.execYield f s
  | .getc f => Sys2Proof.Machine.execGetc f s
  | .setc f => Sys2Proof.Machine.execSetc f s
  | .sysc f => Sys2Proof.Machine.execSysc f s
  | .brk f => Sys2Proof.Machine.execBrk f s
  | .tret f => Sys2Proof.Machine.execTret f s
  | .tlbb f => Sys2Proof.Machine.execTlbb f s
  | .tlbu f => Sys2Proof.Machine.execTlbu f s
  | .tlbi f => Sys2Proof.Machine.execTlbi f s
  | .pmig f => Sys2Proof.Machine.execPmig f s
  | .nop f => Sys2Proof.Machine.execNop f s
  | .hintNop bits => Sys2Proof.Machine.execHintNop bits s
  | .preemptRequest g => Sys2Proof.Machine.execPreemptRequest g s
  | .laneGrowthOffer g => Sys2Proof.Machine.execLaneGrowthOffer g s
  | .reclaimDeadline g => Sys2Proof.Machine.execReclaimDeadline g s
  | .groupResume g => Sys2Proof.Machine.execGroupResume g s
  | .groupPlace => Sys2Proof.Machine.execGroupPlace s
  | .kernelDispatch k => Sys2Proof.Machine.execKernelDispatch k s
  | .kernelRetire k => Sys2Proof.Machine.execKernelRetire k s
  | .create asid => Sys2Proof.Machine.execCreate asid s
  | .switchOut asid => Sys2Proof.Machine.execSwitchOut asid s
  | .switchIn asid => Sys2Proof.Machine.execSwitchIn asid s
  | .teardown asid => Sys2Proof.Machine.execTeardown asid s
  | .resume asid => Sys2Proof.Machine.execResume asid s
  | .badOp op asid => Sys2Proof.Machine.execBadOp op asid s
  | .zeroisationConfirmed asid => Sys2Proof.Machine.execZeroisationConfirmed asid s
  | .contextCommandComplete => Sys2Proof.Machine.execContextCommandComplete s
  | .attach q => Sys2Proof.Machine.execAttach q s
  | .detach q => Sys2Proof.Machine.execDetach q s
  | .reset q => Sys2Proof.Machine.execReset q s
  | .tail q v => Sys2Proof.Machine.execTail q v s
  | .queueSchedule => Sys2Proof.Machine.execQueueSchedule s
  | .counterWaitRecheck q => Sys2Proof.Machine.execCounterWaitRecheck q s
  | .queueCopyDone t => Sys2Proof.Machine.execQueueCopyDone t s
  | .queueAging q => Sys2Proof.Machine.execQueueAging q s
  | .queueSwitchIn q => Sys2Proof.Machine.execQueueSwitchIn q s
  | .eventPost asid => Sys2Proof.Machine.execEventPost asid s
  | .pageWalk h va acc => Sys2Proof.Machine.execPageWalk h va acc s
  | .migration m => Sys2Proof.Machine.execMigration m s
  | .migrationTimeout m => Sys2Proof.Machine.execMigrationTimeout m s
  | .hotWindow => Sys2Proof.Machine.execHotWindow s
  | .rakeScrub pa found => Sys2Proof.Machine.execRakeScrub pa found s
  | .bankRefresh bank => Sys2Proof.Machine.execBankRefresh bank s
  | .hostMemoryAccess pa rq => Sys2Proof.Machine.execHostMemoryAccess pa rq s
  | .linkEnable p => Sys2Proof.Machine.execLinkEnable p s
  | .linkDisable p => Sys2Proof.Machine.execLinkDisable p s
  | .drain p => Sys2Proof.Machine.execDrain p s
  | .trainingEnd p lanes peer peerPort => Sys2Proof.Machine.execTrainingEnd p lanes peer peerPort s
  | .laneLost p => Sys2Proof.Machine.execLaneLost p s
  | .replayLimit p => Sys2Proof.Machine.execReplayLimit p s
  | .deadTime p => Sys2Proof.Machine.execDeadTime p s
  | .drainDone p => Sys2Proof.Machine.execDrainDone p s
  | .heartbeat => Sys2Proof.Machine.execHeartbeat s
  | .flitReceive p flit => Sys2Proof.Machine.execFlitReceive p flit s
  | .deviceLost d => Sys2Proof.Machine.execDeviceLost d s
  | .routeEntryWrite d v => Sys2Proof.Machine.execRouteEntryWrite d v s
  | .remoteAccess dev asid pa buf mode rq => Sys2Proof.Machine.execRemoteAccess dev asid pa buf mode rq s
  | .callStart c others => Sys2Proof.Machine.execCallStart c others s
  | .collectiveChunkDone c chunk contrib => Sys2Proof.Machine.execCollectiveChunkDone c chunk contrib s
  | .callLocal c => Sys2Proof.Machine.execCallLocal c s
  | .callDone c => Sys2Proof.Machine.execCallDone c s
  | .callAbort c status lost => Sys2Proof.Machine.execCallAbort c status lost s
  | .islandDvfs island mhz => Sys2Proof.Machine.execIslandDvfs island mhz s
  | .droopStretch island => Sys2Proof.Machine.execDroopStretch island s
  | .powerCapTick draw => Sys2Proof.Machine.execPowerCapTick draw s
  | .attcmd => Sys2Proof.Machine.execAttcmd s
  | .attestationReport => Sys2Proof.Machine.execAttestationReport s
  | .devrst => Sys2Proof.Machine.execDevrst s
  | .firmwareBoot images => Sys2Proof.Machine.execFirmwareBoot images s
  | .fatalError cause cls unit detail => Sys2Proof.Machine.execFatalError cause cls unit detail s
  | .debugRegisterWrite h off v => Sys2Proof.Machine.execDebugRegisterWrite h off v s
  | .registerWrite bar off v => Sys2Proof.Machine.execRegisterWrite bar off v s
  | .laneReclaim core => Sys2Proof.Machine.execLaneReclaim core s
  | .queryFault q => Sys2Proof.Machine.execQueryFault q s
  | .qcmdBadOp op q => Sys2Proof.Machine.execQcmdBadOp op q s

end Sys2Proof.Machine
end

