-- ==== Sys2Proof/Machine/Turn.lean ====
section
/-!
DEFINITION. Whose turn it is (DESIGN CHOICE, notes/assumptions/1.md): when a hart may execute (R202, R213, R215, R227), and the
placement that a program loaded from outside stands for (DEDUCED, notes/assumptions/7.md).
-/
namespace Sys2Proof.Machine

open Sys2Proof

/-- The hart executes: its group is placed and neither PREEMPTED nor RETIRED, it has not executed `KEXIT`, it is not
saved (R202, R215, R231), and the module is not in reset hold after a rejected image (R442). -/
def runnable (s : State) (h : Nat) : Bool :=
  let x := s.hart h
  decide (s.regs.boot ≠ 2) && !x.exited && !x.saved &&
    (match s.groupOf h with
     | some (_, g) => decide (g.st ≠ .preempted ∧ g.st ≠ .retired)
     | none => false)

/-- One turn passes. -/
def tick (s : State) : State := { s with clock := s.clock + 1 }

/-- The hart whose turn comes next by the agenda, where it names one. -/
def takeTurn (h : Nat) (rest : List Turn) (s : State) : State := { s with agenda := rest, cur := h }

/-- The registers of BAR0 that a write only stores into: they take no command (R435). -/
def storesOnly (off : Nat) : Bool :=
  [0x1000, 0x1010, 0x1020, 0x1040, 0x1048, 0x1058, 0x1060, 0x1068, 0x1080, 0x1090, 0x1098, 0x10A0].contains off

/-- A FATAL error stops every hart and engine, and no command but a device reset is accepted (R239, R444); so it is in the
reset hold after a rejected image, which ignores every other register access (R442). An access of the host through the HDM
decoder is neither (R437), nor, after a FATAL error, a write of a register that takes no command, such as HDMCTX. -/
def eventMayAct (s : State) (i : Instr) : Bool :=
  (!s.fatal && decide (s.regs.boot ≠ 2)) || (match i with
    | .devrst => true
    | .registerWrite bar off v =>
      decide (bar = 0) && ((decide (off = 0x0008) && v.getLsbD 0) || (decide (s.regs.boot ≠ 2) && storesOnly off))
    | .hostMemoryAccess _ _ => true
    | _ => false)

/-- A word of a vector, vector memory or array instruction (R67, R230). -/
def resumes (w : Word) : Bool :=
  let m := fld w 56 8
  decide ((0x40 ≤ m ∧ m ≤ 0x47) ∨ (0x60 ≤ m ∧ m ≤ 0x63) ∨ (0x70 ≤ m ∧ m ≤ 0x75))

/-- The word at the PC starts to execute: where it is the first after a resumption and no vector, vector memory or array
instruction, `epr` is ignored and set to 0 (R230). -/
def startWord (w : Word) (s : State) : State :=
  if s.me.resumed then s.modMe fun h => { h with resumed := false, epr := if resumes w then h.epr else 0 } else s

/-- The instruction at which a hart waits; it is not fetched again (R142, R203, R221, R355, R211, R286). -/
def Wait.instr : Wait → Instr
  | .mwait f => .mwait f
  | .cwait f => .cwait f
  | .evwait f => .evwait f
  | .bar f _ _ => .bar f
  | .setvl f => .setvl f
  | .mmode f => .mmodeOn f

/-- The physical page that `withFetchWord` uses. -/
def bootPage : Nat := 0x0100_0000

/-- The virtual address of the code: the PC where it is a fetchable one, else 0. -/
def bootPc (s : State) : Word := if s.me.pc.toNat % 8 = 0 ∧ s.me.pc.toNat < 2 ^ 55 then s.me.pc else 0

/-- A context, a kernel, a group and a translation of the page of the PC, with the word's bytes in that page: the state
in which the next step fetches the word (DEDUCED, notes/assumptions/7.md). -/
def bootState (bytes : List Byte) (s : State) : State :=
  let pc := bootPc s
  let va := pc.toNat
  let g := s.nextId
  let k := s.serial
  let leaf : Leaf := { asid := 1, base := va / 2 ^ 16, pages := 1, leaf := wd (bootPage / 2 ^ 16 * 2 ^ 28 + 0x80B) }
  let pa := bootPage + va % 2 ^ 16
  let i := pa / 256 * 4
  let kernel : Kernel :=
    { asid := 1, code := pc, args := 0, ctr := 0, ngroups := 1, hpg := 0, lmin := 1, lmax := 8, spad := 0, affinity := 1
      notify := 0, vec := 0, decls := [], st := .running, queue := none, prio := 0, devMade := false, next := 1
      lastCl := some (clusterOf (coreOf s.cur)), retired := 0, cores := [(coreOf s.cur, (1, 0))], doneCores := []
      doneClusters := [], doneDies := [], finished := false }
  let group : Group :=
    { serial := k, asid := 1, num := 0, core := coreOf s.cur, slots := [s.cur % 4], quads := 0, next := 0, pre := false
      rcl := false, lmin := 1, lmax := 8, prio := 0, spadBase := 0, spadSize := 0, frame := 0, lstate := .idle, lgen := 0
      lcount := 0, bolts := [], st := .running, saveKind := .full, saveQuads := 0, saveLp := [], saveAcc := none }
  let ctx : Ctx := { Ctx.absent with st := .resident, key := 1, nframe := 1, lq := 8 }
  let h : Hart := { s.me with pc := pc, group := some g, exited := false, saved := false, wait := none, binds := [],
                              strip := false, resumed := false }
  { s with
    agenda := [], fatal := false
    regs := { s.regs with boot := if s.regs.boot = 2 then 1 else s.regs.boot }
    serial := k + 1, nextId := g + 1
    ctxs := smPut s.ctxs 1 ctx, kernels := smPut s.kernels k kernel, groups := smPut s.groups g group
    harts := smPut s.harts s.cur h
    tlb := (.second (clusterOf (coreOf s.cur)), leaf) :: s.tlb
    lines := s.lines.filter fun p => !(decide (i ≤ p.1 ∧ p.1 < i + 4))
    mem := bsWrite s.mem pa bytes }

end Sys2Proof.Machine
end

