-- ==== Sys2Proof/Machine/Step.lean ====
section
/-!
DEFINITION. One step of the machine: an event of the agenda, or one instruction of the hart whose turn it is.
-/
namespace Sys2Proof.Machine

open Sys2Proof

/-- One instruction of the hart whose turn it is: the one it waits at, or its word is fetched (R66), decoded (R87) and
executed. -/
def stepHart (s : State) : Host.Outcome State Fault Refusal :=
  if runnable s s.cur then
    match s.me.wait with
    | some w => exec w.instr s
    | none =>
      match fetch s with
      | (s1, .error t) => .next (stopAt t s1)
      | (s1, .ok w) =>
        match decodeWord w with
        | .error _ => .next (takeTrap (Trap.scalar .illegal w) (startWord w s1))
        | .ok i => exec i (startWord w s1)
  else .next s

/-- One step: the first turn of the agenda, or, where nothing stands on it, the current hart's next instruction. -/
def step (s : State) : Host.Outcome State Fault Refusal :=
  match s.agenda with
  | .event i :: rest =>
    let s1 := tick { s with agenda := rest }
    if eventMayAct s i then exec i s1 else .next s1
  | .hart h :: rest | .back h :: rest => if s.fatal then .next (tick { s with agenda := rest }) else stepHart (tick (takeTurn h rest s))
  | [] => if s.fatal then .fault .fatalStop else stepHart (tick s)

/-- The state with a word where the next step fetches (DEDUCED, notes/assumptions/7.md). -/
def State.withFetchWord (s : State) (nbits w : Nat) : State := bootState (leBytes 8 (w % 2 ^ nbits)) s

end Sys2Proof.Machine
end

