-- ==== Sys2Proof/Safety.lean ====
section
/-!
DEFINITION. What counts as a safe run, and the words that claims use: what a step leaves unchanged, what a scalar and a
vector instruction leave, and what their operands hold.
-/
namespace Sys2Proof

/-- One step of the machine answers a next state. -/
def stepsSafely (s : Machine.State) : Prop := ∃ t, Machine.step s = .next t

end Sys2Proof

namespace Sys2Proof.Machine

open Sys2Proof

/-! ## What changes -/

/-- Nothing of the machine changes but the hart whose turn it is: every memory, core, context and unit, and every other
hart, is as before. -/
def OnlyHart (s t : State) : Prop :=
  { t with harts := s.harts } = s ∧ ∀ j, j ≠ s.cur → t.hart j = s.hart j

/-- Every byte of the machine's memories reads as before, and so do the lines' metadata. -/
def SameMemory (s t : State) : Prop :=
  (∀ l n, readLoc t l n = readLoc s l n) ∧ t.lines = s.lines

/-- The hart goes on at `target` (R66, R97), and waits for nothing. -/
def GoesTo (target : Word) (t : State) : Prop := t.me.pc = target ∧ t.me.wait = none

/-- The scalar registers after SR[SD] := v: `s0` reads 0, SD its value, every other what it was, and the bank of the other
level is untouched (R90, R224). -/
def ScalarWrite (sd : BitVec 6) (v : Word) (s t : State) : Prop :=
  (∀ r, t.sr r = if r = 0 then 0 else if r = sd then v else s.sr r) ∧
  (s.me.level = .u → t.me.sbank = s.me.sbank) ∧
  (s.me.level = .s → ∀ r : Nat, 56 ≤ r → t.me.sreg[r]! = s.me.sreg[r]!)

/-- Every other part of the hart is as before: vector, mask, descriptor and control registers, flags, exception
registers, bindings and accepted stores. -/
def ScalarFrame (s t : State) : Prop :=
  { t.me with sreg := s.me.sreg, sbank := s.me.sbank, pc := s.me.pc, wait := s.me.wait } = s.me

/-- A scalar instruction that writes SD, goes on at `target`, and changes nothing else. -/
def Writes (sd : BitVec 6) (v target : Word) (s t : State) : Prop :=
  ScalarWrite sd v s t ∧ GoesTo target t ∧ ScalarFrame s t ∧ OnlyHart s t

/-- An instruction that goes on at `target` and changes nothing else. -/
def Passes (target : Word) (s t : State) : Prop := ScalarFrame s t ∧ t.me.sreg = s.me.sreg ∧ t.me.sbank = s.me.sbank ∧
  GoesTo target t ∧ OnlyHart s t

/-- No pre-emption request stands against the hart's group (R213). -/
def NoPreempt (s : State) : Prop := ∀ g x, s.groupOf s.cur = some (g, x) → x.pre = false

/-- The hart waits at its instruction, which has done nothing; at most its group has become WAITING (R215). -/
def Waits (w : Wait) (s t : State) : Prop :=
  t.me = { s.me with wait := some w } ∧ OnlyHart s { t with groups := s.groups } ∧
  ∀ g, t.group? g = s.group? g ∨
    (s.groupOf s.cur).map Prod.fst = some g ∧ t.group? g = (s.group? g).map fun x => { x with st := .waiting }

/-- The hart's group runs where it was WAITING, and no other group changes (R215). -/
def GroupRuns (s t : State) : Prop :=
  ∀ g, t.group? g = if (s.groupOf s.cur).map Prod.fst = some g then
    (s.group? g).map fun x => if x.st = .waiting then { x with st := .running } else x else s.group? g

/-! ## Traps -/

/-- A hart at level U takes a trap (R226, R228): it goes on in the S runtime of its context at level S, the trap
registers say what trapped, and nothing else changes. -/
def EntersHandler (c : Cause) (vec arr : Bool) (tval epc epr : Word) (s t : State) : Prop :=
  t.me.level = .s ∧ t.me.pc = (s.ctx (s.asidOf s.cur)).sentry ∧
  t.me.cause.toNat = c.code.toNat + b2n vec * 2 ^ 12 + b2n arr * 2 ^ 13 ∧
  t.me.tval = tval ∧ t.me.epc = epc ∧ t.me.epr = epr ∧ t.me.wait = none ∧ t.me.strip = false ∧ t.me.resumed = false ∧
  { t.me with level := s.me.level, pc := s.me.pc, cause := s.me.cause, tval := s.me.tval, epc := s.me.epc,
              epr := s.me.epr, wait := s.me.wait, strip := s.me.strip, resumed := s.me.resumed } = s.me ∧
  OnlyHart s t

/-- A scalar instruction at level U traps and does nothing of its own (R228). -/
def TrapsScalar (c : Cause) (tval : Word) (s t : State) : Prop := EntersHandler c false false tval s.me.pc 0 s t

/-! ## Vector operands -/

/-- Element e of a register as an instruction reads it: under an sx tag its exact value in f32 (R46). -/
def Hart.source (h : Hart) (ovr v e : Nat) : Tag × Nat :=
  let t := h.opTag ovr v
  if t.isSx then (.f32, ((Tag.ffmt .f32).round .rne false 0 (sxElem t (h.block v t (e / 16)) (e % 16))).1)
  else (t, h.elem v t e)

/-- Element e of a register through the source modifier of format V (R75, R129). -/
def Hart.sourceMod (h : Hart) (m ovr v e : Nat) : Tag × Nat :=
  match modIndex m e h.len with
  | some j => h.source ovr v j
  | none => if m / 16 = 1 then h.source ovr v e else ((h.source ovr v e).1, 0)

/-- The elements of one index that an instruction combines: its sources in position order (R117, R129). -/
def Hart.sources (h : Hart) (m ovr : Nat) (modAt : Option Nat) (src : List Nat) (e : Nat) : List (Tag × Nat) :=
  src.zipIdx.map fun p => if modAt = some p.2 then h.sourceMod m ovr p.1 e else h.source ovr p.1 e

/-- Every vector register is in canonical form. -/
def Hart.vecWf (h : Hart) : Prop := ∀ v : Nat, Memory.wf (h.vreg[v]!) = true

/-- A vector instruction starts, or is resumed below VL, outside single-step and with nothing kept of an earlier element
step, with no operand bound (R230, R237, R297). -/
def VecReady (s : State) (operands : List Nat) : Prop :=
  s.me.steps = false ∧ s.me.keptNow = none ∧ s.me.vecWf ∧ (s.me.epr = 0 ∨ s.me.epr.toNat < s.me.len) ∧
  ∀ v ∈ operands, s.me.binding? v = none

/-- Every operand's tag admits VL (R111, R209). -/
def VecFits (s : State) (tags : List Tag) : Prop := ∀ t ∈ tags, s.me.len ≤ s.mvl t

/-- A flag is set where it was set, or where one of the results from `epr` on raised it (R54). -/
def FlagsRaised (s t : State) (raised : Nat → Prop) : Prop :=
  ∀ b, t.me.fflags.getLsbD b = true ↔ (s.me.fflags.getLsbD b = true ∨ raised b)

/-- A vector instruction completes (R66, R151): `epr` is 0, and nothing is kept of it. -/
def VecDone (s t : State) : Prop :=
  t.me.pc = s.me.pc + 8 ∧ t.me.epr = 0 ∧ t.me.wait = none ∧ t.me.kept = s.me.others

/-- What a vector instruction that writes one register leaves: it completes, VD alone of the vector registers changes,
and VD beyond its `units` does not (R108); nothing else changes but flags and, where `seeded`, the generator. -/
def VecFrame (vd : Nat) (td : Tag) (units : Nat) (seeded : Bool) (s t : State) : Prop :=
  VecDone s t ∧
  (∀ v, v ≠ vd → t.me.vreg[v]! = s.me.vreg[v]!) ∧
  (∀ b, (if td.isSx then units * td.slotBytes else units * td.bytes) ≤ b →
    bsGet (t.me.vreg[vd]!) b = bsGet (s.me.vreg[vd]!) b) ∧
  (seeded = false → t.me.seed = s.me.seed) ∧
  { t.me with vreg := s.me.vreg, vw := s.me.vw, fflags := s.me.fflags, seed := s.me.seed, pc := s.me.pc,
              epr := s.me.epr, kept := s.me.kept, wait := s.me.wait } = s.me ∧
  OnlyHart s t

/-- The result of an elementwise instruction (R108, R117): each active element from `epr` on is `fn` of its index, an
inactive one keeps its value, or is 0 under Z; elements before `epr` keep theirs; the flags of the active ones are
raised. -/
def Elementwise.result (f : FmtV) (td : Tag) (fn : Nat → Nat × Flags) (s t : State) : Prop :=
  (∀ e, e < s.me.len → t.me.elem f.vd.toNat td e =
    if e < s.me.epr.toNat then s.me.elem f.vd.toNat td e
    else if s.me.active f.msk.toNat e then (fn e).1 % 2 ^ td.width
    else if f.z = 1 then 0 else s.me.elem f.vd.toNat td e) ∧
  FlagsRaised s t (fun b => ∃ e, s.me.epr.toNat ≤ e ∧ e < s.me.len ∧ s.me.active f.msk.toNat e = true ∧
    (fn e).2.getLsbD b = true) ∧
  VecFrame f.vd.toNat td s.me.len false s t

/-- What an instruction leaves that places results in VD: from `epr` on, element e below VL becomes `g e`, or keeps its
value where `g` gives none; then as `VecFrame` says. -/
def VecResult (vd : Nat) (td : Tag) (g : Nat → Option Nat) (raised : Nat → Prop) (s t : State) : Prop :=
  (∀ e, e < s.me.len → t.me.elem vd td e =
    if e < s.me.epr.toNat then s.me.elem vd td e
    else match g e with
      | some x => x % 2 ^ td.width
      | none => s.me.elem vd td e) ∧
  FlagsRaised s t raised ∧ VecFrame vd td s.me.len false s t

/-- Under a mask: an active element gets `g`, an inactive one 0 under Z, else nothing (R108). -/
def masked (f : FmtV) (s : State) (g : Nat → Option Nat) (e : Nat) : Option Nat :=
  if s.me.active f.msk.toNat e then g e else if f.z = 1 then some 0 else none

/-- The active elements below a bound, in ascending order (R108). -/
def activeBelow (s : State) (msk n : Nat) : List Nat := (List.range n).filter fun e => s.me.active msk e

/-- A vector instruction that writes a scalar register alone. -/
def VecWrites (sd : BitVec 6) (v : Word) (s t : State) : Prop :=
  ScalarWrite sd v s t ∧ VecDone s t ∧
  { t.me with sreg := s.me.sreg, sbank := s.me.sbank, pc := s.me.pc, epr := s.me.epr, kept := s.me.kept,
              wait := s.me.wait } = s.me ∧ OnlyHart s t

/-- An instruction that writes one mask register alone: bits from `epr` to VL become `g`, the others and every other mask
register stay, and `m0` always reads ones (R140, R141, R230). -/
def MaskWrites (md : Nat) (g : Nat → Bool) (s t : State) : Prop :=
  (∀ m i, m < 16 → i < 16384 → (t.me.mask m).getLsbD i =
    if m = md ∧ m ≠ 0 ∧ s.me.epr.toNat ≤ i ∧ i < s.me.len then g i else (s.me.mask m).getLsbD i) ∧
  VecDone s t ∧
  { t.me with mreg := s.me.mreg, vw := s.me.vw, pc := s.me.pc, epr := s.me.epr, kept := s.me.kept,
              wait := s.me.wait } = s.me ∧
  OnlyHart s t

/-! ## Canonical form -/

/-- The memories of a core are in canonical form. -/
def Core.canonical (c : Core) : Prop :=
  Memory.wf c.spad = true ∧ Memory.wf c.sdata = true ∧ (∀ l : Nat, Memory.wf (c.lpriv[l]!) = true) ∧
  ∀ a : Nat, Memory.wf (c.acc[a]!) = true

/-- What a full save of a group holds is in canonical form. -/
def Group.canonical (x : Group) : Prop :=
  (∀ p ∈ x.saveLp, Memory.wf p.2 = true) ∧ ∀ a, x.saveAcc = some a → ∀ i : Nat, Memory.wf (a[i]!) = true

/-- Every memory of the machine is in canonical form: addresses rise, and no listed byte is one that an unlisted
address reads as. Equal memories are then equal data. -/
def State.canonical (s : State) : Prop :=
  Memory.wf s.mem = true ∧ Memory.wf s.hostMem = true ∧ (∀ p ∈ s.peerMem, Memory.wf p.2 = true) ∧
  (∀ p ∈ s.cores, p.2.canonical) ∧ (∀ p ∈ s.harts, p.2.vecWf) ∧ ∀ p ∈ s.groups, p.2.canonical

end Sys2Proof.Machine
end

