-- ==== Sys2Proof/Certificates/Slice0/Obligations.lean ====
section
/-!
DEFINITION. The statements for the provers: what the rules of spec/ say of the machine, each over every state and
operand its hypotheses admit.
-/

open Sys2Proof Sys2Proof.Machine

/-! ## Scalar instructions -/

namespace Sys2Proof.Machine

/-- A format S instruction completes with a result that `P` gives from its operands a, b and c, and changes nothing else. -/
def ScalarOp (mk : FmtS → Instr) (P : FmtS → Word → Word → Word → Word → Prop) : Prop :=
  ∀ (f : FmtS) (s : State), s.me.steps = false → ∃ t v, exec (mk f) s = .next t ∧
    P f (s.sr f.sa) (s.sr f.sb) (s.sr f.sc) v ∧ Writes f.sd v (s.me.pc + 8) s t

/-- A format I instruction completes with a result that `P` gives from a and IMM44, and changes nothing else. -/
def ImmediateOp (mk : FmtI → Instr) (P : BitVec 44 → Word → Word → Prop) : Prop :=
  ∀ (f : FmtI) (s : State), s.me.steps = false → ∃ t v, exec (mk f) s = .next t ∧
    P f.imm (s.sr f.sa) v ∧ Writes f.sd v (s.me.pc + 8) s t

/-- A division: `q` of the operands where the divisor is not 0, and flags stay; else `z` of the dividend, and DZ is raised. -/
def DivisionOp (mk : FmtS → Instr) (q : Word → Word → Word) (z : Word → Word) : Prop :=
  ∀ (f : FmtS) (s : State), s.me.steps = false → ∃ t, exec (mk f) s = .next t ∧
    ScalarWrite f.sd (if s.sr f.sb = 0 then z (s.sr f.sa) else q (s.sr f.sa) (s.sr f.sb)) s t ∧
    GoesTo (s.me.pc + 8) t ∧ OnlyHart s t ∧
    t.me.fflags = (if s.sr f.sb = 0 then s.me.fflags ||| fDZ else s.me.fflags) ∧
    ScalarFrame s (t.setMe { t.me with fflags := s.me.fflags })

end Sys2Proof.Machine

/-- R92, R93 (the products): ADD to LEA, MUL to MADD. -/
def Sys2Proof.Machine.ScalarArithmeticRule : Prop :=
  ScalarOp .add (fun _ a b _ v => v = BitVec.ofNat 64 (a.toNat + b.toNat)) ∧
  ScalarOp .sub (fun _ a b _ v => v = BitVec.ofInt 64 (a.toInt - b.toInt)) ∧
  ScalarOp .andS (fun _ a b _ v => ∀ i, v.getLsbD i = (a.getLsbD i && b.getLsbD i)) ∧
  ScalarOp .orS (fun _ a b _ v => ∀ i, v.getLsbD i = (a.getLsbD i || b.getLsbD i)) ∧
  ScalarOp .xorS (fun _ a b _ v => ∀ i, v.getLsbD i = (a.getLsbD i ^^ b.getLsbD i)) ∧
  ScalarOp .andn (fun _ a b _ v => ∀ i, v.getLsbD i = (a.getLsbD i && !b.getLsbD i)) ∧
  ScalarOp .minS (fun _ a b _ v => v.toInt = min a.toInt b.toInt) ∧
  ScalarOp .maxS (fun _ a b _ v => v.toInt = max a.toInt b.toInt) ∧
  ScalarOp .minu (fun _ a b _ v => v.toNat = min a.toNat b.toNat) ∧
  ScalarOp .maxu (fun _ a b _ v => v.toNat = max a.toNat b.toNat) ∧
  ScalarOp .sel (fun _ a b c v => (c ≠ 0 → v = a) ∧ (c = 0 → v = b)) ∧
  ScalarOp .lea (fun f a b _ v => v = BitVec.ofNat 64 (a.toNat + b.toNat * 2 ^ f.sc.toNat)) ∧
  ScalarOp .mul (fun _ a b _ v => v = BitVec.ofNat 64 (a.toNat * b.toNat)) ∧
  ScalarOp .mulh (fun _ a b _ v => v = (a.signExtend 128 * b.signExtend 128).extractLsb' 64 64) ∧
  ScalarOp .mulhu (fun _ a b _ v => v = (a.zeroExtend 128 * b.zeroExtend 128).extractLsb' 64 64) ∧
  ScalarOp .madd (fun _ a b c v => v = BitVec.ofNat 64 (a.toNat * b.toNat + c.toNat))

/-- R94, R95: shifts, bit counts, extensions and comparisons. -/
def Sys2Proof.Machine.ScalarBitsRule : Prop :=
  ScalarOp .shl (fun _ a b _ v => v = BitVec.ofNat 64 (a.toNat * 2 ^ (b.toNat % 64))) ∧
  ScalarOp .shr (fun _ a b _ v => v.toNat = a.toNat / 2 ^ (b.toNat % 64)) ∧
  ScalarOp .sra (fun _ a b _ v => v.toInt = a.toInt / 2 ^ (b.toNat % 64)) ∧
  ScalarOp .rol (fun _ a b _ v => ∀ i, i < 64 → v.getLsbD ((i + b.toNat % 64) % 64) = a.getLsbD i) ∧
  ScalarOp .clz (fun _ a _ _ v => v.toNat ≤ 64 ∧ (∀ i, i < v.toNat → a.getLsbD (63 - i) = false) ∧
    (v.toNat < 64 → a.getLsbD (63 - v.toNat) = true)) ∧
  ScalarOp .ctz (fun _ a _ _ v => v.toNat ≤ 64 ∧ (∀ i, i < v.toNat → a.getLsbD i = false) ∧
    (v.toNat < 64 → a.getLsbD v.toNat = true)) ∧
  ScalarOp .popc (fun _ a _ _ v => v.toNat = ((List.range 64).filter a.getLsbD).length) ∧
  ScalarOp .sext (fun _ a b _ v => ∀ i, i < 64 → v.getLsbD i = a.getLsbD (min i (b.toNat % 64))) ∧
  ScalarOp .zext (fun _ a b _ v => ∀ i, v.getLsbD i = (decide (i ≤ b.toNat % 64) && a.getLsbD i)) ∧
  ScalarOp .slt (fun _ a b _ v => v = if a.toInt < b.toInt then 1 else 0) ∧
  ScalarOp .sltu (fun _ a b _ v => v = if a.toNat < b.toNat then 1 else 0) ∧
  ScalarOp .seq (fun _ a b _ v => v = if a = b then 1 else 0) ∧
  ScalarOp .sne (fun _ a b _ v => v = if a = b then 0 else 1)

/-- R93, R57: DIV, DIVU, REM, REMU. -/
def Sys2Proof.Machine.ScalarDivisionRule : Prop :=
  DivisionOp .div (fun a b => BitVec.ofInt 64 (a.toInt.tdiv b.toInt)) (fun _ => 0xFFFFFFFFFFFFFFFF) ∧
  DivisionOp .divu (fun a b => BitVec.ofNat 64 (a.toNat / b.toNat)) (fun _ => 0xFFFFFFFFFFFFFFFF) ∧
  DivisionOp .rem (fun a b => BitVec.ofInt 64 (a.toInt.tmod b.toInt)) (fun a => a) ∧
  DivisionOp .remu (fun a b => BitVec.ofNat 64 (a.toNat % b.toNat)) (fun a => a)

/-- R96: the immediate instructions. -/
def Sys2Proof.Machine.ScalarImmediatesRule : Prop :=
  ImmediateOp .addi (fun i a v => v = BitVec.ofInt 64 (a.toInt + i.toInt)) ∧
  ImmediateOp .andi (fun i a v => v = a &&& BitVec.ofInt 64 i.toInt) ∧
  ImmediateOp .ori (fun i a v => v = a ||| BitVec.ofInt 64 i.toInt) ∧
  ImmediateOp .xori (fun i a v => v = a ^^^ BitVec.ofInt 64 i.toInt) ∧
  ImmediateOp .shli (fun i a v => v = BitVec.ofNat 64 (a.toNat * 2 ^ (i.toNat % 64))) ∧
  ImmediateOp .shri (fun i a v => v.toNat = a.toNat / 2 ^ (i.toNat % 64)) ∧
  ImmediateOp .srai (fun i a v => v.toInt = a.toInt / 2 ^ (i.toNat % 64)) ∧
  ImmediateOp .li (fun i _ v => v.toInt = i.toInt) ∧
  ImmediateOp .lih (fun i a v => ∀ k, k < 64 → v.getLsbD k = if k < 44 then a.getLsbD k else i.getLsbD (k - 44)) ∧
  ImmediateOp .slti (fun i a v => v = if a.toInt < i.toInt then 1 else 0) ∧
  ImmediateOp .sltiu (fun i a v => v = if a.toNat < (BitVec.ofInt 64 i.toInt).toNat then 1 else 0)

/-- R92 to R96: which field values of the scalar instructions are legal; a word of another value decodes to no instruction. -/
def Sys2Proof.Machine.ScalarFieldsRule : Prop :=
  (∀ f : FmtS, ∀ mk ∈ [Instr.add, Instr.sub, Instr.andS, Instr.orS, Instr.xorS, Instr.andn, 
    Instr.minS, Instr.maxS, Instr.minu, Instr.maxu, Instr.mul, Instr.mulh, Instr.mulhu, 
    Instr.div, Instr.divu, Instr.rem, Instr.remu, Instr.shl, Instr.shr, Instr.sra, 
    Instr.rol, Instr.sext, Instr.zext, Instr.slt, Instr.sltu, Instr.seq, Instr.sne], wf (mk f) = decide (f.sc = 0)) ∧
  (∀ f : FmtS, wf (.sel f) = true ∧ wf (.madd f) = true ∧ wf (.lea f) = decide (f.sc.toNat < 8) ∧
    ∀ mk ∈ [Instr.clz, .ctz, .popc], wf (mk f) = decide (f.sb = 0 ∧ f.sc = 0)) ∧
  (∀ f : FmtI, wf (.li f) = decide (f.sa = 0) ∧ wf (.lih f) = decide (f.imm.toNat < 2 ^ 20) ∧
    (∀ mk ∈ [Instr.shli, .shri, .srai], wf (mk f) = decide (f.imm.toNat < 64)) ∧
    ∀ mk ∈ [Instr.addi, .andi, .ori, .xori, .slti, .sltiu], wf (mk f) = true)

/-- R92 to R96, R57: the scalar arithmetic, bit, comparison, division and immediate instructions. -/
def Obligations.ScalarResults : Prop := ScalarArithmeticRule ∧ ScalarBitsRule ∧ ScalarDivisionRule ∧ ScalarImmediatesRule ∧ ScalarFieldsRule

/-! ## Control instructions, traps and control registers -/

/-- R97: branches, jumps, calls and loops outside single-step, and the fields that make a word none of them. -/
def Obligations.ControlTransfer : Prop :=
  (∀ (f : FmtB) (s : State), s.me.steps = false →
    let a := s.sr f.sa
    let b := s.sr f.sb
    let taken := (f.cnd = 0 ∧ a = b) ∨ (f.cnd = 1 ∧ a ≠ b) ∨ (f.cnd = 2 ∧ a.toInt < b.toInt) ∨
      (f.cnd = 3 ∧ b.toInt ≤ a.toInt) ∨ (f.cnd = 4 ∧ a.toNat < b.toNat) ∨ (f.cnd = 5 ∧ b.toNat ≤ a.toNat)
    f.cnd.toNat < 6 → ∃ t, exec (.br f) s = .next t ∧
      (taken → Passes (s.me.pc + BitVec.ofInt 64 (8 * f.off.toInt)) s t) ∧ (¬ taken → Passes (s.me.pc + 8) s t)) ∧
  (∀ (f : FmtJ) (s : State), s.me.steps = false →
    ∃ t, exec (.jmp f) s = .next t ∧ Passes (s.me.pc + BitVec.ofInt 64 (8 * f.off.toInt)) s t) ∧
  (∀ (f : FmtJ) (s : State), s.me.steps = false →
    ∃ t, exec (.call f) s = .next t ∧ Writes f.sd (s.me.pc + 8) (s.me.pc + BitVec.ofInt 64 (8 * f.off.toInt)) s t) ∧
  (∀ (f : FmtI) (s : State), s.me.steps = false →
    let a := s.sr f.sa + BitVec.ofInt 64 f.imm.toInt
    ∃ t, exec (.jr f) s = .next t ∧ (a.toNat % 8 = 0 → Writes f.sd (s.me.pc + 8) a s t) ∧
      (a.toNat % 8 ≠ 0 → s.me.level = .u → TrapsScalar .align a s t)) ∧
  (∀ (f : FmtB) (s : State), s.me.steps = false → f.sa ≠ 0 →
    ∃ t, exec (.loop f) s = .next t ∧ Writes f.sa (s.sr f.sa - 1)
      (if s.sr f.sa = 1 then s.me.pc + 8 else s.me.pc + BitVec.ofInt 64 (8 * f.off.toInt)) s t) ∧
  (∀ (w : Word) (f : FmtB), decodeWord w = .ok (.br f) → f.cnd.toNat < 6) ∧
  (∀ (w : Word) (f : FmtB), decodeWord w = .ok (.loop f) → f.sa ≠ 0 ∧ f.cnd = 0 ∧ f.sb = 0) ∧
  (∀ (w : Word) (f : FmtJ), decodeWord w = .ok (.jmp f) → f.sd = 0)

/-- R226, R228: what taking a trap at level U saves and where control goes, whatever the trap. -/
def Sys2Proof.Machine.TrapAtLevelURule : Prop :=
  ∀ (s : State) (c : Cause) (x : Trap), s.me.level = .u → x.code = c.code →
    EntersHandler c x.vec x.arr x.tval (if x.past then s.me.pc + 8 else s.me.pc) x.epr s (takeTrap x s)

/-- R227, R171: a trap at level S does not enter SENTRY; the hart is saved, its bank of level S is cleared, and a RESIDENT
context that does not switch out becomes FAULTED. -/
def Sys2Proof.Machine.TrapAtLevelSRule : Prop :=
  ∀ (s : State) (x : Trap), s.me.level = .s → (s.ctx (s.asidOf s.cur)).st = .resident →
    s.switchingOut (s.asidOf s.cur) = false →
    let t := takeTrap x s
    (t.ctx (s.asidOf s.cur)).st = .faulted ∧ (t.ctx (s.asidOf s.cur)).events.length =
      (s.ctx (s.asidOf s.cur)).events.length + 1 ∧ t.me.saved = true ∧ t.me.fs = true ∧ t.me.level = .u ∧
    t.me.sbank = Vector.replicate 8 0

/-- R171, R226 to R228: taking a trap at level U, and at level S. -/
def Obligations.TrapEntry : Prop := TrapAtLevelURule ∧ TrapAtLevelSRule

/-- R234, R86: SYSC and BRK at level U take their traps; TRET at level S goes back. The device time is a free value
(log 8); that HELD bindings become active at any TRET is the model's reading (log 32). -/
def Obligations.SystemCalls : Prop :=
  (∀ (f : FmtY) (s : State), s.me.level = .u → ∃ t, exec (.sysc f) s = .next t ∧
    EntersHandler .sysc false false
      (BitVec.ofNat 64 (f.imm.toNat + f.sd.toNat * 2 ^ 12 + f.sa.toNat * 2 ^ 18)) (s.me.pc + 8) 0 s t) ∧
  (∀ (f : FmtY) (s : State), s.me.level = .u → ∃ t, exec (.brk f) s = .next t ∧
    TrapsScalar .brk (f.imm.zeroExtend 64) s t) ∧
  (∀ (f : FmtY) (s : State), s.me.level = .s → f.imm.toNat ≠ 1 → ∃ t, exec (.sysc f) s = .next t ∧
    Writes f.sd (if f.imm.toNat = 0 then 0 else if f.imm.toNat = 2 then s.time else 0xFFFFFFFFFFFFFFFF)
      (s.me.pc + 8) s t) ∧
  (∀ (f : FmtY) (s : State), s.me.level = .s → s.me.saveDue = false → (∀ l ∈ s.me.latches, l.delivered = false) →
    NoPreempt s → ∃ t, exec (.tret f) s = .next t ∧
    t.me.level = (if s.me.cause.toNat / 2 ^ 14 % 4 = 1 then .s else .u) ∧ t.me.pc = s.me.epc ∧ t.me.epr = s.me.epr ∧
    t.me.dbg = s.me.dbgReg ∧ t.me.wait = none ∧
    t.me.resumed = true ∧
    { t.me with level := s.me.level, pc := s.me.pc, dbg := s.me.dbg, wait := s.me.wait, binds := s.me.binds,
                resumed := s.me.resumed } = s.me ∧
    t.me.binds = s.me.binds.map (fun b => if b.st = .held ∧ b.kind ≠ 4 then { b with st := .active } else b) ∧
    OnlyHart s t)

/-- R83, R84, R86: what level U may not do traps ILLEGAL with the word, and changes nothing else. -/
def Obligations.Privilege : Prop :=
  ∀ (f : FmtY) (s : State), s.me.level = .u →
    (∃ t, exec (.tret f) s = .next t ∧ ∀ w, encode (.tret f) = some w → TrapsScalar .illegal w s t) ∧
    (∃ t, exec (.tlbi f) s = .next t ∧ ∀ w, encode (.tlbi f) = some w → TrapsScalar .illegal w s t) ∧
    (∃ t, exec (.pmig f) s = .next t ∧ ∀ w, encode (.pmig f) = some w → TrapsScalar .illegal w s t) ∧
    (f.cn.toNat ∉ [0, 1, 2, 3, 4, 5, 6, 8, 9, 10, 11, 0x10, 0x11, 0x12, 0x18, 0x19, 0x30, 0x31, 0x32, 0x33] →
      ∃ t, exec (.getc f) s = .next t ∧ ∀ w, encode (.getc f) = some w → TrapsScalar .illegal w s t) ∧
    (f.cn.toNat ∉ [3, 5, 6, 8, 9, 10, 11, 0x10, 0x11, 0x12, 0x18, 0x19] →
      ∃ t, exec (.setc f) s = .next t ∧ ∀ w, encode (.setc f) = some w → TrapsScalar .illegal w s t)

/-- R83, R233: what GETC reads, at level U and more at level S. -/
def Obligations.ControlRegisterReads : Prop :=
  ∀ (f : FmtY) (s : State), s.me.steps = false →
    let h := s.me
    let reads : List (Nat × Word) → Prop := fun l => ∀ p ∈ l, f.cn.toNat = p.1 →
      ∃ t, exec (.getc f) s = .next t ∧ Writes f.sd p.2 (s.me.pc + 8) s t
    reads [(0x000, h.vl.zeroExtend 64), (0x001, s.grant s.cur), (0x003, h.carry), (0x004, h.mshape),
      (0x005, h.rowcnt.zeroExtend 64), (0x006, h.rowpitch), (0x008, h.tagtab[0]), (0x009, h.tagtab[1]),
      (0x00A, h.tagtab[2]), (0x00B, h.tagtab[3]), (0x010, h.frm.zeroExtend 64), (0x011, h.fflags.zeroExtend 64),
      (0x012, h.seed), (0x018, h.ev.zeroExtend 64), (0x019, h.status.zeroExtend 64),
      (0x030, wd (hartIdOf s.cur)), (0x031, s.groupId s.cur), (0x032, wd (coreIdOf (coreOf s.cur))),
      (0x033, wd (s.asidOf s.cur))] ∧
    (h.level = .u → reads [(0x002, 0)]) ∧
    (h.level = .s → reads [(0x002, h.epr), (0x020, h.cause), (0x021, h.tval), (0x022, h.epc)])

/-- R83, R51, R53, R154, R207, R223, R233, R283: what SETC writes, under each register's own rules. That PPL 2 and 3
are stored as written is the model's reading (log 32). -/
def Obligations.ControlRegisterWrites : Prop :=
  ∀ (f : FmtY) (s : State), s.me.steps = false →
    let h := s.me
    let v := s.sr f.sa
    let low : (n : Nat) → BitVec n := fun n => v.setWidth n
    let writes : List (Nat × Hart) → Prop := fun l => ∀ p ∈ l, f.cn.toNat = p.1 →
      exec (.setc f) s = .next (s.setMe { p.2 with pc := s.me.pc + 8, wait := none })
    writes [(0x003, { h with carry := v }), (0x006, { h with rowpitch := v }),
      (0x005, { h with rowcnt := if 8 < v.toNat % 16 then 8 else low 4 }),
      (0x008, { h with tagtab := h.tagtab.set 0 v }), (0x009, { h with tagtab := h.tagtab.set 1 v }),
      (0x00A, { h with tagtab := h.tagtab.set 2 v }), (0x00B, { h with tagtab := h.tagtab.set 3 v }),
      (0x010, { h with frm := if v.toNat % 8 = 0 ∨ v.toNat % 8 = 7 then 1 else low 3 }),
      (0x011, { h with fflags := low 6 }), (0x012, { h with seed := if v = 0 then 0x9E3779B97F4A7C15 else v }),
      (0x018, { h with ev := low 32 }), (0x019, { h with status := low 3 })] ∧
    (h.level = .s → writes [(0x000, { h with vl := if 16384 < v.toNat % 2 ^ 15 then 16384 else low 15 }), (0x001, h),
      (0x004, { h with mshape := BitVec.ofNat 64 (v.toNat / 2 ^ 32 % 16 * 2 ^ 32 + v.toNat / 2 ^ 16 % 2 ^ 16 / 8 * 8 * 2 ^ 16
        + min (v.toNat / 2 ^ 8 % 256) 128 * 2 ^ 8 + min (v.toNat % 256) 128) }),
      (0x002, { h with epr := v }), (0x020, { h with cause := v &&& 0xF03F }), (0x021, { h with tval := v }),
      (0x022, { h with epc := v &&& 0xFFFFFFFFFFFFFFF8 })])

/-- R221, R222, R235, R87: the waiting, yielding and empty instructions. That YIELD lets the other ready harts go
first, in slot order, and that a hart which its own YIELD holds is not ready, are the model's choice (log 3). -/
def Sys2Proof.Machine.EventsAndNopsRule : Prop :=
  (∀ (f : FmtY) (s : State), s.me.steps = false →
    let m := s.sr f.sa ||| f.imm.zeroExtend 64
    let v : Word := s.me.ev.zeroExtend 64
    (v &&& m ≠ 0 ∨ m = 0) → ∃ t, exec (.evwait f) s = .next t ∧
      Writes f.sd v (s.me.pc + 8) s { t with groups := s.groups } ∧ GroupRuns s t) ∧
  (∀ (f : FmtY) (s : State), NoPreempt s →
    let m := s.sr f.sa ||| f.imm.zeroExtend 64
    s.me.ev.zeroExtend 64 &&& m = 0 → m ≠ 0 → ∃ t, exec (.evwait f) s = .next t ∧ Waits (.evwait f) s t) ∧
  (∀ (h : Nat) (f : FmtY) (s : State), (s.hart h).wait = some (.evwait f) → (s.hart h).steps = false →
    let m := (s.hart h).get f.sa ||| f.imm.zeroExtend 64
    let v : Word := (s.hart h).ev.zeroExtend 64
    (v &&& m ≠ 0 ∨ m = 0) → ∃ t, exec (.evwaitWake h) s = .next t ∧
      Writes f.sd v ((s.hart h).pc + 8) { s with cur := h } { t with groups := s.groups }) ∧
  (∀ (f : FmtY) (s : State), s.me.steps = false → ∃ t, exec (.nop f) s = .next t ∧ Passes (s.me.pc + 8) s t) ∧
  (∀ w : Word, w.toNat / 2 ^ 48 = 0xF009 → if w = 0xF009000000000000 then ∃ f, decodeWord w = .ok (.nop f)
    else ∃ r, decodeWord w = .error r) ∧
  (∀ (b : BitVec 56) (s : State), s.me.steps = false → ∃ t, exec (.hintNop b) s = .next t ∧ Passes (s.me.pc + 8) s t) ∧
  (∀ (f : FmtY) (s : State), s.me.steps = false → s.regs.boot ≠ 2 →
    let ready := ([0, 1, 2, 3].map fun i => 4 * (s.cur / 4) + i).filter fun h =>
      decide (h ≠ s.cur) && (s.hart h).wait.isNone && runnable s h && !(s.agenda.contains (.back h))
    ∃ t, exec (.yield f) s = .next t ∧ Passes (s.me.pc + 8) s { t with agenda := s.agenda } ∧
    t.agenda = (if ready = [] then [] else ready.map Turn.hart ++ [Turn.back s.cur]) ++ s.agenda)

/-- R237: outside other traps, an instruction of level U that completes under ISTEP or ESTEP takes STEP after it.
Its `tval` is a free value (log 8), and that VEC and ARR are 0 after a completed scalar instruction is the model's reading
(log 23). -/
def Sys2Proof.Machine.SingleStepRule : Prop :=
  ∀ (f : FmtY) (s : State), s.me.level = .u → s.me.epr = 0 → (s.me.dbg.ctl.getLsbD 0 = true ∨ s.me.dbg.ctl.getLsbD 1 = true) →
    ∃ t v, exec (.nop f) s = .next t ∧ EntersHandler .step false false v (s.me.pc + 8) 0 s { t with fresh := s.fresh }

/-! ## Scalar memory -/

namespace Sys2Proof.Machine

/-- A loaded value under an SZ code: `bs`, `hs` and `ws` sign-extended, the others zero-extended (R100). -/
def loadedValue (sz : BitVec 3) (bytes : List Byte) : Word :=
  if 4 ≤ sz.toNat then BitVec.ofInt 64 ((leNat bytes : Int).bmod (2 ^ (8 * 2 ^ (sz.toNat % 4))))
  else BitVec.ofNat 64 (leNat bytes)

/-- What `AMO` stores, on w-bit values (R101). -/
def atomicValue (aop : Nat) {w : Nat} (old v e : BitVec w) : BitVec w :=
  if aop = 0 then old + v
  else if aop = 1 then v
  else if aop = 2 then (if old = e then v else old)
  else if aop = 3 then (if v.toInt < old.toInt then v else old)
  else if aop = 4 then (if old.toInt < v.toInt then v else old)
  else if aop = 5 then (if v.toNat < old.toNat then v else old)
  else if aop = 6 then (if old.toNat < v.toNat then v else old)
  else if aop = 7 then old &&& v
  else if aop = 8 then old ||| v
  else old ^^^ v

/-- The checks of an address that no translation needs: no WATCH, bits [63:55] clear, aligned (R98, R237). -/
def PlainAddress (s : State) (ea : Word) (n : Nat) (ld st : Bool) : Prop :=
  watchHit s.me ea.toNat n ld st = false ∧ ea.toNat < 2 ^ 55 ∧ ea.toNat % n = 0

/-- The scalar data window and the offset in the core's scalar data memory (R99). -/
def InDataWindow (ea : Word) : Prop := 0x007FFFFFFFFFC000 ≤ ea.toNat ∧ ea.toNat ≤ 0x007FFFFFFFFFFFFF

/-- Scalar data memory of the hart's core after n bytes at an offset are written: a word written whole loses its poison
mark (R377), and nothing else of the machine changes. -/
def DataWritten (off : Nat) (bytes : List Byte) (s u : State) : Prop :=
  { u with cores := s.cores } = s ∧ (∀ c, c ≠ s.cur / 4 → u.core c = s.core c) ∧
  { u.core (s.cur / 4) with sdata := (s.core (s.cur / 4)).sdata, poison := (s.core (s.cur / 4)).poison } =
    s.core (s.cur / 4) ∧
  (∀ w, w ∈ (u.core (s.cur / 4)).poison ↔ w ∈ (s.core (s.cur / 4)).poison ∧
    ¬ (w.1 = .sdata ∧ off ≤ 8 * w.2 ∧ 8 * w.2 + 8 ≤ off + bytes.length)) ∧
  ∀ x, bsGet (u.core (s.cur / 4)).sdata x =
    if off ≤ x ∧ x < off + bytes.length then bytes.getD (x - off) 0 else bsGet (s.core (s.cur / 4)).sdata x

/-- Device memory after bytes of one line are written; every other byte reads as before, and only that line's metadata
changes (R173). -/
def LineWritten (pa : Nat) (bytes : List Byte) (s u : State) : Prop :=
  { u with mem := s.mem, lines := s.lines } = s ∧ (∀ i, i ≠ pa / 64 → u.line i = s.line i) ∧
  ∀ x, bsGet u.mem x = if pa ≤ x ∧ x < pa + bytes.length then bytes.getD (x - pa) 0 else bsGet s.mem x

/-- A write that finds its line under no other key and in a page that a kernel's declaration or the default covers. -/
def OwnLine (s : State) (p : Place) (pa : Nat) : Prop :=
  p.loc = .dev pa ∧ p.hs = false ∧ p.mig = false ∧ p.far = false ∧ p.cry.mode ≠ .none ∧ cntFull s [] p.cry pa = false ∧
  (∀ k, (s.line (pa / 64)).key = some k → k = keyGenOf s p.cry) ∧ Memory.wf s.mem = true

/-- No word of the scalar data memory that an access in the window touches is marked poisoned (R99, R150). -/
def CleanData (s : State) (off n : Nat) : Prop :=
  ∀ w, (.sdata, w) ∈ (s.core (s.cur / 4)).poison → ¬ (off < 8 * w + 8 ∧ 8 * w < off + n)

/-- The state in which an access performs: a release has waited for every earlier access, and for the remote stores to be
acknowledged (R339, R345, R419); before any other, as many accepted vector stores as happen to have performed (R107; how
many is a free value, log 8). -/
def Gated (rel : Prop) (s s0 : State) : Prop :=
  (¬ rel → s0 = settleSome s.cur s) ∧
  (rel → s.me.dropped = [] ∧ s.me.unacked = [] ∧ s0 = settleAll s.cur s)

end Sys2Proof.Machine

/-- R98 to R100, R107: LD gives the bytes at its address, in the scalar data window or through a translation, after as
many accepted vector stores as happen to have performed. How many is a free value (log 8). -/
def Obligations.ScalarLoads : Prop :=
  ∀ (f : FmtM) (s : State), s.me.steps = false →
    let n := 2 ^ (f.sz.toNat % 4)
    let ea := s.sr f.sa + BitVec.ofInt 64 f.imm.toInt
    let s0 := settleSome s.cur s
    PlainAddress s ea n true false →
    (InDataWindow ea → CleanData s0 (ea.toNat - 0x007FFFFFFFFFC000) n → ∃ t, exec (.ld f) s = .next t ∧
      Writes f.sd (loadedValue f.sz (readLoc s0 (.sdata (s.cur / 4) (ea.toNat - 0x007FFFFFFFFFC000)) n)) (s.me.pc + 8) s0 t) ∧
    (¬ InDataWindow ea → ∀ s1 s2 p, translate (hartWho s0 s0.cur) .load ea.toNat n s0 = (s1, .ok p) →
      p.far = false → placeFault p s1 = (s2, none) → ∃ t, exec (.ld f) s = .next t ∧
      Writes f.sd (loadedValue f.sz (readLoc s2 p.loc n)) (s.me.pc + 8) (countPlaces (hartWho s0 s0.cur) [p] s2) t)

/-- R98 to R100, R339: ST, relaxed or a release, stores the low bytes of its register at its address and nowhere else. -/
def Obligations.ScalarStores : Prop :=
  ∀ (f : FmtM) (s s0 : State), s.me.steps = false → Gated (f.ord = 2) s s0 →
    let n := 2 ^ (f.sz.toNat % 4)
    let ea := s.sr f.sa + BitVec.ofInt 64 f.imm.toInt
    let bytes := leBytes n (s.sr f.sd).toNat
    PlainAddress s ea n false true →
    (InDataWindow ea → Memory.wf (s0.core (s.cur / 4)).sdata = true → ∃ u t, exec (.st f) s = .next t ∧
      DataWritten (ea.toNat - 0x007FFFFFFFFFC000) bytes s0 u ∧ Passes (s.me.pc + 8) u t) ∧
    (¬ InDataWindow ea → ∀ s1 p pa, translate (hartWho s0 s0.cur) .store ea.toNat n s0 = (s1, .ok p) →
      OwnLine s1 p pa → ∃ u t, exec (.st f) s = .next t ∧
      LineWritten pa bytes s1 u ∧ Passes (s.me.pc + 8) (countPlaces (hartWho s0 s0.cur) [p] u) t)

/-- R101, R345: AMO of any order reads the old value and stores the new one at the same place; SD gets the old value
sign-extended. -/
def Obligations.ScalarAtomics : Prop :=
  ∀ (f : FmtM) (s s0 : State), s.me.steps = false → Gated (f.ord = 2 ∨ f.ord = 3) s s0 → (f.sz = 2 ∨ f.sz = 3) →
    f.aop.toNat ≤ 9 →
    let n := 2 ^ f.sz.toNat
    let ea := s.sr f.sa + BitVec.ofInt 64 (f.imm.setWidth 19).toInt
    let new : List Byte → List Byte := fun old => leBytes n (atomicValue f.aop.toNat (BitVec.ofNat (8 * n) (leNat old))
      ((s.sr f.sv).setWidth (8 * n)) ((s.sr f.se).setWidth (8 * n))).toNat
    let got : List Byte → Word := fun old => BitVec.ofInt 64 ((leNat old : Int).bmod (2 ^ (8 * n)))
    PlainAddress s ea n true true →
    (InDataWindow ea → Memory.wf (s0.core (s.cur / 4)).sdata = true →
      let off := ea.toNat - 0x007FFFFFFFFFC000
      CleanData s0 off n →
      let old := readLoc s0 (.sdata (s.cur / 4) off) n
      ∃ u t, exec (.amo f) s = .next t ∧ DataWritten off (new old) s0 u ∧ Writes f.sd (got old) (s.me.pc + 8) u t) ∧
    (¬ InDataWindow ea → ∀ s1 p pa, translate (hartWho s0 s0.cur) .both ea.toNat n s0 = (s1, .ok p) →
      OwnLine s1 p pa → placeFault p s1 = (s1, none) →
      let old := readLoc s1 (.dev pa) n
      ∃ u t, exec (.amo f) s = .next t ∧ LineWritten pa (new old) s1 u ∧
        Writes f.sd (got old) (s.me.pc + 8) (countPlaces (hartWho s0 s0.cur) [p] u) t)

/-- R98: an address with bits [63:55] set traps PAGE, a misaligned one ALIGN, with `tval` the address, and nothing is
read or written. -/
def Obligations.ScalarAddressTraps : Prop :=
  ∀ (s s0 : State) (f : FmtM), s.me.level = .u →
    let traps : Prop → Instr → Word → Nat → Bool → Bool → Prop := fun rel i ea n ld st =>
      Gated rel s s0 → watchHit s.me ea.toNat n ld st = false →
      (2 ^ 55 ≤ ea.toNat → ∃ t, exec i s = .next t ∧ TrapsScalar .page ea s0 t) ∧
      (ea.toNat < 2 ^ 55 → ea.toNat % n ≠ 0 → ∃ t, exec i s = .next t ∧ TrapsScalar .align ea s0 t)
    traps False (.ld f) (s.sr f.sa + BitVec.ofInt 64 f.imm.toInt) (2 ^ (f.sz.toNat % 4)) true false ∧
    traps (f.ord = 2) (.st f) (s.sr f.sa + BitVec.ofInt 64 f.imm.toInt) (2 ^ (f.sz.toNat % 4)) false true ∧
    traps (f.ord = 2 ∨ f.ord = 3) (.amo f) (s.sr f.sa + BitVec.ofInt 64 (f.imm.setWidth 19).toInt) (2 ^ (f.sz.toNat % 4))
      true true

/-- R103, R344, R419: FENCE passes once the remote stores of its earlier class are acknowledged, and waits until then; with
`vs` and `all` every accepted vector store has performed. Where a remote store that it orders was dropped it traps PROT at
the address of the first such; a release orders them all. That `sv` and `vv` trap with VEC = 1 is log 11, and that a fence
below `system` scope waits too is log 54. -/
def Sys2Proof.Machine.FenceRule : Prop :=
  (∀ (f : FmtM) (s : State), f.imm.toNat < 4 →
    let orders : Remote → Bool := fun r => decide (f.imm.toNat = 3 ∨ (f.imm.toNat = 0 ∧ r.vec = false) ∨
      ((f.imm.toNat = 1 ∨ f.imm.toNat = 2) ∧ r.vec = true))
    ((∀ r ∈ s.me.dropped, orders r = false) → (∀ r ∈ s.me.unacked, orders r = false) → s.me.steps = false →
      ∃ t, exec (.fence f) s = .next t ∧
      Passes (s.me.pc + 8) (if f.imm.toNat = 1 ∨ f.imm.toNat = 3 then settleAll s.cur s else s) t) ∧
    ((∀ r ∈ s.me.dropped, orders r = false) → (∃ r ∈ s.me.unacked, orders r = true) → exec (.fence f) s = .next s) ∧
    (∀ l r l', s.me.dropped = l ++ r :: l' → (∀ x ∈ l, orders x = false) → orders r = true → s.me.level = .u →
      ∃ t, exec (.fence f) s = .next t ∧
      EntersHandler .prot (decide (f.imm.toNat = 0 ∨ f.imm.toNat = 2)) false r.va s.me.pc 0 s t)) ∧
  (∀ (f : FmtM) (s : State) (r : Remote) (l : List Remote), s.me.dropped = r :: l → s.me.level = .u →
    (f.ord = 2 → ∃ t, exec (.st f) s = .next t ∧ TrapsScalar .prot r.va s t) ∧
    (f.ord = 2 ∨ f.ord = 3 → ∃ t, exec (.amo f) s = .next t ∧ TrapsScalar .prot r.va s t)) ∧
  (∀ (f : FmtM) (s : State), s.me.dropped = [] → s.me.unacked ≠ [] →
    (f.ord = 2 → exec (.st f) s = .next s) ∧ (f.ord = 2 ∨ f.ord = 3 → exec (.amo f) s = .next s))

/-- R87, R103, R221, R222, R235, R237, R419: the instructions that wait, yield, do nothing or order, and a single step. -/
def Obligations.EventsAndFences : Prop := EventsAndNopsRule ∧ SingleStepRule ∧ FenceRule

/-! ## Vector arithmetic, logic, comparison and conversion -/

namespace Sys2Proof.Machine

/-- An arithmetic instruction of `n` sources (R117, R118): with operands that are not bound, tags that are neither sx nor
kx, a promoted type T that its entry accepts and a length that fits, each result is its function in T. -/
def ArithOp (mk : FmtV → Instr) (op : AOp) (n : Nat) : Prop :=
  ∀ (f : FmtV) (s : State) (t : Tag) (p : Nat),
    let src := [f.va.toNat, f.vb.toNat, f.vc.toNat].take n
    let td := s.me.opTag f.ovr.toNat f.vd.toNat
    let tags := src.map (s.me.opTag f.ovr.toNat)
    let rm := s.me.rmOf f.rm.toNat
    VecReady s (f.vd.toNat :: src) → VecFits s (td :: tags) → (∀ x ∈ td :: tags, x.isSx = false ∧ x ≠ .kx) →
    promoteAll tags = .ok (t, p) → op.accepts t = true →
    ∃ u, exec (mk f) s = .next u ∧
      Elementwise.result f td (fun e => elemArith op t td rm (f.sat = 1)
        (s.me.sources f.mod.toNat f.ovr.toNat (some 1) src e)) s u

/-- A bit function of `n` sources (R122): bitwise ones need one width throughout, the others integer sources. -/
def LogicOp (mk : FmtV → Instr) (op : LOp) (n : Nat) : Prop :=
  ∀ (f : FmtV) (s : State),
    let src := [f.va.toNat, f.vb.toNat].take n
    let td := s.me.opTag f.ovr.toNat f.vd.toNat
    let tags := src.map (s.me.opTag f.ovr.toNat)
    let ta := s.me.opTag f.ovr.toNat f.va.toNat
    VecReady s (f.vd.toNat :: src) → VecFits s (td :: tags) → (∀ x ∈ td :: tags, x.isSx = false ∧ x ≠ .kx) →
    (op.bitwise = true → ∀ x ∈ td :: tags, x.width = ta.width) → (op.bitwise = false → ∀ x ∈ tags, x.isInt = true) →
    ∃ u, exec (mk f) s = .next u ∧
      Elementwise.result f td (fun e =>
        let xs := s.me.sources f.mod.toNat f.ovr.toNat (some 1) src e
        elemLogic op ta td (f.sat = 1) (xs.getD 0 (.u8, 0)).2 (xs.getD 1 (.u8, 0)).2) s u

end Sys2Proof.Machine

/-- R117, R118, R119 to R121: every instruction of major 0x40. -/
def Sys2Proof.Machine.ArithmeticElementsRule : Prop :=
  ArithOp .vadd .add 2 ∧ ArithOp .vsub .sub 2 ∧ ArithOp .vmul .mul 2 ∧ ArithOp .vmulh .mulh 2 ∧ ArithOp .vdiv .div 2 ∧
  ArithOp .vrem .rem 2 ∧ ArithOp .vmin .min 2 ∧ ArithOp .vmax .max 2 ∧ ArithOp .vabs .abs 1 ∧ ArithOp .vneg .neg 1 ∧
  ArithOp .vabsd .absd 2 ∧ ArithOp .vavg .avg 2 ∧ ArithOp .vfma .fma 3 ∧ ArithOp .vfms .fms 3 ∧ ArithOp .vfnma .fnma 3 ∧
  ArithOp .vclamp .clamp 3 ∧ ArithOp .vsqrt .sqrt 1 ∧ ArithOp .vexp2 .exp2 1 ∧ ArithOp .vlog2 .log2 1 ∧
  ArithOp .vrcpe .rcpe 1 ∧ ArithOp .vrcps .rcps 2 ∧ ArithOp .vrsqe .rsqe 1 ∧ ArithOp .vrsqs .rsqs 2

/-- R50, R54, R56, R118, R119: floating results as they are rounded: a tie under every mode and both signs, an overflow
under every mode and under SAT, an exact infinity under SAT, a quotient, a root, one rounding of a fused product, and a
result below the normal range. -/
def Sys2Proof.Machine.RoundedValuesRule : Prop :=
  let gives : AOp → Tag → Rm → Bool → List Nat → Nat → Flags → Prop := fun op t rm sat l r fl =>
    elemArith op t t rm sat (l.map fun n => (t, n)) = (r, fl)
  (∀ p ∈ [(Rm.rne, 0x3F800000), (.rtz, 0x3F800000), (.rdn, 0x3F800000), (.rup, 0x3F800001), (.rna, 0x3F800001)],
    gives .add .f32 p.1 false [0x3F800000, 0x33800000] p.2 fNX) ∧
  (∀ p ∈ [(Rm.rne, 0xBF800002), (.rtz, 0xBF800001), (.rdn, 0xBF800002), (.rup, 0xBF800001), (.rna, 0xBF800002)],
    gives .sub .f32 p.1 false [0xBF800001, 0x33800000] p.2 fNX) ∧
  (∀ p ∈ [(Rm.rne, 0x7F800000), (.rtz, 0x7F7FFFFF), (.rdn, 0x7F7FFFFF), (.rup, 0x7F800000), (.rna, 0x7F800000)],
    gives .add .f32 p.1 false [0x7F7FFFFF, 0x7F7FFFFF] p.2 (fOF ||| fNX) ∧
    gives .add .f32 p.1 true [0x7F7FFFFF, 0x7F7FFFFF] 0x7F7FFFFF (fOF ||| fNX ||| fSAT)) ∧
  (∀ p ∈ [(Rm.rne, 0xFF800000), (.rtz, 0xFF7FFFFF), (.rdn, 0xFF800000), (.rup, 0xFF7FFFFF), (.rna, 0xFF800000)],
    gives .mul .f32 p.1 false [0xFF7FFFFF, 0x7F7FFFFF] p.2 (fOF ||| fNX)) ∧
  gives .add .f32 .rne true [0x7F800000, 0x7F800000] 0x7F800000 0 ∧
  gives .div .f16 .rne false [0x3C00, 0x4200] 0x3555 fNX ∧ gives .div .f16 .rup false [0x3C00, 0x4200] 0x3556 fNX ∧
  gives .sqrt .f32 .rne false [0x40000000] 0x3FB504F3 fNX ∧
  gives .fma .f16 .rne false [0x3C01, 0x3C01, 0xBC02] 0x0010 0 ∧ gives .mul .f16 .rne false [0x3C01, 0x3C01] 0x3C02 fNX ∧
  gives .mul .f16 .rne false [0x0401, 0x3800] 0x0200 (fNX ||| fUF)

/-- R50, R54, R56, R117 to R121: every instruction of major 0x40, and what floating results round to. -/
def Obligations.VectorArithmetic : Prop := ArithmeticElementsRule ∧ RoundedValuesRule

/-- R118, R57, R58: the integer functions on one integer tag T: the exact result wraps to T's width, or under SAT is
clamped to T's range with SATF; division by 0 gives all ones with DZ, a remainder by 0 the dividend with DZ. -/
def Sys2Proof.Machine.IntegerValuesRule : Prop :=
  ∀ (t : Tag) (rm : Rm) (sat : Bool) (x y z : Nat), t.isInt = true → x < 2 ^ t.width → y < 2 ^ t.width →
    z < 2 ^ t.width →
    let val : Nat → Int := fun n => if t.isSigned then (n : Int).bmod (2 ^ t.width) else n
    let a := val x
    let b := val y
    let c := val z
    let fit : Int → Nat × Flags := fun r =>
      if sat = true ∧ r < t.lo then ((t.lo % (2 ^ t.width : Nat)).toNat, fSAT)
      else if sat = true ∧ t.hi < r then ((t.hi % (2 ^ t.width : Nat)).toNat, fSAT)
      else ((r % (2 ^ t.width : Nat)).toNat, 0)
    let gives : AOp → List Nat → Int → Prop := fun op l r =>
      elemArith op t t rm sat (l.map fun n => (t, n)) = fit r
    gives .add [x, y] (a + b) ∧ gives .sub [x, y] (a - b) ∧ gives .mul [x, y] (a * b) ∧
    gives .mulh [x, y] (a * b / (2 ^ t.width : Nat)) ∧ gives .min [x, y] (min a b) ∧ gives .max [x, y] (max a b) ∧
    gives .abs [x] |a| ∧ gives .neg [x] (-a) ∧ gives .absd [x, y] |a - b| ∧ gives .fma [x, y, z] (a * b + c) ∧
    gives .fms [x, y, z] (a * b - c) ∧ gives .fnma [x, y, z] (c - a * b) ∧
    gives .clamp [x, y, z] (if a < b then b else if c < a then c else a) ∧
    (rm ≠ .rsto → gives .avg [x, y] (
      let q := (a + b) / 2
      if (a + b) % 2 = 0 ∨ rm = .rdn ∨ (rm = .rtz ∧ 0 ≤ a + b) ∨ (rm = .rne ∧ q % 2 = 0) ∨ (rm = .rna ∧ a + b < 0) then q
      else q + 1)) ∧
    (y ≠ 0 → gives .div [x, y] (a.tdiv b) ∧ gives .rem [x, y] (a.tmod b)) ∧
    (elemArith .div t t rm sat [(t, x), (t, 0)]).1 = 2 ^ t.width - 1 ∧
    (elemArith .div t t rm sat [(t, x), (t, 0)]).2 = fDZ ∧ elemArith .rem t t rm sat [(t, x), (t, 0)] = (x, fDZ)

/-- R122 to R125: every instruction of majors 0x41 and 0x42. -/
def Obligations.VectorLogicAndCompare : Prop :=
  LogicOp .vand .and 2 ∧ LogicOp .vor .or 2 ∧ LogicOp .vxor .xor 2 ∧ LogicOp .vnot .not 1 ∧ LogicOp .vshl .shl 2 ∧
  LogicOp .vshr .shr 2 ∧ LogicOp .vrol .rol 2 ∧ LogicOp .vpopc .popc 1 ∧ LogicOp .vclz .clz 1 ∧
  (∀ (f : FmtV) (s : State) (t : Tag) (p : Nat),
    let src := [f.va.toNat, f.vb.toNat]
    let td := s.me.opTag f.ovr.toNat f.vd.toNat
    let tags := src.map (s.me.opTag f.ovr.toNat)
    VecReady s (f.vd.toNat :: src) → VecFits s (td :: tags) → td.isInt = true → (∀ x ∈ tags, x.isSx = false) →
    promoteAll tags = .ok (t, p) → ∃ u, exec (.vcmp f) s = .next u ∧
      Elementwise.result f td (fun e =>
        let xs := s.me.sources f.mod.toNat f.ovr.toNat (some 1) src e
        elemCmp f.vc.toNat t td (s.me.rmOf 0) false (xs.getD 0 (.u8, 0)) (xs.getD 1 (.u8, 0))) s u) ∧
  (∀ (f : FmtV) (s : State),
    let src := [f.va.toNat, f.vb.toNat, f.vc.toNat]
    let tag := s.me.opTag f.ovr.toNat
    let td := tag f.vd.toNat
    VecReady s (f.vd.toNat :: src) → VecFits s (td :: src.map tag) → (∀ x ∈ td :: src.map tag, x.isSx = false) →
    ((td = .kx ∧ tag f.va.toNat = .kx ∧ tag f.vb.toNat = .kx) ∨
      (td ≠ .kx ∧ tag f.va.toNat ≠ .kx ∧ tag f.vb.toNat ≠ .kx)) →
    ∃ u, exec (.vsel f) s = .next u ∧
      Elementwise.result f td (fun e =>
        let a := s.me.source f.ovr.toNat f.va.toNat e
        let b := s.me.sourceMod f.mod.toNat f.ovr.toNat f.vb.toNat e
        let x := if (s.me.source f.ovr.toNat f.vc.toNat e).2 = 0 then b else a
        convert x.1 td (s.me.rmOf f.rm.toNat) (f.sat = 1) 0 x.2) s u) ∧
  (∀ (f : FmtV) (s : State),
    let td := s.me.opTag f.ovr.toNat f.vd.toNat
    let ta := s.me.opTag f.ovr.toNat f.va.toNat
    VecReady s [f.vd.toNat, f.va.toNat] → VecFits s [td, ta] → td.isInt = true → 16 ≤ td.width → ta.isFloat = true →
    ∃ u, exec (.vclass f) s = .next u ∧
      Elementwise.result f td (fun e => (2 ^ classBit ta (s.me.source f.ovr.toNat f.va.toNat e).2, 0)) s u)

/-- R123: comparing two integers, or two kx pairs, raises nothing and is all ones or 0; of floats, a NaN makes NE and UN
alone hold, and LT, LE, GT and GE raise NV on it. SAT, which governs the conversion to T, does not change a comparison of
operands that are in T already. -/
def Sys2Proof.Machine.CompareElementsRule : Prop :=
  (∀ (cnd : Nat) (t td : Tag) (rm : Rm) (sat : Bool) (x y : Nat), t.isInt = true → x < 2 ^ t.width → y < 2 ^ t.width → cnd < 8 →
    let val : Nat → Int := fun n => if t.isSigned then (n : Int).bmod (2 ^ t.width) else n
    let holds := (cnd = 0 ∧ val x = val y) ∨ (cnd = 1 ∧ val x ≠ val y) ∨ (cnd = 2 ∧ val x < val y) ∨
      (cnd = 3 ∧ val x ≤ val y) ∨ (cnd = 4 ∧ val y < val x) ∨ (cnd = 5 ∧ val y ≤ val x) ∨ cnd = 7
    (holds → elemCmp cnd t td rm sat (t, x) (t, y) = (2 ^ td.width - 1, 0)) ∧
    (¬ holds → elemCmp cnd t td rm sat (t, x) (t, y) = (0, 0))) ∧
  (∀ (cnd : Nat) (td : Tag) (rm : Rm) (sat : Bool) (x y : Nat), cnd < 8 →
    let above : Nat → Nat → Prop := fun a b =>
      b / 2 ^ 32 < a / 2 ^ 32 ∨ (b / 2 ^ 32 = a / 2 ^ 32 ∧ a % 2 ^ 32 < b % 2 ^ 32)
    let holds := (cnd = 0 ∧ x = y) ∨ (cnd = 1 ∧ x ≠ y) ∨ (cnd = 2 ∧ above y x) ∨ (cnd = 3 ∧ (above y x ∨ x = y)) ∨
      (cnd = 4 ∧ above x y) ∨ (cnd = 5 ∧ (above x y ∨ x = y)) ∨ cnd = 7
    (holds → elemCmp cnd .kx td rm sat (.kx, x) (.kx, y) = (2 ^ td.width - 1, 0)) ∧
    (¬ holds → elemCmp cnd .kx td rm sat (.kx, x) (.kx, y) = (0, 0))) ∧
  (∀ (cnd : Nat) (t td : Tag) (rm : Rm) (sat : Bool) (x y : Nat), t.isFloat = true → cnd < 8 →
    ((t.ffmt.decode x).isNan = true ∨ (t.ffmt.decode y).isNan = true) →
    (elemCmp cnd t td rm sat (t, x) (t, y)).1 = (if cnd = 1 ∨ cnd = 6 then 2 ^ td.width - 1 else 0) ∧
    (2 ≤ cnd ∧ cnd ≤ 5 → (elemCmp cnd t td rm sat (t, x) (t, y)).2 = fNV))

/-- R57, R58, R118, R123: the integer functions and the comparisons on one pair of elements. -/
def Obligations.IntegerElements : Prop := IntegerValuesRule ∧ CompareElementsRule

/-- R126 to R128, R48, R49, R52: conversion, quantising and pixels. A conversion with RM `rsto` draws once for each active
element, in order; no other draws. Under an sx destination whole blocks are quantised,
and the rest of a block's slot is zero (R47). -/
def Obligations.VectorConversion : Prop :=
  (∀ (f : FmtV) (s : State) (i : Instr) (n : Nat) (plain : Tag → Rm → Nat → List (Tag × Nat) → Nat × Flags)
      (exact : List (Tag × Nat) → FVal × Flags),
    ((i = .vcvt f ∧ n = 1 ∧
      plain = (fun td rm u xs => roundTo (xs.getD 0 (.u8, 0)).1 td rm (f.sat = 1) u (xs.getD 0 (.u8, 0)).2) ∧
      exact = (fun xs => (((xs.getD 0 (.u8, 0)).1.decode (xs.getD 0 (.u8, 0)).2).toF, 0))) ∨
     (i = .vqnt f ∧ n = 2 ∧
      plain = (fun td rm u xs => elemQnt td rm u ((xs.getD 0 (.u8, 0)).1.decode (xs.getD 0 (.u8, 0)).2)
        ((xs.getD 1 (.u8, 0)).1.decode (xs.getD 1 (.u8, 0)).2)) ∧
      exact = (fun xs => qntProduct ((xs.getD 0 (.u8, 0)).1.decode (xs.getD 0 (.u8, 0)).2)
        ((xs.getD 1 (.u8, 0)).1.decode (xs.getD 1 (.u8, 0)).2)))) →
    let src := [f.va.toNat, f.vb.toNat].take n
    let td := s.me.opTag 0 f.vd.toNat
    let rm := s.me.rmConv f.rm.toNat
    let row := s.me.sources 0 0 none src
    let draws := decide (rm = .rsto)
    let before : Nat → Nat := fun e => if draws then ((activeBelow s f.msk.toNat e).filter fun j =>
      decide (s.me.epr.toNat / (if td.isSx then 16 else 1) * (if td.isSx then 16 else 1) ≤ j)).length else 0
    let draw : Nat → Nat := fun e => if draws then fld (seedNext^[before e + 1] s.me.seed) 48 16
      else fld s.me.seed 48 16
    f.mod = 0 → f.ovr = 0 →
    VecReady s (f.vd.toNat :: src) → VecFits s (td :: src.map (s.me.opTag 0)) →
    (∀ x ∈ td :: src.map (s.me.opTag 0), x ≠ .kx) →
    (td.isSx = false → ∃ t, exec i s = .next t ∧
      Elementwise.result f td (fun e => plain td rm (draw e) (row e)) s (t.setMe { t.me with seed := s.me.seed }) ∧
      t.me.seed = seedNext^[before s.me.len] s.me.seed) ∧
    (td.isSx = true → s.me.len % 16 = 0 → ∃ t, exec i s = .next t ∧
      (∀ b, s.me.epr.toNat / 16 ≤ b → b < s.me.len / 16 → t.me.block f.vd.toNat td b =
        if (List.range 16).any fun k => s.me.active f.msk.toNat (16 * b + k) then
          (sxQuantise td rm ((List.range 16).map fun k =>
            if s.me.active f.msk.toNat (16 * b + k) then
              ((exact (row (16 * b + k))).1, if draws then draw (16 * b + k) else fld s.me.seed 48 16)
            else (FVal.zero false, 0))).1 % 2 ^ (8 * td.blockBytes)
        else if f.z = 1 then 0 else s.me.block f.vd.toNat td b) ∧
      (∀ b k, s.me.epr.toNat / 16 ≤ b → b < s.me.len / 16 → td.blockBytes ≤ k → k < td.slotBytes →
        (f.z = 1 ∨ ∃ i, i < 16 ∧ s.me.active f.msk.toNat (16 * b + i) = true) →
        bsGet (t.me.vreg[f.vd.toNat]!) (b * td.slotBytes + k) = 0) ∧
      t.me.seed = seedNext^[before s.me.len] s.me.seed ∧ VecFrame f.vd.toNat td (s.me.len / 16) true s t)) ∧
  (∀ (f : FmtV) (s : State), f.vc.toNat < 3 →
    let lay := f.vc.toNat
    let w := (pixLayout lay).1
    let n := packedLen lay s.me.len
    VecReady s [f.vd.toNat, f.va.toNat] → VecFits s [.u8, .u16] →
    (s.me.opTag 0 f.vd.toNat = .u16 → s.me.opTag 0 f.va.toNat = .u8 →
      let bytes := bsNat (s.me.vreg[f.va.toNat]!) 0 n
      ∃ t, exec (.vpxunp f) s = .next t ∧ VecResult f.vd.toNat .u16
        (masked f s fun e => some (nbits bytes (pixelBit lay e) w)) (fun _ => False) s t) ∧
    (s.me.opTag 0 f.vd.toNat = .u8 → s.me.opTag 0 f.va.toNat = .u16 → s.me.epr = 0 →
      let old := bsNat (s.me.vreg[f.vd.toNat]!) 0 n
      ∃ t, exec (.vpxpak f) s = .next t ∧
        let new := bsNat (t.me.vreg[f.vd.toNat]!) 0 n
        (∀ e, e < s.me.len → nbits new (pixelBit lay e) w =
          match masked f s (fun e => some (min (s.me.elem f.va.toNat .u16 e) (2 ^ w - 1))) e with
          | some x => x
          | none => nbits old (pixelBit lay e) w) ∧
        (∀ k, k < 8 * n → (∀ e, e < s.me.len → k < pixelBit lay e ∨ pixelBit lay e + w ≤ k) →
          new.testBit k = old.testBit k) ∧
        FlagsRaised s t (fun b => fSAT.getLsbD b = true ∧ ∃ e ∈ activeBelow s f.msk.toNat s.me.len,
          2 ^ w ≤ s.me.elem f.va.toNat .u16 e) ∧
        VecFrame f.vd.toNat .u8 n false s t))

/-- R131 to R136: every instruction of major 0x44, on operands that are not bound. `VRED` starts anew; that `VID` rounds
under `frm` is the model's reading (log 16). -/
def Obligations.CrossLane : Prop :=
  ∀ (f : FmtV) (s : State),
    let ovr := f.ovr.toNat
    let vd := f.vd.toNat
    let va := f.va.toNat
    let vb := f.vb.toNat
    let td := s.me.opTag ovr vd
    let ta := s.me.opTag ovr va
    let tb := s.me.opTag ovr vb
    let n := s.me.len
    let rm := s.me.rmOf f.rm.toNat
    let act := s.me.active f.msk.toNat
    let below : Nat → Nat := fun e => (activeBelow s f.msk.toNat e).length
    let a := s.me.elem va ta
    let places : Instr → (Nat → Option Nat) → Prop := fun i g =>
      ∃ t, exec i s = .next t ∧ VecResult vd td g (fun _ => False) s t
    let copies := td.isSx = false ∧ ta.isSx = false ∧ ta.width = td.width
    let sums := td.isSx = false ∧ td ≠ .kx ∧ ta.isSx = false ∧ ta ≠ .kx ∧ (4 ≤ f.vc.toNat % 8 → ta.isInt = true)
    (VecReady s [vd, va] → VecFits s [td, ta] → sums → 0 < n → s.me.epr = 0 →
      let r := treeOf (f.vc.toNat % 8) ta rm (f.sat = 1)
        ((List.range n).map fun e => if act e then a e else identityOf (f.vc.toNat % 8) ta)
      let y := roundTo ta td rm (f.sat = 1) 0 r.1
      ∃ t, exec (.vred f) s = .next t ∧ VecResult vd td (fun e => if e = 0 then some y.1 else none)
        (fun b => (r.2 ||| y.2).getLsbD b = true) s t) ∧
    (VecReady s [vd, va] → VecFits s [td, ta] → sums →
      let op := f.vc.toNat % 8
      let start := if 8 ≤ f.vc.toNat then s.me.carry.toNat % 2 ^ ta.width else identityOf op ta
      let run : Nat → Nat := fun k => ((activeBelow s f.msk.toNat k).map a).foldl
        (fun x y => (combine op ta rm (f.sat = 1) x y).1) start
      ∃ t, exec (.vscan f) s = .next t ∧ VecResult vd td
        (masked f s fun e => some (convert ta td rm (f.sat = 1) 0 (run (e + 1))).1)
        (fun b => ∃ e ∈ activeBelow s f.msk.toNat n, s.me.epr.toNat ≤ e ∧ ((combine op ta rm (f.sat = 1) (run e) (a e)).2 |||
          (convert ta td rm (f.sat = 1) 0 (run (e + 1))).2).getLsbD b = true) s (t.setMe { t.me with carry := s.me.carry }) ∧
        t.me.carry = if 8 ≤ f.vc.toNat then BitVec.ofNat 64 (run n) else s.me.carry) ∧
    (VecReady s [vd, va, vb] → VecFits s [td, ta, tb] → copies → tb.isInt = true → places (.vperm f)
      (masked f s fun e => let x := s.me.elem vb tb e; some (if x < n then a x else 0))) ∧
    (VecReady s [vd, va] → VecFits s [td, ta] → copies →
      places (.vslideup f) (masked f s fun e => if (s.sr f.vb).toNat ≤ e then some (a (e - (s.sr f.vb).toNat)) else none) ∧
      places (.vslidedn f) (masked f s fun e => some (if e + (s.sr f.vb).toNat < n then a (e + (s.sr f.vb).toNat) else 0)) ∧
      places (.vcompress f) (fun e => if e < below n then some (a ((activeBelow s f.msk.toNat n).getD e 0))
        else if f.z = 1 then some 0 else none) ∧
      places (.vexpand f) (masked f s fun e => some (a (below e)))) ∧
    (VecReady s [vd] → VecFits s [td] → td.isInt = true →
      let r : Nat → Nat × Flags := fun e => td.fromInt (f.sat = 1) (below e)
      ∃ t, exec (.viota f) s = .next t ∧ VecResult vd td (fun e => some (r e).1)
        (fun b => ∃ e, s.me.epr.toNat ≤ e ∧ e < n ∧ (r e).2.getLsbD b = true) s t) ∧
    (VecReady s [vd] → VecFits s [td] → td.isSx = false → td ≠ .kx →
      let r : Nat → Nat × Flags := fun e => td.write (s.me.rmOf 0) (f.sat = 1) 0 (.int e)
      ∃ t, exec (.vid f) s = .next t ∧ VecResult vd td (masked f s fun e => some (r e).1)
        (fun b => ∃ e ∈ activeBelow s f.msk.toNat n, s.me.epr.toNat ≤ e ∧ (r e).2.getLsbD b = true) s t) ∧
    (VecReady s [vd] → VecFits s [td] → td.isSx = false →
      places (.vsplat f) (masked f s fun _ => some (s.sr f.va).toNat) ∧
      places (.vins f) (fun e => if e = (s.sr f.vb).toNat then some (s.sr f.va).toNat else none)) ∧
    (VecReady s [vd, vb] → VecFits s [td, tb] →
      (td.isSx = false → tb.isSx = false → tb.width = td.width →
        places (.vmv f) (masked f s fun e => some (s.me.sourceMod f.mod.toNat ovr vb e).2)) ∧
      (td.isSx = true → tb = td → f.mod = 0 → ∃ t, exec (.vmv f) s = .next t ∧
        (∀ b, s.me.epr.toNat / 16 ≤ b → b < (n + 15) / 16 → t.me.block vd td b =
          if (List.range 16).any fun k => act (16 * b + k) then s.me.block vb td b
          else if f.z = 1 then 0 else s.me.block vd td b) ∧ t.me.fflags = s.me.fflags ∧
        VecFrame vd td ((n + 15) / 16) false s t)) ∧
    (VecReady s [va] → VecFits s [ta] → ta.isSx = false → ∃ t, exec (.vextr f) s = .next t ∧
      let x := (s.sr f.vb).toNat
      VecWrites f.vd (if x < n then
        (if ta.isSigned then BitVec.ofInt 64 ((a x : Int).bmod (2 ^ ta.width)) else BitVec.ofNat 64 (a x)) else 0) s t)

/-- R43, R137 to R139: keys, sorting and merging. -/
def Obligations.KeysAndSorting : Prop :=
  ∀ (f : FmtV) (s : State),
    let ovr := f.ovr.toNat
    let vd := f.vd.toNat
    let va := f.va.toNat
    let td := s.me.opTag ovr vd
    let ta := s.me.opTag ovr va
    let n := s.me.len
    let picked : Nat → Nat → Nat → List Nat := fun v lo hi =>
      ((activeBelow s f.msk.toNat hi).filter fun e => decide (lo ≤ e)).map (s.me.elem v .kx)
    let best : List Nat → Nat → Nat := fun l i => (kxSort l).getD i kxEmpty
    let gives : Instr → (Nat → Nat) → Prop := fun i g =>
      ∃ t, exec i s = .next t ∧ VecResult vd .kx (fun e => some (g e)) (fun _ => False) s t
    (VecReady s [vd, va] → VecFits s [.kx, ta] → ta.hasKey = true →
      let a := s.me.elem va ta
      let m := (s.sr f.vb).toNat
      ∃ t, exec (.vkey f) s = .next t ∧ t.me.tagOf vd = .kx ∧ (∀ v, v < 64 → v ≠ vd → t.me.tagOf v = s.me.tagOf v) ∧
        VecResult vd .kx (masked f s fun e => some ((keyOf ta (a e)).getD 0 * 2 ^ 32 + (if m = 0 then e else e % m) % 2 ^ 32))
        (fun b => fNV.getLsbD b = true ∧ ∃ e ∈ activeBelow s f.msk.toNat n, s.me.epr.toNat ≤ e ∧ (ta.decode (a e)).sigFlag ≠ 0) s
        (t.setMe { t.me with tagtab := s.me.tagtab })) ∧
    (VecReady s [vd, va] → VecFits s [.kx] → td = .kx → ta = .kx →
      gives (.vsortk f) (best (picked va 0 n)) ∧
      (f.vc ≠ 0 → 0 < n →
        let k := f.vc.toNat
        let m := if (s.sr f.vb).toNat = 0 ∨ n < (s.sr f.vb).toNat then n else (s.sr f.vb).toNat
        ∃ t, exec (.vtopk f) s = .next t ∧ VecResult vd .kx (fun e =>
          if e / k < (n + m - 1) / m then some (best (picked va (e / k * m) (min (e / k * m + m) n)) (e % k))
            else none) (fun _ => False) s t)) ∧
    (VecReady s [vd, va, f.vb.toNat] → VecFits s [.kx] → td = .kx → ta = .kx → s.me.opTag ovr f.vb.toNat = .kx →
      let run := 2 ^ f.vc.toNat
      gives (.vmergek f) (fun e => let lo := e / run * run
        best (picked va lo (min (lo + run) n) ++ picked f.vb.toNat lo (min (lo + run) n)) (e - lo))) ∧
    (VecReady s [vd, va] → VecFits s [td, .kx] → ta = .kx → td.isSx = false → td ≠ .kx → f.vc.toNat < 3 →
      (f.vc.toNat = 1 → td.hasKey = true) →
      let rm := s.me.rmOf f.rm.toNat
      let r : Nat → Nat × Flags := fun e =>
        let x := s.me.elem va .kx e
        if f.vc.toNat = 1 then unkeyVal td rm (f.sat = 1) (x / 2 ^ 32)
        else td.write rm (f.sat = 1) 0 (.int (if f.vc.toNat = 0 then x % 2 ^ 32 else x / 2 ^ 32 : Nat))
      ∃ t, exec (.vunkey f) s = .next t ∧ VecResult vd td (masked f s fun e => some (r e).1)
        (fun b => ∃ e ∈ activeBelow s f.msk.toNat n, s.me.epr.toNat ≤ e ∧ (r e).2.getLsbD b = true) s t)

/-- R43: sorting kx pairs keeps the pairs, and no pair stands after one that ranks below it. -/
def Obligations.SortedByRank : Prop :=
  ∀ l : List Nat, (kxSort l).Perm l ∧ (kxSort l).Pairwise fun x y => kxAbove y x = false

/-! ## Mask registers, vector length and lanes -/

/-- R140, R141, R142, R447: every instruction of major 0x46. -/
def Sys2Proof.Machine.MaskRegistersRule : Prop :=
  ∀ (f : FmtV) (s : State), s.me.steps = false → (s.me.epr = 0 ∨ s.me.epr.toNat < s.me.len) →
    let md := f.vd.toNat
    let a := fun i => (s.me.mask f.va.toNat).getLsbD i
    let b := fun i => (s.me.mask f.vb.toNat).getLsbD i
    let set := (List.range s.me.len).filter a
    let named := (List.range 16384).filter fun i =>
      decide ((s.sr f.va).toNat ≤ i ∧ i < (s.sr f.va).toNat + (s.sr f.vb).toNat)
    let all := named.all fun i => (s.me.mask md).getLsbD i
    (md < 16 → ∃ t, exec (.mand f) s = .next t ∧ MaskWrites md (fun i => a i && b i) s t) ∧
    (md < 16 → ∃ t, exec (.mor f) s = .next t ∧ MaskWrites md (fun i => a i || b i) s t) ∧
    (md < 16 → ∃ t, exec (.mxor f) s = .next t ∧ MaskWrites md (fun i => a i ^^ b i) s t) ∧
    (md < 16 → ∃ t, exec (.mandn f) s = .next t ∧ MaskWrites md (fun i => a i && !b i) s t) ∧
    (md < 16 → ∃ t, exec (.mnot f) s = .next t ∧ MaskWrites md (fun i => !a i) s t) ∧
    (∃ t, exec (.mpopc f) s = .next t ∧ VecWrites f.vd (BitVec.ofNat 64 set.length) s t) ∧
    (∃ t, exec (.mfirst f) s = .next t ∧
      VecWrites f.vd (match set with | [] => 0xFFFFFFFFFFFFFFFF | e :: _ => BitVec.ofNat 64 e) s t) ∧
    (md < 16 → (s.me.tagOf f.va.toNat).isSx = false → VecFits s [s.me.tagOf f.va.toNat] → ∃ t, exec (.mset f) s = .next t ∧
      MaskWrites md (fun i => decide (s.me.elem f.va.toNat (s.me.tagOf f.va.toNat) i ≠ 0)) s t) ∧
    (md < 16 → all = true → ∃ t, exec (.mwait f) s = .next t ∧ t.me = { s.me with pc := s.me.pc + 8, epr := 0, kept := s.me.others, wait := none } ∧
      OnlyHart s { t with groups := s.groups } ∧ GroupRuns s t) ∧
    (all = false → s.me.latches = [] → s.me.binds = [] → s.calls = [] → NoPreempt s →
      ∃ t, exec (.mwait f) s = .next t ∧ Waits (.mwait f) s t) ∧
    (all = false → s.me.level = .u → ∀ l c, s.me.latches = [l] → l.lm = md → l.delivered = false →
      (∀ vt, l.work = .block vt → s.me.binding? vt = none) → l.cause = Cause.code c →
      (∀ g x, s.groupOf s.cur = some (g, x) → x.st ≠ .waiting) → ∃ t, exec (.mwait f) s = .next t ∧
      EntersHandler c true false l.tval s.me.pc 0 (s.setMe { s.me with latches := [{ l with delivered := true }] }) t) ∧
    (∀ (h : Nat), (s.hart h).wait = some (.mwait f) → (s.hart h).steps = false →
      (∀ i, i < 16384 → ((s.hart h).get f.va).toNat ≤ i → i < ((s.hart h).get f.va).toNat + ((s.hart h).get f.vb).toNat →
        ((s.hart h).mask md).getLsbD i = true) →
      ∃ t, exec (.mwaitComplete h) s = .next t ∧ t.cur = h ∧
        t.hart h = { s.hart h with pc := (s.hart h).pc + 8, epr := 0, kept := (s.hart h).others, wait := none } ∧ ∀ j, j ≠ h → t.hart j = s.hart j)

/-- R141: MGET gives 1 or 0 in each element below VL of a register that is neither sx nor kx. -/
def Sys2Proof.Machine.MaskToVectorRule : Prop :=
  ∀ (f : FmtV) (s : State), let td := s.me.tagOf f.vd.toNat
    VecReady s [f.vd.toNat] → VecFits s [td] → td.isSx = false → td ≠ .kx → s.me.epr = 0 →
    ∃ t, exec (.mget f) s = .next t ∧ VecResult f.vd.toNat td (fun e =>
      some (if (s.me.mask f.va.toNat).getLsbD e then (td.write .rne false 0 (.int 1)).1 else 0)) (fun _ => False) s t

/-- R140 to R142, R447: every instruction of major 0x46. -/
def Obligations.MaskInstructions : Prop := MaskRegistersRule ∧ MaskToVectorRule

/-- R115, R116, R207 to R209, R297: SETVL under a grant that stands, SETVL that gets its first lanes, and SETTAG. -/
def Obligations.LengthAndTags : Prop :=
  (∀ (f : FmtV) (s : State) (g : Nat) (x : Group), s.me.steps = false → s.myGroup = some (g, x) → x.pre = false →
    x.quads ≠ 0 → x.rcl = false → x.st = .running →
    let tag := s.me.opTag f.ovr.toNat f.vb.toNat
    let req := (s.sr f.va).toNat
    let avl := if tag.isSx then min ((req + 15) / 16 * 16) (2 ^ 64 - 16) else req
    let cap := 4 * popCount x.quads * 4096 / (x.slots.length * tag.size16)
    let vl := min avl (if tag.isSx then cap / 16 * 16 else cap)
    ∃ t, exec (.setvl f) s = .next t ∧ t.me.vl = BitVec.ofNat 15 vl ∧ t.me.vw = false ∧
      VecWrites f.vd (BitVec.ofNat 64 vl) s (t.setMe { t.me with vl := s.me.vl, vw := s.me.vw })) ∧
  (∀ (f : FmtV) (s : State) (g : Nat) (x : Group), s.me.steps = false → s.myGroup = some (g, x) → x.pre = false →
    x.quads = 0 → x.growing = false → (∀ h ∈ x.harts, (s.hart h).matrix = false) → x.lmin ≤ popCount (freeQuads s x.core) →
    ∃ t y, exec (.setvl f) s = .next t ∧ t.group? g = some y ∧ y.quads &&& ~~~(freeQuads s x.core) = 0 ∧
      popCount y.quads = min x.lmax (popCount (freeQuads s x.core)) ∧
      (t.me.pc = s.me.pc + 8 ∧ t.me.vw = false ∧ t.me.epr = 0)) ∧
  (∀ (f : FmtV) (s : State), s.me.steps = false → f.vd.toNat + f.vc.toNat ≤ 63 →
    (∀ v, f.vd.toNat ≤ v → v ≤ f.vd.toNat + f.vc.toNat → s.me.binding? v = none) →
    ∃ t, exec (.settag f) s = .next t ∧
      (∀ v, v < 64 → t.me.tagOf v = if f.vd.toNat ≤ v ∧ v ≤ f.vd.toNat + f.vc.toNat then Tag.ofCode f.vb.toNat
        else s.me.tagOf v) ∧
      VecDone s t ∧
      { t.me with tagtab := s.me.tagtab, pc := s.me.pc, epr := s.me.epr, kept := s.me.kept, wait := s.me.wait } = s.me ∧
      OnlyHart s t) ∧
  (∀ (f : FmtV) (s : State) (v : Nat), s.me.level = .u → f.vd.toNat ≤ v → v ≤ f.vd.toNat + f.vc.toNat →
    s.me.binding? v ≠ none → (∀ w, f.vd.toNat ≤ w → w < v → s.me.binding? w = none) →
    ∃ t, exec (.settag f) s = .next t ∧ EntersHandler .bind true false (BitVec.ofNat 64 v) s.me.pc 0 s t)

/-- R211 to R215: the lane arbiter's offers and reclaims, pre-emption requests and deadlines. That growth may be offered to
any group with room is the model's reading (log 41). -/
def Sys2Proof.Machine.LaneOffersRule : Prop :=
  ∀ (s : State) (g : Nat) (x : Group), s.group? g = some x → x.st ≠ .preempted → x.st ≠ .retired →
    (x.shrinking = false → popCount x.offered < x.lmax → freeQuads s x.core ≠ 0 →
      ∃ t y, exec (.laneGrowthOffer g) s = .next t ∧ t.group? g = some y ∧ y.rcl = true ∧
        y.next &&& ~~~(x.offered ||| freeQuads s x.core) = 0 ∧ y.next &&& x.offered = x.offered ∧ y.next ≠ x.offered ∧
        popCount y.next ≤ x.lmax ∧ { y with rcl := x.rcl, next := x.next } = x ∧ { t with groups := s.groups } = s) ∧
    (x.shrinking = true → exec (.laneGrowthOffer g) s = .next s) ∧
    (∀ n below, laneNeed (coreGroups s x.core) (popCount (freeQuads s x.core)) = some (n, below) → n ≠ 0 →
      reclaimFrom (coreGroups s x.core) below = some (g, x) →
      let keeps := if x.shrinking then x.next else x.quads
      ∃ t y, exec (.laneReclaim x.core) s = .next t ∧ t.group? g = some y ∧ y.rcl = true ∧ y.quads = x.quads ∧
        y.next &&& ~~~keeps = 0 ∧ popCount y.next = min (popCount keeps) (max x.lmin (popCount keeps - n)) ∧
        { t with groups := s.groups } = s) ∧
    (x.pre = false → preemptDue g x s = true → (∃ h ∈ x.harts, (s.hart h).exited = false ∧ (s.hart h).wait = none ∧
        (s.hart h).strip = false) →
      ∃ t, exec (.preemptRequest g) s = .next t ∧ t.group? g = some { x with pre := true } ∧
        { t with groups := s.groups } = s) ∧
    ((x.pre = true ∨ x.shrinking = true) → x.harts.Nodup → (∃ h ∈ x.harts, (s.hart h).exited = false) →
      (∀ h ∈ x.harts, (s.hart h).level = .u ∧ ∀ f latch gen, (s.hart h).wait ≠ some (.bar f latch gen)) →
      s.copies = [] → ∃ t y, exec (.reclaimDeadline g) s = .next t ∧ t.group? g = some y ∧ y.st = .preempted ∧
        y.saveKind = .full ∧ y.saveQuads = x.quads ∧ y.quads = 0 ∧
        ∀ h ∈ x.harts, (s.hart h).exited = false → (t.hart h).saved = true) ∧
    (x.pre = false → x.shrinking = false → exec (.reclaimDeadline g) s = .next s)

/-- R213, R215, R230: a group that a PREEMPT trap saved, with no binding, resumes at once while its context dispatches: it
runs, and its harts resume where they were saved. -/
def Sys2Proof.Machine.GroupResumesRule : Prop :=
  ∀ (s : State) (g : Nat) (x : Group), s.group? g = some x → x.st = .preempted → x.saveKind = .trap → x.bolts = [] →
    s.dispatches x.asid = true → (∀ h ∈ x.harts, (s.hart h).binds = []) → ∃ t, exec (.groupResume g) s = .next t ∧
      t.group? g = some { x with st := .running, saveLp := [], saveAcc := none } ∧
      (∀ h, t.hart h = if h ∈ x.harts then { s.hart h with saved := false, resumed := true } else s.hart h) ∧
      { t with harts := s.harts, groups := s.groups } = s

/-- R211 to R213, R231, R232: the lane arbiter, and how a saved group goes on. -/
def Obligations.LaneArbiter : Prop := LaneOffersRule ∧ GroupResumesRule

/-! ## Vector memory -/

namespace Sys2Proof.Machine

/-- The address of element c of row r, `size` bytes each (R145, R147, R155, R156). -/
def elementAddress (form : VForm) (f : FmtVM) (s : State) (sp lanes r c size : Nat) : Word :=
  let base := s.sr f.sa + BitVec.ofInt 64 f.imm.toInt
  let tb := s.me.tagOf f.sb.toNat
  let idx := s.me.elem f.sb.toNat tb c
  base + match form with
    | .unit => BitVec.ofNat 64 (if sp = 3 then 8 * (c * size / 8 / lanes) + c * size % 8 else c * size)
    | .stride => BitVec.ofInt 64 (c * (s.sr f.sb).toInt)
    | .index | .lane => if tb.isSigned then BitVec.ofInt 64 ((idx : Int).bmod (2 ^ tb.width)) else BitVec.ofNat 64 idx
    | .tile => BitVec.ofInt 64 (r * s.me.rowpitch.toInt + c * size)

/-- `size` bytes in the scratchpad allocation of the hart's group, in an allocation of its context in a scratchpad of its
cluster, in a lane's private SRAM or in the core's scalar data memory (R15, R143 to R145). -/
def sramAt (s : State) (x : Group) (sp lane : Nat) (a : Word) (size : Nat) : Option Loc :=
  if sp = 1 ∧ a.toNat + size ≤ x.spadSize then some (.spad (s.cur / 4) (x.spadBase + a.toNat))
  else if sp = 2 ∧ a.toNat < 2 ^ 26 ∧ a.toNat / 2 ^ 19 < 96 ∧
      inAllocation s (s.asidOf s.cur) (s.cur / 4 / 96 * 96 + a.toNat / 2 ^ 19) (a.toNat % 2 ^ 19) size = true then
    some (.spad (s.cur / 4 / 96 * 96 + a.toNat / 2 ^ 19) (a.toNat % 2 ^ 19))
  else if sp = 3 ∧ a.toNat + size ≤ 0x1000 then some (.lpriv (s.cur / 4) lane a.toNat)
  else if sp = 4 ∧ a.toNat + size ≤ 0x4000 then some (.sdata (s.cur / 4) a.toNat)
  else none

/-- An aligned place of `size` bytes in an SRAM (R150). -/
def sramLoc (s : State) (x : Group) (sp lane : Nat) (a : Word) (size : Nat) : Option Loc :=
  if a.toNat % size = 0 then sramAt s x sp lane a size else none

/-- A vector memory instruction by its form, with the space it reaches. -/
def memForms (load : Bool) (f : FmtVM) : List (VForm × Instr × Nat) :=
  if load then [(.unit, .vld f, f.sp.toNat), (.stride, .vlds f, f.sp.toNat), (.index, .vldx f, f.sp.toNat),
    (.lane, .vldl f, 3), (.tile, .vldt f, f.sp.toNat)]
  else [(.unit, .vst f, f.sp.toNat), (.stride, .vsts f, f.sp.toNat), (.index, .vstx f, f.sp.toNat),
    (.lane, .vstl f, 3), (.tile, .vstt f, f.sp.toNat)]

/-- What a vector memory instruction needs of its operands: none bound, lengths that fit, an integer index, and register
and memory tags that are not sx, kx only without a tag override (R147 to R149, R111). -/
def MemReady (form : VForm) (f : FmtVM) (s : State) (rows : Nat) : Prop :=
  let regs := (List.range rows).map fun r => f.vd.toNat + r
  let tb := s.me.tagOf f.sb.toNat
  s.me.steps = false ∧ s.me.vecWf ∧ f.vd.toNat + rows ≤ 64 ∧
  (∀ v ∈ (if form = .tile then (List.range 8).map fun r => f.vd.toNat + r else [f.vd.toNat]) ++
    (if form.indexed then [f.sb.toNat] else []), s.me.binding? v = none) ∧
  (∀ v ∈ regs, (s.me.tagOf v).isSx = false ∧ (s.me.opTag f.ovr.toNat v).isSx = false ∧
    (s.me.tagOf v = .kx → f.ovr = 0) ∧ s.me.len ≤ s.mvl (s.me.tagOf v)) ∧
  (form.indexed = true → tb.isInt = true ∧ s.me.len ≤ s.mvl tb)

/-- What a store that the memory side holds leaves to be seen under E = 0: its bytes that a later store of the instruction
writes too are that one's (R151). -/
def overlaid : List PStore → List PStore
  | [] => []
  | p :: l => l.foldl (fun p q => q.under p) p :: overlaid l

/-- The hart completes a vector memory instruction that stored `stores`: they have performed, or with O = 1 (`hold` not
set) they stand accepted; each flag that `raised` names is set, and nothing else changes (R107, R151, R218). -/
def StoresDone (f : FmtVM) (stores : List PStore) (raised : Nat → Prop) (s t : State) : Prop :=
  { t with harts := s.harts } = (if f.o = 1 then s else { performAll stores s with harts := s.harts }) ∧
  (∀ j, j ≠ s.cur → t.hart j = s.hart j) ∧
  t.me.pend = (if f.o = 1 then (if f.e = 1 then stores else overlaid stores) else []) ∧
  FlagsRaised s t raised ∧ VecDone s t ∧
  { t.me with pend := s.me.pend, vw := s.me.vw, fflags := s.me.fflags, pc := s.me.pc, epr := s.me.epr,
              kept := s.me.kept, wait := s.me.wait } = s.me

/-- No SRAM word is marked poisoned. -/
def NoPoison (s : State) : Prop := ∀ k, (s.core k).poison = []

end Sys2Proof.Machine

/-- R143 to R149, R154 to R156: loads from the core's own memories. Each active element of each row is the bytes at its
address, converted from the memory tag to the register's; inactive elements keep their values. A first active element
that reaches a poisoned word of a scratchpad traps POISON with nothing loaded (R150, R164). -/
def Sys2Proof.Machine.VectorLoadRowsRule : Prop :=
  ∀ (f : FmtVM) (s0 : State) (g : Nat) (x : Group), ∀ p ∈ memForms true f,
    let s := settleAll s0.cur s0
    let rows := if p.1 = .tile then s.me.rowcnt.toNat else 1
    let mtag : Nat → Tag := fun r => s.me.opTag f.ovr.toNat (f.vd.toNat + r)
    let loc : Nat → Nat → Option Loc := fun r c => sramLoc s x p.2.2 (laneOfElem s s.cur c (mtag r).bytes)
      (elementAddress p.1 f s p.2.2 (max 1 x.lanes) r c (mtag r).bytes) (mtag r).bytes
    s.myGroup = some (g, x) → s.me.epr = 0 → MemReady p.1 f s rows → 0 < s.me.len → 0 < rows →
    (∀ r c, r < rows → c < s.me.len → s.me.active f.msk.toNat c = true → loc r c ≠ none) →
    let got : Nat → Nat → Nat × Flags := fun r c => convert (mtag r) (s.me.tagOf (f.vd.toNat + r)) (s.me.rmOf 0) false 0
      (leNat (readLoc s ((loc r c).getD (.host 0)) (mtag r).bytes))
    (∀ c l k off w, activeBelow s f.msk.toNat s.me.len = c :: l → loc 0 c = some (.spad k off) → s.me.level = .u →
      (.spad, w) ∈ (s.core k).poison → off < 8 * w + 8 → 8 * w < off + (mtag 0).bytes → ∃ t, exec p.2.1 s0 = .next t ∧
      let a := (elementAddress p.1 f s p.2.2 (max 1 x.lanes) 0 c (mtag 0).bytes).toNat
      EntersHandler .poison true false (BitVec.ofNat 64 (a / 64 * 64)) s.me.pc (BitVec.ofNat 64 c) s t) ∧
    (NoPoison s → ∃ t, exec p.2.1 s0 = .next t ∧
      (∀ r c, r < rows → c < s.me.len → let td := s.me.tagOf (f.vd.toNat + r)
        t.me.elem (f.vd.toNat + r) td c = if s.me.active f.msk.toNat c then (got r c).1 % 2 ^ td.width
          else s.me.elem (f.vd.toNat + r) td c) ∧
      (∀ v, v < f.vd.toNat ∨ f.vd.toNat + rows ≤ v → t.me.vreg[v]! = s.me.vreg[v]!) ∧
      FlagsRaised s t (fun b => ∃ r c, r < rows ∧ c < s.me.len ∧ s.me.active f.msk.toNat c = true ∧
        (got r c).2.getLsbD b = true) ∧
      VecDone s t ∧
      { t.me with vreg := s.me.vreg, vw := s.me.vw, fflags := s.me.fflags, pc := s.me.pc, epr := s.me.epr,
                  kept := s.me.kept, wait := s.me.wait } = s.me ∧ OnlyHart s t)

/-- R152, R153, R147: loads of shared-exponent blocks from the scratchpad: into a register of the same tag unchanged, into
another as exact values; and what FF does at a PAGE or PROT after the first active element: VL becomes its position, and
the load completes. -/
def Sys2Proof.Machine.VectorBlockLoadsRule : Prop :=
  ∀ (f : FmtVM) (s0 : State) (g : Nat) (x : Group),
    let s := settleAll s0.cur s0
    let vd := f.vd.toNat
    let td := s.me.tagOf vd
    let m := s.me.opTag f.ovr.toNat vd
    let a := (s.sr f.sa + BitVec.ofInt 64 f.imm.toInt).toNat
    let block : Nat → Nat := fun k =>
      leNat (readLoc s (.spad (s.cur / 4) (x.spadBase + a + k * m.blockBytes)) m.blockBytes)
    s.myGroup = some (g, x) → s.me.steps = false → s.me.vecWf → s.me.epr = 0 → s.me.binding? vd = none →
    VecFits s [td] →
    (m.isSx = true → f.sp = 1 → 0 < s.me.len → s.me.len % 16 = 0 → a % 2 = 0 → NoPoison s →
      a + s.me.len / 16 * m.blockBytes ≤ x.spadSize → (td = .kx → f.ovr = 0) →
      (td = m → f.msk = 0 → ∃ t, exec (.vld f) s0 = .next t ∧
        (∀ k, k < s.me.len / 16 → t.me.block vd td k = block k) ∧ t.me.fflags = s.me.fflags ∧
        VecFrame vd td (s.me.len / 16) false s t) ∧
      (td.isSx = false → td ≠ .kx →
        let y : Nat → Nat × Flags := fun c => td.write (s.me.rmOf 0) false 0 (.flt (sxElem m (block (c / 16)) (c % 16)))
        ∃ t, exec (.vld f) s0 = .next t ∧ VecResult vd td
          (fun c => if s.me.active f.msk.toNat c then some (y c).1 else none)
          (fun b => ∃ c ∈ activeBelow s f.msk.toNat s.me.len, (y c).2.getLsbD b = true) s t)) ∧
    (td.isSx = false → m.isSx = false → (td = .kx → f.ovr = 0) → f.ff = 1 → ∀ e e' l,
      activeBelow s f.msk.toNat s.me.len = e :: e' :: l →
      let n := m.bytes
      let addr : Nat → Word := fun c => elementAddress .unit f s f.sp.toNat (max 1 x.lanes) 0 c n
      let lane : Nat → Nat := fun c => if f.sp = 3 then laneOfElem s s.cur c n else 0
      watchHit s.me (addr e).toNat n true false = false → watchHit s.me (addr e').toNat n true false = false →
      ∀ s1 b, readSpace (vecWho s s.cur) s.cur f.sp.toNat (addr e) n n (lane e) s = (s1, .ok b) →
      let y := convert m td (s.me.rmOf 0) false 0 (leNat b)
      let h := s1.me.setUnit vd td e y.1
      let u := s1.setMe { h with fflags := h.fflags ||| y.2 }
      ∀ s2 tr, readSpace (vecWho s s.cur) s.cur f.sp.toNat (addr e') n n (lane e') u = (s2, .error (.trap tr)) →
      (tr.code = Cause.code .page ∨ tr.code = Cause.code .prot) →
      ∃ t, exec (.vld f) s0 = .next t ∧ OnlyHart s2 t ∧
        t.me = { u.me with vl := BitVec.ofNat 15 e', pc := s.me.pc + 8, epr := 0, kept := s.me.others, wait := none })

/-- R143 to R149, R152 to R156: vector loads from the core and cluster memories. -/
def Obligations.VectorLoads : Prop := VectorLoadRowsRule ∧ VectorBlockLoadsRule

/-- R107, R143 to R149, R151, R154 to R156, R218: stores to the core's own memories. The active elements, row by row in
ascending order, are stored at their addresses: at once with O = 0 (`.hold`), and with O = 1 they stand accepted. Nothing
else is stored. -/
def Sys2Proof.Machine.VectorStoreRowsRule : Prop :=
  ∀ (f : FmtVM) (s0 : State) (g : Nat) (x : Group), ∀ p ∈ memForms false f,
    let s := settleAll s0.cur s0
    let rows := if p.1 = .tile then s.me.rowcnt.toNat else 1
    let mtag : Nat → Tag := fun r => s.me.opTag f.ovr.toNat (f.vd.toNat + r)
    let loc : Nat → Nat → Option Loc := fun r c => sramLoc s x p.2.2 (laneOfElem s s.cur c (mtag r).bytes)
      (elementAddress p.1 f s p.2.2 (max 1 x.lanes) r c (mtag r).bytes) (mtag r).bytes
    s.myGroup = some (g, x) → s.me.epr = 0 → MemReady p.1 f s rows → 0 < s.me.len → 0 < rows →
    (∀ r c, r < rows → c < s.me.len → s.me.active f.msk.toNat c = true → loc r c ≠ none) →
    let put : Nat → Nat → Nat × Flags := fun r c => convert (s.me.tagOf (f.vd.toNat + r)) (mtag r) (s.me.rmOf 0) false 0
      (s.me.elem (f.vd.toNat + r) (s.me.tagOf (f.vd.toNat + r)) c)
    let stores : List PStore := (List.range rows).flatMap fun r => (activeBelow s f.msk.toNat s.me.len).map fun c =>
      { loc := (loc r c).getD (.host 0), data := leBytes (mtag r).bytes (put r c).1, cry := Cry.ovune, strip := none }
    ∃ t, exec p.2.1 s0 = .next t ∧
      StoresDone f stores (fun b => ∃ r c, r < rows ∧ c < s.me.len ∧ s.me.active f.msk.toNat c = true ∧
        (put r c).2.getLsbD b = true) s t

/-- R152: stores of shared-exponent blocks to the scratchpad, all elements active: a register of the same tag unchanged,
another quantised. -/
def Sys2Proof.Machine.VectorBlockStoresRule : Prop :=
  ∀ (f : FmtVM) (s0 : State) (g : Nat) (x : Group),
    let s := settleAll s0.cur s0
    let vd := f.vd.toNat
    let td := s.me.tagOf vd
    let m := s.me.opTag f.ovr.toNat vd
    let a := (s.sr f.sa + BitVec.ofInt 64 f.imm.toInt).toNat
    s.myGroup = some (g, x) → s.me.steps = false → s.me.epr = 0 → s.me.binding? vd = none → VecFits s [td] →
    m.isSx = true → f.sp = 1 → f.msk = 0 → 0 < s.me.len → s.me.len % 16 = 0 → a % 2 = 0 →
    a + s.me.len / 16 * m.blockBytes ≤ x.spadSize →
    let stores : (Nat → Nat) → List PStore := fun put => (List.range (s.me.len / 16)).map fun k =>
      { loc := .spad (s.cur / 4) (x.spadBase + a + k * m.blockBytes), data := leBytes m.blockBytes (put k)
        cry := Cry.ovune, strip := none }
    (td = m → ∃ t, exec (.vst f) s0 = .next t ∧ StoresDone f (stores (s.me.block vd td)) (fun _ => False) s t) ∧
    (td.isSx = false → td ≠ .kx →
      let q : Nat → Nat × Flags := fun k => sxQuantise m (s.me.rmOf 0) ((List.range 16).map fun i =>
        ((td.decode (s.me.elem vd td (16 * k + i))).toF, 0))
      ∃ t, exec (.vst f) s0 = .next t ∧ StoresDone f (stores fun k => (q k).1)
        (fun b => ∃ k, k < s.me.len / 16 ∧ (q k).2.getLsbD b = true) s t)

/-- R107, R143 to R149, R151, R152, R154 to R156, R218: vector stores to the core and cluster memories. -/
def Obligations.VectorStores : Prop := VectorStoreRowsRule ∧ VectorBlockStoresRule

/-- R147 to R150, R228: one active element in any space, main and host memory among them. A load gives the bytes that
the checked read of its address finds, a store hands its bytes to the checked write; a fault traps at that element with
nothing done. With VL = 0 nothing is accessed. -/
def Sys2Proof.Machine.ElementAccessRule : Prop :=
  (∀ (f : FmtVM) (s0 : State), ∀ p ∈ memForms true f ++ memForms false f,
    let s := settleAll s0.cur s0
    MemReady p.1 f s (if p.1 = .tile then s.me.rowcnt.toNat else 1) → s.me.epr = 0 → s.me.len = 0 →
    ∃ t, exec p.2.1 s0 = .next t ∧ OnlyHart s t ∧
      t.me = { s.me with pc := s.me.pc + 8, epr := 0, kept := s.me.others, wait := none }) ∧
  ∀ (f : FmtVM) (s0 : State) (g : Nat) (x : Group) (e : Nat),
    let s := settleAll s0.cur s0
    let td := s.me.tagOf f.vd.toNat
    let m := s.me.opTag f.ovr.toNat f.vd.toNat
    let n := m.bytes
    s.myGroup = some (g, x) → activeBelow s f.msk.toNat s.me.len = [e] → s.me.epr = 0 →
    let addr : VForm → Nat → Word := fun form sp => elementAddress form f s sp (max 1 x.lanes) 0 e n
    let lane : Nat → Nat := fun sp => if sp = 3 then laneOfElem s s.cur e n else 0
    (∀ p ∈ memForms true f, p.1 ≠ .tile → MemReady p.1 f s 1 → watchHit s.me (addr p.1 p.2.2).toNat n true false = false →
      (∀ s1 b, readSpace (vecWho s s.cur) s.cur p.2.2 (addr p.1 p.2.2) n n (lane p.2.2) s = (s1, .ok b) →
        let y := convert m td (s.me.rmOf 0) false 0 (leNat b)
        ∃ t, exec p.2.1 s0 = .next t ∧ VecResult f.vd.toNat td (fun c => if c = e then some y.1 else none)
          (fun k => y.2.getLsbD k = true) s1 t) ∧
      (∀ s1 tr c, readSpace (vecWho s s.cur) s.cur p.2.2 (addr p.1 p.2.2) n n (lane p.2.2) s = (s1, .error (.trap tr)) →
        s.me.level = .u → tr.code = Cause.code c → tr.past = false →
        ∃ t, exec p.2.1 s0 = .next t ∧ EntersHandler c tr.vec tr.arr tr.tval s.me.pc (BitVec.ofNat 64 e) s1 t)) ∧
    (∀ p ∈ memForms false f, p.1 ≠ .tile → MemReady p.1 f s 1 → watchHit s.me (addr p.1 p.2.2).toNat n false true = false →
      let y := convert td m (s.me.rmOf 0) false 0 (s.me.elem f.vd.toNat td e)
      (∀ s1, storeSpace (vecWho s s.cur) s.cur p.2.2 (addr p.1 p.2.2) (leBytes n y.1) n (lane p.2.2) (f.o = 0)
          (if f.e = 1 then none else some 0) s = (s1, none) →
        ∃ t, exec p.2.1 s0 = .next t ∧ VecDone s t ∧ t.me.vreg = s.me.vreg ∧
          t.me.pend = s1.me.pend ∧ t.me.fflags = s.me.fflags ||| y.2 ∧ { t with harts := s1.harts } = s1) ∧
      (∀ s1 tr c, storeSpace (vecWho s s.cur) s.cur p.2.2 (addr p.1 p.2.2) (leBytes n y.1) n (lane p.2.2) (f.o = 0)
        (if f.e = 1 then none else some 0) s = (s1, some (.trap tr)) → s.me.level = .u → tr.code = Cause.code c → tr.past = false →
        ∃ t, exec p.2.1 s0 = .next t ∧ EntersHandler c tr.vec tr.arr tr.tval s.me.pc (BitVec.ofNat 64 e) s1 t))

/-- R160, R161, R412: VAMO on one active element in the group's scratchpad; VAMO on several, of which a step applies the first
ones in ascending order, each once, and stands at the next; and VPF, which changes nothing. How many a step applies is a free
value (log 8). -/
def Sys2Proof.Machine.VectorAtomicAndPrefetchRule : Prop :=
  (∀ (f : FmtVM) (s0 : State) (g : Nat) (x : Group) (e off : Nat),
    let s := settleAll s0.cur s0
    let td := s.me.tagOf f.vd.toNat
    let m := s.me.opTag f.ovr.toNat f.vd.toNat
    let tb := s.me.tagOf f.sb.toNat
    let idx := s.me.elem f.sb.toNat tb e
    let a := s.sr f.sa + BitVec.ofInt 64 (f.imm.setWidth 13).toInt +
      (if tb.isSigned then BitVec.ofInt 64 ((idx : Int).bmod (2 ^ tb.width)) else BitVec.ofNat 64 idx)
    s.myGroup = some (g, x) → VecReady s [f.vd.toNat, f.sb.toNat] → s.me.epr = 0 → VecFits s [td, tb] →
    td.isSx = false → td ≠ .kx → tb.isInt = true → m ∈ [Tag.i32, .u32, .i64, .u64] → f.aop.toNat ≤ 9 → f.aop ≠ 2 →
    f.sp = 1 → (s.core (s.cur / 4)).poison = [] → activeBelow s f.msk.toNat s.me.len = [e] →
    sramLoc s x 1 0 a m.bytes = some (.spad (s.cur / 4) off) →
    let old := readLoc s (.spad (s.cur / 4) off) m.bytes
    let v := convert td m (s.me.rmOf 0) false 0 (s.me.elem f.vd.toNat td e)
    let new := atomicValue f.aop.toNat (BitVec.ofNat m.width (leNat old)) (BitVec.ofNat m.width v.1) 0
    let y := convert m td (s.me.rmOf 0) false 0 (leNat old)
    ∃ t, exec (.vamo f) s0 = .next t ∧
      VecResult f.vd.toNat td (fun c => if c = e then some y.1 else none) (fun k => (v.2 ||| y.2).getLsbD k = true)
        (writeLoc (.spad (s.cur / 4) off) Cry.ovune (leBytes m.bytes new.toNat) s) t) ∧
  (∀ (f : FmtVM) (s0 : State) (g : Nat) (x : Group),
    let s := settleAll s0.cur s0
    let td := s.me.tagOf f.vd.toNat
    let m := s.me.opTag f.ovr.toNat f.vd.toNat
    let tb := s.me.tagOf f.sb.toNat
    let a : Nat → Word := fun e =>
      let idx := s.me.elem f.sb.toNat tb e
      s.sr f.sa + BitVec.ofInt 64 (f.imm.setWidth 13).toInt +
        (if tb.isSigned then BitVec.ofInt 64 ((idx : Int).bmod (2 ^ tb.width)) else BitVec.ofNat 64 idx)
    let act := activeBelow s f.msk.toNat s.me.len
    let loc : Nat → Option Loc := fun e => sramLoc s x 1 0 (a e) m.bytes
    let apply : State → Nat → State := fun u e =>
      let l := (loc e).getD (.host 0)
      writeLoc l Cry.ovune (leBytes m.bytes (atomicValue f.aop.toNat (BitVec.ofNat m.width (leNat (readLoc u l m.bytes)))
        (BitVec.ofNat m.width (convert td m (s.me.rmOf 0) false 0 (s.me.elem f.vd.toNat td e)).1) 0).toNat) u
    s.myGroup = some (g, x) → VecReady s [f.vd.toNat, f.sb.toNat] → s.me.epr = 0 → VecFits s [td, tb] →
    td.isSx = false → td ≠ .kx → tb.isInt = true → m ∈ [Tag.i32, .u32, .i64, .u64] → f.aop.toNat ≤ 9 → f.aop ≠ 2 →
    f.sp = 1 → (s.core (s.cur / 4)).poison = [] → act ≠ [] → (∀ e ∈ act, loc e ≠ none) →
    ∃ t n, exec (.vamo f) s0 = .next t ∧ 0 < n ∧ n ≤ act.length ∧ t.cores = ((act.take n).foldl apply s).cores ∧
      t.me.pc = (if n = act.length then s.me.pc + 8 else s.me.pc) ∧
      t.me.epr = (if h : n < act.length then BitVec.ofNat 64 act[n] else 0)) ∧
  (∀ (f : FmtVM) (s : State), s.me.steps = false → ∃ t, exec (.vpf f) s = .next t ∧
    t.me = { s.me with pc := s.me.pc + 8, epr := 0, kept := s.me.others, wait := none } ∧ OnlyHart s t)

/-- R147 to R150, R160, R161, R228: one active element in any space, `VAMO` and `VPF`. -/
def Obligations.VectorElementAccess : Prop := ElementAccessRule ∧ VectorAtomicAndPrefetchRule

namespace Sys2Proof.Machine

/-- The core and the offset of `n` bytes from a scratchpad address that CPY names: in the group's own allocation, or in an
allocation of the context in the cluster (R143, R162). -/
def copySource (s : State) (x : Group) (sp : BitVec 3) (a : Word) (n : Nat) : Option (Nat × Nat) :=
  let k := s.cur / 4 / 96 * 96 + a.toNat / 2 ^ 19
  if sp = 1 ∧ a.toNat + n ≤ x.spadSize then some (s.cur / 4, x.spadBase + a.toNat)
  else if sp = 2 ∧ a.toNat / 2 ^ 19 < 96 ∧ a.toNat % 2 ^ 19 + n ≤ 2 ^ 19 ∧
      inAllocation s (s.asidOf s.cur) k (a.toNat % 2 ^ 19) n = true then some (k, a.toNat % 2 ^ 19)
  else none

/-- No hart of a group of the hart stands saved, so that no save of it waits for the end of a copy (R164). -/
def NotSaving (s : State) (h : Nat) : Prop :=
  ∀ g x, (s.hart h).group = some g → s.group? g = some x → ∀ j ∈ x.harts, (s.hart j).saved = false

/-- The lines of a transfer's next chunk, as byte offsets in the transfer (R163). -/
def chunkLines (c : Copy) : List Nat :=
  (List.range ((min ((c.next + 1) * c.chunk) c.len - c.next * c.chunk) / 64)).map fun i => c.next * c.chunk + 64 * i

end Sys2Proof.Machine

/-- R162 to R164, R447: CPY hands its transfer to the core's engine, or waits while the engine is full; the engine copies a
chunk, sets its bit and, after the last chunk, is done; or it stops at a fault and latches it for the louver. That a
length of 0 copies nothing and skips the check of the range is the model's reading (log 38). -/
def Obligations.TileCopies : Prop :=
  (∀ (f : FmtVM) (s0 : State) (g : Nat) (x : Group),
    let s := settleAll s0.cur s0
    let main := s.sr f.sa
    let sp := s.sr (f.sa + 1)
    let n := (s.sr f.sb).toNat
    let chunk := 2 ^ (f.imm.toNat / 4096 % 16 + 8)
    let engine := s.cur / 4 % 96 % 2
    let load := (s.copies.filter fun c => decide (c.cluster = s.cur / 4 / 96 ∧ c.engine = engine) && !c.stopped).length
    let done := { s.me with pc := s.me.pc + 8, epr := 0, kept := s.me.others, wait := none }
    s.me.steps = false → s.myGroup = some (g, x) → main.toNat % 64 = 0 → n % 64 = 0 →
    (if f.sp = 1 then sp.toNat else sp.toNat % 2 ^ 19) % chunk = 0 →
    (n = 0 → ∃ t, exec (.cpy f) s0 = .next t ∧ t.me = done ∧ OnlyHart s t) ∧
    (∀ k off, 0 < n → copySource s x f.sp sp n = some (k, off) →
      (load < 64 → ∃ t c, exec (.cpy f) s0 = .next t ∧ t.copies = s.copies ++ [c] ∧ c.hart = some (s.cur, f.vd.toNat) ∧
        c.cluster = s.cur / 4 / 96 ∧ c.engine = engine ∧ c.dirOut = decide (f.imm.toNat / 2 ^ 16 = 1) ∧ c.main = main ∧
        c.core = k ∧ c.off = off ∧ c.dst = sp ∧ c.len = n ∧ c.chunk = chunk ∧ c.next = 0 ∧ c.stopped = false ∧
        t.me = done ∧ OnlyHart s { t with copies := s.copies, nextId := s.nextId }) ∧
      (64 ≤ load → exec (.cpy f) s0 = .next s))) ∧
  (∀ (i h md : Nat) (c : Copy) (s s1 : State), s.copy? i = some c → c.hart = some (h, md) → md ≠ 0 → md < 16 →
    c.stopped = false → copyChunk c s = (s1, none) → NotSaving s1 h →
    ∃ t, exec (.tileCopyChunkDone i) s = .next t ∧
      t.copy? i = (if c.len ≤ (c.next + 1) * c.chunk then none else some { c with next := c.next + 1 }) ∧
      (∀ b, b < 16384 → ((t.hart h).mask md).getLsbD b =
        (decide (b = c.dst.toNat % 2 ^ 19 / c.chunk + c.next) || ((s1.hart h).mask md).getLsbD b)) ∧
      { t with harts := s1.harts, copies := s1.copies } = s1) ∧
  (∀ (i h md : Nat) (c : Copy) (s : State) (pa : Nat → Nat), s.copy? i = some c → c.hart = some (h, md) → md ≠ 0 →
    md < 16 → c.stopped = false → c.main.toNat % 64 = 0 → NotSaving s h → Memory.wf (s.core c.core).spad = true →
    (∀ o ∈ chunkLines c, ∃ p,
      translate (copyWho s c) (if c.dirOut then .store else .load) (c.main + BitVec.ofNat 64 o).toNat 64 s = (s, .ok p) ∧
      p.loc = .dev (pa o) ∧ pa o % 64 = 0 ∧ p.far = false ∧
      (if c.dirOut then OwnLine s p (pa o) else p.hs = false ∧ placeFault p s = (s, none))) →
    (c.dirOut = true → (∀ o ∈ chunkLines c, ∀ o' ∈ chunkLines c, pa o = pa o' → o = o') ∧
      ∀ o ∈ chunkLines c, (s.core c.core).marked .spad (c.off + o) 64 = false) →
    ∃ t, exec (.tileCopyChunkDone i) s = .next t ∧
      (∀ o ∈ chunkLines c, if c.dirOut then readLoc t (.dev (pa o)) 64 = readLoc s (.spad c.core (c.off + o)) 64
        else readLoc t (.spad c.core (c.off + o)) 64 = readLoc s (.dev (pa o)) 64) ∧
      t.copy? i = (if c.len ≤ (c.next + 1) * c.chunk then none else some { c with next := c.next + 1 }) ∧
      (∀ b, b < 16384 → ((t.hart h).mask md).getLsbD b =
        (decide (b = c.dst.toNat % 2 ^ 19 / c.chunk + c.next) || ((s.hart h).mask md).getLsbD b)) ∧
      (∀ j, j ≠ h → t.hart j = s.hart j) ∧ { t.hart h with mreg := (s.hart h).mreg } = s.hart h ∧
      { t with harts := s.harts, copies := s.copies, mem := s.mem, lines := s.lines, cores := s.cores, hot := s.hot } = s) ∧
  (∀ (i h md : Nat) (c : Copy) (s s1 : State) (k : Cause), s.copy? i = some c → c.hart = some (h, md) →
    c.stopped = false → c.main.toNat % 64 = 0 → chunkLines c ≠ [] → NotSaving s h → k ≠ .poison →
    let a := c.main + BitVec.ofNat 64 (c.next * c.chunk)
    c.next * c.chunk % 64 = 0 →
    translate (copyWho s c) (if c.dirOut then .store else .load) a.toNat 64 s = (s1, .error k) →
    ∃ t, exec (.tileCopyFault i) s = .next t ∧ t.copy? i = some { c with stopped := true } ∧
      t.hart h = { s.hart h with latches := (s.hart h).latches ++
        [{ lm := md, cause := k.code, tval := a, work := .copy i, delivered := false }] } ∧
      (∀ j, j ≠ h → t.hart j = s.hart j) ∧ { t with harts := s.harts, copies := s.copies } = s1)

/-! ## Descriptors -/

namespace Sys2Proof.Machine

/-- An instruction that writes one descriptor register alone: DD becomes `x`, `d0` stays the null record, every other
register stays (R242). -/
def DescWrites (dd : BitVec 5) (x : Desc) (s t : State) : Prop :=
  (∀ d, t.me.desc d = if d = dd ∧ d ≠ 0 then x else s.me.desc d) ∧
  VecDone s t ∧
  { t.me with dreg := s.me.dreg, pc := s.me.pc, epr := s.me.epr, kept := s.me.kept, wait := s.me.wait } = s.me ∧
  OnlyHart s t

/-- FRAME's `tval` (R243). -/
def frameVal (level axis kind ea eb : Nat) : Word :=
  BitVec.ofNat 64 (level * 2 ^ 62 + axis * 2 ^ 59 + kind * 2 ^ 56 + min ea 0xFFFFFFF * 2 ^ 28 + min eb 0xFFFFFFF)

end Sys2Proof.Machine

/-- R240 to R243, R251, R252: loading, storing, reading and setting descriptor records. -/
def Sys2Proof.Machine.DescriptorRecordsRule : Prop :=
  (∀ (f : FmtA) (s0 s1 : State) (b : List Byte), let s := settleAll s0.cur s0
    s.me.steps = false → (s.sr f.sa).toNat % 64 = 0 → watchHit s.me (s.sr f.sa).toNat 128 true false = false →
    readSpace (hartWho s s.cur) s.cur 0 (s.sr f.sa) 128 64 0 s = (s1, .ok b) → malformedAt (leNat b) = none →
    let x := leNat b
    ∃ t d, exec (.dld f) s0 = .next t ∧ DescWrites f.dd d s1 t ∧ d.base = BitVec.ofNat 64 x ∧
      (∀ i, i < 8 → d.ext[i]! = BitVec.ofNat 32 (x / 2 ^ (64 + 32 * i)) ∧
        d.str[i]! = BitVec.ofNat 40 (x / 2 ^ (320 + 40 * i))) ∧
      d.cap = BitVec.ofNat 64 (x / 2 ^ 640) ∧ d.rank = BitVec.ofNat 4 (x / 2 ^ 704) ∧
      d.tag = BitVec.ofNat 4 (x / 2 ^ 712) ∧ d.space = BitVec.ofNat 3 (x / 2 ^ 720)) ∧
  (∀ (f : FmtA) (s0 s1 : State), let s := settleAll s0.cur s0
    let d := s.me.desc f.da
    s.me.steps = false → (s.sr f.sa).toNat % 64 = 0 → watchHit s.me (s.sr f.sa).toNat 128 false true = false →
    storeSpace (hartWho s s.cur) s.cur 0 (s.sr f.sa) d.bytes 64 0 false none s = (s1, none) →
    d.bytes.length = 128 ∧ (Desc.ofNat (leNat d.bytes) = d) ∧ ∃ t, exec (.dstr f) s0 = .next t ∧
      { t with harts := s1.harts } = s1 ∧ t.me = { s1.me with pc := s1.me.pc + 8, epr := 0, kept := s1.me.others, wait := none }) ∧
  (∀ (f : FmtA) (s : State), s.me.steps = false → ∃ t, exec (.dget f) s = .next t ∧
    let d := s.me.desc f.da
    let ax := f.ax.toNat
    VecWrites f.sa (if f.db = 0 then (if ax < d.rank.toNat then (d.ext[ax]!).zeroExtend 64 else 0)
      else if f.db = 1 then (if ax < d.rank.toNat then (d.str[ax]!).signExtend 64 else 0)
      else if f.db = 2 then d.rank.zeroExtend 64 else if f.db = 3 then d.tag.zeroExtend 64
      else if f.db = 4 then d.space.zeroExtend 64 else if f.db = 5 then d.base else if f.db = 6 then d.cap
      else if d.shape.prod < 2 ^ 64 then BitVec.ofNat 64 d.shape.prod else 0xFFFFFFFFFFFFFFFF) s t) ∧
  (∀ (f : FmtA) (s : State), s.me.steps = false → f.db.toNat < 7 →
    let d := s.me.desc f.dd
    let v := s.sr f.sa
    let ax := f.ax.toNat
    let sets : Desc → Prop := fun x => ∃ t, exec (.dsetx f) s = .next t ∧ DescWrites f.dd x s t
    let traps : Word → Prop := fun w => s.me.level = .u → ∃ t, exec (.dsetx f) s = .next t ∧
      EntersHandler .frame true false w s.me.pc 0 s t
    (f.db = 0 → v.toNat < 2 ^ 32 → ax < d.rank.toNat → sets { d with ext := d.ext.set! ax (v.setWidth 32) }) ∧
    (f.db = 0 → 2 ^ 32 ≤ v.toNat → traps (frameVal 3 0 0 (8 + 4 * ax) 0)) ∧
    (f.db = 0 → v.toNat < 2 ^ 32 → d.rank.toNat ≤ ax → traps (frameVal 3 0 3 ax d.rank.toNat)) ∧
    (f.db = 1 → -(2 ^ 39) ≤ v.toInt → v.toInt < 2 ^ 39 → ax < d.rank.toNat →
      sets { d with str := d.str.set! ax (v.setWidth 40) }) ∧
    (f.db = 1 → (v.toInt < -(2 ^ 39) ∨ 2 ^ 39 ≤ v.toInt) → traps (frameVal 3 0 0 (40 + 5 * ax) 0)) ∧
    (f.db = 2 → v.toNat ≤ 8 → ∃ x, sets x ∧ x.rank = v.setWidth 4 ∧ (∀ i, i < 8 →
      x.ext[i]! = (if v.toNat ≤ i then 0 else if d.rank.toNat ≤ i then 1 else d.ext[i]!) ∧
      x.str[i]! = (if v.toNat ≤ i ∨ d.rank.toNat ≤ i then 0 else d.str[i]!)) ∧
      { x with rank := d.rank, ext := d.ext, str := d.str } = d) ∧
    (f.db = 2 → 8 < v.toNat → traps (frameVal 3 0 0 88 0)) ∧
    (f.db = 3 → v.toNat ≤ 15 → sets { d with tag := v.setWidth 4 }) ∧ (f.db = 3 → 15 < v.toNat → traps (frameVal 3 0 0 89 0)) ∧
    (f.db = 4 → v.toNat ∈ [0, 1, 2, 4, 5] → sets { d with space := v.setWidth 3 }) ∧
    (f.db = 4 → v.toNat ∉ [0, 1, 2, 4, 5] → traps (frameVal 3 0 0 90 0)) ∧
    (f.db = 5 → sets { d with base := v }) ∧ (f.db = 6 → sets { d with cap := v }))

/-- R248, R251, R253, R254: descriptor instructions that reshape, transpose and cut. -/
def Sys2Proof.Machine.DescriptorShapesRule : Prop :=
  ∀ (f : FmtA) (s : State), s.me.steps = false →
    let a := s.me.desc f.da
    let b := s.me.desc f.db
    let n := f.ax.toNat
    let m := f.db.toNat
    let traps : Instr → Cause → Word → Prop := fun i c w => s.me.level = .u → ∃ t, exec i s = .next t ∧
      EntersHandler c true false w s.me.pc 0 s t
    let dense : Nat → Int := fun k => ((a.shape.drop (k + 1)).prod : Nat)
    let isDense : Prop := ∀ k, k < a.rank.toNat → 2 ≤ (a.ext[k]!).toNat → a.stride k = dense k
    (a.rank.toNat ≤ 8 → b.rank.toNat ≤ 8 → isDense → a.shape.prod = b.shape.prod →
      (∀ k, k < b.rank.toNat → (b.shape.drop (k + 1)).prod < 2 ^ 39) →
      ∃ t x, exec (.dresh f) s = .next t ∧ DescWrites f.dd x s t ∧ x.rank = b.rank ∧
        (∀ k, k < b.rank.toNat → x.ext[k]! = b.ext[k]! ∧ x.str[k]! = BitVec.ofNat 40 (b.shape.drop (k + 1)).prod) ∧
        x.base = a.base ∧ x.cap = a.cap ∧ x.tag = a.tag ∧ x.space = a.space) ∧
    (a.rank.toNat ≤ 8 → isDense → a.shape.prod ≠ b.shape.prod →
      traps (.dresh f) .frame (frameVal 3 0 1 a.shape.prod b.shape.prod)) ∧
    (n < a.rank.toNat → m < a.rank.toNat → a.rank.toNat ≤ 8 → ∃ t x, exec (.dtrans f) s = .next t ∧ DescWrites f.dd x s t ∧
      (∀ k, k < 8 → let j := if k = n then m else if k = m then n else k
        x.ext[k]! = a.ext[j]! ∧ x.str[k]! = a.str[j]!) ∧ { x with ext := a.ext, str := a.str } = a) ∧
    (a.rank.toNat ≤ n → traps (.dtrans f) .frame (frameVal 3 0 3 n a.rank.toNat)) ∧
    (let q := (s.sr f.sa).toInt
     let e := (a.ext[n]!).toNat
     let o : Int := ((e - q.natAbs : Nat) : Int) * a.stride n
     let t' := Tag.ofCode a.tag.toNat
     (n < a.rank.toNat → q.natAbs ≤ e → n < 8 → ∃ t x, exec (.dtake f) s = .next t ∧
       (0 ≤ q → DescWrites f.dd { a with ext := a.ext.set! n (BitVec.ofNat 32 q.natAbs) } s t) ∧
       (q < 0 → t'.isSx = false → 0 ≤ (a.cap.toNat : Int) - o → (a.cap.toNat : Int) - o < 2 ^ 64 → DescWrites f.dd x s t ∧
         x.ext = a.ext.set! n (BitVec.ofNat 32 q.natAbs) ∧ x.base = a.base + BitVec.ofInt 64 (o * t'.bytes) ∧
         (x.cap.toNat : Int) = a.cap.toNat - o ∧ x.str = a.str ∧ x.rank = a.rank ∧ x.tag = a.tag ∧ x.space = a.space)) ∧
     (n < a.rank.toNat → e < q.natAbs → traps (.dtake f) .frame (frameVal 3 n 4 q.natAbs e)) ∧
     (a.rank.toNat ≤ n → traps (.dtake f) .frame (frameVal 3 0 3 n a.rank.toNat)))

/-- R240 to R243, R248, R251 to R254: every instruction of major 0x70. -/
def Obligations.Descriptors : Prop := DescriptorRecordsRule ∧ DescriptorShapesRule

/-! ## Array instructions -/

namespace Sys2Proof.Machine

/-- The pieces of an access to main or host memory, as they stand translated (R98, R150). -/
def translated (s : State) (acc : Access) (a : Word) (size : Nat) : List Place :=
  match (translateAll (vecWho s s.cur) acc (piecesOf a.toNat size) s).2 with
  | .ok ps => ps
  | .error _ => []

/-- The places of an access in the space of a descriptor (R143, R144, R240): an SRAM, main memory or host memory. -/
def arrayPlaces (s : State) (x : Group) (acc : Access) (sp : Nat) (a : Word) (size : Nat) : List Place :=
  match sramAt s x sp 0 a size with
  | some l => [sramPlace a.toNat size l]
  | none => if sp = 0 ∨ sp = 5 then translated s acc a size else []

/-- An access that passes every check of R150: aligned, and in an SRAM, or in main or host memory with its translations
at hand, no watch on it, and nothing that holds it back; a peer's memory, which remote requests reach, is none of these. -/
def Reaches (s : State) (x : Group) (acc : Access) (sp : Nat) (a : Word) (size al : Nat) : Prop :=
  a.toNat % al = 0 ∧ ((sramAt s x sp 0 a size).isSome = true ∨
    ((sp = 0 ∨ sp = 5) ∧ a.toNat < 2 ^ 55 ∧ watchHit s.me a.toNat size (acc = .load) (acc = .store) = false ∧
      (∃ ps, translateAll (vecWho s s.cur) acc (piecesOf a.toNat size) s = (s, .ok ps)) ∧
      ∀ p ∈ translated s acc a size, p.far = false ∧ (sp = 5 → p.hs = true) ∧
        (acc = .store → p.mig = false ∧ ∀ d pa, p.loc ≠ .peer d pa) ∧
        (acc = .load → placeFault p s = (s, none))))

/-- The address of an array's element at a multi-index, or of its block under an sx tag (R241). -/
def elemAddress (d : Desc) (idx : List Nat) : Word :=
  let o := (idx.zipIdx.map fun p => (p.1 : Int) * d.stride p.2).sum
  d.base + BitVec.ofInt 64 (if d.elemTag.isSx then o / 16 * d.elemTag.blockBytes else o * d.elemTag.bytes)

/-- The alignment of an array's elements, or of its blocks (R150). -/
def Desc.align (d : Desc) : Nat := if d.elemTag.isSx then 2 else d.elemTag.bytes

/-- The element of an array at a multi-index can be read. -/
def ElemReached (s : State) (x : Group) (d : Desc) (idx : List Nat) : Prop :=
  Reaches s x .load d.space.toNat (elemAddress d idx) d.elemTag.unitBytes d.align

/-- The element of an array at a multi-index, an sx element as f32 bits (R46, R241). -/
def arrayElem (s : State) (x : Group) (d : Desc) (idx : List Nat) : Nat :=
  let t := d.elemTag
  let o := (idx.zipIdx.map fun p => (p.1 : Int) * d.stride p.2).sum
  let v := leNat ((arrayPlaces s x .load d.space.toNat (elemAddress d idx) t.unitBytes).flatMap fun p => readLoc s p.loc p.n)
  if t.isSx then ((Tag.ffmt .f32).round .rne false 0 (sxElem t v (o % 16).toNat)).1 else v

/-- An element of an array with the tag that an instruction works with, f32 for sx (R59). -/
def arraySource (s : State) (x : Group) (d : Desc) (idx : List Nat) : Tag × Nat := (d.elemTag.plain, arrayElem s x d idx)

/-- The address of element i of a result, or of block i under an sx tag: dense from BASE on (R248). -/
def resultAddress (d : Desc) (i : Nat) : Word := d.base + BitVec.ofNat 64 (i * d.elemTag.unitBytes)

/-- Element or block i of a result can be stored. -/
def ResultReached (s : State) (x : Group) (d : Desc) (i : Nat) : Prop :=
  Reaches s x .store d.space.toNat (resultAddress d i) d.elemTag.unitBytes d.align

/-- The stores of result elements or blocks, in order, as a strip accepts them (R248, R249). -/
def resultStores (s : State) (x : Group) (d : Desc) (outs : List (Nat × Nat)) : List PStore :=
  outs.flatMap fun p => storesOf (arrayPlaces s x .store d.space.toNat (resultAddress d p.1) d.elemTag.unitBytes)
    (leBytes d.elemTag.unitBytes p.2)

/-- CNT of every line that the stores reach can rise as often as they raise it (R173). -/
def CountRoom (s : State) (stores : List PStore) : Prop :=
  ∀ p ∈ stores, ∀ i, p.raises i = true →
    (s.line i).cnt.toNat + pendingTo s i + (stores.filter (PStore.raises i)).length < 2 ^ 31

/-- The strip length Ls (R248): VL, or MVL where VL is 0, which MVL of the largest operand tag holds. -/
def StripLength (s : State) (ops : List Tag) (ls : Nat) : Prop :=
  let m := s.mvl (largest ops.zipIdx).1
  ls = (if s.me.len = 0 then m else s.me.len) ∧ 0 < ls ∧ ls ≤ m

/-- An array instruction stands at a strip below its `total` positions, or has none; its arrays lie in spaces that a
descriptor may name (R240), no SRAM word is poisoned, and no check of R247 on strips fails. -/
def ArrayReady (s : State) (x : Group) (d : Desc) (srcs : List Desc) (total ls : Nat) : Prop :=
  (∃ g, s.myGroup = some (g, x)) ∧ s.me.steps = false ∧ s.me.elemSteps = false ∧ NoPreempt s ∧ NoPoison s ∧
  (s.me.epr.toNat < total ∨ (total = 0 ∧ s.me.epr = 0)) ∧ total < 2 ^ 64 ∧
  (∀ a ∈ d :: srcs, a.space.toNat ∈ [0, 1, 2, 4, 5] ∧ a.rank.toNat ≤ 8) ∧ (∀ a ∈ srcs, sxStride a = none) ∧
  StripLength s ((d :: srcs).map Desc.elemTag) ls

/-- DD's register takes a shape with row-major strides and keeps BASE, CAP, TAG and SPACE; no other descriptor register
changes (R242, R248, R253). -/
def TakesShape (dd : BitVec 5) (shape : List Nat) (s t : State) : Prop :=
  let d := s.me.desc dd
  (∀ r, r ≠ dd ∨ r = 0 → t.me.desc r = s.me.desc r) ∧
  ((∀ k, k < shape.length → shape.getD k 0 < 2 ^ 32 ∧ (shape.drop (k + 1)).prod < 2 ^ 39) → dd ≠ 0 →
    (∀ k, k < 8 → ((t.me.desc dd).ext[k]!).toNat = shape.getD k 0 ∧
      ((t.me.desc dd).str[k]!).toNat = (if k < shape.length then (shape.drop (k + 1)).prod else 0)) ∧
    { t.me.desc dd with ext := d.ext, str := d.str } = { d with rank := BitVec.ofNat 4 shape.length })

/-- The end of a strip at e1 of `total` positions: `epr` names the next one, the PC stays and the hart stands between two
strips, or the instruction is done and DD takes its shape (R248). -/
def StripEnds (dd : BitVec 5) (shape : List Nat) (total e1 : Nat) (s t : State) : Prop :=
  if e1 < total then t.me.pc = s.me.pc ∧ t.me.epr = BitVec.ofNat 64 e1 ∧ t.me.wait = s.me.wait ∧ t.me.strip = true ∧
    t.me.kept = s.me.kept ∧ t.me.dreg = s.me.dreg
  else VecDone s t ∧ t.me.strip = false ∧ TakesShape dd shape s t

/-- What a strip leaves beside its end: its stores accepted, flags raised, and nothing else; the accesses to LPDDR6 may
have been counted (R375). -/
def StripLeaves (stores : List PStore) (raised : Nat → Prop) (seed carry : Word) (status : BitVec 3) (s t : State) : Prop :=
  t.me.pend = overlaid stores ∧ FlagsRaised s t raised ∧ t.me.seed = seed ∧ t.me.carry = carry ∧ t.me.status = status ∧
  { t.me with pend := s.me.pend, fflags := s.me.fflags, seed := s.me.seed, carry := s.me.carry, status := s.me.status,
              pc := s.me.pc, epr := s.me.epr, wait := s.me.wait, strip := s.me.strip, kept := s.me.kept,
              dreg := s.me.dreg } = s.me ∧
  OnlyHart { s with fresh := t.fresh, hot := t.hot } t

/-- The stores of an elementwise strip, from `epr` on. -/
def stripStores (f : FmtA) (x : Group) (n ls : Nat) (val : Nat → Nat × Flags) (s : State) : List PStore :=
  let e0 := s.me.epr.toNat
  resultStores s x (s.me.desc f.dd) ((fromTo e0 (min n (e0 + ls))).map fun i => (i, (val i).1))

/-- The elementwise strip (R248, R255): results from `epr` to e1 from `val`, one draw each where `draws`. -/
def ElementStrip (f : FmtA) (x : Group) (shape : List Nat) (ls : Nat) (val : Nat → Nat × Flags) (draws : Bool)
    (s t : State) : Prop :=
  let n := shape.prod
  let e0 := s.me.epr.toNat
  let e1 := min n (e0 + ls)
  StripLeaves (stripStores f x n ls val s)
    (fun b => ∃ i, e0 ≤ i ∧ i < e1 ∧ (val i).2.getLsbD b = true)
    (if draws then seedNext^[e1 - e0] s.me.seed else s.me.seed) s.me.carry s.me.status s t ∧
  StripEnds f.dd shape n e1 s t

/-- Sources of an elementwise array instruction: DA, DB, and DC in the WD field (R246). -/
def arraySources (f : FmtA) (s : State) (k : Nat) : List Desc := ([f.da, f.db, f.wd].take k).map s.me.desc

/-- Their agreement (R245, R246). -/
def arrayAgreed (f : FmtA) (s : State) (k : Nat) : Except Trap Agreed :=
  match k with
  | 1 => agreeOne (s.me.desc f.da)
  | 2 => agreePair f (s.me.desc f.da) (s.me.desc f.db)
  | _ => agreeThree f (s.me.desc f.da) (s.me.desc f.db) (s.me.desc f.wd)

/-- An elementwise array instruction, to a destination that is not sx (R255): where the sources agree, its own checks hold
and elements and results have places, a strip answers. -/
def ElementwiseArray (mk : FmtA → Instr) (k : Nat) (ok : FmtA → State → List Tag → Prop) (draws : FmtA → State → Bool)
    (fn : FmtA → State → Nat → List (Tag × Nat) → Nat × Flags) : Prop :=
  ∀ (f : FmtA) (s0 : State) (x : Group) (ag : Agreed) (ls : Nat),
    let s := settleAll s0.cur s0
    let d := s.me.desc f.dd
    let srcs := arraySources f s k
    let n := ag.1.prod
    let at_ : Nat → List (Desc × List Nat) := fun i => srcs.zip (ag.2.map fun m => m (unravel ag.1 i))
    let draw : Nat → Nat := fun i =>
      fld (if draws f s then seedNext^[i + 1 - s.me.epr.toNat] s.me.seed else s.me.seed) 48 16
    arrayAgreed f s k = .ok ag → ag.1.length ≤ 8 → n ≤ d.cap.toNat → d.elemTag.isSx = false →
    ok f s (srcs.map Desc.elemTag) → ArrayReady s x d srcs n ls →
    (∀ i, i < n → ResultReached s x d i ∧ ∀ p ∈ at_ i, ElemReached s x p.1 p.2) →
    let val : Nat → Nat × Flags := fun i => fn f s (draw i) ((at_ i).map fun p => arraySource s x p.1 p.2)
    CountRoom s (stripStores f x n ls val s) →
    ∃ t, exec (mk f) s0 = .next t ∧ ElementStrip f x ag.1 ls val (draws f s) s t

/-- No draws. -/
def drawless (_ : FmtA) (_ : State) : Bool := false

/-- The tags that an arithmetic function accepts (R255, R59). -/
def arithTags (op : AOp) (f : FmtA) (s : State) (tags : List Tag) : Prop :=
  (∀ t ∈ (s.me.desc f.dd).elemTag :: tags, t ≠ .f64 ∧ t ≠ .kx) ∧
  ∃ p, promoteAll tags = .ok (workTag tags, p) ∧ workTag tags ≠ .f64 ∧ op.accepts (workTag tags) = true

/-- An arithmetic function of k sources: its result in Tag(DD) from T. -/
def ArithArray (mk : FmtA → Instr) (op : AOp) (k : Nat) : Prop :=
  ElementwiseArray mk k (fun f s tags => arithTags op f s tags ∧ (op = .min ∨ op = .max → f.wd = 0)) drawless
    fun f s _ xs => elemArith op (workTag ((arraySources f s k).map Desc.elemTag)) (s.me.desc f.dd).elemTag
      (s.me.rmOf f.rm.toNat) f.sat xs

/-- A bit function: one width throughout (R255, R122). -/
def LogicArray (mk : FmtA → Instr) (op : LOp) (k : Nat) : Prop :=
  ElementwiseArray mk k (fun f s tags => ∀ t ∈ (s.me.desc f.dd).elemTag :: tags, t.isSx = false ∧ t ≠ .f64 ∧ t ≠ .kx ∧
      t.width = (s.me.desc f.da).elemTag.width) drawless
    fun f s _ xs => elemLogic op (s.me.desc f.da).elemTag (s.me.desc f.dd).elemTag f.sat (xs.getD 0 (.u8, 0)).2
      (xs.getD 1 (.u8, 0)).2

/-- Tags that are neither f64 nor kx. -/
def narrowTags (f : FmtA) (s : State) (tags : List Tag) : Prop :=
  ∀ t ∈ (s.me.desc f.dd).elemTag :: tags, t ≠ .f64 ∧ t ≠ .kx

end Sys2Proof.Machine

/-- R244, R245: the frames of two operands agree where one is a prefix of the other, and so do their cells; the result
has the longer of each, and a result index takes from each operand what its own frame and cell hold. -/
def Sys2Proof.Machine.FrameAgreementRule : Prop :=
  ∀ (a b : List Nat) (ka kb : Nat), a.length ≤ 8 → b.length ≤ 8 → ka < 16 → kb < 16 →
    let cells : Nat → Nat → Nat := fun k r => if k ≤ 8 then min k r else r - min (k - 8) r
    let fa := a.take (a.length - cells ka a.length)
    let ca := a.drop (a.length - cells ka a.length)
    let fb := b.take (b.length - cells kb b.length)
    let cb := b.drop (b.length - cells kb b.length)
    let longer : List Nat → List Nat → List Nat := fun p q => if q.length ≤ p.length then p else q
    ((fa <+: fb ∨ fb <+: fa) → (ca <+: cb ∨ cb <+: ca) → ∃ r, agreeTwo a b ka kb = .ok r ∧
      r.1 = longer fa fb ++ longer ca cb ∧
      ∀ x y : List Nat, x.length = (longer fa fb).length → y.length = (longer ca cb).length →
        r.2.1 (x ++ y) = x.take fa.length ++ y.take ca.length ∧ r.2.2 (x ++ y) = x.take fb.length ++ y.take cb.length) ∧
    (∀ k, k < fa.length → k < fb.length → (∀ j, j < k → fa[j]! = fb[j]!) → fa[k]! ≠ fb[k]! →
      agreeTwo a b ka kb = .error (frameTrap 0 k 0 (fa[k]!) (fb[k]!))) ∧
    ((fa <+: fb ∨ fb <+: fa) → ∀ k, k < ca.length → k < cb.length → (∀ j, j < k → ca[j]! = cb[j]!) → ca[k]! ≠ cb[k]! →
      agreeTwo a b ka kb = .error (frameTrap 1 k 0 (ca[k]!) (cb[k]!)))

/-- R245 to R248, R255 to R258: every instruction of major 0x71, without a witness, one strip of each, on arrays in every space. -/
def Sys2Proof.Machine.ElementwiseArraysRule : Prop :=
  ArithArray .aadd .add 2 ∧ ArithArray .asub .sub 2 ∧ ArithArray .amul .mul 2 ∧ ArithArray .adiv .div 2 ∧
  ArithArray .amin .min 2 ∧ ArithArray .amax .max 2 ∧ ArithArray .afma .fma 3 ∧ ArithArray .aabs .abs 1 ∧
  ArithArray .aneg .neg 1 ∧ ArithArray .asqrt .sqrt 1 ∧ ArithArray .aexp2 .exp2 1 ∧ ArithArray .alog2 .log2 1 ∧
  LogicArray .aand .and 2 ∧ LogicArray .aor .or 2 ∧ LogicArray .axor .xor 2 ∧ LogicArray .anot .not 1 ∧
  ElementwiseArray .aclamp 1 (fun f s tags => arithTags .clamp f s tags ∧ f.wd = 0) drawless (fun f s _ xs =>
    let t := (s.me.desc f.da).elemTag.plain
    elemArith .clamp t (s.me.desc f.dd).elemTag (s.me.rmOf f.rm.toNat) f.sat
      (xs ++ [(t, (s.sr f.sa).toNat % 2 ^ t.width), (t, (s.sr (f.sa + 1)).toNat % 2 ^ t.width)])) ∧
  ElementwiseArray .acmp 2 (fun f s tags => narrowTags f s tags ∧ (s.me.desc f.dd).elemTag.isInt = true ∧
      ∃ p, promoteAll tags = .ok (workTag tags, p) ∧ workTag tags ≠ .f64) drawless (fun f s _ xs =>
    elemCmp f.sa.toNat (workTag ((arraySources f s 2).map Desc.elemTag)) (s.me.desc f.dd).elemTag
      (s.me.rmOf f.rm.toNat) f.sat (xs.getD 0 (.u8, 0)) (xs.getD 1 (.u8, 0))) ∧
  ElementwiseArray .asel 3 (fun f s tags => narrowTags f s (tags.take 2) ∧ (s.me.desc f.wd).elemTag.isSx = false) drawless
    (fun f s _ xs =>
      let y := if (xs.getD 2 (.u8, 0)).2 = 0 then xs.getD 1 (.u8, 0) else xs.getD 0 (.u8, 0)
      convert y.1 (s.me.desc f.dd).elemTag (s.me.rmOf f.rm.toNat) f.sat 0 y.2) ∧
  ElementwiseArray .acvt 1 narrowTags (fun f s => s.me.rmConv f.rm.toNat = .rsto) (fun f s u xs =>
    let y := xs.getD 0 (.u8, 0)
    roundTo y.1 (s.me.desc f.dd).elemTag (s.me.rmConv f.rm.toNat) f.sat u y.2) ∧
  ElementwiseArray .aqnt 2 narrowTags (fun f s => s.me.rmConv f.rm.toNat = .rsto) (fun f s u xs =>
    elemQnt (s.me.desc f.dd).elemTag (s.me.rmConv f.rm.toNat) u ((xs.getD 0 (.u8, 0)).1.decode (xs.getD 0 (.u8, 0)).2)
      ((xs.getD 1 (.u8, 0)).1.decode (xs.getD 1 (.u8, 0)).2))

/-- R48, R241, R248, R255: the block that R48 works out; `ACVT` and `AQNT` to an sx destination quantise whole blocks of
sixteen values. -/
def Sys2Proof.Machine.ArrayQuantiseRule : Prop :=
  (let x : Nat → Int → FVal × Nat := fun m e => (.num false m e false, 0)
   sxQuantise .sx4 .rne ([x 3 0, (.num true 5 (-2) false, 0), x 3 (-3), x 1 (-4)] ++ List.replicate 12 (x 0 0)) =
      (leNat [0x80, 0xFC, 0xAC, 0x0A, 0, 0, 0, 0, 0, 0, 0, 0], fNX ||| fUF)) ∧
  ∀ (f : FmtA) (s0 : State) (x : Group) (ag : Agreed) (ls k : Nat) (i : Instr)
      (exact : List (Tag × Nat) → FVal × Flags),
    ((i = .acvt f ∧ k = 1 ∧ exact = fun xs => (((xs.getD 0 (.u8, 0)).1.decode (xs.getD 0 (.u8, 0)).2).toF, 0)) ∨
     (i = .aqnt f ∧ k = 2 ∧ exact = fun xs => qntProduct ((xs.getD 0 (.u8, 0)).1.decode (xs.getD 0 (.u8, 0)).2)
       ((xs.getD 1 (.u8, 0)).1.decode (xs.getD 1 (.u8, 0)).2))) →
    let s := settleAll s0.cur s0
    let d := s.me.desc f.dd
    let td := d.elemTag
    let srcs := arraySources f s k
    let n := ag.1.prod
    let e0 := s.me.epr.toNat
    let e1 := min n (e0 + ls)
    let at_ : Nat → List (Desc × List Nat) := fun i => srcs.zip (ag.2.map fun m => m (unravel ag.1 i))
    let rm := s.me.rmConv f.rm.toNat
    let draw : Nat → Nat := fun i =>
      fld (if rm = .rsto then seedNext^[i + 1 - e0] s.me.seed else s.me.seed) 48 16
    arrayAgreed f s k = .ok ag → ag.1.length ≤ 8 → n ≤ d.cap.toNat → td.isSx = true → n % 16 = 0 → ls % 16 = 0 →
    e0 % 16 = 0 → narrowTags f s (srcs.map Desc.elemTag) → ArrayReady s x d srcs n ls →
    (∀ i, i < n → ResultReached s x d (i / 16) ∧ ∀ p ∈ at_ i, ElemReached s x p.1 p.2) →
    let row : Nat → FVal × Flags := fun i => exact ((at_ i).map fun p => arraySource s x p.1 p.2)
    let block : Nat → Nat × Flags := fun b =>
      sxQuantise td rm ((List.range 16).map fun k => ((row (16 * b + k)).1, draw (16 * b + k)))
    let stores := resultStores s x d ((fromTo (e0 / 16) (e1 / 16)).map fun b => (b, (block b).1))
    CountRoom s stores → ∃ t, exec i s0 = .next t ∧
      StripLeaves stores
        (fun c => (∃ b, e0 / 16 ≤ b ∧ b < e1 / 16 ∧ (block b).2.getLsbD c = true) ∨
          ∃ i, e0 ≤ i ∧ i < e1 ∧ (row i).2.getLsbD c = true)
        (if rm = .rsto then seedNext^[e1 - e0] s.me.seed else s.me.seed) s.me.carry s.me.status s t ∧
      StripEnds f.dd ag.1 n e1 s t


/-- R245 to R248, R255 to R258: every instruction of major 0x71. -/
def Obligations.ArrayElementwise : Prop := ElementwiseArraysRule ∧ ArrayQuantiseRule

namespace Sys2Proof.Machine

/-- A structural primitive (R248, R274): result element i, which reads the elements `reads i`, is
`val i`; OOR where `oor` says so of an element (R262). -/
def PrimRuns (i : Instr) (f : FmtA) (s0 : State) (srcs : List Desc) (shape : List Nat)
    (reads : Group → Nat → List (Desc × List Nat)) (val : Group → Nat → Nat × Flags) (oor : Group → Nat → Bool) : Prop :=
  let s := settleAll s0.cur s0
  let d := s.me.desc f.dd
  let n := shape.prod
  let e0 := s.me.epr.toNat
  ∀ (x : Group) (ls : Nat), n ≤ d.cap.toNat → d.elemTag.isSx = false → ArrayReady s x d srcs n ls →
    (∀ i, i < n → ResultReached s x d i ∧ ∀ p ∈ reads x i, ElemReached s x p.1 p.2) →
    let e1 := min n (e0 + ls)
    CountRoom s (stripStores f x n ls (val x) s) →
    ∃ t, exec i s0 = .next t ∧
      StripLeaves (stripStores f x n ls (val x) s)
        (fun b => ∃ i, e0 ≤ i ∧ i < e1 ∧ (val x i).2.getLsbD b = true) s.me.seed s.me.carry
        (if (fromTo e0 e1).any (oor x) then s.me.status ||| 4 else s.me.status) s t ∧
      StripEnds f.dd shape n e1 s t

/-- A primitive that copies elements as they stand: result element i is the element of `from_ i`, or zero bits (R274). -/
def CopyRuns (i : Instr) (f : FmtA) (s0 : State) (srcs : List Desc) (shape : List Nat)
    (from_ : Nat → Option (Desc × List Nat)) : Prop :=
  let s := settleAll s0.cur s0
  PrimRuns i f s0 srcs shape (fun _ i => (from_ i).toList)
    (fun x i => (match from_ i with
      | some p => arrayElem s x p.1 p.2
      | none => 0, 0)) (fun _ _ => false)

/-- Tags that the copying primitives accept (R274): neither f64 nor sx, the destination of DA's. -/
def moveTags (td ta : Tag) : Prop := td = ta ∧ ta.isSx = false ∧ ta ≠ .f64

/-- Axes of the cell that a rank operand selects from a shape, 0 selecting all (R259). -/
def cellAxes (k rank : Nat) : Nat := if k = 0 then rank else if k ≤ 8 then min k rank else rank - min (k - 8) rank

end Sys2Proof.Machine

/-- R271, R274 to R279: structural primitives on arrays in every space. -/
def Sys2Proof.Machine.StructuralArraysRule : Prop :=
  ∀ (f : FmtA) (s0 : State),
    let s := settleAll s0.cur s0
    let d := s.me.desc f.dd
    let a := s.me.desc f.da
    let b := s.me.desc f.db
    let td := d.elemTag
    let ax := f.ax.toNat
    let q := (s.sr f.sa).toInt
    let n := a.shape.prod
    ((td.isInt = true ∨ (td.isFloat = true ∧ td ≠ .f64)) → (f.fl = 1 → ax < d.rank.toNat) →
      PrimRuns (.aiota f) f s0 [] d.shape (fun _ _ => [])
        (fun _ i => td.write .rne false 0 (.int (q + ((if f.fl = 1 then (unravel d.shape i).getD ax 0 else i : Nat) : Int))))
        (fun _ _ => false)) ∧
    (td.isSx = false → td ≠ .f64 → PrimRuns (.afill f) f s0 [] d.shape (fun _ _ => [])
      (fun _ _ => ((s.sr f.sa).toNat % 2 ^ td.width, 0)) (fun _ _ => false)) ∧
    (moveTags td a.elemTag →
      CopyRuns (.acopy f) f s0 [a] a.shape (fun i => some (a, unravel a.shape i)) ∧
      CopyRuns (.aresh f) f s0 [a] d.shape (fun i => if n = 0 then none else some (a, unravel a.shape (i % n))) ∧
      (ax < cellAxes f.ka.toNat a.rank.toNat →
        let k := a.rank.toNat - cellAxes f.ka.toNat a.rank.toNat + ax
        let e := a.shape.getD k 0
        let along : Instr → Nat → (Nat → Option Nat) → Prop := fun i m g =>
          CopyRuns i f s0 [a] (a.shape.set k m) (fun i =>
            let y := unravel (a.shape.set k m) i
            (g (y.getD k 0)).map fun j => (a, y.set k j))
        along (.arot f) e (fun j => some ((j + q) % (e : Int)).toNat) ∧
        along (.arev f) e (fun j => some (e - 1 - j)) ∧
        (q.natAbs < 2 ^ 32 → along (.atake f) q.natAbs (fun j =>
          if 0 ≤ q then (if j < e then some j else none)
          else if q.natAbs ≤ e + j then some (e + j - q.natAbs) else none))) ∧
      (b.elemTag = a.elemTag →
        let ra := a.rank.toNat - cellAxes f.ka.toNat a.rank.toNat
        let rb := b.rank.toNat - cellAxes f.kb.toNat b.rank.toNat
        let fr := if rb ≤ ra then a.shape.take ra else b.shape.take rb
        let ca := a.shape.drop ra
        let cb := b.shape.drop rb
        let m := ca.getD ax 0
        let shape := fr ++ ca.set ax (m + cb.getD ax 0)
        (a.shape.take ra <+: b.shape.take rb ∨ b.shape.take rb <+: a.shape.take ra) → ca.length = cb.length →
        ax < ca.length → (∀ i, i < ca.length → i ≠ ax → ca[i]! = cb[i]!) → shape.length ≤ 8 →
        CopyRuns (.acat f) f s0 [a, b] shape (fun i =>
          let y := unravel shape i
          let c := y.drop fr.length
          let j := c.getD ax 0
          some (if j < m then (a, y.take ra ++ c) else (b, y.take rb ++ c.set ax (j - m)))))) ∧
    (moveTags td a.elemTag → b.elemTag.isInt = true → ax < a.rank.toNat →
      let shape := a.shape.take ax ++ b.shape ++ a.shape.drop (ax + 1)
      let idx : Nat → List Nat := fun i => ((unravel shape i).drop ax).take b.rank.toNat
      let pick : Group → Nat → Int := fun x i => (b.elemTag.decode (arrayElem s x b (idx i))).toI
      let good : Group → Nat → Bool := fun x i => decide (0 ≤ pick x i ∧ pick x i < a.shape.getD ax 0)
      let src : Group → Nat → List Nat := fun x i => let y := unravel shape i
        y.take ax ++ (pick x i).toNat :: y.drop (ax + b.rank.toNat)
      shape.length ≤ 8 →
      PrimRuns (.agath f) f s0 [a, b] shape (fun x i => (b, idx i) :: if good x i then [(a, src x i)] else [])
        (fun x i => (if good x i then arrayElem s x a (src x i) else 0, 0)) (fun x i => !good x i)) ∧
    (let t := workTag [a.elemTag, b.elemTag]
     let shape := a.shape ++ b.shape
     let fn := f.sa.toNat
     (∀ y ∈ [td, a.elemTag, b.elemTag], y.isSx = false ∧ y ≠ .f64 ∧ y ≠ .kx) → (11 ≤ fn → t.isInt = true) →
     (∃ p, promoteAll [a.elemTag, b.elemTag] = .ok (t, p) ∧ t ≠ .f64) → shape.length ≤ 8 →
     fn ∈ [0, 1, 2, 3, 4, 5, 11, 12, 13] →
     let at_ : Nat → List Nat × List Nat := fun i => let y := unravel shape i
       (y.take a.shape.length, y.drop a.shape.length)
     PrimRuns (.aouter f) f s0 [a, b] shape (fun _ i => [(a, (at_ i).1), (b, (at_ i).2)])
       (fun x i => funOf fn t td (s.me.rmOf f.rm.toNat) f.sat (arraySource s x a (at_ i).1) (arraySource s x b (at_ i).2))
       (fun _ _ => false))

/-- R271 to R273: `ACOMP` and `AEXPD` over one strip. The count goes to SR[SA]; beyond CAP nothing is stored and OVF is
set; `carry` and LINE are clear at the end. -/
def Sys2Proof.Machine.ArrayMasksRule : Prop :=
  ∀ (f : FmtA) (s0 : State) (x : Group) (ls : Nat),
    let s := settleAll s0.cur s0
    let d := s.me.desc f.dd
    let a := s.me.desc f.da
    let b := s.me.desc f.db
    let cap := d.cap.toNat
    let status : Bool → BitVec 3 := fun ovf => (s.me.status &&& 5) ||| (if ovf then 1 else 0)
    let leaves : Instr → List (Nat × Nat) → Bool → Nat → List Nat → Prop := fun i outs ovf c shape =>
      CountRoom s (resultStores s x d outs) → ∃ t, exec i s0 = .next t ∧ ScalarWrite f.sa (BitVec.ofNat 64 c) s t ∧
      StripLeaves (resultStores s x d outs) (fun _ => False) s.me.seed 0 (status ovf) s
        (t.setMe { t.me with sreg := s.me.sreg, sbank := s.me.sbank }) ∧
      StripEnds f.dd shape 0 0 s t
    moveTags d.elemTag a.elemTag → b.elemTag.isSx = false → s.me.epr = 0 →
    (∀ (n : Nat) (r : List Nat × (List Nat → List Nat) × (List Nat → List Nat)),
      agreeTwo a.shape b.shape f.ka.toNat f.kb.toNat = .ok r → r.1.length ≤ 8 → r.1.prod = n → n ≤ ls →
      ArrayReady s x d [a, b] n ls →
      let chosen := (List.range n).filter fun i => decide (arrayElem s x b (r.2.2 (unravel r.1 i)) ≠ 0)
      let c := chosen.length
      (∀ i, i < n → ElemReached s x b (r.2.2 (unravel r.1 i))) →
      (∀ i ∈ chosen, ElemReached s x a (r.2.1 (unravel r.1 i))) → (∀ i, i < min c cap → ResultReached s x d i) →
      leaves (.acomp f)
        ((List.range (min c cap)).map fun j => (j, arrayElem s x a (r.2.1 (unravel r.1 (chosen[j]!))))) (cap < c) c [c]) ∧
    (b.elemTag ≠ .f64 → ∀ n, b.shape.prod = n → n ≤ ls → ArrayReady s x d [a, b] n ls →
      let sel : Nat → Bool := fun i => decide (arrayElem s x b (unravel b.shape i) ≠ 0)
      let before : Nat → Nat := fun i => ((List.range i).filter sel).length
      let takes : Nat → Bool := fun i => sel i && decide (before i < a.shape.prod)
      (∀ i, i < n → ElemReached s x b (unravel b.shape i) ∧ (i < cap → ResultReached s x d i) ∧
        (takes i = true → ElemReached s x a (unravel a.shape (before i)))) →
      leaves (.aexpd f)
        ((List.range (min n cap)).map fun i => (i, if takes i then arrayElem s x a (unravel a.shape (before i)) else 0))
        (a.shape.prod < before n ∨ cap < n) (before n) b.shape)


/-- R248, R262, R274 to R277: the structural primitives. -/
def Obligations.ArrayPrimitives : Prop := StructuralArraysRule ∧ ArrayMasksRule

namespace Sys2Proof.Machine

/-- The lines that a strip of whole lines holds, from line l0 on (R260): as many as Ls positions hold, or one. -/
def lastLine (n lines ls l0 : Nat) : Nat := if n ≤ ls then min lines (l0 + ls / max 1 n) else l0 + 1

/-- The elements of line l from position lo to hi − 1. -/
def lineElems (s : State) (x : Group) (d : Desc) (g : Lines) (l lo hi : Nat) : List Nat :=
  (fromTo lo hi).map fun p => arrayElem s x d (g.at l p)

/-- A strip of whole lines (R260 to R262): each line has its results and flags, `carry` and LINE are clear behind it.
`cut` says that the instruction may divide a line longer than a strip, which is not this case; one that may not needs
MVL(kx) of at least the line. -/
def LineStrip (i : Instr) (f : FmtA) (s0 : State) (srcs : List Desc) (shape : List Nat) (lines n : Nat) (cut : Bool)
    (reads : Nat → List (Desc × List Nat)) (val : Group → Nat → List (Nat × Nat) × Flags) : Prop :=
  let s := settleAll s0.cur s0
  let d := s.me.desc f.dd
  ∀ (x : Group) (ls l0 : Nat), s.me.epr.toNat = l0 * max 1 n → (cut = true → n ≤ ls) →
    (cut = false → n ≤ s.mvl .kx) →
    ArrayReady s x d srcs (lines * max 1 n) ls →
    let l1 := if lines = 0 then 0 else lastLine n lines ls l0
    (∀ l, l0 ≤ l → l < l1 → (∀ p ∈ reads l, ElemReached s x p.1 p.2) ∧ ∀ p ∈ (val x l).1, ResultReached s x d p.1) →
    let stores := resultStores s x d ((fromTo l0 l1).flatMap fun l => (val x l).1)
    CountRoom s stores → ∃ t, exec i s0 = .next t ∧
      StripLeaves stores
        (fun b => ∃ l, l0 ≤ l ∧ l < l1 ∧ (val x l).2.getLsbD b = true) s.me.seed 0 (s.me.status &&& 5) s t ∧
      StripEnds f.dd shape (lines * max 1 n) (l1 * max 1 n) s t

/-- NV where an element is a signalling NaN (R265, R268). -/
def signalling (t : Tag) (xs : List Nat) : Flags := if ∃ y ∈ xs, (t.decode y).sigFlag ≠ 0 then fNV else 0

/-- How many elements of a line stand before position p in the grade order (R268). -/
def gradeRank (t : Tag) (desc : Bool) (xs : List Nat) (p : Nat) : Nat :=
  ((List.range xs.length).filter fun q => gradeBefore t desc (xs[q]!, q) (xs[p]!, p)).length

/-- The position of a line that grade gives a rank. -/
def gradeAt (t : Tag) (desc : Bool) (xs : List Nat) (r : Nat) : Nat :=
  ((List.range xs.length).find? fun p => gradeRank t desc xs p == r).getD 0

/-- The results of a scan from left to right, with the flags of its steps and of the results (R62). -/
def scanned (op : Nat) (t td : Tag) (rm : Rm) (sat : Bool) (xs : List Nat) : List (Nat × Flags) :=
  let acc : Nat → Nat × Flags := fun i => ((xs.take (i + 1)).drop 1).foldl (fun a y =>
    let r := combine op t rm sat a.1 y
    (r.1, a.2 ||| r.2)) (canonical t (xs.headD 0))
  (List.range xs.length).map fun i =>
    let r := roundTo t td rm sat 0 (acc i).1
    (r.1, (acc i).2 ||| r.2)

end Sys2Proof.Machine

/-- R259: the lines of an operand along AX of its cells; an axis beyond the cell traps. -/
def Sys2Proof.Machine.ArrayLinesRule : Prop :=
  ∀ (d : Desc) (k ax : Nat), d.rank.toNat ≤ 8 → k < 16 →
    let c := cellAxes k d.rank.toNat
    let a := d.rank.toNat - c + ax
    (ax < c → ∃ g, linesOf d k ax = .ok g ∧ g.iax = a ∧ g.n = d.shape[a]! ∧ g.other = d.shape.eraseIdx a ∧ g.shape = d.shape ∧
      ∀ l p, l < g.other.prod → p < g.n → (g.at l p)[a]! = p ∧ (g.at l p).eraseIdx a = unravel g.other l ∧
        ravel g.other (unravel g.other l) = l) ∧
    (c ≤ ax → linesOf d k ax = .error (frameTrap 3 0 3 ax c))

/-- R244, R245, R263: how frames, cells and lines of arrays are chosen. -/
def Obligations.ArrayAgreement : Prop := FrameAgreementRule ∧ ArrayLinesRule

/-- R259 to R263, R265: `ARED` without a witness, on whole lines: the tree of each line in T, rounded to Tag(DD); the
position of the extreme; the sum within bounds. The identity stands for an empty line. -/
def Sys2Proof.Machine.ReduceLinesRule : Prop :=
  ∀ (f : FmtA) (s0 : State) (g : Lines),
    let s := settleAll s0.cur s0
    let d := s.me.desc f.dd
    let a := s.me.desc f.da
    let t := a.elemTag.plain
    let td := d.elemTag
    let op := f.db.toNat
    let rm := s.me.rmOf f.rm.toNat
    let xs : Group → Nat → List Nat := fun x l => lineElems s x a g l 0 g.n
    let reads : Nat → List (Desc × List Nat) := fun l => (List.range g.n).map fun p => (a, g.at l p)
    let out : Nat → Nat × Flags := fun v => roundTo t td rm f.sat 0 v
    let runs : (Group → Nat → List (Nat × Nat) × Flags) → Prop := fun val =>
      LineStrip (.ared f) f s0 [a] g.other g.other.prod g.n true reads val
    linesOf a f.ka.toNat f.ax.toNat = .ok g → f.wd = 0 → g.other.prod ≤ d.cap.toNat → op ≤ 9 →
    (∀ y ∈ [td, a.elemTag], y ≠ .f64 ∧ y ≠ .kx) → td.isSx = false →
    (op ≤ 6 → (4 ≤ op → t.isInt = true) → runs fun x l =>
      let r := if g.n = 0 then (identityOf op t, 0) else treeOf op t rm f.sat (xs x l)
      ([(l, (out r.1).1)], r.2 ||| (out r.1).2 ||| signalling t (xs x l))) ∧
    (op = 9 → (g.n ≠ 0 ∨ g.other.prod = 0) → runs fun x l =>
      let r := treeOf 0 t rm f.sat (xs x l)
      let b : Nat → Tag × Nat := fun k => (t, (s.sr (f.sa + BitVec.ofNat 6 k)).toNat % 2 ^ t.width)
      let c := elemArith .clamp t t rm false [(t, r.1), b 0, b 1]
      ([(l, (out c.1).1)], r.2 ||| c.2 ||| (out c.1).2 ||| signalling t (xs x l))) ∧
    (op = 7 ∨ op = 8 → t.hasKey = true → td.isInt = true → (g.n ≠ 0 ∨ g.other.prod = 0) → g.n < 2 ^ 32 → runs fun x l =>
      let key : Nat → Nat := fun p => (keyOf t ((xs x l)[p]!)).getD 0
      let nan : Nat → Bool := fun p => (t.decode ((xs x l)[p]!)).toF.isNan
      let first := (List.range g.n).find? fun p =>
        if (List.range g.n).any nan then nan p
        else (List.range g.n).all fun q => if op = 7 then decide (key q ≤ key p) else decide (key p ≤ key q)
      let r := td.fromInt false ((first.getD 0 : Nat) : Int)
      ([(l, r.1)], r.2 ||| signalling t (xs x l)))

/-- R60, R61, R261, R262: a line longer than a strip is reduced piece by piece. The running value stands in `carry`, an
integer sum that saturated in LINE; the piece that ends the line stores its result and clears both. -/
def Sys2Proof.Machine.ArrayReducePieceRule : Prop :=
  ∀ (f : FmtA) (s0 : State) (g : Lines) (x : Group) (ls l p0 : Nat),
    let s := settleAll s0.cur s0
    let d := s.me.desc f.dd
    let a := s.me.desc f.da
    let t := a.elemTag.plain
    let td := d.elemTag
    let op := f.db.toNat
    let rm := s.me.rmOf f.rm.toNat
    let p1 := min g.n (p0 + ls)
    let xs := lineElems s x a g l p0 p1
    let fresh := treeOf op t rm f.sat xs
    let r := if p0 = 0 then fresh else
      let b := combine op t rm f.sat s.me.carry.toNat fresh.1
      (b.1, fresh.2 ||| b.2)
    let line := (decide (p0 ≠ 0) && s.me.status.getLsbD 1) || (decide (op = 0) && t.isInt && (r.2 &&& fSAT) != 0)
    let out := roundTo t td rm f.sat 0 r.1
    linesOf a f.ka.toNat f.ax.toNat = .ok g → f.wd = 0 → g.other.prod ≤ d.cap.toNat → op ≤ 6 →
    (∀ y ∈ [td, a.elemTag], y ≠ .f64 ∧ y ≠ .kx) → td.isSx = false → (4 ≤ op → t.isInt = true) →
    ls < g.n → l < g.other.prod → p0 < g.n → s.me.epr.toNat = l * g.n + p0 →
    ArrayReady s x d [a] (g.other.prod * g.n) ls → (∀ p, p0 ≤ p → p < p1 → ElemReached s x a (g.at l p)) →
    ResultReached s x d l →
    let stores := if p1 < g.n then [] else resultStores s x d [(l, out.1)]
    CountRoom s stores → ∃ u, exec (.ared f) s0 = .next u ∧
      StripLeaves stores
        (fun b => (r.2 ||| signalling t xs ||| if p1 < g.n then 0 else out.2).getLsbD b = true) s.me.seed
        (if p1 < g.n then BitVec.ofNat 64 r.1 else 0)
        ((s.me.status &&& 5) ||| if p1 < g.n ∧ line = true then 2 else 0) s u ∧
      StripEnds f.dd g.other (g.other.prod * g.n) (l * g.n + p1) s u

/-- R260, R261, R263: reductions and scans of arrays. -/
def Obligations.ArrayReduce : Prop := ReduceLinesRule ∧ ArrayReducePieceRule

/-- R62, R266 to R271: scans, medians, grades and the k best of whole lines, without a witness. That the searches
leave `carry` 0 is the model's reading (log 20). -/
def Obligations.ArrayOrder : Prop :=
  ∀ (f : FmtA) (s0 : State) (g : Lines),
    let s := settleAll s0.cur s0
    let d := s.me.desc f.dd
    let a := s.me.desc f.da
    let ta := a.elemTag
    let td := d.elemTag
    let rm := s.me.rmOf f.rm.toNat
    let xs : Group → Nat → List Nat := fun x l => lineElems s x a g l 0 g.n
    let reads : Nat → List (Desc × List Nat) := fun l => (List.range g.n).map fun p => (a, g.at l p)
    linesOf a f.ka.toNat f.ax.toNat = .ok g → 0 < g.n →
    (g.shape.prod ≤ d.cap.toNat → (∀ y ∈ [td, ta], y ≠ .f64 ∧ y ≠ .kx) → td.isSx = false → f.db.toNat ≤ 6 →
      (4 ≤ f.db.toNat → ta.plain.isInt = true) →
      LineStrip (.ascan f) f s0 [a] g.shape g.other.prod g.n true reads fun x l =>
        let r := scanned f.db.toNat ta.plain td rm f.sat (xs x l)
        (r.zipIdx.map fun y => (ravel g.shape (g.at l y.2), y.1.1), r.foldl (fun fl y => fl ||| y.2) 0)) ∧
    (g.other.prod ≤ d.cap.toNat → td.isSx = false → td ≠ .f64 → td ≠ .kx → ta.hasKey = true → ta.isSx = false → f.wd = 0 →
      LineStrip (.amed f) f s0 [a] g.other g.other.prod g.n false reads fun x l =>
        let r := roundTo ta td rm f.sat 0 ((xs x l)[gradeAt ta false (xs x l) ((g.n - 1) / 2)]!)
        ([(l, r.1)], r.2 ||| signalling ta (xs x l))) ∧
    (g.shape.prod ≤ d.cap.toNat → td.isInt = true → (ta.hasKey = true ∨ ta = .kx) → ta.isSx = false →
      LineStrip (.agrade f) f s0 [a] g.shape g.other.prod g.n false reads fun x l =>
        ((List.range g.n).map fun j => (ravel g.shape (g.at l j),
          (td.fromInt false ((gradeAt ta (f.fl = 1) (xs x l) j : Nat) : Int)).1), signalling ta (xs x l))) ∧
    (let k := (s.sr f.sa).toNat % 2 ^ 32
     let shape := g.shape.set g.iax k
     let cap := d.cap.toNat
     ∀ (x : Group) (ls : Nat), td = .kx → (ta.hasKey = true ∨ ta = .kx) → ta.isSx = false → f.wd = 0 → s.me.epr = 0 → 0 < k →
     g.other.prod * g.n ≤ ls → g.n ≤ s.mvl .kx → ArrayReady s x d [a] (g.other.prod * g.n) ls →
     (∀ l p, l < g.other.prod → p < g.n → ElemReached s x a (g.at l p)) →
     let slot : Nat → Nat → Nat := fun l j =>
       if j < g.n then
         let p := gradeAt ta true (xs x l) j
         let y := (xs x l)[p]!
         if ta = .kx then y else (keyOf ta y).getD 0 * 2 ^ 32 + p
       else kxEmpty
     let outs := ((List.range g.other.prod).flatMap fun l =>
       (List.range k).map fun j => (ravel shape (g.at l j), slot l j)).filter fun p => decide (p.1 < cap)
     (∀ p ∈ outs, ResultReached s x d p.1) → CountRoom s (resultStores s x d outs) →
     ∃ t, exec (.atopk f) s0 = .next t ∧ ScalarWrite f.sa (BitVec.ofNat 64 (min k g.n)) s t ∧
       StripLeaves (resultStores s x d outs)
         (fun b => ∃ l, l < g.other.prod ∧ (signalling ta (xs x l)).getLsbD b = true) s.me.seed 0
         ((s.me.status &&& 5) ||| if cap < g.other.prod * k then 1 else 0) s
         (t.setMe { t.me with sreg := s.me.sreg, sbank := s.me.sbank }) ∧
       StripEnds f.dd shape 0 0 s t)

/-- R280: `AINNER` on whole lines: the products of DA's last axis with DB's first, reduced by the tree in T. -/
def Obligations.ArrayInner : Prop :=
  ∀ (f : FmtA) (s0 : State),
    let s := settleAll s0.cur s0
    let d := s.me.desc f.dd
    let a := s.me.desc f.da
    let b := s.me.desc f.db
    let t := workTag [a.elemTag, b.elemTag]
    let td := d.elemTag
    let fn := f.sa.toNat
    let op := f.ax.toNat
    let rm := s.me.rmOf f.rm.toNat
    let n := a.shape.getLastD 0
    let shape := a.shape.dropLast ++ b.shape.drop 1
    let ia : Nat → Nat → List Nat := fun l k => (unravel shape l).take (a.shape.length - 1) ++ [k]
    let ib : Nat → Nat → List Nat := fun l k => k :: (unravel shape l).drop (a.shape.length - 1)
    0 < a.rank.toNat → 0 < b.rank.toNat → b.shape.headD 0 = n → shape.length ≤ 8 → shape.prod ≤ d.cap.toNat → op ≤ 6 →
    fn ∈ [0, 1, 2, 3, 4, 5, 11, 12, 13] → (∀ y ∈ [td, a.elemTag, b.elemTag], y.isSx = false ∧ y ≠ .f64 ∧ y ≠ .kx) →
    (∃ p, promoteAll [a.elemTag, b.elemTag] = .ok (t, p) ∧ t ≠ .f64) → (11 ≤ fn ∨ 4 ≤ op → t.isInt = true) →
    LineStrip (.ainner f) f s0 [a, b] shape shape.prod n true
      (fun l => (List.range n).flatMap fun k => [(a, ia l k), (b, ib l k)]) fun x l =>
        let ps := (List.range n).map fun k => funOf fn t t rm f.sat (arraySource s x a (ia l k)) (arraySource s x b (ib l k))
        let r := if n = 0 then (identityOf op t, 0) else treeOf op t rm f.sat (ps.map Prod.fst)
        let y := roundTo t td rm f.sat 0 r.1
        ([(l, y.1)], ps.foldl (fun fl p => fl ||| p.2) 0 ||| r.2 ||| y.2)

/-! ## The matrix array -/

namespace Sys2Proof.Machine

/-- A matrix instruction completes: `epr` is 0, flags are raised, and nothing else of the hart changes. -/
def MatrixEnds (raised : Nat → Prop) (s t : State) : Prop :=
  FlagsRaised s t raised ∧ VecDone s t ∧
  { t.me with fflags := s.me.fflags, pc := s.me.pc, epr := s.me.epr, kept := s.me.kept, wait := s.me.wait } = s.me

/-- Elements of one tile of the hart's core take new values, and no other tile changes (R282, R293). -/
def TileWrites (at_ : BitVec 1) (g : Nat → Nat → Option Nat) (s t : State) : Prop :=
  (∀ i j, i < 128 → j < 128 → tileGet (t.tile at_) i j = (g i j).getD (tileGet (s.tile at_) i j)) ∧
  (∀ a, a ≠ at_ → t.tile a = s.tile a) ∧ { t.core s.myCore with acc := (s.core s.myCore).acc } = s.core s.myCore ∧
  (∀ c, c ≠ s.myCore → t.core c = s.core c) ∧ OnlyHart s { t with cores := s.cores }

/-- Matrix mode is on, no operand is bound, and registers and tile are in canonical form (R285). -/
def MatrixReady (f : FmtX) (s : State) (regs : List Nat) : Prop :=
  s.me.steps = false ∧ s.me.matrix = true ∧ s.me.vecWf ∧ Memory.wf (s.tile f.at_) = true ∧
  ∀ v ∈ regs, s.me.binding? v = none

/-- The exact value of an element that a matrix instruction reads (R46). -/
def exactSource (s : State) (ovr v e : Nat) : FVal := let p := s.me.source ovr v e; (p.1.decode p.2).toF

end Sys2Proof.Machine

/-- R282, R283, R286 to R288: taking and giving up the array, the granted shape, and clearing a tile. -/
def Obligations.MatrixMode : Prop :=
  (∀ (f : FmtX) (s0 : State) (g : Nat) (x : Group), let s := settleAll s0.cur s0
    let c := s.core x.core
    s.myGroup = some (g, x) → s.me.steps = false →
    (s.me.matrix = true ∨ c.mholder = some g ∨ c.mholder = none → ∃ t, exec (.mmodeOn f) s0 = .next t ∧
      t.me = { s.me with matrix := true, pc := s.me.pc + 8, epr := 0, kept := s.me.others, wait := none } ∧ GroupRuns s t ∧
      (∀ k, t.core k = if k = x.core ∧ s.me.matrix = false ∧ c.mholder = none then
        { c with mholder := some g, acc := Vector.replicate 2 [] } else s.core k) ∧
      OnlyHart s { t with cores := s.cores, groups := s.groups }) ∧
    (s.me.matrix = false → c.mholder ≠ some g → c.mholder ≠ none → x.pre = false →
      ∃ t, exec (.mmodeOn f) s0 = .next t ∧ Waits (.mmode f) s t)) ∧
  (∀ (f : FmtX) (s : State) (g : Nat) (x : Group), s.myGroup = some (g, x) → s.me.steps = false →
    let c := s.core x.core
    ∃ t, exec (.mmodeOff f) s = .next t ∧
      t.me = { s.me with matrix := false, pc := s.me.pc + 8, epr := 0, kept := s.me.others, wait := none } ∧
      (∀ k, t.core k = if k = x.core ∧ c.mholder = some g ∧ (∀ h ∈ x.harts, h = s.cur ∨ (s.hart h).matrix = false) then
        { c with mholder := none, acc := Vector.replicate 2 [] } else s.core k) ∧
      OnlyHart s { t with cores := s.cores }) ∧
  (∀ (f : FmtX) (s : State), let q := (s.sr f.xa).toNat
    let t := s.me.opTag f.ovr.toNat f.xb.toNat
    let v := s.mvl t
    let cut : Nat → Nat := fun n => if t.isSx then 16 * (n / 16) else n
    let m := cut (min (min (q % 2 ^ 16) 128) (v / 8))
    let n := cut (min (min (q / 2 ^ 16 % 2 ^ 16) 128) v)
    let k := min (8 * ((q / 2 ^ 32 % 2 ^ 16 + 7) / 8)) 0xFFF8
    let w := BitVec.ofNat 64 (t.code * 2 ^ 32 + k * 2 ^ 16 + n * 2 ^ 8 + m)
    let ok := t ∈ [Tag.f16, .bf16, .f32, .u8, .i8] ∨ t.isSx = true
    (s.me.steps = false → q < 2 ^ 48 → ok → ∃ u, exec (.mshape f) s = .next u ∧ ScalarWrite f.xd w s u ∧
      u.me.mshape = w ∧ VecDone s u ∧
      { u.me with mshape := s.me.mshape, sreg := s.me.sreg, sbank := s.me.sbank, pc := s.me.pc, epr := s.me.epr,
                  kept := s.me.kept, wait := s.me.wait } = s.me ∧ OnlyHart s u) ∧
    (s.me.level = .u → 2 ^ 48 ≤ q → ∃ u w, exec (.mshape f) s = .next u ∧ encode (.mshape f) = some w ∧
      EntersHandler .illegal true false w s.me.pc 0 s u) ∧
    (s.me.level = .u → q < 2 ^ 48 → ¬ ok → ∃ u, exec (.mshape f) s = .next u ∧
      EntersHandler .tag true false (BitVec.ofNat 64 (t.code + 32)) s.me.pc 0 s u)) ∧
  (∀ (f : FmtX) (s : State), s.me.steps = false → s.me.matrix = true → ∃ t, exec (.mzero f) s = .next t ∧
    MatrixEnds (fun _ => False) s t ∧ TileWrites f.at_ (fun _ _ => some 0) s t) ∧
  (∀ (f : FmtX) (s : State), s.me.level = .u → s.me.matrix = false → ∃ t, exec (.mzero f) s = .next t ∧
    EntersHandler .matrix true false 0x201 s.me.pc 0 s t)

/-- R282, R285, R287, R289, R290, R292, R293: outer products and row instructions that write a tile; with M or N of 0
they change nothing. -/
def Sys2Proof.Machine.TileWritersRule : Prop :=
  ∀ (f : FmtX) (s : State),
    let ovr := f.ovr.toNat
    let xa := f.xa.toNat
    let xb := f.xb.toNat
    let m := s.me.tileM
    let n := s.me.tileN
    let t := s.me.opTag ovr xa
    let src := exactSource s ovr
    let old := tileGet (s.tile f.at_)
    let slices := (List.range 8).filter fun k => (s.me.mask f.msk.toNat).getLsbD k
    let row := (s.sr f.xd).toNat
    let sets : Instr → (Nat → Nat → Option (Nat × Flags)) → Prop := fun i g => ∃ u, exec i s = .next u ∧
      TileWrites f.at_ (fun i j => (g i j).map Prod.fst) s u ∧
      MatrixEnds (fun b => ∃ i j r, i < 128 ∧ j < 128 ∧ g i j = some r ∧ r.2.getLsbD b = true) s u
    let sums : (Nat → Nat → Nat) → Nat → Nat → Option (Nat × Flags) := fun pick i j =>
      if i < m ∧ j < n ∧ slices ≠ [] then
        some (accumulate (old i j) (slices.map fun k => (src xa (pick i k), src (xb + k) j)))
      else none
    let outer := MatrixReady f s (xa :: (List.range 8).map fun k => xb + k) ∧ m ≤ 128 ∧ n ≤ 128 ∧ xb + 8 ≤ 64 ∧
      (∀ k, k < 8 → s.me.opTag ovr (xb + k) = t) ∧ (t ∈ [Tag.f16, .bf16, .f32] ∨ t.isSx = true) ∧
      8 * m ≤ s.mvl t ∧ n ≤ s.mvl t ∧ t.code = s.me.mshape.toNat / 2 ^ 32 % 16
    (outer → sets (.mact f) (sums fun i k => k * m + i)) ∧
    (outer → m + 7 ≤ s.mvl t → sets (.macts f) (sums fun i k => i + k)) ∧
    (MatrixReady f s [xa] → t ≠ .f64 → t ≠ .kx → n ≤ s.mvl t → n ≤ 128 → row < 128 →
      sets (.mmovw f) fun i j => if 0 < m ∧ i = row ∧ j < n ∧ (s.me.mask f.msk.toNat).getLsbD j = true then
        some (roundTo (s.me.source ovr xa j).1 .f32 .rne false 0 (s.me.source ovr xa j).2) else none) ∧
    (MatrixReady f s [xa, xb] → n ≤ 128 → row < 128 →
      (∀ v ∈ [xa, xb], let y := s.me.opTag ovr v
        (y ∈ [Tag.u8, .i8, .f16, .bf16, .f32] ∨ y.isSx = true) ∧ n ≤ s.mvl y) →
      sets (.mvmac f) fun i j => if 0 < m ∧ i = row ∧ j < n ∧ (s.me.mask f.msk.toNat).getLsbD j = true then
        let p := (src xa j).mul (src xb j)
        let r := ((Tag.ffmt .f32).decode (old i j)).add .rne p.1
        let y := (Tag.ffmt .f32).round .rne false 0 r.1
        some (y.1, p.2 ||| r.2 ||| y.2) else none) ∧
    (s.me.level = .u → s.me.binding? xa = none → s.me.matrix = true → t ≠ .f64 → t ≠ .kx → n ≤ s.mvl t → 128 ≤ row →
      ∃ u, exec (.mmovw f) s = .next u ∧
        EntersHandler .matrix true false (BitVec.ofNat 64 (2 + 6 * 2 ^ 8 + row % 2 ^ 48 * 2 ^ 16)) s.me.pc 0 s u)

/-- R287, R291: a row of a tile to a vector register that is not bound; with M of 0 nothing. -/
def Sys2Proof.Machine.MatrixRowOutRule : Prop :=
  ∀ (f : FmtX) (s : State),
    let xd := f.xd.toNat
    let n := s.me.tileN
    let d := s.me.opTag f.ovr.toNat xd
    let row := (s.sr f.xa).toNat
    let rm := s.me.rmConv f.rm.toNat
    let act : Nat → Bool := fun j => decide (j < n) && (s.me.mask f.msk.toNat).getLsbD j
    let before : Nat → Nat := fun j => if rm = .rsto then ((List.range j).filter act).length else 0
    let draw : Nat → Nat := fun j =>
      fld (if rm = .rsto then seedNext^[before j + 1] s.me.seed else s.me.seed) 48 16
    let a : Nat → Nat := fun j => tileGet (s.tile f.at_) row j
    let v : Nat → Nat × Flags := fun j => roundTo .f32 d rm (f.sat = 1) (draw j) (a j)
    MatrixReady f s [xd] → d ≠ .f64 → d ≠ .kx → n ≤ s.mvl d → n ≤ 128 → row < 128 →
    ((d.isSx = true → n % 16 = 0) → s.me.tileM = 0 → ∃ t, exec (.mmovn f) s = .next t ∧ MatrixEnds (fun _ => False) s t ∧
      OnlyHart s t) ∧
    (0 < s.me.tileM → d.isSx = false → ∃ t, exec (.mmovn f) s = .next t ∧
      (∀ j, j < n → t.me.elem xd d j = if act j then (v j).1 % 2 ^ d.width else s.me.elem xd d j) ∧
      FlagsRaised s t (fun b => ∃ j, act j = true ∧ (v j).2.getLsbD b = true) ∧
      t.me.seed = seedNext^[before n] s.me.seed ∧ VecFrame xd d n true s t) ∧
    (0 < s.me.tileM → d.isSx = true → n % 16 = 0 → ∃ t, exec (.mmovn f) s = .next t ∧
      (∀ b, b < n / 16 → t.me.block xd d b =
        if (List.range 16).any fun k => act (16 * b + k) then
          (sxQuantise d rm ((List.range 16).map fun k =>
            if act (16 * b + k) then ((Tag.ffmt .f32).decode (a (16 * b + k)), draw (16 * b + k))
            else (FVal.zero false, 0))).1 % 2 ^ (8 * d.blockBytes)
        else s.me.block xd d b) ∧
      t.me.seed = seedNext^[before n] s.me.seed ∧ VecFrame xd d (n / 16) true s t)

/-- R282, R285, R289 to R293: the instructions that write a tile, and a row of it to a vector register. -/
def Obligations.MatrixTiles : Prop := TileWritersRule ∧ MatrixRowOutRule

/-! ## Witnesses -/

namespace Sys2Proof.Machine

/-- A descriptor names a witness region of `size` field bytes on a page of the device (R319). -/
def IsRegion (d : Desc) (size : Nat) (s : State) : Prop :=
  let uses := (d.str[0]!).toInt
  d.space = 0 ∧ d.rank = 1 ∧ d.tag = 0 ∧ d.base.toNat % 64 = 0 ∧ 1 ≤ uses ∧ uses ≤ 255 ∧
  64 + size ≤ (d.ext[0]!).toNat ∧ hostShared d.base s = false

/-- The first of reasons 1 to 3 against a header under the current version of its line, 0 for none (R323). -/
def witReason (h : Header) (version : Nat) : Nat :=
  if h.formOk = false then 1 else if h.sver ≠ version then 2 else if h.uses = 0 then 3 else 0

/-- The header that seals a top-k witness of n contributors over a shape (R326, R329). -/
def sealHeader (a : Desc) (n uses serial : Nat) : Header where
  magic := 0x5457
  op := 6
  wlog := 6
  rank := a.rank.toNat
  iax := a.rank.toNat - 1
  uses := uses
  flags := 1
  n := n
  rsv := 0
  rsv2 := 0
  sver := 0
  serial := serial
  fbytes := 8 * a.count
  ext := a.shape

/-- An instruction over lines that writes a witness, with all its lines in one strip (R260, R321, R326): results and fields
are accepted together, and the header is written behind them with release; then DD takes its shape, and `fin` follows. -/
def LineWitness (i : Instr) (f : FmtA) (s0 : State) (a : Desc) (g : Lines) (shape : List Nat) (wit : Wit) (whole : Bool)
    (val : List Nat → Nat → List (Nat × Nat) × Flags) (fields : List Nat → Nat → List (Nat × Nat)) (fin : State → State) : Prop :=
  let s := settleAll s0.cur s0
  let d := s.me.desc f.dd
  let lines := g.other.prod
  let w := vecWho s s.cur
  ∀ (s2 s5 : State) (x : Group) (ls : Nat) (ws : List (List PStore × Nat)),
    let xs : Nat → List Nat := fun l => lineElems s x a g l 0 g.n
    let outs := (List.range lines).flatMap fun l => (val (xs l) l).1
    s.me.epr = 0 → 0 < g.n → 0 < lines → lines * g.n ≤ ls → (whole = true → g.n ≤ s.mvl .kx) →
    ArrayReady s x d [a] (lines * g.n) ls → (∀ l p, l < lines → p < g.n → ElemReached s x a (g.at l p)) →
    (∀ p ∈ outs, ResultReached s x d p.1) → CountRoom s (resultStores s x d outs) → shapeFits shape = true →
    IsRegion wit.d wit.fbytes s →
    let reads := (List.range lines).flatMap fun l => (List.range g.n).flatMap fun p =>
      arrayPlaces s x .load a.space.toNat (elemAddress a (g.at l p)) a.elemTag.unitBytes
    let writes := outs.flatMap fun p => arrayPlaces s x .store d.space.toNat (resultAddress d p.1) d.elemTag.unitBytes
    eachRead (fieldStores wit) (fieldRuns ((List.range lines).flatMap fun l => fields (xs l) l))
      (countHots w writes (countPlaces w reads s)) = (s2, .ok ws) →
    let s3 := s2.modMe fun h => { h with pend := overlaid (resultStores s x d outs) }
    let s4 := (ws.foldl (fun t q => acceptStores t.cur false (some 0) q.1 q.2 t) s3).modMe fun h =>
      { h with fflags := h.fflags ||| (List.range lines).foldl (fun fl l => fl ||| (val (xs l) l).2) 0, carry := 0
               status := h.status &&& 5, epr := BitVec.ofNat 64 (lines * g.n) }
    putHeader wit.d.base (wit.header (s.serialOf s.cur)) s4 = (s5, none) →
    ∃ t, exec i s0 = .next t ∧ { t with harts := s5.harts } = s5 ∧
      t.me = { (fin (s5.modMe fun h => h.setDesc f.dd (d.withShape s5.fresh shape))).me with
        pc := s5.me.pc + 8, epr := 0, kept := s5.me.others, strip := false, wait := none }

end Sys2Proof.Machine

/-- R319, R323, R329, R330: checking, sealing and releasing a witness; a descriptor that names no region traps with
reason 6. -/
def Sys2Proof.Machine.WitnessRegionsRule : Prop :=
  ∀ (f : FmtA) (s0 : State),
    let s := settleAll s0.cur s0
    let w := s.me.desc f.wd
    let a := s.me.desc f.da
    let n := (s.sr f.sa).toNat
    s.me.steps = false →
    (∀ s2 h v, IsRegion w 0 s → readHeader w.base s = (s2, .ok (h, v)) →
      (witReason h v ≠ 1 → 64 + h.fbytes ≤ (w.ext[0]!).toNat) → ∃ t, exec (.wchk f) s0 = .next t ∧
      VecWrites f.sa (if witReason h v = 1 then 1
        else BitVec.ofNat 64 (h.serial * 2 ^ 16 + h.uses * 2 ^ 8 + witReason h v)) s2 t) ∧
    (∀ s2, IsRegion w (8 * a.count) s → a.rank.toNat ≠ 0 → a.rank.toNat ≤ 8 → 0 < n → n < 65536 →
      putHeader w.base (sealHeader a n (w.str[0]!).toNat (s.serialOf s.cur)) s = (s2, none) → ∃ t, exec (.wchkSeal f) s0 = .next t ∧
      { t with harts := s2.harts } = s2 ∧ t.me = { s2.me with pc := s2.me.pc + 8, epr := 0, kept := s2.me.others, wait := none }) ∧
    (∀ s2 s3 h v, IsRegion w 0 s → readHeader w.base s = (s2, .ok (h, v)) → h.magic = 0x5457 →
      (if h.flags % 2 = 1 then putHeader w.base { h with flags := h.flags - 1, uses := 0 } s2 else (s2, none)) = (s3, none) →
      ∃ t, exec (.wrel f) s0 = .next t ∧ { t with harts := s3.harts } = s3 ∧
      t.me = { s3.me with pc := s3.me.pc + 8, epr := 0, kept := s3.me.others, wait := none }) ∧
    (s.me.level = .u → (w.space ≠ 0 ∨ w.rank ≠ 1 ∨ w.tag ≠ 0 ∨ w.base.toNat % 64 ≠ 0) → ∀ i ∈ [Instr.wchk f, .wrel f],
      ∃ t, exec i s0 = .next t ∧
        EntersHandler .witness true false (BitVec.ofNat 64 (6 * 2 ^ 56 + w.base.toNat % 2 ^ 56)) s.me.pc 0 s t)

/-- R320, R321: the bytes of a header and its shape line, and the fields behind it, packed from the lowest bit on. -/
def Sys2Proof.Machine.WitnessLayoutRule : Prop :=
  (∀ h : Header, h.magic < 2 ^ 16 → h.op < 2 ^ 8 → h.wlog < 2 ^ 8 → h.rank < 2 ^ 8 → h.iax < 2 ^ 8 → h.uses < 2 ^ 8 →
    h.flags < 2 ^ 8 → h.n < 2 ^ 32 → h.rsv < 2 ^ 32 → h.rsv2 < 2 ^ 32 → h.sver < 2 ^ 16 → h.serial < 2 ^ 48 →
    h.fbytes < 2 ^ 32 → (∀ e ∈ h.ext, e < 2 ^ 32) →
    h.bytes.length = 64 ∧ leNat h.bytes = h.magic + h.op * 2 ^ 16 + h.wlog * 2 ^ 24 + h.rank * 2 ^ 32 + h.iax * 2 ^ 40 +
      h.uses * 2 ^ 48 + h.flags * 2 ^ 56 + h.n * 2 ^ 64 + h.rsv * 2 ^ 96 + h.sver * 2 ^ 128 + h.serial * 2 ^ 144 +
      h.fbytes * 2 ^ 192 + h.rsv2 * 2 ^ 224 + ((List.range 8).map fun i => h.ext.getD i 0 * 2 ^ (256 + 32 * i)).sum) ∧
  (∀ (w : Nat) (l : List Nat) (i : Nat), i < l.length → packFields w l / 2 ^ (w * i) % 2 ^ w = l[i]! % 2 ^ w) ∧
  (∀ (w : Nat) (l : List Nat), packFields w l < 2 ^ (w * l.length)) ∧
  (∀ op n, 1 ≤ op → op ≤ 9 → opLog op n = if op = 5 then 0 else if op = 4 ∨ op = 9 then 1 else if op = 6 then 6
    else if op = 7 ∨ op = 8 then 3 else if n < 256 then 3 else if n < 65536 then 4 else 5)

/-- R319 to R321, R323, R329, R330: witness regions, their headers and fields. -/
def Obligations.WitnessInstructions : Prop := WitnessRegionsRule ∧ WitnessLayoutRule

/-- R258, R321, R326: `AMIN`, `AMAX` and `ACLAMP` with a witness, over one strip: results and fields are accepted together,
and the header is written behind them with release. -/
def Sys2Proof.Machine.ArrayWitnessRule : Prop :=
  ∀ (f : FmtA) (s0 s2 s5 : State) (x : Group) (ag : Agreed) (ls : Nat) (ws : List PStore × Nat),
    ∀ p ∈ [(Instr.amin f, AOp.min, 2, 8), (.amax f, .max, 2, 7), (.aclamp f, .clamp, 1, 9)],
    let s := settleAll s0.cur s0
    let d := s.me.desc f.dd
    let srcs := arraySources f s p.2.2.1
    let n := ag.1.prod
    let rm := s.me.rmOf f.rm.toNat
    let t := workTag (srcs.map Desc.elemTag)
    let at_ : Nat → List (Desc × List Nat) := fun i => srcs.zip (ag.2.map fun m => m (unravel ag.1 i))
    let row : Nat → List (Tag × Nat) := fun i => ((at_ i).map fun q => arraySource s x q.1 q.2) ++
      (if p.2.1 = .clamp then [(t, (s.sr f.sa).toNat % 2 ^ t.width), (t, (s.sr (f.sa + 1)).toNat % 2 ^ t.width)] else [])
    let out : Nat → Nat × Flags := fun i => elemArith p.2.1 t d.elemTag rm f.sat (row i)
    let field : Nat → Nat := fun i => if p.2.1 = .clamp then codeField t rm (row i) else pairField (p.2.1 = .max) t rm f.sat (row i)
    let wit : Wit := { d := s.me.desc f.wd, op := p.2.2.2, n := p.2.2.1, iax := 0, shape := ag.1 }
    arrayAgreed f s p.2.2.1 = .ok ag → ag.1.length ≤ 8 → n ≤ d.cap.toNat → 0 < n → n ≤ ls → s.me.epr = 0 →
    d.elemTag.isSx = false → arithTags p.2.1 f s (srcs.map Desc.elemTag) → f.wd ≠ 0 → ArrayReady s x d srcs n ls →
    (∀ i, i < n → ResultReached s x d i ∧ ∀ q ∈ at_ i, ElemReached s x q.1 q.2) →
    let stores := resultStores s x d ((List.range n).map fun i => (i, (out i).1))
    let reads := (List.range n).flatMap fun i => (at_ i).flatMap fun q =>
      arrayPlaces s x .load q.1.space.toNat (elemAddress q.1 q.2) q.1.elemTag.unitBytes
    let writes := (List.range n).flatMap fun i =>
      arrayPlaces s x .store d.space.toNat (resultAddress d i) d.elemTag.unitBytes
    CountRoom s stores → shapeFits ag.1 = true → IsRegion wit.d wit.fbytes s →
    fieldStores wit (0, (List.range n).map field) 
      (countHots (vecWho s s.cur) writes (countPlaces (vecWho s s.cur) reads s)) = (s2, .ok ws) →
    let s3 := s2.modMe fun h => { h with pend := overlaid stores }
    let s4 := (acceptStores s.cur false (some 0) ws.1 ws.2 s3).modMe fun h =>
      { h with fflags := h.fflags ||| (List.range n).foldl (fun fl i => fl ||| (out i).2) 0, epr := BitVec.ofNat 64 n }
    putHeader wit.d.base (wit.header (s.serialOf s.cur)) s4 = (s5, none) →
    ∃ t, exec p.1 s0 = .next t ∧ { t with harts := s5.harts } = s5 ∧
      t.me = ({ s5.me with pc := s5.me.pc + 8, epr := 0, kept := s5.me.others, strip := false, wait := none }).setDesc f.dd (d.withShape s5.fresh ag.1)

/-- R265, R267, R270, R325: `ARED`, `AMED` and `ATOPK` with a witness. The field holds the position of the largest or smallest
element or of the lower median, 1 where an integer sum saturated, the clamp code, or an entry of the routing log. -/
def Sys2Proof.Machine.LineWitnessesRule : Prop :=
  ∀ (f : FmtA) (s0 : State) (g : Lines),
    let s := settleAll s0.cur s0
    let d := s.me.desc f.dd
    let a := s.me.desc f.da
    let ta := a.elemTag
    let t := ta.plain
    let td := d.elemTag
    let op := f.db.toNat
    let rm := s.me.rmOf f.rm.toNat
    let out : Nat → Nat × Flags := fun v => roundTo t td rm f.sat 0 v
    let wit : Nat → List Nat → Wit := fun k shape => { d := s.me.desc f.wd, op := k, n := g.n, iax := g.iax, shape := shape }
    linesOf a f.ka.toNat f.ax.toNat = .ok g → f.wd ≠ 0 → td.isSx = false →
    (let reduces : Nat → (List Nat → Nat → List (Nat × Nat) × Flags) → (List Nat → Nat → List (Nat × Nat)) → Prop :=
       fun k val fields => LineWitness (.ared f) f s0 a g g.other (wit k g.other) false val fields id
     g.other.prod ≤ d.cap.toNat → (∀ y ∈ [td, ta], y ≠ .f64 ∧ y ≠ .kx) →
     (op = 2 ∨ op = 3 → t.hasKey = true → g.n < 2 ^ 32 →
       let key : List Nat → Nat → Nat := fun xs p => (keyOf t (xs[p]!)).getD 0
       let nan : List Nat → Nat → Bool := fun xs p => (t.decode (xs[p]!)).toF.isNan
       let first : List Nat → Nat := fun xs => ((List.range g.n).find? fun p =>
         if (List.range g.n).any (nan xs) then nan xs p
         else (List.range g.n).all fun q =>
           if op = 3 then decide (key xs q ≤ key xs p) else decide (key xs p ≤ key xs q)).getD 0
       reduces (if op = 3 then 1 else 2)
         (fun xs l => let y := out (unkeyVal t rm false (key xs (first xs))).1
           ([(l, y.1)], y.2 ||| signalling t xs)) (fun xs l => [(l, first xs)])) ∧
     (op = 0 → t.isInt = true → reduces 5
       (fun xs l => let r := treeOf 0 t rm f.sat xs
         ([(l, (out r.1).1)], r.2 ||| (out r.1).2))
       (fun xs l => [(l, if (treeOf 0 t rm f.sat xs).2 &&& fSAT = 0 then 0 else 1)])) ∧
     (op = 9 →
       let b : Nat → Tag × Nat := fun k => (t, (s.sr (f.sa + BitVec.ofNat 6 k)).toNat % 2 ^ t.width)
       let row : List Nat → List (Tag × Nat) := fun xs => [(t, (treeOf 0 t rm f.sat xs).1), b 0, b 1]
       reduces 4
         (fun xs l => let c := elemArith .clamp t t rm false (row xs)
           ([(l, (out c.1).1)], (treeOf 0 t rm f.sat xs).2 ||| c.2 ||| (out c.1).2 ||| signalling t xs))
         (fun xs l => [(l, codeField t rm (row xs))]))) ∧
    (g.other.prod ≤ d.cap.toNat → td ≠ .f64 → td ≠ .kx → ta.hasKey = true → ta.isSx = false →
      let mid : List Nat → Nat := fun xs => gradeAt ta false xs ((g.n - 1) / 2)
      LineWitness (.amed f) f s0 a g g.other (wit 3 g.other) true
        (fun xs l => let r := roundTo ta td rm f.sat 0 (xs[mid xs]!)
          ([(l, r.1)], r.2 ||| signalling ta xs)) (fun xs l => [(l, mid xs)]) id) ∧
    (let k := (s.sr f.sa).toNat % 2 ^ 32
     let shape := g.shape.set g.iax k
     td = .kx → (ta.hasKey = true ∨ ta = .kx) → ta.isSx = false → 0 < k → g.n < 65536 → g.other.prod * k ≤ d.cap.toNat →
     LineWitness (.atopk f) f s0 a g shape (wit 6 shape) true
       (fun xs l => ((List.range k).map fun j => (ravel shape (g.at l j),
         if j < g.n then
           let p := gradeAt ta true xs j
           if ta = .kx then xs[p]! else (keyOf ta (xs[p]!)).getD 0 * 2 ^ 32 + p
         else kxEmpty), signalling ta xs))
       (fun xs l => (List.range k).map fun j => (ravel shape (g.at l j),
         if j < g.n then
           let p := gradeAt ta true xs j
           let taint := ta.isFloat && (ta.ffmt.decode (xs[p]!)).isNan
           p * 2 ^ 48 + 0xFFFF * 2 ^ 32 + (if ta.isFloat then (convert ta .f16 .rne false 0 (xs[p]!)).1 else 0) * 2 ^ 16 +
             j % 256 * 2 ^ 8 + (if taint then 2 else 0)
         else 2 ^ 64 - 1))
       fun u => u.setSr f.sa (BitVec.ofNat 64 (min k g.n)))

/-- R324, R327: which element of the upstream gradient the adjoint of each operator takes, given the witness's field; and
`WADJ` over one strip. -/
def Sys2Proof.Machine.WitnessAdjointRule : Prop :=
  (∀ (base : Word) (h : Header) (side : Nat) (pass : Bool) (x : List Nat) (s s1 : State) (c : Nat),
    let y := x.take h.iax ++ x.drop (h.iax + 1)
    let empty := 2 ^ 2 ^ h.wlog - 1
    let same := h.op = 7 ∨ h.op = 8 ∨ h.op = 9 ∨ (h.op = 4 ∧ side ≠ 0)
    h.op ≠ 6 → readField base h.wlog (ravel h.shape (if same then x else y)) s = (s1, .ok c) →
    (h.op = 1 ∨ h.op = 2 ∨ h.op = 3 → adjointAt base h side pass x s =
      (s1, .ok (if c ≠ empty ∧ c = x.getD h.iax 0 then some y else none, decide (c ≠ empty ∧ h.n ≤ c)))) ∧
    (h.op = 4 → side = 0 → adjointAt base h side pass x s = (s1, .ok (if c = 0 ∨ c = 3 then some y else none, false))) ∧
    (h.op = 4 ∨ h.op = 9 → side ≠ 0 → adjointAt base h side pass x s = (s1, .ok (if c = side then some x else none, false))) ∧
    (h.op = 9 → side = 0 → adjointAt base h side pass x s = (s1, .ok (if c = 0 ∨ c = 3 then some x else none, false))) ∧
    (h.op = 5 → adjointAt base h side pass x s = (s1, .ok (if c = 0 ∨ pass = true then some y else none, false))) ∧
    (h.op = 7 ∨ h.op = 8 → adjointAt base h side pass x s = (s1, .ok (if c = side then some x else none, false)))) ∧
  (∀ (f : FmtA) (s0 s2 s3 s4 : State) (h : Header) (v ls : Nat) (j : ArrayJob) (p : Pan),
    let s := settleAll s0.cur s0
    let d := s.me.desc f.dd
    let a := s.me.desc f.da
    let w := s.me.desc f.wd
    let side := f.fl.toNat % 4
    let shape := inputShape h side
    let n := shape.prod
    s.me.steps = false → s.me.elemSteps = false → d.elemTag = a.elemTag → d.elemTag.isSx = false → d.elemTag ≠ .f64 →
    d.elemTag ≠ .kx → StripLength s [d.elemTag] ls → s.me.epr = 0 → 0 < n → n ≤ ls → IsRegion w 0 s →
    readHeader w.base s = (s2, .ok (h, v)) → witReason h v = 0 → 64 + h.fbytes ≤ (w.ext[0]!).toNat → a.shape = h.shape →
    sideOk h.op side = true → (h.uses = 255 ∨ heldRo w.base s2 = false) → shape.length ≤ 8 → n ≤ d.cap.toNat →
    adjointStrip w.base h a shape side (4 ≤ f.fl.toNat) 0 n s2 = (s3, .ok p) →
    j.d = d → j.wit = none → j.claim = claimUse w.base → commitStrip j 0 p s3 = (s4, none) →
    s4.me.steps = false → shapeFits shape = true →
    ∃ t, exec (.wadj f) s0 = .next t ∧ OnlyHart s4 t ∧
      t.me = ({ s4.me with pc := s4.me.pc + 8, epr := 0, kept := s4.me.others, strip := false, wait := none }).setDesc f.dd (d.withShape s4.fresh shape))

/-- R258, R265, R267, R270, R321, R324 to R327: arrays that make a witness, and the adjoint that uses it. -/
def Obligations.WitnessedArrays : Prop := WitnessAdjointRule ∧ ArrayWitnessRule ∧ LineWitnessesRule

/-! ## Bound streams -/

namespace Sys2Proof.Machine

/-- A hart goes on at the next word, with its other parts as `h` has them. -/
def HartNext (h : Hart) (s t : State) : Prop :=
  GoesTo (s.me.pc + 8) t ∧ { t.me with pc := h.pc, wait := h.wait } = h

/-- A binding of a hart stands in the end as `b`, every other one and the rest of the hart as before. -/
def BindingIs (h : Nat) (b : Binding) (s t : State) : Prop :=
  (∀ v, (t.hart h).binding? v = if v = b.vt then some b else (s.hart h).binding? v) ∧
  { t.hart h with binds := (s.hart h).binds } = s.hart h

/-- The fields of a record of KIND 1 to 4, as a number, that R298 and R299 refuse, each with its byte offset, in ascending
order. -/
def refusedFields (n : Nat) : List (Nat × Bool) :=
  let at_ : Nat → Nat → Nat := fun lo w => n / 2 ^ lo % 2 ^ w
  let kind := at_ 0 8
  let dir := at_ 8 1
  let sp := at_ 9 3
  let m := Tag.ofCode (at_ 16 4)
  let c := 2 ^ (at_ 320 4 + 5)
  [(1, decide (at_ 12 4 ≠ 0 ∨ 5 < sp ∨ (kind ≤ 3 ∧ sp = 3) ∨ (dir = 1 ∧ (3 ≤ kind ∨ sp = 4)) ∨ (kind = 4 ∧ 1 < sp))),
   (2, decide (at_ 20 44 ≠ 0 ∨ (kind = 2 ∧ m ≠ .u16) ∨ (kind = 3 ∧ m ≠ .u8 ∧ m ≠ .i8 ∧ m ≠ .u16 ∧ m ≠ .i16))),
   (8, decide (2 ^ 48 ≤ at_ 64 64)),
   (16, decide (kind = 4 ∧ at_ 128 64 % 16 ≠ 0)),
   (24, decide ((kind = 1 ∧ m.isSx = true ∧ ((at_ 192 64 : Nat) : Int).bmod (2 ^ 64) % (m.blockBytes : Int) ≠ 0) ∨
     (kind = 2 ∧ (at_ 192 2 = 3 ∨ n / 2 ^ 194 ≠ 0)) ∨ (kind = 4 ∧ 2 ^ 33 < at_ 192 64))),
   (32, decide ((kind = 1 ∧ n / 2 ^ 256 ≠ 0) ∨
     (kind = 3 ∧ (Tag.ofCode (at_ 256 4) ∉ [Tag.f16, .bf16, .f32] ∨ at_ 260 4 ≠ 0)) ∨
     (kind = 4 ∧ at_ 320 4 < 12 ∧ at_ 256 32 % c ≠ 0))),
   (33, decide (kind = 3 ∧ (at_ 264 4 < 4 ∨ 12 < at_ 264 4 ∨ n / 2 ^ 268 ≠ 0))),
   (36, decide (kind = 4 ∧ at_ 320 4 < 12 ∧ at_ 288 32 % c ≠ 0)),
   (40, decide (kind = 4 ∧ (11 < at_ 320 4 ∨ at_ 324 60 ≠ 0))),
   (48, decide (kind = 4 ∧ at_ 384 64 % 64 ≠ 0)),
   (56, decide (kind = 4 ∧ n / 2 ^ 448 ≠ 0))]

/-- R300, R401, R422: the tag of the bound register is refused. -/
def RefusedTag (kind : Nat) (m t : Tag) : Prop :=
  let packed : Tag → Prop := fun t => t.isSx = true ∨ t = .kx
  (kind = 1 ∨ kind = 4) ∧ (packed t ∨ packed m) ∧ t ≠ m ∨ kind = 2 ∧ packed t ∨ kind = 3 ∧ t.isFloat = false ∨
    kind = 5 ∧ t ≠ .kx ∨ kind = 6 ∧ t ≠ m

/-- The value of element i of a MEM, FMT or SCALE stream in an SRAM, as a register of a tag receives it, with the flags of
its conversion (R49, R299, R301); none where an address reaches no such place. -/
def streamAt (s : State) (x : Group) (b : Binding) (vt : Tag) (rm : Rm) (i : Nat) : Option (Nat × Flags) :=
  let r : Nat := b.record.toNat
  let base : Nat := r / 2 ^ 128 % 2 ^ 64
  let m := b.mtag
  let read : Int → Nat → Option Nat := fun a n => (sramLoc s x b.sp 0 (BitVec.ofInt 64 a) n).map fun l => leNat (readLoc s l n)
  if b.kind = 1 then
    (read (base + i * ((r / 2 ^ 192 % 2 ^ 64 : Nat) : Int).bmod (2 ^ 64)) m.bytes).map fun v => convert m vt rm false 0 v
  else if b.kind = 2 then
    let lay : Nat := r / 2 ^ 192 % 4
    let n : Nat := if lay = 0 then 10 else if lay = 1 then 12 else 14
    let g : Nat := if lay = 1 then 2 else 4
    (sramAt s x b.sp 0 (BitVec.ofNat 64 (base + i / g * (n * g / 8))) (n * g / 8)).map fun l =>
      convert .u16 vt rm false 0 (leNat (readLoc s l (n * g / 8)) / 2 ^ (n * (i % g)) % 2 ^ n)
  else
    let sc := Tag.ofCode (r / 2 ^ 256 % 16)
    match read (base + i * m.bytes) m.bytes, read ((r / 2 ^ 192 % 2 ^ 64 + i / 2 ^ (r / 2 ^ 264 % 16) * sc.bytes : Nat) : Int) sc.bytes with
    | some v, some c =>
      let p := (m.decode v).toF.mul (sc.decode c).toF
      some ((vt.ffmt.round rm false 0 p.1).1, p.2 ||| (vt.ffmt.round rm false 0 p.1).2)
    | _, _ => none

/-- An arithmetic instruction of `n` sources whose first is bound to a MEM, FMT or SCALE stream in an SRAM (R301, R304). -/
def BoundSource (mk : FmtV → Instr) (op : AOp) (n : Nat) : Prop :=
  ∀ (f : FmtV) (s : State) (g : Nat) (x : Group) (b : Binding) (t : Tag) (p : Nat) (y : Nat → Nat × Flags),
    let va := f.va.toNat
    let vd := f.vd.toNat
    let others := [f.vb.toNat, f.vc.toNat].take (n - 1)
    let td := s.me.tagOf vd
    let ta := s.me.tagOf va
    let tags := ta :: others.map s.me.tagOf
    let m := min s.me.len (b.count - b.pos)
    let s' := s.setMe { s.me with fflags := s.me.fflags ||| (List.range m).foldl (fun fl e => fl ||| (y e).2) 0 }
    s.myGroup = some (g, x) → f.ovr = 0 → s.me.binding? va = some b → VecReady s (vd :: others) → VecFits s (td :: tags) →
    (∀ x ∈ td :: tags, x.isSx = false ∧ x ≠ .kx) → promoteAll tags = .ok (t, p) → op.accepts t = true → s.me.epr = 0 →
    0 < s.me.len → (b.kind = 1 ∨ b.kind = 2 ∨ b.kind = 3 ∧ ta.isFloat = true) → b.dir = 0 → b.st = .active → b.ahead = [] →
    b.pos < b.count → b.mtag.isSx = false → b.mtag ≠ .kx → NoPoison s →
    (∀ e, e < m → streamAt s x b ta (s.me.rmOf 0) (b.pos + e) = some (y e)) →
    ∃ u b', exec (mk f) s = .next u ∧
      Elementwise.result f td (fun e => elemArith op t td (s.me.rmOf f.rm.toNat) (f.sat = 1)
          ((ta, if e < m then (y e).1 else 0) :: s.me.sources f.mod.toNat 0 (some 0) others e))
        { s' with fresh := u.fresh } (u.setMe { u.me with binds := s.me.binds }) ∧
      (∀ v, u.me.binding? v = if v = va then some b' else s.me.binding? v) ∧ b'.pos = b.pos + m ∧
      b'.lastN = s.me.len ∧ b'.st = (if b.count ≤ b.pos + s.me.len then .ended else .active) ∧
      { b' with pos := b.pos, lastN := b.lastN, st := b.st, stall := b.stall } = b

/-- An arithmetic instruction of `n` sources whose destination is bound to a MEM stream in an SRAM, with room for its strip
(R302, R305). -/
def BoundDestination (mk : FmtV → Instr) (op : AOp) (n : Nat) : Prop :=
  ∀ (f : FmtV) (s : State) (g : Nat) (x : Group) (b : Binding) (t : Tag) (p : Nat),
    let vd := f.vd.toNat
    let src := [f.va.toNat, f.vb.toNat, f.vc.toNat].take n
    let td := s.me.tagOf vd
    let tags := src.map s.me.tagOf
    let m := min s.me.len (b.count - b.pos)
    let place : Nat → Option Loc := fun e => sramLoc s x b.sp 0
      (BitVec.ofInt 64 ((b.record.toNat / 2 ^ 128 % 2 ^ 64 : Nat) +
        ((b.pos + e : Nat) : Int) * ((b.record.toNat / 2 ^ 192 % 2 ^ 64 : Nat) : Int).bmod (2 ^ 64))) b.mtag.bytes
    let r : Nat → Nat × Flags := fun e =>
      elemArith op t td (s.me.rmOf f.rm.toNat) (f.sat = 1) (s.me.sources f.mod.toNat 0 (some 1) src e)
    let sent : Nat → Option (Nat × Flags) := fun e =>
      if s.me.active f.msk.toNat e then some (convert td b.mtag (s.me.rmOf 0) false 0 (r e).1)
      else if f.z = 1 then some (convert td b.mtag (s.me.rmOf 0) false 0 0) else none
    let stores : List PStore := (List.range m).filterMap fun e => (sent e).map fun y =>
      { loc := (place e).getD (.host 0), data := leBytes b.mtag.bytes y.1, cry := Cry.ovune, strip := some (vd, b.sent) }
    let strips := (s.me.pend.filterMap fun q => q.strip.bind fun k => if k.1 = vd then some k.2 else none).eraseDups
    s.myGroup = some (g, x) → f.ovr = 0 → s.me.binding? vd = some b → VecReady s src → VecFits s (td :: tags) →
    (∀ x ∈ td :: tags, x.isSx = false ∧ x ≠ .kx) → promoteAll tags = .ok (t, p) → op.accepts t = true → s.me.epr = 0 →
    0 < s.me.len → b.kind = 1 → b.dir = 1 → b.st = .active → b.pos < b.count → b.mtag.isSx = false → b.mtag ≠ .kx →
    strips.length < 4 → (∀ e, e < m → sent e ≠ none → place e ≠ none) →
    ∃ u b', exec (mk f) s = .next u ∧ u.me.pend = s.me.pend ++ overlaid stores ∧
      FlagsRaised s u (fun k => (∃ e, e < s.me.len ∧ s.me.active f.msk.toNat e = true ∧ (r e).2.getLsbD k = true) ∨
        ∃ e y, e < m ∧ sent e = some y ∧ y.2.getLsbD k = true) ∧
      { u.me with pend := s.me.pend, binds := s.me.binds, fflags := s.me.fflags } =
        { s.me with pc := s.me.pc + 8, epr := 0, kept := s.me.others, wait := none } ∧
      OnlyHart { s with fresh := u.fresh } u ∧ (∀ v, u.me.binding? v = if v = vd then some b' else s.me.binding? v) ∧
      b'.pos = b.pos + m ∧ b'.sent = b.sent + 1 ∧ b'.st = (if b.count ≤ b.pos + s.me.len then .ended else .active) ∧
      { b' with pos := b.pos, sent := b.sent, st := b.st } = b

end Sys2Proof.Machine

/-- R297, R298, R300, R303, R309, R313, R315 to R317, R422, R432: binding a register or the reason why not, releasing it, and
reading a binding's state. Which byte a refused field has, and that SSTAT item 6 is 0 after an abort, is log 24. -/
def Obligations.StreamBindings : Prop :=
  (∀ (f : FmtC) (s0 s1 : State) (d : List Byte), let s := settleAll s0.cur s0
    let a := s.sr f.sa
    let vt := f.vt.toNat
    let b := newBinding vt f.lm.toNat a (BitVec.ofNat 512 (leNat d)) (decide (s1.me.level = .s))
    a.toNat % 64 = 0 → readSpace (vecWho s s.cur) s.cur 0 a 64 1 0 s = (s1, .ok d) →
    (s1.me.steps = false → s1.me.binding? vt = none → s1.me.binds.length < 8 →
      recordTrap b (match s1.myGroup with | some (_, g) => g.spadSize | none => 0) = none →
      tagRefused b (s1.me.tagOf vt) = false → b.kind ≤ 5 → (b.kind = 4 → b.bar = 0) → ∃ t, exec (.bind f) s0 = .next t ∧
      HartNext { s1.me with binds := s1.me.binds ++ [b], vreg := s1.me.vreg.set! vt [] } s1 t ∧ OnlyHart s1 t) ∧
    (s1.me.level = .u → s1.me.binding? vt ≠ none → ∃ t, exec (.bind f) s0 = .next t ∧
      EntersHandler .bind true false (BitVec.ofNat 64 (vt + 256)) s1.me.pc 0 s1 t) ∧
    (s1.me.level = .u → s1.me.binding? vt = none → 8 ≤ s1.me.binds.length → ∃ t, exec (.bind f) s0 = .next t ∧
      EntersHandler .stream true false (BitVec.ofNat 64 (2 ^ 56)) s1.me.pc 0 s1 t) ∧
    (s1.me.level = .u → s1.me.binding? vt = none → s1.me.binds.length < 8 →
      let traps : Cause → Nat → Prop := fun c v => ∃ t, exec (.bind f) s0 = .next t ∧
        EntersHandler c true false (BitVec.ofNat 64 v) s1.me.pc 0 s1 t
      let r := b.record
      let kind := r.toNat % 2 ^ 8
      let field := if kind = 6 then collFields r else recordFields r
      let lmOk := (kind ≤ 3 → f.lm = 0) ∧ (kind = 4 ∨ kind = 5 → f.lm ≠ 0)
      let stretch := b.dest + (if b.ring = 0 then b.total else b.ring)
      let fits := stretch ≤ (match s1.myGroup with | some (_, g) => g.spadSize | none => 0) ∧ (stretch - 1) / b.chunk < 16384
      (kind = 0 ∨ 6 < kind → traps .stream (2 * 2 ^ 56)) ∧
      (1 ≤ kind → kind ≤ 6 → (∀ o, field = some o → traps .stream (3 * 2 ^ 56 + o * 2 ^ 48)) ∧
        (field = none → (b.count = 0 → traps .stream (4 * 2 ^ 56 + 8 * 2 ^ 48)) ∧
          (b.count ≠ 0 → (¬ lmOk → traps .stream (5 * 2 ^ 56)) ∧
            (lmOk → kind = 4 → ¬ fits → traps .stream (6 * 2 ^ 56 + 32 * 2 ^ 48)) ∧
            (lmOk → (kind = 4 → fits ∧ b.bar = 0) → kind ≤ 5 → RefusedTag kind b.mtag (s1.me.tagOf vt) →
              traps .tag (s1.me.tagOf vt).code) ∧
            (kind = 6 → ∀ s2, s2.me = s1.me → s2.cur = s1.cur →
              (∀ tr c, collCheck (vecWho s1 s1.cur) s1.cur f.lm.toNat r s1 = (s2, .error (.trap tr)) → tr.code = c.code →
                tr.past = false → ∃ t, exec (.bind f) s0 = .next t ∧
                  EntersHandler c tr.vec tr.arr tr.tval s1.me.pc tr.epr s2 t) ∧
              (∀ l, collCheck (vecWho s1 s1.cur) s1.cur f.lm.toNat r s1 = (s2, .ok l) →
                (RefusedTag 6 b.mtag (s1.me.tagOf vt) → ∃ t, exec (.bind f) s0 = .next t ∧
                  EntersHandler .tag true false (BitVec.ofNat 64 (s1.me.tagOf vt).code) s1.me.pc 0 s2 t) ∧
                (s1.me.tagOf vt = b.mtag → s1.me.steps = false → (∀ d ∈ l, d ∉ s2.lostDevs) → ∃ t b' c,
                  exec (.bind f) s0 = .next t ∧ t.me.binds = s1.me.binds ++ [b'] ∧ b'.call = c.id ∧ b'.slot = c.slot ∧
                  { b' with call := b.call, slot := b.slot } = b ∧ c.id = s2.nextId ∧ c.slot < 8 ∧
                  (∀ x ∈ s1.me.binds, x.kind = 6 → x.slot ≠ c.slot) ∧ c.record = r ∧ c.memb = l ∧ c.st = .setup ∧
                  c.status = 0 ∧ c.hart = s1.cur ∧ c.lm = f.lm.toNat ∧ t.calls.getLast? = some c ∧
                  t.me.vreg[vt]! = [] ∧ GoesTo (s1.me.pc + 8) t)))))))) ∧
  (∀ r : BitVec 512, 1 ≤ r.toNat % 2 ^ 8 → r.toNat % 2 ^ 8 ≤ 4 →
    recordFields r = ((refusedFields r.toNat).find? fun p => p.2).map Prod.fst) ∧
  (∀ (f : FmtC) (s : State), s.me.steps = false →
    (s.me.binding? f.vt.toNat = none → ∃ t, exec (.unbind f) s = .next t ∧
      Writes f.sd 0xFFFFFFFFFFFFFFFF (s.me.pc + 8) s t) ∧
    (∀ b, s.me.binding? f.vt.toNat = some b → b.kind ≠ 6 → s.me.pend = [] → ∃ t, exec (.unbind f) s = .next t ∧
      ScalarWrite f.sd (BitVec.ofNat 64 b.pos) s t ∧
      HartNext { s.me with binds := s.me.binds.filter (fun c => c.vt != b.vt), vreg := s.me.vreg.set! b.vt [],
                           latches := s.me.latches.filter (fun l => l.work != .block b.vt),
                           sreg := t.me.sreg, sbank := t.me.sbank } s t ∧ OnlyHart s t) ∧
    (∀ b c, s.me.binding? f.vt.toNat = some b → b.kind = 6 → s.call? b.call = some c → c.st ≠ .done → c.st ≠ .aborted →
      exec (.unbind f) s = .next s)) ∧
  (∀ (f : FmtC) (s : State), s.me.steps = false → ∃ t v, exec (.sstat f) s = .next t ∧ Writes f.sd v (s.me.pc + 8) s t ∧
    let item := f.imm.toNat % 16
    (s.me.binding? f.vt.toNat = none → v = 0) ∧
    ∀ b, s.me.binding? f.vt.toNat = some b →
      let latched := b.st = .held ∨ b.st = .failed
      (item = 0 → v.toNat % 4 = (match b.st with | .active | .held => 1 | .ended => 2 | .failed => 3) ∧
        v.toNat / 4 % 2 = b2n (decide (b.st = .held)) ∧ v.toNat / 2 ^ 8 % 2 ^ 8 = (if latched then b.cause.toNat else 0) ∧
        v.toNat / 2 ^ 16 = b.kind) ∧
      (item = 1 → v = BitVec.ofNat 64 b.pos) ∧
      (item = 2 → (b.kind ≤ 3 → 1 ≤ b.kind →
          v = BitVec.ofNat 64 (min b.count (b.pos + b.ahead.length * (if b.mtag.isSx then 16 else 1)))) ∧
        (b.kind = 4 → let done := memBytes b.mtag b.decElems
          let n := if b.total ≤ done then b.total else done / b.chunk * b.chunk
          v = BitVec.ofNat 64 (min b.count (if b.mtag.isSx then n / b.mtag.blockBytes * 16 else n / b.mtag.bytes))) ∧
        (b.kind = 5 ∨ b.kind = 6 → v = 0)) ∧
      (8 ≤ item → (b.kind = 5 → item = 8 → v = if (s.me.mask b.lm).getLsbD (b.record.toNat / 2 ^ 192 % 2 ^ 14) then 1 else 0) ∧
        (b.kind = 6 → (item = 8 → v = BitVec.ofNat 64 b.slot) ∧ (item = 9 → v = BitVec.ofNat 64 b.rpos) ∧
          (item = 10 → ∀ c, s.call? b.call = some c →
            v = BitVec.ofNat 64 (c.status * 2 ^ 48 + c.lost * 2 ^ 32 + c.st.code))) ∧
        ((b.kind ≠ 5 ∨ item ≠ 8) → (b.kind ≠ 6 ∨ 10 < item) → v = 0)) ∧
      (item = 3 → v = b.stall) ∧ (item = 4 → v = BitVec.ofNat 64 b.vbytes) ∧
      (item = 5 → v = BitVec.ofNat 64 b.vblocks) ∧ (item = 6 → v = if latched then b.tval else 0))

/-- R301, R302, R304, R305: an instruction of major 0x40 whose first source is bound to a MEM, FMT or SCALE stream in an SRAM
takes the next VL elements of the stream, converted to its tag, elements past its end as 0, and the position moves on as it
completes; and one whose destination is bound to a MEM stream sends its strip, whose elements stand accepted. -/
def Obligations.StreamOperand : Prop :=
  let ops : List ((FmtV → Instr) × AOp × Nat) :=
    [(.vadd, .add, 2), (.vsub, .sub, 2), (.vmul, .mul, 2), (.vmulh, .mulh, 2), (.vdiv, .div, 2), (.vrem, .rem, 2),
     (.vmin, .min, 2), (.vmax, .max, 2), (.vabs, .abs, 1), (.vneg, .neg, 1), (.vabsd, .absd, 2), (.vavg, .avg, 2),
     (.vfma, .fma, 3), (.vfms, .fms, 3), (.vfnma, .fnma, 3), (.vclamp, .clamp, 3), (.vsqrt, .sqrt, 1), (.vexp2, .exp2, 1),
     (.vlog2, .log2, 1), (.vrcpe, .rcpe, 1), (.vrcps, .rcps, 2), (.vrsqe, .rsqe, 1), (.vrsqs, .rsqs, 2)]
  ∀ p ∈ ops, BoundSource p.1 p.2.1 p.2.2 ∧ BoundDestination p.1 p.2.1 p.2.2

/-- R304 to R312: the steps of the stream unit and the inline decoder, which writes a block in one step and in its next
verifies it, setting its chunks' bits, or fails the binding. That the unit reads up to four strips of VL elements before the
first strip has been delivered is log 25. -/
def Sys2Proof.Machine.StreamUnitsRule : Prop :=
  ∀ (s : State) (h : Nat) (b : Binding), (s.hart h).binding? b.vt = some b →
    let w := bindWho s h b
    let per := if b.mtag.isSx then 16 else 1
    let i := b.pos / per + b.ahead.length
    (∀ s1 x, b.kind ≤ 3 → b.dir = 0 → b.st = .active → i * per < b.count →
      (b.ahead.length + 1) * per ≤ 4 * (if b.lastN = 0 then (s.hart h).len else b.lastN) →
      engineActs s h = true → streamRaw w h b i s = (s1, .ok x) → (s1.hart h).binds = (s.hart h).binds →
      ∃ t, exec (.streamUnitRead h b.vt) s = .next t ∧ BindingIs h { b with ahead := b.ahead ++ [x] } s1 t ∧
        { t with harts := s1.harts } = s1) ∧
    (∀ (k : Nat) (l1 l2 : List PStore), (s.hart h).pend = l1 ++ l2 → l1 ≠ [] →
      (∀ p ∈ l1, ∀ j, p.strip = some (b.vt, j) → j = k) → (l1.getLast?).bind PStore.strip = some (b.vt, k) →
      (∀ p ∈ l2, p.strip ≠ some (b.vt, k)) → ∃ t, exec (.writeStripPerform h b.vt) s = .next t ∧
        (t.hart h).pend = l2 ∧ { t with harts := s.harts } = { performAll l1 s with harts := s.harts }) ∧
    (∀ (s1 s2 s3 : State) (hd pay : List Byte),
      let rd : Nat → Nat → State → State × Except Stop (List Byte) := fun o n s =>
        readRange w h b.sp (BitVec.ofNat 64 (b.record.toNat / 2 ^ 128 % 2 ^ 64 + b.decOff + o)) n s
      let x := bhead hd
      let d := x.bytes b.mtag
      let p := memBytes b.mtag b.decElems
      b.kind = 4 → b.st = .active → b.bar = 0 → b.wrote = none → b.decElems + x.count ≤ b.count → 0 < x.count → engineActs s h = true →
      (s.core (coreOf h)).decoder = none → b.decOff + 16 + x.clen ≤ b.record.toNat / 2 ^ 192 % 2 ^ 64 →
      rd 0 16 s = (s1, .ok hd) → x.reason b.mtag = none → x.codec = 0 → rd 16 d s1 = (s2, .ok pay) →
      (crc32c pay).toNat = x.crc → pay.length = d → b.roomFor ((s2.hart h).mask b.lm) p d = true → s1.cur = s.cur →
      (s1.hart h) = s.hart h → bindWho s1 h b = w →
      putDecoded w h (destRuns b (d + 1) p d) pay s2 = (s3, none) → s3.hart h = s2.hart h → s2.hart h = s.hart h →
      exec (.decoderBlock h b.vt) s = .next ((setBinding h
        { b with wrote := some { elems := x.count, size := x.size, bad := none } } s3).setDecoder (coreOf h) (some (h, b.vt)))) ∧
    (∀ x, b.kind = 4 → b.st = .active → b.bar = 0 → b.wrote = some x → b.decElems < b.count → engineActs s h = true →
      (s.core (coreOf h)).decoder = none ∨ (s.core (coreOf h)).decoder = some (h, b.vt) →
      let p := memBytes b.mtag b.decElems
      let v := memBytes b.mtag (b.decElems + x.elems)
      (∀ y, x.bad = some y → exec (.decoderBlock h b.vt) s = .next ((setBinding h
        { b with wrote := none, st := .failed, cause := y.1, tval := y.2 } s).setDecoder (coreOf h) none)) ∧
      (x.bad = none → b.lm ≠ 0 → b.lm < 16 → ∃ t, exec (.decoderBlock h b.vt) s = .next t ∧
        (t.hart h).binding? b.vt = some { b with decElems := b.decElems + x.elems, decOff := b.decOff + x.size, wrote := none
                                                 vbytes := b.vbytes + x.size, vblocks := b.vblocks + 1 } ∧
        (∀ j, j < 16384 → (((t.hart h).mask b.lm).getLsbD j = true ↔ ((s.hart h).mask b.lm).getLsbD j = true ∨
          ∃ c, p / b.chunk ≤ c ∧ c * b.chunk < v ∧ ((c + 1) * b.chunk ≤ v ∨ b.total ≤ v) ∧ j = b.chunkBit c)) ∧
        (∀ j, j ≠ h → t.hart j = s.hart j) ∧
        { t.hart h with binds := (s.hart h).binds, mreg := (s.hart h).mreg } = s.hart h ∧
        { t with harts := s.harts } = s.setDecoder (coreOf h) none))

/-- R306, R318: `VLDC` decodes whole raw blocks up to its budget; here one block. -/
def Sys2Proof.Machine.StreamLoadRule : Prop :=
  ∀ (f : FmtVM) (s0 s1 s2 : State) (hd pay : List Byte),
    let s := settleAll s0.cur s0
    let vd := f.vd.toNat
    let td := s.me.tagOf vd
    let base := s.sr f.sa + f.imm.signExtend 64
    let budget := (s.sr f.sb).toNat
    let x := bhead hd
    let d := x.bytes td
    let rd : Nat → Nat → State → State × Except Stop (List Byte) := fun o n s =>
      readRange (vecWho s s.cur) s.cur f.sp.toNat (base + BitVec.ofNat 64 o) n s
    s.me.steps = false → s.me.vecWf → s.me.binding? vd = none → f.ovr = 0 → td.isSx = false → s.me.len ≤ s.mvl td → base.toNat % 16 = 0 →
    (s.core s.myCore).decoder = none → (∀ a n, watchHit s.me a n true false = false) → s1.me = s.me → s2.me = s.me →
    x.size ≤ budget → budget < x.size + 16 → x.count ≤ s.me.len → rd 0 16 s = (s1, .ok hd) → x.reason td = none →
    x.codec = 0 → rd 16 d s1 = (s2, .ok pay) → pay.length = d → (crc32c pay).toNat = x.crc → s1.cur = s.cur → s2.cur = s.cur →
    ∃ t, exec (.vldc f) s0 = .next t ∧ t.me.vl.toNat = x.count ∧ ScalarWrite f.sb (BitVec.ofNat 64 x.size) s t ∧
      (∀ e, e < x.count → t.me.elem vd td e = leNat ((pay.drop (e * td.bytes)).take td.bytes)) ∧
      (∀ v, v ≠ vd → t.me.vreg[v]! = s.me.vreg[v]!) ∧
      (∀ k, d ≤ k → bsGet (t.me.vreg[vd]!) k = bsGet (s.me.vreg[vd]!) k) ∧ VecDone s t ∧
      { t.me with sreg := s.me.sreg, sbank := s.me.sbank, vreg := s.me.vreg, vw := s.me.vw, vl := s.me.vl, pc := s.me.pc,
                  epr := s.me.epr, kept := s.me.kept, wait := s.me.wait } = s.me ∧
      OnlyHart s2 t

/-- R304 to R312, R318: the stream unit, the inline decoder and `VLDC`. -/
def Obligations.StreamEngines : Prop := StreamUnitsRule ∧ StreamLoadRule

/-! ## Collectives -/

namespace Sys2Proof.Machine

/-- A call that the engine works on: its kernel is not ABORTED (R197), its completion is by events. -/
def CallStands (i : Nat) (c : Call) (s : State) : Prop :=
  s.call? i = some c ∧ c.id = i ∧ c.kept s = true ∧ c.cmode = 0

/-- The call as it stands aborted (R428, R429). -/
def Call.asAborted (c : Call) (status lost : Nat) (time : Word) : Call :=
  { c with st := .aborted, status := status, lost := lost, time := time, srcDone := true,
           order := if c.st = .setup then 0 else c.order }

/-- The events that an abort raises, of ERR 8, ALL 4, LOC 2 and SRC 1: each that the call has not raised yet (R427, R431). -/
def Call.notRaised (c : Call) : Nat := 12 + (if c.st = .loc then 0 else 2) + (if c.srcDone then 0 else 1)

/-- A message of the call to devices, in turn. -/
def Call.toEach (c : Call) (m : CallMsg) (ds : List Nat) : List Mail :=
  ds.map fun d => { dest := d, die := c.die, asid := c.asid, tag := c.tag, seq := c.seq, msg := m }

/-- The other members that are not lost, which every report and abort goes to (R427, R434). -/
def Call.peers (c : Call) (s : State) : List Nat :=
  c.memb.filter fun d => d != devNo s && !(s.lostDevs.contains d)

/-- The devices of the other ranks. -/
def Call.otherRanks (c : Call) : List Nat := ((List.range c.n).filter fun r => r != c.rank).map fun r => c.memb.getD r 64

/-- No part of the contribution can leave now, and SRC is not due (R423, R427). -/
def Call.idle (c : Call) : Prop :=
  (∀ x ∈ c.sends, x.key ∈ c.out ∨ c.sent.length < x.hi) ∧ (c.srcDone = true ∨ c.allSent = false)

/-- Nothing of the machine changes but calls, harts, the engine's messages, and the link that carries them. -/
def LinkOnly (s t : State) : Prop :=
  { t with calls := s.calls, harts := s.harts, mail := s.mail, outq := s.outq, ports := s.ports, fresh := s.fresh } = s

/-- One call changes, event bits of its hart's slot are raised (1 SRC, 2 LOC, 4 ALL, 8 ERR), messages leave, and nothing
else changes but the link that carries them (R426, R427). -/
def CallStep (c c' : Call) (bits : Nat) (msgs : List Mail) (s t : State) : Prop :=
  t.call? c.id = some c' ∧ (∀ j, j ≠ c.id → t.call? j = s.call? j) ∧
  (∀ j, t.hart j = if j = c.hart then { s.hart j with ev := (s.hart j).ev ||| BitVec.ofNat 32 (bits * 2 ^ (4 * c.slot)) }
    else s.hart j) ∧
  t.mail = s.mail ++ msgs ∧ LinkOnly s t

end Sys2Proof.Machine

/-- R423, R425 to R429, R431, R433, R434: a call from SETUP to its end, what its engine sends, and the instructions that
read and abort it. The device time is a free value (log 8); when parts leave, and the messages' form, are the model's
(log 53). -/
def Obligations.CollectiveCalls : Prop :=
  (∀ (s : State) (i : Nat) (c : Call), CallStands i c s →
    (∀ others : List CallTerms, c.st = .setup → others.length + 1 = c.n →
      (termsAgree c others = true → c.idle → ∃ t, exec (.callStart i others) s = .next t ∧
        CallStep c { c with st := .running, order := c.signature } 0 [] s t) ∧
      (termsAgree c others = true → c.kindc ≤ 1 → c.wc = false → 1 < c.n → c.n ≤ 8 → c.contributes ≤ c.sent.length →
        c.out = [] → let dests := (List.range c.n).filter fun r => r != c.rank
        ∃ t src, exec (.callStart i others) s = .next t ∧ (src = true → c.srcDone = false) ∧
        CallStep c { c with st := .running, order := c.signature, out := dests, srcDone := c.srcDone || src }
          (if src then 1 else 0)
          (dests.flatMap fun r => c.toEach (.part r (c.own (r * c.full / c.n) ((r + 1) * c.full / c.n))) [c.memb.getD r 64])
          s t) ∧
      (termsAgree c others = false → ∃ t, exec (.callStart i others) s = .next t ∧
        CallStep c (c.asAborted 3 0xFFFF s.time) c.notRaised [] s t)) ∧
    (∀ (contrib : List (List Byte)) (s2 : State),
      let es := c.mtag.bytes
      let lo := c.rank * c.full / c.n
      let hi := (c.rank + 1) * c.full / c.n
      let part : Nat → List Nat := fun k => groupsOfBytes es (hi - lo) (contrib.getD ((c.rank + 1 + k) % c.n) [])
      let vals := (List.range (c.n - 1)).foldl (fun acc k => combineLists c.op c.mtag acc (part k)) (c.own lo hi)
      let chunk := if c.kindc = 0 then c.rank else 0
      c.st = .running → c.kindc ≤ 1 → c.wc = false → c.n ≤ 8 → c.rank < c.n → c.full % c.n = 0 → c.mtag.isSx = false →
      c.chunks.contains chunk = false → hi ≤ c.sent.length → c.idle →
      (∀ k, k < c.n - 1 → (contrib.getD ((c.rank + 1 + k) % c.n) []).length = (hi - lo) * es) → c.lm ≠ 0 → c.lm < 16 →
      vwrite (callWho s c) (c.dst + es * (if c.kindc = 0 then lo else 0)) (vals.flatMap (leBytes es)) s = (s2, none) →
      s2.call? i = some c → c.kept s2 = true → ∃ t, exec (.collectiveChunkDone i chunk contrib) s = .next t ∧
        t.call? i = some { c with chunks := c.chunks ++ [chunk], count := c.count + (hi - lo) } ∧
        (∀ j, j ≠ i → t.call? j = s2.call? j) ∧
        (∀ j, j < 16384 → ((t.hart c.hart).mask c.lm).getLsbD j =
          (((s2.hart c.hart).mask c.lm).getLsbD j || decide (j = c.bit0 + chunk))) ∧
        (∀ j, j ≠ c.hart → t.hart j = s2.hart j) ∧ { t.hart c.hart with mreg := (s2.hart c.hart).mreg } = s2.hart c.hart ∧
        t.mail = s2.mail ++ (if c.kindc = 0 then c.toEach (.final chunk vals) c.otherRanks else []) ∧ LinkOnly s2 t) ∧
    (∀ (k : Nat) (d : List Byte),
      let lo := k * c.full / c.n
      let hi := (k + 1) * c.full / c.n
      c.st = .running → c.kindc ≤ 1 → c.wc = false → 8 < c.n → c.rank < c.n → k < c.n → k ≠ c.rank →
      (k + 1) % c.n ≠ c.rank → k ∉ c.hops → hi ≤ c.sent.length → d.length = (hi - lo) * c.mtag.bytes → c.idle →
      ∃ t, exec (.collectiveChunkDone i (c.bits + k) [d]) s = .next t ∧
        CallStep c { c with hops := c.hops ++ [k] } 0
          (c.toEach (.part k (combineLists c.op c.mtag (groupsOfBytes c.mtag.bytes (hi - lo) d) (c.own lo hi)))
            [c.memb.getD ((c.rank + 1) % c.n) 64]) s t) ∧
    (c.st = .running → c.chunks.length = c.bits → (∀ x ∈ c.sends, x.key ∈ c.out ∨ c.sent.length < x.hi) →
      ∃ t, exec (.callLocal i) s = .next t ∧
      CallStep c { c with st := .loc, srcDone := true } (if c.srcDone then 2 else 3) (c.toEach .report (c.peers s)) s t) ∧
    (c.st = .loc → c.wc = false → c.allSent = true → ∃ t, exec (.callDone i) s = .next t ∧
      CallStep c { c with st := .done, time := s.time, status := 0, lost := 0xFFFF } 4 [] s t) ∧
    (∀ status lost, (status = 1 ∧ c.st ≠ .done ∧ c.st ≠ .aborted) ∨ (status = 2 ∧ (c.st = .setup ∨ c.st = .running)) →
      lost ≠ devNo s → lost ∈ c.memb →
      ∃ t, exec (.callAbort i status lost) s = .next t ∧ CallStep c (c.asAborted status lost s.time) c.notRaised [] s t)) ∧
  (∀ (f : FmtC) (s : State), s.me.steps = false → let tag := f.imm.toNat % 2 ^ 16
    let item := f.imm.toNat / 2 ^ 16 % 8
    let mine : Call → Prop := fun c => c.die = dieOf s.myCore ∧ c.asid = s.asidOf s.cur ∧ c.tag = tag
    ((∀ c ∈ s.calls, ¬ mine c) → (∃ t, exec (.cstat f) s = .next t ∧ Writes f.sd 0 (s.me.pc + 8) s t) ∧
      ∃ t, exec (.cabort f) s = .next t ∧ Writes f.sd 0xFFFFFFFFFFFFFFFF (s.me.pc + 8) s t) ∧
    (∀ l1 c l2, s.calls = l1 ++ c :: l2 → mine c → (∀ d ∈ l2, ¬ mine d) → c.named = true →
      (∃ t, exec (.cstat f) s = .next t ∧ Writes f.sd
        (if item = 0 then BitVec.ofNat 64 (c.status * 2 ^ 48 + c.lost * 2 ^ 32 +
           (match c.st with | .setup => 1 | .running => 2 | .loc => 3 | .done => 4 | .aborted => 5))
         else if item = 1 then c.order else if item = 2 then BitVec.ofNat 64 c.count
         else if c.st = .done ∨ c.st = .aborted then c.time else 0) (s.me.pc + 8) s t) ∧
      (c.st ≠ .setup → c.st ≠ .running → ∃ t, exec (.cabort f) s = .next t ∧
        Writes f.sd (if c.st = .aborted then 0xFFFFFFFFFFFFFFFF else 1) (s.me.pc + 8) s t) ∧
      ((c.st = .setup ∨ c.st = .running) → CallStands c.id c s → ∃ t, exec (.cabort f) s = .next t ∧ t.sr f.sd = 0 ∧
        t.me.pc = s.me.pc + 8 ∧ t.call? c.id = some (c.asAborted 2 (devNo s) s.time) ∧
        (t.hart c.hart).ev = (s.hart c.hart).ev ||| BitVec.ofNat 32 (c.notRaised * 2 ^ (4 * c.slot)) ∧
        t.mail = s.mail ++ c.toEach (.abort 2 (devNo s)) (c.peers s) ∧ LinkOnly s t)))

/-! ## Sluice lanes -/

namespace Sys2Proof.Machine

/-- A run changes, no other, and nothing else of the machine (R381). -/
def RunBecomes (r : Run) (s t : State) : Prop :=
  t.run? r.id = some r ∧ (∀ j, j ≠ r.id → t.run? j = s.run? j) ∧ { t with runs := s.runs } = s

/-- The engines work for a context: it is RESIDENT or FAULTED (R169). -/
def EnginesRun (s : State) (asid : Nat) : Prop := (s.ctx asid).st = .resident ∨ (s.ctx asid).st = .faulted

/-- An ASID is in use (R169, R378). -/
def AsidLive (s : State) (asid : Nat) : Prop := (s.ctx asid).st ≠ .absent ∧ (s.ctx asid).st ≠ .tornDown

end Sys2Proof.Machine

/-- R378, R386 to R389: loading a table, queueing a run, and reading a run's state. -/
def Sys2Proof.Machine.SluiceInstructionsRule : Prop :=
  ∀ (f : FmtC) (s0 : State),
    let ch := f.imm.toNat % 512
    let slot := f.imm.toNat / 512
    (∀ (s1 : State) (d : List Byte), let s := settleAll s0.cur s0
      let a := s.sr f.sa
      let n := (s.sr f.sb).toNat
      n ≤ 4096 → a.toNat % 64 = 0 → readRange (vecWho s s.cur) s.cur 0 a (4 * n) s = (s1, .ok d) → s1.me.steps = false →
      s1.cur = s.cur → s1.me = s.me →
      (∀ u, tableIn s1 ch slot = some u → u.asid ≠ s.asidOf s.cur → AsidLive s1 u.asid → ∃ t, exec (.xtab f) s0 = .next t ∧
        Writes f.sd 0xFFFFFFFFFFFFFFFF (s1.me.pc + 8) s1 t) ∧
      ((∀ u, tableIn s1 ch slot = some u → u.asid = s.asidOf s.cur ∨ ¬ AsidLive s1 u.asid) → ∃ t, exec (.xtab f) s0 = .next t ∧
        (∀ c, t.chQueue c = if c = ch then s1.chQueue ch ++
            [.table { ch := ch, slot := slot, asid := s.asidOf s.cur, entries := (groupsOfBytes 4 n d).map (BitVec.ofNat 32) }]
          else s1.chQueue c) ∧ Writes f.sd 0 (s1.me.pc + 8) s1 { t with chq := s1.chq })) ∧
    (∀ (s1 s2 : State) (d : List Byte), let a := s0.sr f.sa
      let seq := smGet 0 s2.chseq ch
      a.toNat % 64 = 0 → releaseGate s0.cur s0 = .ok s1 → readSpace (vecWho s1 s1.cur) s1.cur 0 a 64 1 0 s1 = (s2, .ok d) →
      s2.me.steps = false → (s2.chQueue ch).length < 64 → ∃ t r, exec (.xrun f) s0 = .next t ∧ t.runs = s2.runs ++ [r] ∧
        r.ch = ch ∧ r.seq = seq ∧ r.hart = s2.cur ∧ r.asid = s2.asidOf s2.cur ∧ r.entry = BitVec.ofNat 512 (leNat d) ∧
        r.lm = f.lm.toNat ∧ r.st = .queued ∧ r.pit = [] ∧
        (∀ c, t.chQueue c = if c = ch then s2.chQueue ch ++ [.run r.id] else s2.chQueue c) ∧
        (∀ c, smGet 0 t.chseq c = if c = ch then (seq + 1) % 2 ^ 32 else smGet 0 s2.chseq c) ∧
        Writes f.sd (BitVec.ofNat 64 (ch * 2 ^ 32 + seq)) (s2.me.pc + 8) s2 { t with chq := s2.chq, runs := s2.runs, nextId := s2.nextId, chseq := s2.chseq }) ∧
    (s0.me.steps = false →
      let named : Run → Prop := fun r => r.ch * 2 ^ 32 + r.seq = (s0.sr f.sa).toNat ∧ r.asid = s0.asidOf s0.cur
      ((∀ r ∈ s0.runs, ¬ named r) → ∃ t, exec (.xstat f) s0 = .next t ∧ Writes f.sd 0 (s0.me.pc + 8) s0 t) ∧
      (∀ r l1 l2, s0.runs = l1 ++ r :: l2 → (∀ q ∈ l1, ¬ named q) → named r → ∃ t, exec (.xstat f) s0 = .next t ∧
        Writes f.sd (BitVec.ofNat 64 ((match r.st with | .queued => 1 | .running | .ending | .replaying => 2 | .held => 3 | .pitted => 4) *
          2 ^ 61 + r.n % 2 ^ 48)) (s0.me.pc + 8) s0 t))

/-- R379 to R383, R387: tables that take their slots, runs that start, their steps on one symbol, and their ends. That a queued
table whose context is no longer live is dropped at its turn is the model's reading (log 27). -/
def Sys2Proof.Machine.SluiceRunsRule : Prop :=
  (∀ (s : State) (ch : Nat) (rest : List ChItem),
    (∀ u, s.chQueue ch = .table u :: rest → u.ch = ch → (∀ r ∈ s.runs, r.ch = ch → r.st ≠ .queued → r.slot ≠ u.slot) →
      (¬ AsidLive s u.asid → exec (.tableReplace ch) s = .next (s.setChQueue ch rest)) ∧
      (AsidLive s u.asid → ∃ t, exec (.tableReplace ch) s = .next t ∧ t.chQueue ch = rest ∧ (∀ c, c ≠ ch → t.chQueue c = s.chQueue c) ∧
        tableIn t ch u.slot = (if u.entries = [] then none else some u) ∧
        (∀ c k, c ≠ ch ∨ k ≠ u.slot → tableIn t c k = tableIn s c k) ∧ { t with chq := s.chq, tables := s.tables } = s)) ∧
    (∀ r, s.chQueue ch = .run r.id :: rest → s.run? r.id = some r → lanesBusy s ch < 2 → EnginesRun s r.asid → r.badEntry = false →
      (∃ u, tableIn s ch r.slot = some u ∧ u.asid = r.asid) → ∃ t r', exec (.runStart ch) s = .next t ∧ t.chQueue ch = rest ∧
        RunBecomes r' s { t with chq := s.chq } ∧ r'.id = r.id ∧ r'.st = .running ∧ r'.s = r.entry.toNat / 2 ^ 256 % 2 ^ 16 ∧
        r'.w = r.entry.toNat / 2 ^ 240 % 16 + 1 ∧ r'.acc = 0 ∧ r'.k = 0 ∧ r'.prev = BitVec.ofNat 64 (r.entry.toNat / 2 ^ 320) ∧
        r'.n = 0 ∧ r'.pos = 0)) ∧
  (∀ (s s1 : State) (r : Run) (u : Table) (d : List Byte) (e : BitVec 32), s.run? r.id = some r → r.st = .running → EnginesRun s r.asid →
    r.pos + r.w ≤ r.srcBits →
    vread (runWho s r) .load (BitVec.ofNat 64 (r.src + r.pos / 8)).toNat ((r.pos + r.w + 7) / 8 - r.pos / 8) s = (s1, .ok d) →
    s1.run? r.id = some r → tableIn s1 r.ch r.slot = some u →
    let x := leNat d / 2 ^ (r.pos % 8) % 2 ^ r.w
    u.entries[r.s + x]? = some e →
    let act := e.toNat / 2 ^ 12 % 16
    let arg := BitVec.ofNat 64 (e.toNat % 2 ^ 12)
    let v := r.acc ||| BitVec.ofNat 64 (x * 2 ^ r.k)
    let next : Run → Run := fun q => { q with pos := r.pos + r.w, s := e.toNat / 2 ^ 20, w := e.toNat / 2 ^ 16 % 16 + 1 }
    let goes : Run → Prop := fun q => ∃ t, exec (.transducerStep r.id) s = .next t ∧ RunBecomes q s1 t
    let emits : Run → Word → Prop := fun q y => (r.dcap ≤ r.n → goes { q with n := r.n + 1 }) ∧
      (∀ s2, r.n < r.dcap → r.pit.length < 4096 → vwrite (runWho s1 r) (r.dst + r.n * r.outBytes) (leBytes r.outBytes y.toNat) s1 = (s2, none) →
        s2.run? r.id = some r → ∃ t, exec (.transducerStep r.id) s = .next t ∧ RunBecomes { q with n := r.n + 1 } s2 t)
    r.k < 64 → r.w ≤ 16 → r.pit.length < 4096 →
    (act = 0 → goes (next r)) ∧ (act = 1 → emits (next r) arg) ∧ (act = 2 → goes (next { r with acc := v, k := r.k + r.w })) ∧
    (act = 3 → arg.toNat < 64 → goes (next { r with acc := r.acc <<< arg.toNat, k := r.k + arg.toNat })) ∧
    (act = 4 → emits (next { r with acc := 0, k := 0 }) (r.acc + arg)) ∧
    (act = 5 → emits (next { r with acc := 0, k := 0, prev := r.prev + v + arg }) (r.prev + v + arg)) ∧
    (act = 6 → emits (next { r with acc := 0, k := 0 }) (v + arg)) ∧
    (act = 7 → r.pit = [] → r.n ≤ r.dcap → goes { r with pos := r.pos + r.w, st := .ending, code := 0 })) ∧
  (∀ (s s1 : State) (r : Run), s.run? r.id = some r → r.st = .ending → r.lm < 16 →
    (if r.status = 0 then (s, none) else vwrite (runWho s r) r.status
      (leBytes 8 (2 ^ 63 + r.code * 2 ^ 48 + r.n % 2 ^ 48)) s) = (s1, none) → r.status % 8 = 0 → r.code < 2 ^ 15 →
    ∃ t, exec (.runEnd r.id) s = .next t ∧ t.run? r.id = none ∧ (∀ j, j ≠ r.id → t.run? j = s1.run? j) ∧
      (r.lm ≠ 0 → ∀ b, b < 16384 → ((t.hart r.hart).mask r.lm).getLsbD b =
        (((s1.hart r.hart).mask r.lm).getLsbD b || decide (b = r.bit))) ∧
      (r.lm = 0 → t.harts = s1.harts) ∧ { t with runs := s1.runs, harts := s1.harts } = s1)

/-- R378 to R389: tables and transducer runs of the sluice lanes. -/
def Obligations.SluiceLanes : Prop := SluiceInstructionsRule ∧ SluiceRunsRule

/-! ## The posting engine -/

/-- R394, R396 to R400, R402, R403: queueing a query, its evaluation's end, a fault that holds it, and reading its state;
documents by score, then docid; the score of a document, step by step in f32, and the fused score by FUSE; and one score of
each kind as a number. The id of a query and its progress are free values (log 8). -/
def Obligations.PostingQueries : Prop :=
  (∀ (f : FmtC) (s0 s1 s2 : State) (d : List Byte), let a := s0.sr f.sa
    let mine := s2.queries.filter fun q => q.cluster = clusterOf s0.myCore
    a.toNat % 64 = 0 → releaseGate s0.cur s0 = .ok s1 → readSpace (vecWho s1 s1.cur) s1.cur 0 a 64 1 0 s1 = (s2, .ok d) →
    s2.me.steps = false → leNat d / 2 ^ 320 % 8 = 0 →
    ((∃ i, i < 32 ∧ ∀ q ∈ mine, q.qid ≠ i) → ∃ t q, exec (.pqry f) s0 = .next t ∧ t.queries = s2.queries ++ [q] ∧
      q.cluster = clusterOf s0.myCore ∧ q.qid < 32 ∧ (∀ p ∈ mine, p.qid ≠ q.qid) ∧ q.hart = s2.cur ∧
      q.asid = s2.asidOf s2.cur ∧ q.addr = a ∧ q.lm = f.lm.toNat ∧ q.bit = f.imm.toNat % 2 ^ 14 ∧ q.st = .queued ∧
      Writes f.sd (BitVec.ofNat 64 q.qid) (s2.me.pc + 8) s2 { t with queries := s2.queries, nextId := s2.nextId, fresh := s2.fresh }) ∧
    ((∀ i, i < 32 → ∃ q ∈ mine, q.qid = i) → ∃ t, exec (.pqry f) s0 = .next t ∧
      Writes f.sd 0xFFFFFFFFFFFFFFFF (s2.me.pc + 8) s2 t)) ∧
  (∀ (f : FmtC) (s : State), s.me.steps = false →
    let named : Query → Prop := fun q => q.cluster = clusterOf s.myCore ∧ BitVec.ofNat 64 q.qid = s.sr f.sa ∧ q.asid = s.asidOf s.cur
    ((∀ q ∈ s.queries, ¬ named q) → ∃ t, exec (.pstat f) s = .next t ∧ Writes f.sd 0 (s.me.pc + 8) s t) ∧
    (∀ q l1 l2, s.queries = l1 ++ q :: l2 → (∀ p ∈ l1, ¬ named p) → named q → ∃ t v, exec (.pstat f) s = .next t ∧
      Writes f.sd v (s.me.pc + 8) s { t with fresh := s.fresh } ∧
      v.toNat / 2 ^ 61 = (match q.st with | .queued => 1 | .running => 2 | .held => 3) ∧ v.toNat / 2 ^ 48 % 2 ^ 13 = 0 ∧
      (q.st = .queued → v.toNat % 2 ^ 48 = 0))) ∧
  (∀ (s : State) (q : Query), s.query? q.id = some q →
    (EnginesRun s q.asid → q.st = .queued → ∃ t, exec (.queryStart q.id) s = .next t ∧ t.query? q.id = some { q with st := .running } ∧
      (∀ j, j ≠ q.id → t.query? j = s.query? j) ∧ { t with queries := s.queries } = s) ∧
    (EnginesRun s q.asid → q.st = .running → ∀ (s1 s2 s3 : State) (o : QOut), runQuery q s = (s1, o) →
      (∀ (l : List Nat) (term code : Nat), ((o.out = .ok l ∧ term = 0xFF ∧ code = 0) ∨ (l = [] ∧ o.out = .error (.code code term))) →
        (if o.k = 0 then (s1, none) else vwrite (queryWho s1 q) o.res
          ((l ++ List.replicate (o.k - l.length) kxEmpty).flatMap (leBytes 8)) s1) = (s2, none) →
        vwrite (queryWho s2 q) (q.addr + 48).toNat
          (leBytes 8 (2 ^ 63 + o.flags.toNat % 32 * 2 ^ 40 + term * 2 ^ 32 + l.length * 2 ^ 16 + code)) s2 = (s3, none) →
        l.length < 2 ^ 16 → term < 2 ^ 8 → code < 2 ^ 16 → q.lm ≠ 0 → q.lm < 16 →
        ∃ t, exec (.queryEnd q.id) s = .next t ∧ t.query? q.id = none ∧ (∀ j, j ≠ q.id → t.query? j = s3.query? j) ∧
          (∀ b, b < 16384 → ((t.hart q.hart).mask q.lm).getLsbD b =
            (((s3.hart q.hart).mask q.lm).getLsbD b || decide (b = q.bit))) ∧
          { t with queries := s3.queries, harts := s3.harts } = s3) ∧
      (∀ x : Trap, o.out = .error (.stop (.trap x)) → s1.query? q.id = some q → ∃ t, exec (.queryFault q.id) s = .next t ∧
        t.query? q.id = some { q with st := .held, k := o.k, res := o.res } ∧
        (t.hart q.hart).latches = (s1.hart q.hart).latches ++
          [{ lm := q.lm, cause := x.code, tval := x.tval, work := .query q.id, delivered := false }] ∧
        { t with queries := s1.queries, harts := s1.harts } = s1))) ∧
  (∀ l : List (Nat × Nat), (l.map Prod.fst).Nodup → (bestFirst l).Perm l ∧
    (bestFirst l).Pairwise fun p q => scoreKey q.2 < scoreKey p.2 ∨ (scoreKey q.2 = scoreKey p.2 ∧ p.1 < q.1)) ∧
  (∀ (op : Nat) (posts : List (Nat × List (Nat × Nat))), (lexical op posts).Pairwise (fun a b => a < b) ∧
    ∀ d, d ∈ lexical op posts ↔ (∃ p ∈ posts, d ∈ p.2.map Prod.fst) ∧ (op ≠ 1 → ∀ p ∈ posts, d ∈ p.2.map Prod.fst)) ∧
  (let r : AOp → Nat → Nat → Nat := fun op a b => (elemArith op .f32 .f32 .rne false [(.f32, a), (.f32, b)]).1
   let int : Nat → Nat := fun n => ((Tag.ffmt .f32).round .rne false 0 (FVal.ofInt n)).1
   (∀ (q : Query) (h : QHead) (omb kp1 d : Nat) (terms : List TermList) (posts : List (Nat × List (Nat × Nat)))
        (s s1 : State) (fl : Flags) (dl : List Byte), (h.b % 2 ^ 31 = 0 → s1 = s) →
      (h.b % 2 ^ 31 ≠ 0 → vread (queryWho s q) .load (BitVec.ofNat 64 (h.dlen + 4 * d)).toNat 4 s = (s1, .ok dl)) →
      let norm := if h.b % 2 ^ 31 = 0 then 0 else r .mul h.b (r .mul (int (leNat dl)) h.inv)
      ∃ fl', (scoreDoc q h omb kp1 terms posts d).run (s, fl) = (.ok (d, terms.zipIdx.foldl (fun sum p =>
        match freqIn posts p.2 d with
        | none => sum
        | some tf => r .add sum (r .mul p.1.idf (r .div (r .mul (int tf) kp1)
            (r .add (int tf) (r .mul h.k1 (r .add omb norm)))))) 0), (s1, fl'))) ∧
   (∀ (h : QHead) (lex cand : List (Nat × Nat)) (s : State) (fl : Flags),
      let score : List (Nat × Nat) → Nat → Nat := fun l d => ((l.find? fun p => p.1 == d).map Prod.snd).getD 0
      let part : List (Nat × Nat) → Nat → Nat := fun l d => match rankIn (bestFirst l) d with
        | none => 0
        | some n => r .div 0x3F800000 (r .add h.kr (int n))
      ∃ l fl', (fuse h lex cand).run (s, fl) = (.ok l, (s, fl')) ∧ (h.fuse = 0 → l = lex) ∧
        (h.fuse ≠ 0 → l.map Prod.fst = ((lex ++ cand).map Prod.fst).eraseDups) ∧
        ∀ p ∈ l, (h.fuse = 1 → p.2 = r .add (r .mul h.wl (score lex p.1)) (r .mul h.wv (score cand p.1))) ∧
          (h.fuse = 2 → p.2 = r .add (part lex p.1) (part cand p.1))) ∧
   (∀ (h : QHead) (l : TermList) (d : Nat) (s : State), h.k1 = 0x3F800000 → l.idf = 0x40000000 →
      (scoreTerms h 0x3F800000 0x40000000 0 [(0, [(d, 2)])] d [(l, 0)] 0).run (s, 0) = (.ok 0x402AAAAB, (s, fNX))) ∧
   (∀ s : State, (reciprocal 0x42700000 (some 1)).run (s, 0) = (.ok 0x3C864B8A, (s, fNX))))

/-! ## Barriers -/

namespace Sys2Proof.Machine

/-- A barrier record by its fields, the others of its 192 bits as in another record (R351). -/
def RecordIs (x y : Nat) (count target gen state cause : Nat) : Prop :=
  y < 2 ^ 192 ∧ y % 2 ^ 32 = count % 2 ^ 32 ∧ y / 2 ^ 32 % 2 ^ 32 = target ∧ y / 2 ^ 64 % 2 ^ 32 = gen % 2 ^ 32 ∧
  y / 2 ^ 96 % 4 = state ∧ y / 2 ^ 104 % 2 ^ 6 = cause ∧ y / 2 ^ 98 % 2 ^ 6 = x / 2 ^ 98 % 2 ^ 6 ∧
  y / 2 ^ 110 % 2 ^ 18 = x / 2 ^ 110 % 2 ^ 18 ∧ y / 2 ^ 160 = x / 2 ^ 160

/-- A place that an indivisible access to a record has found, with every earlier access of the hart performed (R355). -/
def RecordAt (a : Word) (scope : BitVec 3) (s s2 : State) (p : Place) : Prop :=
  ∃ s1, barrierPlace a scope s = (s1, .ok p) ∧ releaseGate s1.cur s1 = .ok s2

/-- `BAR`'s answer: the generation left, the fault's cause, 2 for OPEN or 3 for FAULTED (R355). -/
def barValue (gen cause state : Nat) : Word := BitVec.ofNat 64 (gen % 2 ^ 32 * 2 ^ 32 + cause * 4 + state)

end Sys2Proof.Machine

/-- R351, R353: what arrivals, withdrawals, fault arrivals and `BINIT.SET` do to a record, and how it is written back: its
reserved fields zero, the others as they are. -/
def Sys2Proof.Machine.BarrierRecordsRule : Prop :=
  ∀ x : Nat, x < 2 ^ 192 →
    let count := x % 2 ^ 32
    let target := x / 2 ^ 32 % 2 ^ 32
    let gen := x / 2 ^ 64 % 2 ^ 32
    let state := x / 2 ^ 96 % 4
    let cause := x / 2 ^ 104 % 2 ^ 6
    let party := x / 2 ^ 128 % 2 ^ 32
    (state = 3 → recArrive x = x ∧ ∀ c h d, recFault c h d x = x) ∧
    (state ≠ 3 → max 1 target ≤ count + 1 → RecordIs x (recArrive x) 0 target (gen + 1) 2 cause ∧
      recArrive x / 2 ^ 128 % 2 ^ 32 = party) ∧
    (state ≠ 3 → count + 1 < max 1 target → RecordIs x (recArrive x) (count + 1) target gen 1 cause ∧
      recArrive x / 2 ^ 128 % 2 ^ 32 = party) ∧
    (state = 1 → 0 < count → RecordIs x (recWithdraw x) (count - 1) target gen (if count = 1 then 0 else 1) cause ∧
      recWithdraw x / 2 ^ 128 % 2 ^ 32 = party) ∧
    (state ≠ 1 ∨ count = 0 → recWithdraw x = x) ∧
    (∀ c h d, state ≠ 3 → c < 2 ^ 6 → h < 2 ^ 16 → d < 2 ^ 16 → RecordIs x (recFault c h d x) count target (gen + 1) 3 c ∧
      recFault c h d x / 2 ^ 128 % 2 ^ 32 = h + d * 2 ^ 16) ∧
    (recClean x < 2 ^ 160 ∧ recClean x / 2 ^ 98 % 2 ^ 6 = 0 ∧ recClean x / 2 ^ 110 % 2 ^ 18 = 0 ∧
      recClean x % 2 ^ 98 = x % 2 ^ 98 ∧ recClean x / 2 ^ 104 % 2 ^ 6 = cause ∧ recClean x / 2 ^ 128 % 2 ^ 32 = party) ∧
    (∀ n, n < 2 ^ 32 → RecordIs x (recSet n x) 0 n gen 0 0 ∧ recSet n x / 2 ^ 128 % 2 ^ 32 = party)

/-- R173, R352, R353, R355 to R358: `BAR` at a record and at the group's latch, a waiter that looks again, and `BINIT`; a write
traps PROT where CNT of the record's line can rise no more, while what writes nothing completes. -/
def Sys2Proof.Machine.BarInstructionsRule : Prop :=
  (∀ (f : FmtY) (s s2 : State) (p : Place), let x := recordGet p s2
    f.sa ≠ 0 → (∀ g l n, s.me.wait ≠ some (.bar g l n)) → RecordAt (s.sr f.sa) f.scope s s2 p → s2.me.steps = false →
    (recState x = 3 → ∃ t, exec (.bar f) s = .next t ∧ GroupRuns s2 t ∧
      Writes f.sd (barValue (recGen x + 2 ^ 32 - 1) (recCause x) 3) (s2.me.pc + 8) s2 { t with groups := s2.groups }) ∧
    (recState x ≠ 3 → p.full s2 = true → s2.me.level = .u → ∃ t, exec (.bar f) s = .next t ∧
      TrapsScalar .prot (BitVec.ofNat 64 p.va) s2 t) ∧
    (recState x ≠ 3 → p.full s2 = false → max 1 (x / 2 ^ 32 % 2 ^ 32) ≤ recCount x + 1 →
      ∃ t, exec (.bar f) s = .next t ∧ GroupRuns s2 t ∧
      Writes f.sd (barValue (recGen x) (recCause x) 2) (s2.me.pc + 8) (recordPut p (recArrive x) s2) { t with groups := s2.groups }) ∧
    (recState x ≠ 3 → p.full s2 = false → recCount x + 1 < max 1 (x / 2 ^ 32 % 2 ^ 32) → NoPreempt s2 → ∃ t, exec (.bar f) s = .next t ∧
      Waits (.bar f false (BitVec.ofNat 32 (recGen x))) (recordPut p (recArrive x) s2) t)) ∧
  (∀ (f : FmtY) (s s1 : State) (g : Nat) (x : Group), f.sa = 0 → (∀ g l n, s.me.wait ≠ some (.bar g l n)) →
    releaseGate s.cur s = .ok s1 → s1.myGroup = some (g, x) → s1.me.steps = false →
    let n := (x.harts.filter fun h => !(s1.hart h).exited).length
    (max 1 n ≤ x.lcount.toNat + 1 → ∃ t y, exec (.bar f) s = .next t ∧ t.group? g = some y ∧ y.lstate = .opened ∧
      y.lgen = x.lgen + 1 ∧ y.lcount = 0 ∧ y.st = (if x.st = .waiting then .running else x.st) ∧
      (∀ j, j ≠ g → t.group? j = s1.group? j) ∧
      Writes f.sd (barValue x.lgen.toNat 0 2) (s1.me.pc + 8) s1 { t with groups := s1.groups }) ∧
    (x.lcount.toNat + 1 < max 1 n → x.pre = false → ∃ t, exec (.bar f) s = .next t ∧
      Waits (.bar f true x.lgen) (s1.setGroup g { x with lstate := .filling, lcount := x.lcount + 1 }) t)) ∧
  (∀ (f : FmtY) (s s1 : State) (h : Nat) (gen : BitVec 32) (p : Place), (s.hart h).wait = some (.bar f false gen) →
    let u := { s with cur := h }
    recordPlace (hartWho u h) ((s.hart h).get f.sa).toNat 64 u = (s1, .ok p) → s1.cur = h → (s1.hart h).steps = false →
    ((s.hart h).saveDue = false ∨ (s.hart h).level = .s) → let x := recordGet p s1
    (recGen x ≠ gen.toNat → ∃ t, exec (.barrierRecheck h) s = .next t ∧ GroupRuns s1 t ∧
      Writes f.sd (barValue gen.toNat (recCause x) (if recState x = 3 then 3 else 2)) (s1.me.pc + 8) s1 { t with groups := s1.groups }) ∧
    (recGen x = gen.toNat → NoPreempt s1 → ∃ t, exec (.barrierRecheck h) s = .next t ∧ Waits (.bar f false gen) s1 t)) ∧
  (∀ (f : FmtY) (s s2 : State) (p : Place), let x := recordGet p s2
    let b := (s.sr f.sb).toNat
    RecordAt (s.sr f.sa) f.scope s s2 p → s2.me.steps = false →
    (p.full s2 = false ∨ (recState x = 1 ∧ 0 < recCount x) → ∃ t, exec (.binitSet f) s = .next t ∧
      if recState x = 1 ∧ 0 < recCount x then Writes f.sd 0xFFFFFFFFFFFFFFFF (s2.me.pc + 8) s2 t
      else Writes f.sd (BitVec.ofNat 64 (recGen x)) (s2.me.pc + 8) (recordPut p (recSet ((s2.sr f.sb).toNat % 2 ^ 32) x) s2) t) ∧
    (b < 64 → p.full s2 = false ∨ recState x = 3 → ∃ t, exec (.binitFault f) s = .next t ∧
      if recState x = 3 then Writes f.sd 0xFFFFFFFFFFFFFFFF (s2.me.pc + 8) s2 t
      else Writes f.sd (BitVec.ofNat 64 ((recGen x + 1) % 2 ^ 32)) (s2.me.pc + 8)
        (recordPut p (recFault (if b = 0 then 0x11 else b) (hartIdOf s2.cur) (devNo s2) x) s2) t)) ∧
  (∀ (f : FmtY) (s s1 : State) (p : Place), barrierPlace (s.sr f.sa) f.scope s = (s1, .ok p) → s1.me.level = .u →
    64 ≤ (s.sr f.sb).toNat → ∃ t w, exec (.binitFault f) s = .next t ∧ encode (.binitFault f) = some w ∧
    TrapsScalar .illegal w s1 t) ∧
  (∀ (f : FmtY) (s : State), s.me.level = .u → (s.sr f.sa).toNat % 64 ≠ 0 → ∀ i ∈ [Instr.binitSet f, .binitFault f],
    ∃ t, exec i s = .next t ∧ TrapsScalar .align (s.sr f.sa) s t)

/-- R350 to R358: barriers. -/
def Obligations.Barriers : Prop := BarInstructionsRule ∧ BarrierRecordsRule

/-! ## Kernels and queues -/

namespace Sys2Proof.Machine

/-- A QUEUED kernel has the parameters of a launch record (R193, R197), its bounds within the quota and its priority
within the ceiling of its context (R176). -/
def KernelFrom (r asid : Nat) (decls : List (Nat × Nat)) (prio : Nat) (x : Ctx) (k : Kernel) : Prop :=
  k.asid = asid ∧ k.code = BitVec.ofNat 64 r ∧ k.args = BitVec.ofNat 64 (r / 2 ^ 64) ∧ k.ctr = BitVec.ofNat 64 (r / 2 ^ 128) ∧
  k.ngroups = r / 2 ^ 192 % 2 ^ 32 ∧ k.hpg = r / 2 ^ 224 % 4 ∧ k.lmin = min (r / 2 ^ 232 % 16) x.lq ∧
  k.lmax = min (r / 2 ^ 240 % 16) x.lq ∧ k.spad = r / 2 ^ 248 % 2 ^ 8 ∧ k.affinity.toNat = r / 2 ^ 256 % 2 ^ 16 ∧
  k.notify.toNat = r / 2 ^ 272 % 2 ^ 10 ∧ k.vec = r / 2 ^ 288 % 2 ^ 11 ∧ k.decls = decls ∧ k.st = .queued ∧
  k.prio = min prio x.prio ∧ k.next = 0 ∧ k.retired = 0

/-- A hart as its group starts it (R199): code, arguments and its place in s1 to s4, all else as at reset. -/
def HartStarts (k : Kernel) (g i : Nat) (h : Hart) : Prop :=
  h.pc = k.code ∧ h.level = .u ∧ h.epr = 0 ∧ h.group = some g ∧ h.exited = false ∧ h.get 1 = k.args ∧
  h.get 2 = BitVec.ofNat 64 k.next ∧ h.get 3 = BitVec.ofNat 64 k.ngroups ∧ h.get 4 = BitVec.ofNat 64 i ∧
  ∀ r : BitVec 6, r = 0 ∨ 5 ≤ r.toNat → h.get r = 0

end Sys2Proof.Machine

/-- R174, R175, R197 to R200: a kernel takes its buffers, its groups are placed and start, and it retires; while its
context is not RESIDENT it keeps its state. Which
free hart slots a group takes is a free value (log 8). -/
def Sys2Proof.Machine.KernelLifeRule : Prop :=
  (∀ (s : State) (k : Nat) (x : Kernel), s.kernel? k = some x → (x.decls.map Prod.snd).Nodup →
    (x.st = .queued → s.dispatches x.asid = true → (∀ d ∈ x.decls, declConflict (s.ctx x.asid) d = false) →
      ∃ t, exec (.kernelDispatch k) s = .next t ∧ t.kernel? k = some { x with st := .dispatching } ∧
        (∀ j, j ≠ k → t.kernel? j = s.kernel? j) ∧ t.harts = s.harts ∧ t.groups = s.groups ∧
        ∀ b, b ≠ 0 → let old := (s.ctx x.asid).buf b
          (t.ctx x.asid).buf b = match x.decls.find? fun d => d.2 == b with
            | some (1, _) => { old with hold := 1, readers := old.readers + 1 }
            | some (m, _) => { old with hold := BitVec.ofNat 2 m }
            | none => old) ∧
    (x.st = .queued → (s.dispatches x.asid = false ∨ ∃ d ∈ x.decls, declConflict (s.ctx x.asid) d = true) →
      exec (.kernelDispatch k) s = .next s) ∧
    (x.st = .draining → (s.ctx x.asid).st ≠ .resident → exec (.kernelRetire k) s = .next s) ∧
    (x.st = .draining → (s.ctx x.asid).st = .resident → x.ctr = 0 → ∃ t, exec (.kernelRetire k) s = .next t ∧
      t.kernel? k = some { x with st := .retired, finished := true } ∧ t.harts = s.harts ∧ t.groups = s.groups ∧
      ∀ b, b ≠ 0 → let old := (s.ctx x.asid).buf b
        (t.ctx x.asid).buf b = match x.decls.find? fun d => d.2 == b with
          | some (1, _) => { old with readers := old.readers - 1, hold := if old.readers = 1 then 0 else old.hold }
          | some (2, _) => { old with ver := old.ver + 1, lc := false, hold := 0 }
          | some _ => { old with lc := true, hold := 0 }
          | none => old)) ∧
  (∀ (s : State) (serial core base frame : Nat) (k : Kernel), nextPlacement s = some (serial, k, core, base, frame) →
    s.kernel? serial = some k → s.group? s.nextId = none →
    ∃ t g x, exec .groupPlace s = .next t ∧ g = s.nextId ∧ t.group? g = some x ∧ (∀ j, j ≠ g → t.group? j = s.group? j) ∧
      x.serial = serial ∧ x.asid = k.asid ∧ x.num = k.next ∧ x.core = core ∧ x.slots.Nodup ∧ x.slots.length = k.hpg + 1 ∧
      (∀ i ∈ x.slots, i < 4 ∧ ∀ y ∈ s.groups, y.2.core = core → i ∉ y.2.slots) ∧ x.quads = 0 ∧ x.lmin = k.lmin ∧
      x.lmax = k.lmax ∧ x.spadBase = base ∧ x.spadSize = 4096 * k.spad ∧ x.frame = frame ∧ x.st = .running ∧ x.lcount = 0 ∧
      (∀ i, i < x.slots.length → HartStarts k g i (t.hart (4 * core + x.slots[i]!))) ∧
      (∀ j, j ∉ x.slots.map (fun i => 4 * core + i) → t.hart j = s.hart j) ∧
      ∃ k', t.kernel? serial = some k' ∧ k'.next = k.next + 1 ∧
        k'.st = (if k.ngroups ≤ k.next + 1 then .running else .dispatching)) ∧
  (∀ (s : State) (serial core base frame : Nat) (k : Kernel), nextPlacement s = some (serial, k, core, base, frame) →
    k.st = .dispatching ∧ s.dispatches k.asid = true ∧ core < 1536 ∧ k.affinity.getLsbD (core / 96) = true ∧
    base % 4096 = 0 ∧ base + 4096 * k.spad ≤ 2 ^ 19 ∧ frame < (s.ctx k.asid).nframe ∧
    (coreGroups s core).foldl (fun n p => n + p.2.lmin) 0 + k.lmin ≤ 8 ∧
    ∀ p ∈ s.kernels, p.2.st = .dispatching → s.dispatches p.2.asid = true → placeFor s p.2 ≠ none → p.2.prio ≤ k.prio)

/-- R196, R201 to R203, R343, R419: `LAUNCH`, `KEXIT`, `KEXIT.ABORT` and `CWAIT`. A `KEXIT` releases: a dropped remote store
makes it trap, an unacknowledged one makes it wait. -/
def Sys2Proof.Machine.KernelInstructionsRule : Prop :=
  (∀ (f : FmtY) (s s1 s2 s3 : State) (d : List Byte), let a := s.sr f.sa
    let asid := s2.asidOf s2.cur
    a.toNat % 128 = 0 → releaseGate s.cur s = .ok s1 → readRange (vecWho s1 s1.cur) s1.cur 0 a 128 s1 = (s2, .ok d) →
    (∀ decls, checkRecord asid (clusterOf s2.myCore) (leNat d) s2 = (s3, .good decls) → s3.me.steps = false →
      (s3.kernels.filter fun p => decide (p.2.asid = asid ∧ p.2.st = .queued) && p.2.devMade).length < 256 →
      ∃ t k, exec (.launch f) s = .next t ∧ t.kernel? s3.serial = some k ∧ t.serial = s3.serial + 1 ∧ k.devMade = true ∧
        KernelFrom (leNat d) asid decls (((s3.kernel? (s3.serialOf s3.cur)).map Kernel.prio).getD 0) (s3.ctx asid) k ∧
        (∀ j, j ≠ s3.serial → t.kernel? j = s3.kernel? j) ∧
        Writes f.sd (BitVec.ofNat 64 s3.serial) (s3.me.pc + 8) s3 { t with kernels := s3.kernels, serial := s3.serial }) ∧
    (∀ k, checkRecord asid (clusterOf s2.myCore) (leNat d) s2 = (s3, .bad k) → s3.me.level = .u →
      ∃ t, exec (.launch f) s = .next t ∧ EntersHandler .launch true false (BitVec.ofNat 64 k) s3.me.pc 0 s3 t)) ∧
  (∀ (f : FmtY) (s : State) (g : Nat) (x : Group), s.myGroup = some (g, x) → s.me.binds = [] → s.me.pend = [] →
    s.copies = [] → s.calls = [] → s.runs = [] → s.queries = [] → s.cur ∈ x.harts → x.harts.Nodup →
    (∀ r l, s.me.dropped = r :: l → s.me.level = .u → ∀ i ∈ [Instr.kexit f, .kexitAbort f], ∃ t, exec i s = .next t ∧
      TrapsScalar .prot r.va s t) ∧
    (s.me.dropped = [] → s.me.unacked ≠ [] → ∀ i ∈ [Instr.kexit f, .kexitAbort f], exec i s = .next s) ∧
    (s.me.dropped = [] → s.me.unacked = [] → let rest := x.harts.filter fun h => decide (h ≠ s.cur) && !(s.hart h).exited
    (rest ≠ [] → x.pre = false → (∀ h ∈ rest, (s.hart h).saved = false) → ∀ i ∈ [Instr.kexit f, .kexitAbort f],
      (i = .kexitAbort f → ∀ k, s.kernel? x.serial = some k → k.st ≠ .dispatching ∧ k.st ≠ .running) →
      ∃ t, exec i s = .next t ∧ t.me.exited = true ∧ t.me.level = .u ∧ t.me.wait = none ∧ t.me.matrix = false ∧
        t.me.latches = [] ∧ t.me.unacked = [] ∧ t.me.group = some g ∧ t.me.sreg = s.me.sreg ∧ t.me.vreg = s.me.vreg ∧
        (∀ j, j ≠ s.cur → t.hart j = s.hart j) ∧ t.mem = s.mem ∧ t.kernels = s.kernels) ∧
    (∀ k, rest = [] → s.kernel? x.serial = some k → ∃ t k', exec (.kexit f) s = .next t ∧ t.group? g = none ∧
      (∀ j, j ≠ g → t.group? j = s.group? j) ∧ (∀ h ∈ x.harts, (t.hart h).group = none) ∧ t.kernel? x.serial = some k' ∧
      k'.retired = k.retired + 1 ∧
      k'.st = (if k.ngroups ≤ k.retired + 1 ∧ (k.st = .running ∨ k.st = .dispatching) then .draining else k.st)) ∧
    (∀ k, s.kernel? x.serial = some k → (k.st = .running ∨ k.st = .dispatching) → ∃ t k', exec (.kexitAbort f) s = .next t ∧
      t.kernel? x.serial = some k' ∧ k'.st = .aborted ∧ ∀ j y, t.group? j = some y → y.serial ≠ x.serial))) ∧
  (∀ (f : FmtY) (s : State), let a := s.sr f.sa
    let s0 := settleSome s.cur s
    let b := (s.sr f.sb).toNat
    let holds : Nat → Prop := fun v => match f.imm.toNat % 4 with
      | 0 => b ≤ v
      | 1 => v ≤ b
      | _ => v = b
    let answers : List Byte → State → Prop := fun d s1 =>
      ∀ i, i = .cwait f ∨ (s.me.wait = some (.cwait f) ∧ i = .cwaitRecheck s.cur) →
        (holds (leNat d) → ∃ t, exec i s = .next t ∧ GroupRuns s1 t ∧
          Writes f.sd (BitVec.ofNat 64 (leNat d)) (s1.me.pc + 8) s1 { t with groups := s1.groups }) ∧
        (¬ holds (leNat d) → NoPreempt s1 → ∃ t, exec i s = .next t ∧ Waits (.cwait f) s1 t)
    s.me.steps = false → PlainAddress s a 8 true false →
    (InDataWindow a → CleanData s0 (a.toNat - 0x007FFFFFFFFFC000) 8 →
      answers (readLoc s0 (.sdata (s.cur / 4) (a.toNat - 0x007FFFFFFFFFC000)) 8) s0) ∧
    (¬ InDataWindow a → ∀ s1 s2 p, translate (hartWho s0 s0.cur) .load a.toNat 8 s0 = (s1, .ok p) → p.far = false →
      placeFault p s1 = (s2, none) → answers (readLoc s2 p.loc 8) (countPlaces (hartWho s0 s0.cur) [p] s2))) ∧
  (∀ (r asid cluster : Nat) (s : State), let bad : Nat → Prop := fun k => checkRecord asid cluster r s = (s, .bad k)
    let ng := r / 2 ^ 192 % 2 ^ 32
    let lmin := r / 2 ^ 232 % 16
    let lmax := r / 2 ^ 240 % 16
    (ng = 0 → bad 1) ∧ (ng ≠ 0 → (lmin = 0 ∨ lmax < lmin ∨ 8 < lmax) → bad 2) ∧
    (ng ≠ 0 → 1 ≤ lmin → lmin ≤ lmax → lmax ≤ 8 → (128 < r / 2 ^ 248 % 2 ^ 8 → bad 3) ∧
      (r / 2 ^ 248 % 2 ^ 8 ≤ 128 → r / 2 ^ 256 % 2 ^ 16 = 0 → bad 4)))


/-- R193 to R206: kernels, their groups, and the instructions of kernels. -/
def Obligations.Kernels : Prop := KernelLifeRule ∧ KernelInstructionsRule

namespace Sys2Proof.Machine

/-- A command of QCMD has completed: its fields show OP, the queue and the STATUS, and the management vector is raised
(R181, R438). -/
def QcmdDone (op q status : Nat) (s t : State) : Prop :=
  t.regs = { s.regs with qGo := false, qOp := BitVec.ofNat 3 op, qQueue := BitVec.ofNat 16 q, qStatus := BitVec.ofNat 8 status } ∧
  t.msix = s.msix ++ [0]

/-- One queue changes, or goes, and no other (R180). -/
def QueueIs (q : Nat) (x : Option Queue) (s t : State) : Prop :=
  ∀ j, t.queue? j = if j = q then x else s.queue? j

/-- The state of a queue that holds work or none: READY is 1, EMPTY 0; a drive queue's entries are the drive's (R186). -/
def Queue.byCounts (x : Queue) : Queue := { x with state := if x.kind ≠ 2 ∧ x.prog.toNat < x.tail.toNat then 1 else 0 }

end Sys2Proof.Machine

/-- R180 to R183, R186 to R189: the commands of QCMD, the doorbell, residence and aging; a change of a queue shows in its
record in memory, its reserved fields zero (R7). That ATTACH of an attached queue is WRONG_STATE, that a record which cannot be
read is BAD_RECORD, and that RESET keeps ERR are the model's reading (log 31); that a write at a line whose CNT is full is left
out is too (log 49), and is not stated. -/
def Obligations.QueueCommands : Prop :=
  ∀ (s : State) (q : Nat), q < 65536 →
    (∀ x, let a := s.regs.qtab.toNat + 64 * q
      inHbm a = true ∨ inLp a = true → a % 64 = 0 → cntFull s [] Cry.ovune a = false → Memory.wf s.mem = true → x.state < 8 → x.err < 2 ^ 8 → x.sqhead < 2 ^ 16 →
      x.cqhead < 2 ^ 16 → let t := s.putQueue q x
      let r := leNat (readLoc t (.dev a) 64)
      let old := leNat (readLoc s (.dev a) 64)
      QueueIs q (some x) s t ∧ r / 2 ^ 384 % 2 ^ 64 = x.tails.toNat ∧ r / 2 ^ 320 % 2 ^ 64 = x.progs.toNat ∧
      r / 2 ^ 112 % 2 ^ 16 = x.cqhead ∧ r / 2 ^ 96 % 2 ^ 16 = x.sqhead ∧ r / 2 ^ 68 % 2 = b2n x.phase ∧
      r / 2 ^ 40 % 2 ^ 8 = x.err ∧ r / 2 ^ 37 % 8 = x.state ∧ r / 2 ^ 64 % 16 = 0 ∧ r / 2 % 2 ^ 31 = 0 ∧ r % 2 = old % 2 ∧
      (∀ p ∈ [(32, 5), (48, 16), (69, 27), (128, 192), (448, 64)], r / 2 ^ p.1 % 2 ^ p.2 = old / 2 ^ p.1 % 2 ^ p.2) ∧
      { t with queues := s.queues, mem := s.mem, lines := s.lines } = s) ∧
    (∀ x, s.queue? q = some x → ∃ t, exec (.attach q) s = .next t ∧ QcmdDone 1 q 2 s t ∧ t.queues = s.queues) ∧
    (∀ r, s.queue? q = none → queueRecord q s = some r → r % 2 = 1 → r / 2 ^ 32 % 4 ≠ 3 → r / 2 ^ 64 % 16 = 0 →
      r / 2 % 2 ^ 31 = 0 → let asid := r / 2 ^ 69 % 2 ^ 11
      ((s.ctx asid).st = .created ∨ (s.ctx asid).st = .resident) → (residentQueues s).length < 1024 →
      ∃ t x, exec (.attach q) s = .next t ∧ QcmdDone 1 q 0 s t ∧ QueueIs q (some x) s t ∧ x.asid = asid ∧
        x.ring = BitVec.ofNat 64 (r / 2 ^ 448) ∧ x.depth = r / 2 ^ 48 % 2 ^ 16 + 1 ∧ x.prio = r / 2 ^ 34 % 8 ∧
        x.kind = r / 2 ^ 32 % 4 ∧ x.tail = 0 ∧ x.prog = 0 ∧ x.state = 0 ∧ x.err = 0 ∧ x.latch = none ∧
        (t.ctx asid).st = .resident) ∧
    (s.queue? q = none → queueRecord q s = none → ∃ t, exec (.attach q) s = .next t ∧ QcmdDone 1 q 1 s t ∧
      t.queues = s.queues) ∧
    (s.queue? q = none → ∀ i ∈ [(Instr.detach q, 2), (.reset q, 3)], ∃ t, exec i.1 s = .next t ∧ QcmdDone i.2 q 2 s t ∧
      t.queues = s.queues) ∧
    (∀ op, op < 8 → op ≠ 1 → op ≠ 2 → op ≠ 3 → ∃ t, exec (.qcmdBadOp op q) s = .next t ∧ QcmdDone op q 3 s t ∧
      t.queues = s.queues) ∧
    (∀ x, s.queue? q = some x →
      (∃ t, exec (.detach q) s = .next t ∧ (if x.state = 0 ∨ x.state = 4 ∨ x.state = 5 then
        QcmdDone 2 q 0 s t ∧ QueueIs q none s t else QcmdDone 2 q 2 s t ∧ t.queues = s.queues)) ∧
      (∃ t, exec (.reset q) s = .next t ∧ (if x.state = 5 then
        QcmdDone 3 q 0 s t ∧ QueueIs q (some { x with state := 0, prog := x.tail, latch := none }) s t
        else QcmdDone 3 q 2 s t ∧ t.queues = s.queues)) ∧
      (∀ v : Word, x.kind = 0 → x.state < 4 → ∃ t, exec (.tail q v) s = .next t ∧
        (if x.prog.toNat ≤ v.toNat ∧ v.toNat ≤ x.prog.toNat + x.depth ∧ x.tail.toNat ≤ v.toNat then
          t = s.putQueue q (if x.state = 0 then { x with tail := v }.byCounts else { x with tail := v })
        else QueueIs q (some { x with state := 5, err := 1 }) s t ∧ ∃ e, (t.ctx x.asid).events = (s.ctx x.asid).events ++ [e] ∧
          e.toNat % 2 ^ 8 = 3 ∧ e.toNat / 2 ^ 24 % 2 ^ 8 = 1 ∧ e.toNat / 2 ^ 384 % 2 ^ 64 = q)) ∧
      (∀ v : Word, x.kind = 0 → x.state = 4 → ∃ t, exec (.tail q v) s = .next t ∧ QueueIs q (some { x with
        latch := some v, cand := true }) s t ∧ { t with queues := s.queues } = s) ∧
      (x.cand = true → x.state = 4 → (s.dispatches x.asid = true ∨ (s.ctx x.asid).st = .created) →
        (residentQueues s).length < 1024 → x.latch = none →
        ∃ t, exec (.queueSwitchIn q) s = .next t ∧ QueueIs q (some (let y := { x with tail := x.tails, prog := x.progs, cand := false }
          if x.was = 3 then { y with state := 3 } else y.byCounts)) s t ∧
          (t.ctx x.asid).st = (if (s.ctx x.asid).st = .created then .resident else (s.ctx x.asid).st)) ∧
      (∃ t, exec (.queueAging q) s = .next t ∧ { t with queues := s.queues } = s ∧ QueueIs q (some
        (if x.state = 1 ∧ x.prio + x.boost < (s.ctx x.asid).prio then { x with boost := x.boost + 1 } else x)) s t))

/-- R184 to R191: the scheduler takes the head entry of the next queue, a LAUNCH, a WAIT or a SIGNAL, waits at its counter or
for earlier work, or errs; COPY entries end; `QPOST` to a device-fed and to a drive queue, and `QPOLL`. Which ERR a corner case gives is the model's reading (log 31) and is not stated. -/
def Obligations.QueueEntries : Prop :=
  (∀ (s s1 s2 : State) (q e : Nat) (x : Queue), let w := queueWho q x
    let next : Queue → Queue := fun y => ({ y with prog := x.prog + 1, boost := 0, taken := s.qturn + 1 }).byCounts
    let want := e / 2 ^ 128 % 2 ^ 64
    let a := e / 2 ^ 64 % 2 ^ 64
    let ready : State → Prop := fun u => entryBad e = false ∧ ((e / 2 ^ 8 % 2 = 0 ∧ u = s1) ∨
      (e / 2 ^ 8 % 2 = 1 ∧ a % 8 = 0 ∧ ∃ v, vreadNat w a 8 s1 = (u, .ok v) ∧ want ≤ v))
    s.queue? q = some x → vreadNat w (x.ring + BitVec.ofNat 64 (64 * (x.prog.toNat % x.depth))).toNat 64 s = (s1, .ok e) →
    (∀ i, (i = .queueSchedule ∧ nextQueue s = some (q, x)) ∨
        (i = .counterWaitRecheck q ∧ x.state = 3 ∧ s.dispatches x.asid = true) →
      (entryBad e = true → s1.queue? q = some x → ∃ t, exec i s = .next t ∧ (x.state ≠ 4 →
        t.queue? q = some { x with state := 5, err := 2 })) ∧
      (entryBad e = false → e / 2 ^ 8 % 2 = 1 → a % 8 = 0 → ∀ v, vreadNat w a 8 s1 = (s2, .ok v) → v < want →
        exec i s = .next (s2.putQueue q { x with state := 3 })) ∧
      (ready s2 → e % 2 ^ 8 = 3 → s2.qturn = s.qturn →
        exec i s = .next { s2.putQueue q (next x) with qturn := s2.qturn + 1 }) ∧
      (ready s2 → e % 2 ^ 8 = 4 → let ca := e / 2 ^ 192 % 2 ^ 64
        let cv := e / 2 ^ 256 % 2 ^ 64
        let add := e / 2 ^ 320 % 2
        let irq := e / 2 ^ 321 % 2
        let vec := e / 2 ^ 328 % 2 ^ 16
        let complete : Nat → Prop := fun k => ∀ y, s2.kernel? k = some y → y.st = .retired ∨ y.st = .aborted
        (x.copies ≠ [] ∨ (∃ k ∈ x.kernels, ¬ complete k) → exec i s = .next (s2.putQueue q { x with state := 3 })) ∧
        (x.copies = [] → (∀ k ∈ x.kernels, complete k) → ca % 8 = 0 → vec < 2048 → ∀ s3 old, s3.qturn = s.qturn →
          ((add = 0 ∧ vwrite w ca (leBytes 8 cv) s2 = (s3, none)) ∨ (add = 1 ∧ vamoAt w 0 ca 8 cv 0 s2 = (s3, .ok old))) →
          let s4 := if irq = 1 then { s3 with msix := s3.msix ++ [vec] } else s3
          exec i s = .next { s4.putQueue q (next { x with kernels := [] }) with qturn := s4.qturn + 1 })) ∧
      (∀ (s3 s4 : State) (r : Nat) (decls : List (Nat × Nat)), ready s2 → e % 2 ^ 8 = 1 →
        let at_ := e / 2 ^ 192 % 2 ^ 64
        at_ % 128 = 0 → vreadNat w at_ 128 s2 = (s3, .ok r) → checkRecord x.asid w.cluster r s3 = (s4, .good decls) →
        s4.qturn = s.qturn → ∃ t k, exec i s = .next t ∧ QueueIs q (some (next { x with kernels := x.kernels ++ [s4.serial] })) s4 t ∧
          t.kernel? s4.serial = some k ∧ KernelFrom r x.asid decls x.prio (s4.ctx x.asid) k ∧ k.queue = some q ∧
          k.devMade = false ∧ t.serial = s4.serial + 1))) ∧
  (∀ (s s1 s2 : State) (c : Copy) (q : Nat) (a : Word) (x : Queue), s.copy? c.id = some c → c.queue = some (q, a) →
    copyEntry c s = (s1, none) → counterWrite (copyWho s1 c) true a.toNat 1 s1 = (s2, none) → copyWho s c = copyWho s1 c →
    s2.queue? q = some x → ∃ t, exec (.queueCopyDone c.id) s = .next t ∧ t.copy? c.id = none ∧
      (∀ j, j ≠ c.id → t.copy? j = s2.copy? j) ∧ QueueIs q (some { x with copies := x.copies.filter fun i => i != c.id }) s2 t ∧
      { t with copies := s2.copies, queues := s2.queues } = s2) ∧
  (∀ (f : FmtY) (s s1 s2 s3 : State) (d : List Byte) (q : Nat) (x : Queue), let a := s.sr f.sa
    s.sr f.sb = BitVec.ofNat 64 q → q < 2 ^ 16 → s.queue? q = some x → x.asid = s.asidOf s.cur → x.kind = 1 ∨ x.kind = 2 → x.state < 4 →
    let db := f.imm.getLsbD 0
    let room := if x.kind = 1 then x.depth else x.depth - 1
    let entry := if x.kind = 2 then d.take 2 ++ leBytes 2 (x.tail.toNat % x.depth) ++ d.drop 4 else d
    (db = true → x.kind = 2) → a.toNat % 64 = 0 → releaseGate s.cur s = .ok s1 →
    readSpace (vecWho s1 s1.cur) s1.cur 0 a 64 1 0 s1 = (s2, .ok d) → s2.me.steps = false →
    (x.tail.toNat - x.prog.toNat = room → ∃ t, exec (.qpost f) s = .next t ∧ Writes f.sd 0xFFFFFFFFFFFFFFFF (s2.me.pc + 8) s2 t) ∧
    (x.tail.toNat - x.prog.toNat < room →
      vwrite (vecWho s2 s2.cur) (x.ring + BitVec.ofNat 64 (64 * (x.tail.toNat % x.depth))).toNat entry s2 = (s3, none) →
      s3.me = s2.me → s3.cur = s2.cur →
      let s4 := s3.putQueue q (if x.state = 0 then { x with tail := x.tail + 1 }.byCounts else { x with tail := x.tail + 1 })
      ∃ t, exec (.qpost f) s = .next t ∧ Writes f.sd x.tail (s3.me.pc + 8)
        (if db = true then { s4 with pcie := s4.pcie ++ [(x.sqdb, (x.tail + 1).toNat % x.depth)] } else s4) t)) ∧
  (∀ (f : FmtY) (s0 : State) (q : Nat) (x : Queue), let s := settleAll s0.cur s0
    s.sr f.sa = BitVec.ofNat 64 q → q < 2 ^ 16 → s.me.steps = false → s.queue? q = some x → x.asid = s.asidOf s.cur →
    x.state ≠ 5 → f.imm.getLsbD 0 = false →
    (x.kind ≠ 2 → f.sb = 0 → ∃ t, exec (.qpoll f) s0 = .next t ∧
      Writes f.sd (if x.state = 4 then x.progs ||| 0x8000000000000000 else x.prog) (s.me.pc + 8) s t) ∧
    (∀ s1 d, x.kind = 2 → x.state < 4 → s.sr f.sb = 0 →
      readSpace (vecWho s s.cur) s.cur 0 (x.cq + BitVec.ofNat 64 (16 * x.cqhead)) 16 1 0 s = (s1, .ok d) → s1.me.steps = false →
      let c := leNat d
      (c / 2 ^ 112 % 2 ≠ b2n x.phase → ∃ t, exec (.qpoll f) s0 = .next t ∧
        Writes f.sd 0xFFFFFFFFFFFFFFFF (s1.me.pc + 8) s1 t) ∧
      (c / 2 ^ 112 % 2 = b2n x.phase → ∃ t y, exec (.qpoll f) s0 = .next t ∧
        Writes f.sd (BitVec.ofNat 64 (c / 2 ^ 96 % 2 ^ 16 + c / 2 ^ 113 % 2 ^ 15 * 2 ^ 17)) (s1.me.pc + 8) (s1.putQueue q y) t ∧
        { y with cqhead := x.cqhead, phase := x.phase, sqhead := x.sqhead, prog := x.prog } = x ∧
        y.cqhead = (if x.cqhead = x.cqdm1 then 0 else x.cqhead + 1) ∧ y.phase = (x.phase != decide (x.cqhead = x.cqdm1)) ∧
        y.sqhead = c / 2 ^ 64 % 2 ^ 16 ∧ y.prog = x.prog + BitVec.ofNat 64 ((c / 2 ^ 64 % 2 ^ 16 + x.depth - x.sqhead % x.depth) % x.depth))))

/-! ## Contexts, events and debug registers -/

namespace Sys2Proof.Machine

/-- CTXCMD shows a running command with the STATUS it will end with; no other register changes (R168). -/
def CtxRuns (op asid status : Nat) (s t : State) : Prop :=
  t.regs = { s.regs with ctxGo := true, ctxOp := BitVec.ofNat 3 op, ctxAsid := BitVec.ofNat 11 asid, ctxStatus := BitVec.ofNat 8 status }

/-- A command that is refused: only CTXCMD changes (R168). -/
def CtxRefused (op asid status : Nat) (s t : State) : Prop := CtxRuns op asid status s t ∧ { t with regs := s.regs } = s

end Sys2Proof.Machine

/-- R166 to R171, R441: the commands of CTXCMD, what they refuse, and how they complete. The runtime image is free
(log 12). That a TEARDOWN drops the events that wait, ends the context's migrations and drops the writes that they hold is the
model's reading (log 32), as it is that the tables queued for the context go with it (log 27). -/
def Sys2Proof.Machine.CtxCommandsRule : Prop :=
  ∀ (s : State) (a : Nat), a < 2048 →
    (s.regs.ctxGo = true → ∀ i ∈ [Instr.create a, .switchOut a, .switchIn a, .teardown a, .resume a, .badOp 0 a],
      exec i s = .next s) ∧
    (s.regs.ctxGo = false → let x := s.ctx a
      (x.st ≠ .absent → ∃ t, exec (.create a) s = .next t ∧ CtxRefused 1 a 2 s t) ∧
      (x.st = .absent → ctxRecord s = none → ∃ t, exec (.create a) s = .next t ∧ CtxRefused 1 a 1 s t) ∧
      (∀ r, x.st = .absent → ctxRecord s = some r → ctxRecordBad r = false → ∃ t y img, exec (.create a) s = .next t ∧
        t.ctx a = y ∧ y.st = .created ∧ y.held = false ∧ y.root = r % 2 ^ 64 ∧ y.btab = r / 2 ^ 64 % 2 ^ 64 ∧
        y.save = r / 2 ^ 128 % 2 ^ 64 ∧ y.sentry = BitVec.ofNat 64 (r / 2 ^ 192) ∧ y.evq = r / 2 ^ 256 % 2 ^ 16 ∧
        y.prio = r / 2 ^ 272 % 8 ∧ y.lq = r / 2 ^ 276 % 16 ∧ y.nbuf = r / 2 ^ 280 % 2 ^ 12 ∧ y.nframe = r / 2 ^ 292 % 2 ^ 12 ∧
        y.bufs = [] ∧ y.events = [] ∧ y.key = t.keyGen ∧ t.keyGen = s.keyGen + 1 ∧ (∀ b, b ≠ a → t.ctx b = s.ctx b) ∧
        t.regs.ctxGo = true ∧ t.regs.ctxStatus = 0 ∧
        leBytes 32 t.regs.chain.toNat = sha256 (leBytes 32 s.regs.chain.toNat ++ sha256 img)) ∧
      (x.st ≠ .resident → ∃ t, exec (.switchOut a) s = .next t ∧ CtxRefused 2 a 3 s t) ∧
      (x.st = .resident → (∀ p ∈ s.groups, p.2.asid ≠ a) → s.queues = [] → ∃ t, exec (.switchOut a) s = .next t ∧
        CtxRefused 2 a 0 s t) ∧
      (x.st ≠ .switchedOut → ∃ t, exec (.switchIn a) s = .next t ∧ CtxRefused 3 a 3 s t) ∧
      (x.st = .switchedOut → (x.held = false → s.queues = []) → ∃ t, exec (.switchIn a) s = .next t ∧ CtxRuns 3 a 0 s t ∧
        t.ctx a = (if x.held then { x with st := .faulted, held := false } else { x with st := .resident })) ∧
      (x.st = .absent ∨ x.st = .tornDown → ∃ t, exec (.teardown a) s = .next t ∧ CtxRefused 4 a 3 s t) ∧
      (x.st ≠ .absent → x.st ≠ .tornDown → ∃ t, exec (.teardown a) s = .next t ∧ CtxRuns 4 a 0 s t ∧
        (t.ctx a).st = .tornDown ∧ (t.ctx a).bufs = [] ∧ (t.ctx a).events = [] ∧
        (∀ k z, t.kernel? k = some z → z.asid = a → z.st = .retired ∨ z.st = .aborted) ∧
        (∀ g y, t.group? g = some y → ∃ y0, s.group? g = some y0 ∧ (y0.asid ≠ a → y = y0) ∧ { y with bolts := y0.bolts } = y0 ∧
          ∀ z, s.kernel? y.serial = some z → z.asid ≠ a ∨ z.st = .retired ∨ z.st = .aborted) ∧
        (∀ q y, t.queue? q = some y → y.asid ≠ a) ∧ (∀ e ∈ t.tlb, e.2.asid ≠ a) ∧ (∀ c ∈ t.copies, c.asid ≠ a) ∧
        (∀ m ∈ t.migs, m.asid ≠ a) ∧ (∀ c ∈ t.calls, c.asid ≠ a) ∧ (∀ u ∈ t.tables, u.asid ≠ a) ∧ (∀ w ∈ t.held, w.who.asid ≠ a) ∧
        (∀ p ∈ t.chq, ∀ u, .table u ∈ p.2 → u.asid ≠ a)) ∧
      (x.st ≠ .faulted → ∃ t, exec (.resume a) s = .next t ∧ CtxRefused 5 a 3 s t) ∧
      (x.st = .faulted → s.queues = [] → ∃ t, exec (.resume a) s = .next t ∧ CtxRuns 5 a 0 s t ∧
        t.ctx a = { x with st := .resident, ringBad := false } ∧
        ∀ g y h, s.group? g = some y → y.asid = a → h ∈ y.harts → (s.hart h).fs = true → (t.hart h).level = .s ∧
          (t.hart h).pc = x.sentry ∧ (t.hart h).fs = false ∧ (t.hart h).cause = (s.hart h).cause ∧
          (t.hart h).epc = (s.hart h).epc) ∧
      (∀ op, (op = 0 ∨ op = 6 ∨ op = 7) → ∃ t, exec (.badOp op a) s = .next t ∧ CtxRefused op a 4 s t) ∧
      (∃ t, exec .contextCommandComplete s = .next t ∧ t = s)) ∧
    ((s.ctx a).st = .tornDown → ∃ t, exec (.zeroisationConfirmed a) s = .next t ∧ t.ctx a = Ctx.absent ∧
      (∀ b, b ≠ a → t.ctx b = s.ctx b) ∧ { t with ctxs := s.ctxs } = s) ∧
    (s.regs.ctxGo = true → s.regs.ctxAsid.toNat = a → let x := s.ctx a
      (s.switchingOut a = false → ¬ (s.regs.ctxOp = 4 ∧ s.regs.ctxStatus = 0 ∧ x.st = .tornDown) →
        ∃ t, exec .contextCommandComplete s = .next t ∧ t.regs = { s.regs with ctxGo := false } ∧ t.msix = s.msix ++ [0] ∧
          { t with regs := s.regs, msix := s.msix } = s) ∧
      (s.switchingOut a = true → standsStill a s = true → s.queues = [] → ∃ t, exec .contextCommandComplete s = .next t ∧
        t.regs = { s.regs with ctxGo := false } ∧ t.msix = s.msix ++ [0] ∧ t.ctx a = { x with st := .switchedOut } ∧
        (∀ e ∈ t.tlb, e.2.asid ≠ a) ∧ t.mem = s.mem ∧ t.harts = s.harts))

/-- R236, R238, R446: a context's oldest event goes to its ring, a full ring keeps it, and a failed ring faults the
context; the host writes a debug register. -/
def Sys2Proof.Machine.EventsPostedRule : Prop :=
  (∀ (s : State) (a : Nat) (e : BitVec 512) (rest : List (BitVec 512)), let x := s.ctx a
    x.events = e :: rest → x.ringBad = false → x.st ≠ .absent → x.st ≠ .tornDown →
    (∀ s1 i, ringPost a e s = (s1, .at i) → ∃ t, exec (.eventPost a) s = .next t ∧
      t.ctx a = { s1.ctx a with events := rest } ∧ (∀ b, b ≠ a → t.ctx b = s1.ctx b) ∧ { t with ctxs := s1.ctxs } = s1) ∧
    (∀ s1, ringPost a e s = (s1, .full) → exec (.eventPost a) s = .next s) ∧
    (∀ s1 f, ringPost a e s = (s1, .fault f) → (s1.ctx a).st = .resident → s1.switchingOut a = false →
      (s1.ctx a).events = x.events →
      (∀ p ∈ s1.groups, p.2.asid ≠ a) → ∃ t ev, exec (.eventPost a) s = .next t ∧ (t.ctx a).st = .faulted ∧
        (t.ctx a).ringBad = true ∧ (t.ctx a).events = x.events ++ [ev] ∧ ev.toNat % 2 ^ 8 = 4 ∧ ev.toNat / 2 ^ 128 % 2 ^ 64 = f.code.toNat ∧
        ev.toNat / 2 ^ 192 % 2 ^ 64 = f.tval.toNat ∧ t.msix = s1.msix ++ [0])) ∧
  (∀ (s : State) (h off : Nat) (v : Word), h < 6144 → let d := (s.hart h).dbgReg
    let line : Word := BitVec.ofNat 64 (v.toNat / 2 ^ 6 % 2 ^ 49 * 64)
    ∃ t, exec (.debugRegisterWrite h off v) s = .next t ∧ (∀ j, j ≠ h → t.hart j = s.hart j) ∧
      { t with harts := s.harts } = s ∧ { t.hart h with dbgReg := d } = s.hart h ∧
      (t.hart h).dbgReg = (if off = 0 then { d with ctl := v &&& 0x3F } else if off = 8 then { d with watch0 := line }
        else if off = 16 then { d with watch1 := line } else d))

/-- R166 to R171, R236, R238, R441, R446: contexts, their events and the debug registers. -/
def Obligations.ContextCommands : Prop := CtxCommandsRule ∧ EventsPostedRule

/-! ## Pages, the host's memory accesses, and the controllers -/

namespace Sys2Proof.Machine

/-- One group changes, or none, and no other (R215, R366). -/
def GroupIs (g : Nat) (x : Group) (s t : State) : Prop := ∀ j, t.group? j = if j = g then some x else s.group? j

/-- The migration ends with a code and a count of lost lines: it runs no longer, STATUS is written with DONE through its
record (R373), and then a write that waited for it performs, the host's at the new frame where the page has moved (R374). -/
def MigEnds (m : Mig) (code lost : Nat) (s t : State) : Prop :=
  let w : Who := { asid := m.asid, serial := m.serial, group := none, sup := true, cluster := m.cluster, slices := none }
  let status := 2 ^ 63 + lost % 2 ^ 16 * 2 ^ 16 + code
  ∀ s1 r, vwrite w (m.record + 16).toNat (leBytes 8 status) { s with migs := s.migs.filter fun x => x.id != m.id } = (s1, r) →
    (s.held = [] → s.heldHost = [] → r ≠ some .stall → t = s1) ∧
    (∀ x s2, s.held = [x] → s.heldHost = [] → x.call = none → r = none →
      vwrite x.who x.va x.data { s1 with held := [] } = (s2, none) → t = s2) ∧
    (∀ h, s.held = [] → s.heldHost = [h] → r = none → (∀ x ∈ s.migs, x.id = m.id) →
      let src := (m.leaves.headD (0, 0)).2.toNat / 2 ^ 28 % 2 ^ 36 * 2 ^ 16
      let pa := if code = 0 ∧ src ≤ h.pa ∧ h.pa < src + m.pages * 2 ^ 16 then h.pa - src + m.dest else h.pa
      h.data ≠ [] → pa / 64 = (pa + h.data.length - 1) / 64 → cntFull s1 [] h.cry pa = false → Memory.wf s1.mem = true →
      (∀ k, (s1.line (pa / 64)).key = some k → k = keyGenOf s1 h.cry) → LineWritten pa h.data { s1 with heldHost := [] } t)

/-- The accesses counted for a region of 2 MiB of LPDDR6 (R375). -/
def hotCount (s : State) (r : Nat) : Nat := (smGet (0, none, 0) s.hot r).1

/-- The counts of the regions rise by the accesses at physical addresses (R375). -/
def CountsRise (pas : List Nat) (s t : State) : Prop :=
  ∀ r, hotCount t r = hotCount s r + (pas.filter fun a => inLp a && decide (a / 2 ^ 21 = r)).length

/-- The accesses at physical addresses are counted by region, and nothing else changes (R375). -/
def Counted (pas : List Nat) (s t : State) : Prop := { t with hot := s.hot } = s ∧ CountsRise pas s t

/-- A leaf at an address after a compare that held; every other byte, and every line but the leaf's, as before. Only
memory, the entries of TLBs and bolted ranges, the migrations and the access counts can differ. -/
def LeafBecomes (pa new : Nat) (s u : State) : Prop :=
  bsNat u.mem pa 8 = new ∧ (∀ x, x < pa ∨ pa + 8 ≤ x → bsGet u.mem x = bsGet s.mem x) ∧
  (∀ i, i ≠ pa / 64 → u.line i = s.line i) ∧
  { u with mem := s.mem, lines := s.lines, tlb := s.tlb, groups := s.groups, migs := s.migs, hot := s.hot } = s

/-- No TLB holds an entry of the page of a migration (R374). -/
def PageDropped (m : Mig) (u : State) : Prop :=
  ∀ e ∈ u.tlb, ¬ (e.2.asid = m.asid ∧ e.2.base * 2 ^ 16 < m.va + m.pages * 2 ^ 16 ∧ m.va < (e.2.base + e.2.pages) * 2 ^ 16)

/-- The slot of a ring lies in the host's memory, or in a line of the device whose CNT is not full (R173, R360). -/
def RingAt (slot : Nat) (s : State) : Prop :=
  (inHost slot = true ∧ Memory.wf s.hostMem = true) ∨
  ((inHbm slot || inLp slot) = true ∧ cntFull s [] Cry.ovune slot = false ∧ Memory.wf s.mem = true)

/-- A leaf that a migration may compare and rewrite: aligned, its line under the context's key or never written, and CNT of
the line not full (R173). -/
def OwnLeaf (m : Mig) (pa : Nat) (s : State) : Prop :=
  pa % 8 = 0 ∧ cntFull s [] { asid := m.asid, buf := 0, mode := .rw } pa = false ∧ Memory.wf s.mem = true ∧ ∀ k, (s.line (pa / 64)).key = some k → k = (s.ctx m.asid).key

end Sys2Proof.Machine

/-- R365 to R369: registering and unregistering a bolted range, invalidation, and the walker. -/
def Obligations.TranslationEntries : Prop :=
  (∀ (f : FmtY) (s : State) (g : Nat) (x : Group), s.myGroup = some (g, x) →
    let v := (s.sr f.sa).toNat
    let n := (s.sr f.sb).toNat
    let held := (x.bolts.map fun b => b.entries.length).sum
    let fine := v % 2 ^ 16 = 0 ∧ n % 2 ^ 16 = 0 ∧ n ≠ 0 ∧ v + n ≤ 2 ^ 55
    let meets := ∃ b ∈ x.bolts, v < b.start + b.len ∧ b.start < v + n
    let walked := boltLeaves s x.asid (decide (s.me.level = .s)) (n / 2 ^ 16 + 1) v (v + n)
    let walks := rangeWalks s x.asid (fun r => match r with
      | .ok l => permits l .load (decide (s.me.level = .s))
      | .error _ => false) (n / 2 ^ 16 + 1) v (v + n)
    let reads := walks.flatMap (walkReads s x.asid)
    let traps : Cause → Word → Prop := fun c w => s.me.level = .u → ∃ t, exec (.tlbb f) s = .next t ∧ TrapsScalar c w s t
    let trapsWalked : Cause → Word → Prop := fun c w => s.me.level = .u → ∃ t u, exec (.tlbb f) s = .next t ∧
      Counted reads s u ∧ TrapsScalar c w u t
    (¬ fine → ∀ w, encode (.tlbb f) = some w → traps .illegal w) ∧
    (fine → 4 ≤ x.bolts.length → traps .bolt (BitVec.ofNat 64 (2 ^ 56 + v))) ∧
    (fine → x.bolts.length < 4 → meets → traps .bolt (BitVec.ofNat 64 (3 * 2 ^ 56 + v))) ∧
    (fine → x.bolts.length < 4 → ¬ meets → ∀ c w, walked = .error (Trap.scalar c w) → trapsWalked c w) ∧
    (fine → x.bolts.length < 4 → ¬ meets → ∀ ls, walked = .ok ls → 16 < held + ls.length →
      trapsWalked .bolt (BitVec.ofNat 64 (2 * 2 ^ 56 + v))) ∧
    (fine → x.bolts.length < 4 → ¬ meets → s.me.steps = false → ∀ ls, walked = .ok ls → held + ls.length ≤ 16 →
      ∃ t k, exec (.tlbb f) s = .next t ∧ CountsRise reads s t ∧ k < 4 ∧ (∀ b ∈ x.bolts, b.slot ≠ k) ∧ (∀ j, j < k → ∃ b ∈ x.bolts, b.slot = j) ∧
        GroupIs g { x with bolts := x.bolts ++ [{ slot := k, start := v, len := n, entries := ls }] } s t ∧
        Writes f.sd (BitVec.ofNat 64 k) (s.me.pc + 8) s { t with groups := s.groups, hot := s.hot })) ∧
  (∀ (f : FmtY) (s : State) (g : Nat) (x : Group), s.myGroup = some (g, x) → s.me.steps = false →
    let k := (s.sr f.sa).toNat
    ((∀ b ∈ x.bolts, b.slot ≠ k) → ∃ t, exec (.tlbu f) s = .next t ∧ Writes f.sd 0xFFFFFFFFFFFFFFFF (s.me.pc + 8) s t) ∧
    (∀ b ∈ x.bolts, b.slot = k → (∀ c ∈ x.bolts, c.slot = k → c = b) → b.entries.length ≤ 16 →
      b.entries.Pairwise (fun l m => l.base ≠ m.base) → ∃ t, exec (.tlbu f) s = .next t ∧
      GroupIs g { x with bolts := x.bolts.filter fun c => decide (c.slot ≠ k) } s t ∧
      (∀ l ∈ b.entries, (TlbAt.second (clusterOf s.myCore), l) ∈ t.tlb) ∧
      Writes f.sd 0 (s.me.pc + 8) s { t with groups := s.groups, tlb := s.tlb })) ∧
  (∀ (f : FmtY) (s0 : State), let s := settleHarts s0
    let dropped : Leaf → Bool := fun l => f.imm.getLsbD 0 || l.meets (s.sr f.sa).toNat (s.sr f.sb).toNat
    let targeted : Nat → Bool := fun c => decide (f.scope ≠ 3) || decide (c = clusterOf s.myCore)
    s.me.level = .s → ∃ t, exec (.tlbi f) s0 = .next t ∧ Passes (s.me.pc + 8) s { t with groups := s.groups, tlb := s.tlb } ∧
      (∀ h, (t.hart h).pend = []) ∧
      (∀ e, e ∈ t.tlb ↔ e ∈ s.tlb ∧ ¬ (e.2.asid = s.asidOf s.cur ∧ targeted e.1.cluster = true ∧ dropped e.2 = true)) ∧
      ∀ g, t.group? g = (s.group? g).map fun x => if x.asid = s.asidOf s.cur ∧ targeted (clusterOf x.core) = true then
        { x with bolts := x.bolts.map fun b => { b with entries := b.entries.filter fun l => !(dropped l) } } else x) ∧
  (∀ (h : Nat) (va : Word) (acc : Access) (s : State), va.toNat < 2 ^ 55 → s.groupOf h ≠ none → let w := vecWho s h
    (∀ g x b l, w.group = some g → s.group? g = some x → x.bolts = [b] → b.entries = [l] →
      l.covers w.asid va.toNat = true → exec (.pageWalk h va acc) s = .next s ∧
      leafOf w acc va.toNat s = (s, .ok l)) ∧
    (boltedLeaf s w va.toNat = none → boltOf s w va.toNat = none → tlbFind s (.second w.cluster) w.asid va.toNat = none →
    (∀ q, sliceOf w va.toNat = some q → tlbFind s q w.asid va.toNat = none) →
    let reads := walkReads s w.asid va.toNat
    (∀ c, walk s w.asid va.toNat = .error c → ∃ t, exec (.pageWalk h va acc) s = .next t ∧ Counted reads s t) ∧
    (∀ l, walk s w.asid va.toNat = .ok l → permits l acc w.sup = true → ∃ t, exec (.pageWalk h va acc) s = .next t ∧
      (TlbAt.second w.cluster, l) ∈ t.tlb ∧ (∀ q, sliceOf w va.toNat = some q → (q, l) ∈ t.tlb) ∧
      Counted reads s { t with tlb := s.tlb })))

/-- R372 to R374: `PMIG` at level S, and the migration engine: what it refuses, setting MIG, the copy, and the abort of a
write that has waited too long. That the copy is all or nothing, drops entries after an abort too, and lets a write of the
host that waited perform at the new frame by its first byte is the model's reading (log 33). The order of the codes, those of
the leaves before 4, then 2, then 3, is its choice (log 50), as it is that PMIG ignores the record's reserved bytes. -/
def Obligations.Migration : Prop :=
  (∀ (f : FmtY) (s0 s1 s2 : State) (d : List Byte) (p : Place) (pa : Nat), let s := settleSome s0.cur s0
    let a := s.sr f.sa
    let ch := channelOf pa
    let r := leNat d
    s0.me.level = .s → a.toNat % 32 = 0 → vread (hartWho s s.cur) .load a.toNat 32 s = (s1, .ok d) →
    translate (hartWho s1 s1.cur) .load a.toNat 32 s1 = (s2, .ok p) → p.loc = .dev pa →
    (16 ≤ (s1.migs.filter fun m => decide (m.chan = ch)).length → ∃ t, exec (.pmig f) s0 = .next t ∧
      Writes f.sd 0xFFFFFFFFFFFFFFFF (s1.me.pc + 8) s1 t) ∧
    ((s1.migs.filter fun m => decide (m.chan = ch)).length < 16 → ∃ t m, exec (.pmig f) s0 = .next t ∧
      t.migs = s1.migs ++ [m] ∧ m.asid = s1.asidOf s1.cur ∧ m.record = a ∧ m.chan = ch ∧ m.va = r % 2 ^ 64 ∧
      m.dest = r / 2 ^ 64 % 2 ^ 64 ∧ m.size = r / 2 ^ 192 % 2 ^ 8 ∧ m.tier = r / 2 ^ 200 % 2 ^ 8 ∧ m.leaves = [] ∧
      Writes f.sd 0 (s1.me.pc + 8) s1 { t with migs := s1.migs, nextId := s1.nextId })) ∧
  (∀ (s0 : State) (m : Mig), s0.migs.find? (fun x => x.id == m.id) = some m → m.leaves = [] → let s := settleHarts s0
    let reads := walkReads s m.asid m.va
    let ends : Nat → Prop := fun c => ∃ t u, exec (.migration m.id) s0 = .next t ∧ Counted reads s u ∧ MigEnds m c 0 u t
    (∀ c, migLeaves s m = .error c → ends c) ∧
    (∀ p e l, migLeaves s m = .ok ((p, e) :: l) →
      (e / 2 ^ 12 % 2 = 1 → ends 4) ∧ (e / 2 ^ 12 % 2 = 0 → e / 2 ^ 15 % 2 = 1 → ends 2) ∧
      (e / 2 ^ 12 % 2 = 0 → e / 2 ^ 15 % 2 = 0 → migDestOk m (e / 2 ^ 28 % 2 ^ 36) = false → ends 3) ∧
      (e / 2 ^ 12 % 2 = 0 → e / 2 ^ 15 % 2 = 0 → migDestOk m (e / 2 ^ 28 % 2 ^ 36) = true → l = [] → e < 2 ^ 64 →
        bsNat s.mem p 8 = e → OwnLeaf m p s → ∃ t, exec (.migration m.id) s0 = .next t ∧
        LeafBecomes p (e + 2 ^ 15) s t ∧ CountsRise (reads ++ [p]) s t ∧ PageDropped m t ∧
        t.migs.find? (fun x => x.id == m.id) = some { m with leaves := [(p, BitVec.ofNat 64 e)] }))) ∧
  (∀ (s : State) (m : Mig) (p : Nat) (v : Word), s.migs.find? (fun x => x.id == m.id) = some m → m.leaves = [(p, v)] →
    v.getLsbD 15 = false → OwnLeaf m p s →
    let src := v.toNat / 2 ^ 28 % 2 ^ 36 * 2 ^ 16
    let copied := List.replicate 1024 src ++ List.replicate 1024 m.dest ++ [p]
    let page : Nat → Prop := fun a => ∀ x, a ≤ x → x < a + 2 ^ 16 → x < p ∨ p + 8 ≤ x
    (bsNat s.mem p 8 = v.toNat + 2 ^ 15 → ∃ u t, exec (.migrationTimeout m.id) s = .next t ∧ MigEnds m 8 0 u t ∧
      LeafBecomes p v.toNat s u ∧ CountsRise [p] s u ∧ PageDropped m u) ∧
    (m.size = 0 → m.dest % 2 ^ 16 = 0 → m.dest ≠ src → m.tier ≤ 1 → page src → page m.dest →
      (∀ q ∈ s.lines, q.1 / 2 ^ 10 = src / 2 ^ 16 → q.2.poison = false ∧ ∀ k, q.2.key = some k → k = (s.ctx m.asid).key) →
      m.dest < 2 ^ 52 → let s1 := { s with mem := moveBytes src m.dest (2 ^ 16) s.mem,
                                           lines := moveLines (src / 64) (m.dest / 64) (2 ^ 10) s.lines }
      (∀ x, bsGet s1.mem x = if m.dest ≤ x ∧ x < m.dest + 2 ^ 16 then bsGet s.mem (x - m.dest + src) else bsGet s.mem x) ∧
      (lineFault s1 { asid := m.asid, buf := 0, mode := .rw } p = none →
      (bsNat s.mem p 8 = v.toNat + 2 ^ 15 → ∃ u t, exec (.migration m.id) s = .next t ∧ MigEnds m 0 0 u t ∧
        LeafBecomes p (m.dest / 2 ^ 16 * 2 ^ 28 + (v.toNat % 2 ^ 28 - v.toNat % 2 ^ 14 + v.toNat % 2 ^ 13 + m.tier * 2 ^ 13)) s1 u ∧
        CountsRise copied s u ∧ PageDropped m u) ∧
      (bsNat s.mem p 8 ≠ v.toNat + 2 ^ 15 → ∃ u t, exec (.migration m.id) s = .next t ∧
        MigEnds m 7 0 u t ∧ bsNat u.mem p 8 = bsNat s.mem p 8 ∧ CountsRise copied s u ∧
        { u with tlb := s1.tlb, groups := s1.groups, hot := s1.hot } = s1))))

/-- R375 to R377, R437: the window of the access counts, the rake, refresh, and an access through an HDM decoder. A ring lies in
the device or in the host's memory (R360). A region that no access with a virtual address has named is proposed with a free VA
(log 8); that a write at a line whose CNT is full is left out is the model's reading (log 49), and is not stated. -/
def Sys2Proof.Machine.MemoryControllersRule : Prop :=
  (∀ (s : State), ∃ t, exec .hotWindow s = .next t ∧ t.hot = [] ∧
    let due := s.hot.filter fun p => decide (s.regs.hotTh.toNat ≤ p.2.1)
    let entries := 2 ^ (s.regs.hotRing.toNat / 2 ^ 8 % 2 ^ 4 + 6)
    let base := s.regs.hotRing.toNat / 2 ^ 12 % 2 ^ 40 * 2 ^ 12
    let slot := base + 16 * (s.regs.hotTail.toNat % entries)
    let word : Nat → Nat → Nat := fun i n => bsNat (if inHost slot = true then t.hostMem else t.mem) (slot + i) n
    (due = [] ∨ base = 0 ∨ s.regs.hotTail - s.regs.hotHead = BitVec.ofNat 64 entries → { t with hot := s.hot } = s) ∧
    (∀ r n va asid, due = [(r, n, va, asid)] → base ≠ 0 → s.regs.hotTail - s.regs.hotHead ≠ BitVec.ofNat 64 entries →
      n < 2 ^ 32 → (∀ a, va = some a → a < 2 ^ 64) → asid < 2 ^ 11 → RingAt slot s →
      (∀ a, va = some a → word 0 8 = a) ∧ (va = none → word 0 8 % 2 ^ 21 = 0) ∧ word 8 4 = asid ∧ word 12 4 = n ∧
      t.regs = { s.regs with hotTail := s.regs.hotTail + 1 })) ∧
  (∀ (pa : Nat) (s : State), let a := pa / 64 * 64
    (inHbm a || inLp a) = true →
    exec (.rakeScrub pa .clean) s = .next s ∧
    (s.regs.slogRing.toNat / 2 ^ 12 % 2 ^ 40 = 0 → exec (.rakeScrub pa .corrected) s = .next s) ∧
    ((s.line (pa / 64)).poison = true → exec (.rakeScrub pa .uncorrectable) s = .next s) ∧
    ((s.line (pa / 64)).poison = false → s.regs.slogRing.toNat / 2 ^ 12 % 2 ^ 40 = 0 → ∃ t,
      exec (.rakeScrub pa .uncorrectable) s = .next t ∧ (∀ i, t.line i = if i = pa / 64 then
        { s.line i with poison := true } else s.line i) ∧ { t with lines := s.lines } = s) ∧
    (let base := s.regs.slogRing.toNat / 2 ^ 12 % 2 ^ 40 * 2 ^ 12
     let slot := base + 16 * (s.regs.slogTail.toNat % 2 ^ (s.regs.slogRing.toNat / 2 ^ 8 % 2 ^ 4 + 6))
     base ≠ 0 → RingAt slot s →
     ∀ i ∈ [(Scrub.corrected, 1), (.uncorrectable, 2)], (i.2 = 2 → (s.line (pa / 64)).poison = false ∧ pa / 64 ≠ slot / 64) →
      ∃ t, exec (.rakeScrub pa i.1) s = .next t ∧
        (let word : Nat → Nat → Nat := fun i n => bsNat (if inHost slot = true then t.hostMem else t.mem) (slot + i) n
         word 0 8 = a ∧ word 8 2 = channelOf a ∧ word 10 2 = i.2 ∧ word 12 4 = s.time.toNat / 1000000 % 2 ^ 32) ∧
        (i.2 = 2 → (t.line (pa / 64)).poison = true) ∧ t.regs = { s.regs with slogTail := s.regs.slogTail + 1 })) ∧
  (∀ (b : Nat) (s : State), exec (.bankRefresh b) s = .next s) ∧
  (∀ (pa : Nat) (rq : HostReq) (s : State),
    let asid := s.regs.hdmCtx.toNat % 2 ^ 11
    let gone := s.regs.hdmCtx.getLsbD 11 = false ∧ ((s.ctx asid).st = .absent ∨ (s.ctx asid).st = .tornDown)
    let c : Cry := if s.regs.hdmCtx.getLsbD 11 then Cry.ovune else { asid := asid, buf := 0, mode := .rw }
    let within : Nat → Prop := fun n => 0 < n ∧ ((inHbm pa = true ∧ inHbm (pa + n - 1) = true) ∨
      (inLp pa = true ∧ inLp (pa + n - 1) = true))
    (∀ n, rq = .read n → within n → (gone → ∃ t, exec (.hostMemoryAccess pa rq) s = .next t ∧
        t.reply = List.replicate n 0xFF ∧ { t with reply := s.reply } = s) ∧
      (¬ gone → (∀ p ∈ piecesOf pa n, lineFault s c p.1 = none) → ∃ t, exec (.hostMemoryAccess pa rq) s = .next t ∧
        t.reply = readLoc s (.dev pa) n ∧ Counted ((piecesOf pa n).map Prod.fst) s { t with reply := s.reply })) ∧
    (∀ d, rq = .write d → within d.length → (gone → exec (.hostMemoryAccess pa rq) s = .next s) ∧
      (¬ gone → (∃ m ∈ s.migs, ∃ l ∈ m.leaves, l.2.toNat / 2 ^ 28 % 2 ^ 36 = pa / 2 ^ 16) → ∃ t,
        exec (.hostMemoryAccess pa rq) s = .next t ∧ t.heldHost = s.heldHost ++ [{ cry := c, pa := pa, data := d }] ∧
        Counted ((piecesOf pa d.length).map Prod.fst) s { t with heldHost := s.heldHost }) ∧
      (¬ gone → s.migs = [] → pa / 64 = (pa + d.length - 1) / 64 → cntFull s [] c pa = false → Memory.wf s.mem = true →
        (∀ k, (s.line (pa / 64)).key = some k → k = keyGenOf s c) → ∃ t u, exec (.hostMemoryAccess pa rq) s = .next t ∧
        LineWritten pa d s u ∧ Counted [pa] u t)))

/-! ## Link ports, flits, lost devices and the accesses of peers -/

namespace Sys2Proof.Machine

/-- One of the 24 ports changes, and nothing else of the machine (R415). -/
def PortIs (p : Nat) (x : Port) (s t : State) : Prop :=
  (∀ j, j < 24 → t.port j = if j = p then x else s.port j) ∧ { t with ports := s.ports } = s

/-- A flit whose CRC and TYPE hold (R417). -/
def FlitOk (f : List Byte) : Prop :=
  f.length = 64 ∧ leNat (f.drop 60) = (crc32c (f.take 60)).toNat ∧ (f[56]!).toNat ≤ 5

/-- A port sends a flit of a type: it leaves under the port's SEQ and is kept until it is acknowledged (R417). -/
def SendsOn (ty : Nat) (x y : Port) (f : List Byte) : Prop :=
  FlitOk f ∧ (f[56]!).toNat = ty ∧ (f[58]!).toNat + (f[59]!).toNat * 256 = x.txSeq.toNat ∧
  y = { x with unacked := x.unacked ++ [{ flit := f, store := none }], wire := x.wire ++ [f], txSeq := x.txSeq + 1 }

/-- A response goes back to a device, in a flit by its route, through a port that drains where no other is left (R416, R417,
R420; log 35); nothing else changes but the reply that is shown. -/
def Answered (dev : Nat) (s t : State) : Prop :=
  { t with reply := s.reply, outq := s.outq, ports := s.ports, fresh := s.fresh } = s ∧
  (s.outq = [] → ∀ q, routeFor s dev 3 = some q → (s.port q).unacked.length < 2048 →
    t.outq = [] ∧ ∃ f, SendsOn 3 (s.port q) (t.port q) f)

end Sys2Proof.Machine

/-- R415, R416: the events of a port, from every state that takes them; in any other state the port's state stays. A remote
store whose flit a port discards is never acknowledged. That LINK_ENABLE starts from fresh sequence numbers, and that a flit
which waits for the port leaves once it is trained and is gone when it is DOWN, is the model's reading (log 35). -/
def Sys2Proof.Machine.LinkPortsRule : Prop :=
  (∀ (s : State) (p : Nat), p < 24 → s.outq = [] → s.held = [] → (∀ f ∈ (s.port p).unacked, f.store = none) →
    let x := s.port p
    let becomes : Instr → Port → Prop := fun i y => ∃ t, exec i s = .next t ∧ PortIs p y s t
    let live := x.st = .up ∨ x.st = .degraded
    let fresh : PortState → Port := fun st => { x with st := st, replay := 0, wantSeq := none }
    let training : Port := { fresh .training with attempt := 1, lanes := 0 }
    let trained : PortState → BitVec 4 → Nat → Nat → Port := fun st lanes d q => { fresh st with
      lanes := lanes, peer := BitVec.ofNat 16 d, peerPort := BitVec.ofNat 5 q, wire := x.wire ++ x.unacked.map Sent.flit }
    (x.st = .down → becomes (.linkEnable p) { training with en := true, txSeq := 0, rxSeq := 0, unacked := [] }) ∧
    (x.st ≠ .down → becomes (.linkEnable p) { x with en := true }) ∧
    (x.st ≠ .down → becomes (.linkDisable p) { fresh .down with en := false, unacked := [], lanes := 0 }) ∧
    (x.st = .down → becomes (.linkDisable p) { x with en := false }) ∧
    (live → becomes (.drain p) { fresh .draining with drain := true }) ∧
    (¬ live → becomes (.drain p) { x with drain := true }) ∧
    (∀ lanes d q, d < 2 ^ 16 → q < 2 ^ 5 → x.st = .training →
      (8 ≤ lanes → becomes (.trainingEnd p lanes d q) (trained .up 8 d q)) ∧
      (4 ≤ lanes → lanes < 8 → becomes (.trainingEnd p lanes d q) (trained .degraded 4 d q)) ∧
      (lanes < 4 → x.attempt < 3 → becomes (.trainingEnd p lanes d q) { x with attempt := x.attempt + 1 }) ∧
      (lanes < 4 → 3 ≤ x.attempt → becomes (.trainingEnd p lanes d q) (fresh .failed))) ∧
    (∀ lanes d q, x.st ≠ .training → becomes (.trainingEnd p lanes d q) x) ∧
    (live → becomes (.laneLost p) training ∧ becomes (.replayLimit p) training) ∧
    (¬ live → becomes (.laneLost p) x ∧ becomes (.replayLimit p) x) ∧
    (live ∨ x.st = .draining → becomes (.deadTime p) { fresh .failed with unacked := [], lanes := 0 }) ∧
    (¬ live → x.st ≠ .draining → becomes (.deadTime p) x) ∧
    (x.st = .draining → x.unacked = [] → becomes (.drainDone p) { fresh .down with drain := false, en := false, lanes := 0 }) ∧
    (x.st ≠ .draining ∨ x.unacked ≠ [] → becomes (.drainDone p) x)) ∧
  (∀ (s : State) (p : Nat) (f : OutFlit), p < 24 → s.outq = [f] → f.port = some p → s.held = [] → f.ty ≤ 5 →
    f.payload.length = 56 → let x := s.port p
    (∀ lanes d q, x.st = .training → 8 ≤ lanes → x.unacked.length < 2048 → ∃ t b, exec (.trainingEnd p lanes d q) s = .next t ∧
      t.outq = [] ∧ FlitOk b ∧ b.take 56 = f.payload ∧ (b[56]!).toNat = f.ty ∧
      (t.port p).wire = x.wire ++ x.unacked.map Sent.flit ++ [b] ∧
      (t.port p).unacked = x.unacked ++ [{ flit := b, store := f.store }]) ∧
    (x.st ≠ .down → ∃ t, exec (.linkDisable p) s = .next t ∧ t.outq = [])) ∧
  (∀ (s : State) (p : Nat), p < 24 → s.outq = [] → let x := s.port p
    ∀ i, (i = .linkDisable p ∧ x.st ≠ .down) ∨ (i = .deadTime p ∧ (x.st = .up ∨ x.st = .degraded ∨ x.st = .draining)) →
      ∃ t, exec i s = .next t ∧ (t.port p).unacked = [] ∧ ∀ h, t.hart h = { s.hart h with
        unacked := (s.hart h).unacked.map fun r =>
          if (x.unacked.any fun f => decide (f.store = some r.id)) = true then { r with gone := true } else r })

/-- R414, R416, R417, R419: the port of a device, flits received, acknowledged and passed on, and heartbeats sent; routes written,
and devices lost. The payload of a flit and which remote stores a response acknowledges are free (log 8). That every flit taken
is answered by one of type 3, and that a port which drains still carries what is no request or collective flit, is the model's
reading (log 35). -/
def Sys2Proof.Machine.LinkTrafficRule : Prop :=
  (∀ (s : State) (d : Nat), let e := s.routes[d]!.toNat
    let pri := e % 2 ^ 5
    let alt := e / 2 ^ 8 % 2 ^ 5
    let altv := e / 2 ^ 15 % 2 = 1
    let valid := e / 2 ^ 16 % 2 = 1 ∧ pri < 24 ∧ (altv → alt < 24)
    let up : Nat → Prop := fun p => (s.port p).st = .up ∨ (s.port p).st = .degraded
    let drains : Nat → Prop := fun p => (s.port p).st = .draining
    (¬ valid → ∀ ty, routeFor s d ty = none) ∧
    (valid → (up pri → ∀ ty, routeFor s d ty = some pri) ∧ (¬ up pri → altv → up alt → ∀ ty, routeFor s d ty = some alt) ∧
      (¬ up pri → ¬ (altv ∧ up alt) → routePort s d = none ∧ (∀ ty ∈ [2, 4, 5], routeFor s d ty = none) ∧
        (drains pri → ∀ ty ∈ [1, 3], routeFor s d ty = some pri) ∧
        (¬ drains pri → altv → drains alt → ∀ ty ∈ [1, 3], routeFor s d ty = some alt)))) ∧
  (∀ (s : State) (p : Nat) (f : List Byte), p < 24 → s.outq = [] → s.calls = [] → let x := s.port p
    let seq := ((f[58]!).toNat + (f[59]!).toNat * 256) % 2 ^ 12
    let stays := exec (.flitReceive p f) s = .next s
    let answers : Port → Prop := fun y => ∃ t, exec (.flitReceive p f) s = .next t ∧
      (x.unacked.length < 2048 → t.outq = [] ∧ ∃ b, SendsOn 3 y (t.port p) b) ∧
      (2048 ≤ x.unacked.length → t.port p = y ∧ ∃ w, t.outq = [w] ∧ w.port = some p ∧ w.ty = 3) ∧
      (∀ j, j < 24 → j ≠ p → t.port j = s.port j) ∧ { t with ports := s.ports, outq := [], fresh := s.fresh } = s
    let asks : Port := { x with wantSeq := some x.rxSeq, replay := BitVec.ofNat 8 (min (x.replay.toNat + 1) 255) }
    let took : List (List Byte) → Port := fun got => { x with rxSeq := x.rxSeq + 1, wantSeq := none, got := got }
    let receives := x.st = .up ∨ x.st = .degraded ∨ x.st = .draining
    (¬ receives → stays) ∧ (receives → ¬ FlitOk f → answers asks) ∧
    (receives → FlitOk f → 2048 < (x.rxSeq - BitVec.ofNat 12 seq).toNat → answers asks) ∧
    (receives → FlitOk f → seq ≠ x.rxSeq.toNat → (x.rxSeq - BitVec.ofNat 12 seq).toNat ≤ 2048 → stays) ∧
    (receives → FlitOk f → seq = x.rxSeq.toNat →
      let here := f[56]! = 0 ∨ (Config.flitDest f).toNat = devNo s
      (here → f[56]! ≠ 3 → answers (took (x.got ++ [f]))) ∧
      (here → f[56]! = 3 → ∃ t, exec (.flitReceive p f) s = .next t ∧ ∀ h,
        (t.hart h).unacked = (s.hart h).unacked.filter (fun r => r.gone || !(Config.acksStore f r.id)) ∧
        ((t.hart h).unacked ≠ (s.hart h).unacked → (t.hart h).pend = [])) ∧
      (here → f[56]! = 3 → (∀ h, (s.hart h).unacked = []) → ∃ t acked again, exec (.flitReceive p f) s = .next t ∧
        PortIs p { took (x.got ++ [f]) with unacked := x.unacked.drop acked,
                                            wire := x.wire ++ (if again = true then (x.unacked.drop acked).map Sent.flit else []) } s t) ∧
      (∀ q, ¬ here → f[56]! ≠ 3 → routePort s (Config.flitDest f).toNat = some q → q ≠ p →
        (s.port q).unacked.length < 2048 → ∃ t b, exec (.flitReceive p f) s = .next t ∧ (t.port p).got = x.got ∧
        (t.port p).rxSeq = x.rxSeq + 1 ∧ SendsOn (f[56]!).toNat (s.port q) (t.port q) b ∧ b.take 56 = f.take 56 ∧
        (b[57]!).toNat = (f[57]!).toNat % 32))) ∧
  (∀ (s : State), s.outq = [] → s.calls = [] → ∃ t, exec .heartbeat s = .next t ∧
    { t with ports := s.ports, fresh := s.fresh, outq := [] } = s ∧
    (∀ w ∈ t.outq, ∃ p, w.port = some p ∧ w.ty = 1 ∧ 2048 ≤ (s.port p).unacked.length) ∧
    ∀ p, p < 24 → let x := s.port p
      (x.st = .up ∨ x.st = .degraded ∨ x.st = .draining → x.unacked.length < 2048 → ∃ f, SendsOn 1 x (t.port p) f) ∧
      (¬ (x.st = .up ∨ x.st = .degraded ∨ x.st = .draining) ∨ 2048 ≤ x.unacked.length → t.port p = x)) ∧
  (∀ (s : State) (c : Call) (d q : Nat), s.outq = [] → s.calls = [c] → c.st = .setup → c.memb = [devNo s, d] → d ≠ devNo s →
    routePort s d = some q → (s.port q).unacked.length + 1 < 2048 → ∃ t y f1 f2, exec .heartbeat s = .next t ∧
    SendsOn 1 (s.port q) y f1 ∧ SendsOn 1 y (t.port q) f2) ∧
  (∀ (s : State) (d : Nat) (v : Word), d < 64 → s.outq = [] → s.held = [] → ∃ t, exec (.routeEntryWrite d v) s = .next t ∧
    (∀ j, j < 64 → t.routes[j]! = if j = d then v &&& 0x19F1F else s.routes[j]!) ∧
    (∀ e, e ∈ t.lostDevs ↔ e ∈ s.lostDevs ∧ e ≠ d) ∧ { t with routes := s.routes, lostDevs := s.lostDevs } = s) ∧
  (∀ (s : State) (d : Nat), s.calls = [] → (routePort s d ≠ none ∨ d = devNo s ∨ d ∈ s.lostDevs) →
    exec (.deviceLost d) s = .next s) ∧
  (∀ (s : State) (d : Nat), d < 64 → d ≠ devNo s → d ∉ s.lostDevs → s.calls = [] → s.held = [] → s.outq = [] →
    routePort s d = none →
    (∀ p ∈ s.harts, ∀ f l g, p.2.wait ≠ some (.bar f l g)) → ∃ t, exec (.deviceLost d) s = .next t ∧
    t.lostDevs = s.lostDevs ++ [d] ∧
    (∀ h, let x := s.hart h
      let far : PStore → Bool := fun p => match p.loc with
        | .peer e _ => decide (e = d)
        | _ => false
      t.hart h = { x with
        unacked := x.unacked.filter fun r => decide (r.dev ≠ d)
        dropped := x.dropped ++ x.unacked.filter fun r => decide (r.dev = d)
        pend := x.pend.filter fun p => !(far p) }) ∧
    { t with lostDevs := s.lostDevs, harts := s.harts } = s) ∧
  (∀ (s : State) (d i : Nat) (c : Call), s.calls = [c] → c.id = i → d < 64 → d ≠ devNo s → d ∉ s.lostDevs → s.held = [] →
    (∀ p ∈ s.harts, ∀ f l g, p.2.wait ≠ some (.bar f l g)) → d ∈ c.memb → c.kept s = true → c.cmode = 0 →
    let aborted : State → Prop := fun t => t.call? i = some (c.asAborted 1 d s.time) ∧
      t.mail = s.mail ++ c.toEach (.abort 1 d) ((c.peers s).filter fun e => decide (e ≠ d))
    (c.st = .setup → ∃ t, exec (.deviceLost d) s = .next t ∧ aborted t) ∧
    (c.st = .running ∨ c.st = .loc → ∃ t, exec (.deviceLost d) s = .next t ∧ (aborted t ∨ (t.call? i = some c ∧ t.mail = s.mail))))

/-- R414 to R419: link ports, flits, routes and lost devices. -/
def Obligations.Links : Prop := LinkPortsRule ∧ LinkTrafficRule

/-- R420: an access of a peer under the context of the same ASID: what it reads, what it writes, and what refuses it, with the
updates of a barrier record (R353); a response goes back (R417), and an access to LPDDR6 is counted (R375). That a request
carries its buffer and its mode and is refused by them, and that a line which fails its check refuses, is the model's reading
(log 36). -/
def Sys2Proof.Machine.RemoteAccessesRule : Prop :=
  ∀ (s : State) (dev asid pa buf mode : Nat) (rq : RemoteReq),
    let x := s.ctx asid
    let n := match rq with
      | .load n => n
      | .store d => d.length
      | .amo _ size _ _ => size
      | .barrier _ => 24
    let c : Cry := { asid := asid, buf := buf, mode := match mode with
      | 1 => .ro
      | 2 => .wo
      | 3 => .rw
      | _ => .none }
    let serves := x.st = .resident ∨ x.st = .switchedOut ∨ x.st = .faulted
    let within := 0 < n ∧ pa / 64 = (pa + n - 1) / 64 ∧ ((inHbm pa = true ∧ inHbm (pa + n - 1) = true) ∨
      (inLp pa = true ∧ inLp (pa + n - 1) = true))
    let old := readLoc s (.dev pa) n
    let refused := ∃ t, exec (.remoteAccess dev asid pa buf mode rq) s = .next t ∧ t.reply = [] ∧ Answered dev s t
    let writes : List Byte → List Byte → Prop := fun new answer => ∃ t u v, exec (.remoteAccess dev asid pa buf mode rq) s = .next t ∧
      t.reply = answer ∧ LineWritten pa new s u ∧ Counted [pa] u v ∧ Answered dev v t
    (¬ serves ∨ dev = devNo s ∨ x.nbuf < buf → refused) ∧
    (∀ u, rq = .barrier u → pa % 64 ≠ 0 → refused) ∧
    (serves → dev ≠ devNo s → buf ≤ x.nbuf → within → (∀ u, rq = .barrier u → pa % 64 = 0 → s.migs = [] → mode ≠ 1 →
      let r := leNat old
      let turns : Nat → Prop := fun y => cntFull s [] c pa = false → Memory.wf s.mem = true →
        (∀ k, (s.line (pa / 64)).key = some k → k = keyGenOf s c) → mode = 2 ∨ mode = 3 → writes (leBytes 24 (recClean y)) old
      let stays := ∃ t v, exec (.remoteAccess dev asid pa buf mode rq) s = .next t ∧ t.reply = old ∧ Counted [pa] s v ∧
        Answered dev v t
      (lineFault s c pa ≠ none → refused) ∧
      (lineFault s c pa = none →
        (u = .arrive → (recState r ≠ 3 → turns (recArrive r)) ∧ (recState r = 3 → stays)) ∧
        (∀ g, u = .withdraw g → (recGen r = g.toNat ∧ recState r = 1 ∧ 0 < recCount r → turns (recWithdraw r)) ∧
          (¬ (recGen r = g.toNat ∧ recState r = 1 ∧ 0 < recCount r) → stays)) ∧
        (∀ k h d, u = .fault k h d → (recState r ≠ 3 → turns (recFault k.toNat h d r)) ∧ (recState r = 3 → stays)) ∧
        (∀ v, u = .set v → (¬ (recState r = 1 ∧ 0 < recCount r) → turns (recSet v.toNat r)) ∧
          (recState r = 1 ∧ 0 < recCount r → stays)))) ∧
      (rq = .load n → lineFault s c pa = none → ∃ t u, exec (.remoteAccess dev asid pa buf mode rq) s = .next t ∧ t.reply = old ∧
        Counted [pa] s u ∧ Answered dev u t) ∧
      (rq = .load n → lineFault s c pa ≠ none → refused) ∧
      (mode = 1 → rq ≠ .load n → refused) ∧
      (mode = 2 ∨ mode = 3 → s.migs = [] → cntFull s [] c pa = false → Memory.wf s.mem = true →
        (∀ k, (s.line (pa / 64)).key = some k → k = keyGenOf s c) →
        (∀ d, rq = .store d → writes d []) ∧
        (∀ aop size v e, rq = .amo aop size v e → aop ≤ 9 → size = 4 ∨ size = 8 → lineFault s c pa = none →
          writes (leBytes size (atomicValue aop (BitVec.ofNat (8 * size) (leNat old)) (v.setWidth (8 * size))
            (e.setWidth (8 * size))).toNat) old)))

/-- R375 to R377, R420, R437: the memory controllers, and accesses of the host and of peers. -/
def Obligations.MemoryAgents : Prop := MemoryControllersRule ∧ RemoteAccessesRule

/-! ## Islands, power, trust, reset, and the registers -/

/-- R239, R439 to R444: the islands and the power cap, boot and the measurement chain, attestation, device reset, and the
fatal dump. Signatures and whether one verifies are free (log 12), and so is the voltage that an island's loop chooses
(log 8). -/
def Obligations.Platform : Prop :=
  (∀ (s : State) (i mhz : Nat), i < 128 → let x := s.island i
    let becomes : Instr → Island → Prop := fun c y => ∃ t, exec c s = .next t ∧
      (∀ j, t.island j = if j = i then y else s.island j) ∧ { t with islands := s.islands, fresh := s.fresh } = s
    (600 ≤ mhz → mhz ≤ 1200 → ∃ mv, becomes (.islandDvfs i mhz) { x with mhz := mhz, mv := mv, cut := 0 }) ∧
    (mhz < 600 ∨ 1200 < mhz → exec (.islandDvfs i mhz) s = .next s) ∧
    becomes (.droopStretch i) { x with stretch := some (s.clock + 1) }) ∧
  (∀ (s : State) (draw : Nat), draw < 2 ^ 16 → (∀ j, 600 ≤ (s.island j).mhz ∧ (s.island j).mhz ≤ 1200) →
    ∃ t, exec (.powerCapTick draw) s = .next t ∧
    let lowered : Island → Island := fun x => let m := max 600 (x.mhz - 50)
      { x with mhz := m, cut := x.cut + (x.mhz - m) }
    let raised : Island → Island := fun x => { x with mhz := min 1200 (x.mhz + min 50 x.cut), cut := x.cut - min 50 x.cut }
    let limit := s.regs.pwrLimit.toNat
    let above := limit < draw
    let below := 100 * draw ≤ 95 * limit
    t.regs = { s.regs with pwrDraw := BitVec.ofNat 16 draw, capped := if above then true else if below then false else s.regs.capped } ∧
    (∀ j, t.island j = if j < 96 ∧ above then lowered (s.island j)
      else if j < 96 ∧ below then raised (s.island j) else s.island j) ∧
    { t with regs := s.regs, islands := s.islands } = s) ∧
  (∀ (s : State), let link : BitVec 256 → List Byte → BitVec 256 := fun c image =>
      BitVec.ofNat 256 (leNat (sha256 (leBytes 32 c.toNat ++ sha256 image)))
    let boots : List (List Byte × List Byte) → List (List Byte × List Byte) → BitVec 2 → Prop := fun images measured boot =>
      ∃ t, exec (.firmwareBoot images) s = .next t ∧
        t.regs = { s.regs with chain := (measured.map Prod.fst).foldl link s.regs.chain, boot := boot } ∧
        { t with regs := s.regs } = s
    let fine : List Byte × List Byte → Prop := fun p => p.2.length = 29792 ∧ Config.verifies p.1 p.2 = true
    let good : List (List Byte × List Byte) → Prop := fun l => ∀ p ∈ l, fine p
    s.regs.boot = 0 →
    (∀ images, images ≠ [] → good images → boots images images 1) ∧
    (∀ l1 p l2, good l1 → ¬ fine p → boots (l1 ++ p :: l2) l1 2)) ∧
  (∀ (s : State), (s.fatal = true → exec .attcmd s = .next s) ∧
    (s.fatal = false → exec .attcmd s = .next { s with regs := { s.regs with attGo := true } }) ∧
    (s.regs.attGo = false → exec .attestationReport s = .next s) ∧
    (let a := s.regs.attAddr.toNat
     s.regs.attGo = true → a % 64 = 0 → ∀ loc : Nat → Loc,
     (loc = .dev ∧ inHbm a = true ∧ inHbm (a + 29919) = true ∧ Memory.wf s.mem = true ∧
       lineFault s Cry.ovune (a + 64) = none) ∨
     (loc = .host ∧ 2 ^ 51 ≤ a ∧ a + 29920 ≤ 2 ^ 52 ∧ Memory.wf s.hostMem = true) → ∃ t, exec .attestationReport s = .next t ∧
      t.regs = { s.regs with attGo := false } ∧ t.msix = s.msix ++ [0] ∧
      let head := [0x4B, 0x4D, 0x41, 0x54] ++ leBytes 4 1 ++ leBytes 2 (s.regs.linkCfg.toNat % 2 ^ 6) ++ List.replicate 22 0 ++
        leBytes 32 s.regs.chain.toNat ++ readLoc s (loc (a + 64)) 32 ++ List.replicate 32 0
      readLoc t (loc a) 128 = head ∧ readLoc t (loc (a + 128)) 29792 = padTo 29792 (Config.signature head) ∧
      (loc = .dev → { t with regs := s.regs, msix := s.msix, mem := s.mem, lines := s.lines, fresh := s.fresh } = s) ∧
      (loc = .host → { t with regs := s.regs, msix := s.msix, hostMem := s.hostMem, outMarks := s.outMarks,
                              fresh := s.fresh } = s))) ∧
  (∀ (s : State), ∃ t, exec .devrst s = .next t ∧ t.mem = s.mem ∧ t.hostMem = s.hostMem ∧ t.peerMem = s.peerMem ∧
    s.keyGen < t.keyGen ∧ (∀ p ∈ t.lines, p.2.key ≠ some 0) ∧
    (∀ p, p < 24 → t.port p = { Port.reset with wire := (s.port p).wire }) ∧
    { State.reset with mem := s.mem, hostMem := s.hostMem, peerMem := s.peerMem, outMarks := s.outMarks, lines := t.lines,
                       msix := s.msix, pcie := s.pcie, mail := s.mail, ports := t.ports, keyGen := t.keyGen,
                       nextId := s.nextId, fresh := s.fresh, agenda := s.agenda } = t) ∧
  (∀ (s : State) (cause cls unit detail : Nat), cause < 64 → cls < 2 ^ 8 → unit < 2 ^ 16 → detail < 2 ^ 32 →
    (s.fatal = true → exec (.fatalError cause cls unit detail) s = .next s) ∧
    (s.fatal = false → Memory.wf s.mem = true → ∃ t, exec (.fatalError cause cls unit detail) s = .next t ∧ t.fatal = true ∧
      t.regs = { s.regs with boot := 3 } ∧ t.msix = s.msix ++ [0] ∧
      readLoc t (.dev 0x01E700000000) 8 = [0x4B, 0x4D, 0x44, 0x50, 1, 0, 0, 0] ∧
      leNat (readLoc t (.dev 0x01E700000018) 8) = cause + cls * 2 ^ 8 + unit * 2 ^ 16 + detail * 2 ^ 32 ∧
      readLoc t (.dev 0x01E700000040) 32 = leBytes 32 s.regs.chain.toNat ∧
      { t with fatal := s.fatal, regs := s.regs, msix := s.msix, mem := s.mem, lines := s.lines, fresh := s.fresh } = s))

/-- R6, R168, R181, R182, R212, R236, R375, R377, R413 to R415, R435, R437, R440, R443, R444: a host write of a register of
BAR0 or BAR2: what it stores, the command it gives, and what ignores it; what TAIL and PROGRESS read as. HOURS above 8760 is a
free value (log 8) and is not stated. That ATTADDR keeps a value that is no multiple of 64 is the model's reading (log 37). -/
def Obligations.RegisterWrites : Prop :=
  (∀ (s : State) (v : Word), let r := s.regs
    let stores : List (Nat × Regs) → Prop := fun l => ∀ p ∈ l,
      exec (.registerWrite 0 p.1 v) s = .next { s with regs := p.2 }
    stores [(0x1020, { r with rcldl := BitVec.ofNat 14 (max 1 (min 10000 (v.toNat % 2 ^ 14))) }),
      (0x1040, { r with hotRing := v &&& 0x000FFFFFFFFFFF00 }), (0x1048, { r with hotTh := v.setWidth 32 }),
      (0x1058, { r with hotHead := v }), (0x1068, { r with slogRing := v &&& 0x000FFFFFFFFFFF00 }),
      (0x1090, { r with hdmCtx := v &&& 0xFFF }),
      (0x1098, { r with pwrLimit := BitVec.ofNat 16 (max 1500 (min 4500 (v.toNat % 2 ^ 16))) }),
      (0x1000, if r.ctxGo then r else { r with ctxAddr := v &&& 0x000FFFFFFFFFFFC0 }),
      (0x1010, if s.queues = [] then { r with qtab := v &&& 0x000FFFFFFFFF0000 } else r),
      (0x10A0, if r.attGo then r else { r with attAddr := v }),
      (0x1080, if ((List.range 24).all fun p => decide ((s.port p).st = .down)) = true then
        { r with linkCfg := BitVec.ofNat 64 (max 100 (min 1000000 (v.toNat / 2 ^ 12 % 2 ^ 20)) * 2 ^ 12 + v.toNat % 2 ^ 6) } else r)] ∧
    (let hours := v.toNat / 2 ^ 16 % 2 ^ 16
     hours ≤ 8760 → exec (.registerWrite 0 0x1060 v) s = .next { s with fresh := s.fresh + 1, regs := { r with
       rakeCtl := BitVec.ofNat 64 (max 1 hours * 2 ^ 16 + v.toNat % 2) } }) ∧
    (let is : Nat → Instr → Prop := fun off i => exec (.registerWrite 0 off v) s = exec i s
     let asid := v.toNat % 2 ^ 11
     let q := v.toNat % 2 ^ 16
     let op := v.toNat / 2 ^ 60 % 2 ^ 3
     (v.toNat % 2 = 1 → is 0x0008 .devrst ∧ is 0x10A8 .attcmd) ∧
     (v.getLsbD 63 = true → r.ctxGo = false → (op = 1 → is 0x1008 (.create asid)) ∧ (op = 2 → is 0x1008 (.switchOut asid)) ∧
       (op = 3 → is 0x1008 (.switchIn asid)) ∧ (op = 4 → is 0x1008 (.teardown asid)) ∧ (op = 5 → is 0x1008 (.resume asid)) ∧
       (op = 0 ∨ 5 < op → is 0x1008 (.badOp op asid))) ∧
     (v.getLsbD 63 = true → (op = 1 → is 0x1018 (.attach q)) ∧ (op = 2 → is 0x1018 (.detach q)) ∧
       (op = 3 → is 0x1018 (.reset q)) ∧ (op = 0 ∨ 3 < op → is 0x1018 (.qcmdBadOp op q))) ∧
     (∀ d, d < 64 → is (0x1200 + 8 * d) (.routeEntryWrite d v)) ∧
     (∀ p, p < 24 → (s.port p).drain = false → v.toNat % 4 = 1 → is (0x1100 + 8 * p) (.linkEnable p)) ∧
     (∀ p, p < 24 → (s.port p).drain = false → v.toNat % 4 = 0 → is (0x1100 + 8 * p) (.linkDisable p)) ∧
     (∀ p, p < 24 → v.toNat / 2 % 2 = 1 → ∃ u, exec (if v.toNat % 2 = 1 then .linkEnable p else .linkDisable p) s = .next u ∧
       exec (.registerWrite 0 (0x1100 + 8 * p) v) s = exec (.drain p) u) ∧
     (∀ h k, h < 6144 → k < 32 → is (0x20000 + 32 * h + k) (.debugRegisterWrite h k v)) ∧
     (∀ n, n < 65536 → exec (.registerWrite 2 (16 * n) v) s = exec (.tail n v) s))) ∧
  (∀ (s : State) (n : Nat) (x : Queue) (v : Word), n < 65536 → s.queue? n = some x →
    barRead 2 (16 * n) s = (if x.state = 4 then x.latch.getD x.tails else x.tail) ∧
    barRead 2 (16 * n + 8) s = (if x.state = 4 then x.progs ||| 0x8000000000000000 else x.prog) ∧
    exec (.registerWrite 2 (16 * n + 8) v) s = .next s ∧ (x.kind ≠ 0 → exec (.registerWrite 2 (16 * n) v) s = .next s)) ∧
  (∀ (s : State) (off : Nat) (v : Word),
    (∀ r ∈ [0, 8, 0x1000, 0x1008, 0x1010, 0x1018, 0x1020, 0x1030, 0x1040, 0x1048, 0x1050, 0x1058, 0x1060, 0x1068, 0x1070,
      0x1080, 0x1090, 0x1098, 0x10A0, 0x10A8, 0x10B0, 0x10B8, 0x10C0, 0x10C8], ¬ (r ≤ off ∧ off < r + 8)) →
    ¬ (0x1100 ≤ off ∧ off < 0x11C0) → ¬ (0x1200 ≤ off ∧ off < 0x1400) → ¬ (0x20000 ≤ off ∧ off < 0x50000) →
    ¬ (0x60000 ≤ off ∧ off < 0x68100) →
    exec (.registerWrite 0 off v) s = .next s ∧ barRead 0 off s = 0)

/-! ## The machine: reset, invariant, words and steps -/

/-- The values that the spec gives for reset (R51, R53, R54, R112, R114, R140, R154, R168,
R181, R199, R207, R208, R223, R224, R236, R242, R261, R262, R283, R375, R377, R413 to R415, R426, R437, R440, R441, R444).
Registers without a reset value of the spec, ATTADDR of R443 among them (log 6), are not stated. -/
def Obligations.ResetValues : Prop :=
  let s := State.reset
  (∀ h : Nat, let x := s.hart h
    x.get 0 = 0 ∧ x.vl = 0 ∧ x.vw = false ∧ x.epr = 0 ∧ x.carry = 0 ∧ x.mshape = 0 ∧ x.rowcnt = 1 ∧ x.rowpitch = 0 ∧
    (∀ v, v < 64 → x.tagOf v = .f32) ∧ x.frm = 1 ∧ x.fflags = 0 ∧ x.seed = 0x9E3779B97F4A7C15 ∧ x.ev = 0 ∧ x.status = 0 ∧
    x.cause = 0 ∧ x.tval = 0 ∧ x.epc = 0 ∧ x.dbg.ctl = 0 ∧ x.dbg.watch0 = 0 ∧ x.dbg.watch1 = 0 ∧ x.binds = [] ∧
    (∀ i, i < 8 → x.sbank[i]! = 0) ∧ (∀ v t e, v < 64 → x.elem v t e = 0) ∧ (∀ d, x.desc d = Desc.null) ∧
    (∀ m i, i < 16384 → (x.mask m).getLsbD i = decide (m = 0))) ∧
  s.groups = [] ∧ s.kernels = [] ∧ s.queues = [] ∧ s.serial = 1 ∧ (∀ a, (s.ctx a).st = .absent) ∧ s.fatal = false ∧
  (∀ d, d < 64 → s.routes[d]! = 0) ∧ (∀ p, p < 24 → (s.port p).st = .down ∧ (s.port p).en = false ∧ (s.port p).drain = false ∧
    barRead 0 (0x1100 + 8 * p) s = 0) ∧
  barRead 0 0x1000 s = 0 ∧ barRead 0 0x1008 s = 0 ∧ barRead 0 0x1010 s = 0 ∧ barRead 0 0x1018 s = 0 ∧ barRead 0 0x1020 s = 50 ∧ barRead 0 0x1030 s = 0x01E700000000 ∧
  barRead 0 0x1040 s = 0 ∧ barRead 0 0x1048 s = 65536 ∧ barRead 0 0x1050 s = 0 ∧ barRead 0 0x1058 s = 0 ∧ barRead 0 0x1060 s = 0x180001 ∧ barRead 0 0x1068 s = 0 ∧ barRead 0 0x1070 s = 0 ∧
  barRead 0 0x1080 s = 0x7D0000 ∧ barRead 0 0x1090 s = 0x800 ∧ barRead 0 0x1098 s = 4500 ∧ barRead 0 0x10A8 s = 0 ∧
  (∀ o ∈ [0x10B0, 0x10B8, 0x10C0, 0x10C8], barRead 0 o s = 0) ∧ (barRead 0 0 s).toNat / 2 ^ 16 % 2 ^ 16 = 0x9400

/-- Every memory is in canonical form at reset. The form is the model's own (log 4). -/
def Obligations.CanonicalAtReset : Prop := State.reset.canonical

/-- Every step keeps every memory in canonical form, so that equal memories stay equal data. The form is the model's
own (log 4). -/
def Obligations.CanonicalKept : Prop := ∀ s t : State, s.canonical → step s = .next t → t.canonical

/-- R66 to R82, R85: a well-formed instruction with a word decodes from that word with every operand as it was, and a
word that decodes is the word of what it decodes to. -/
def Obligations.DecodeEncodeAgree : Prop :=
  (∀ (i : Instr) (w : Word), wf i = true → encode i = some w → decodeWord w = .ok i) ∧
  (∀ (i : Instr) (w : Word), decodeWord w = .ok i → wf i = true ∧ encode i = some w)

/-- R66, R87, R230: a step fetches the word at the PC and runs the instruction that it decodes to, `epr` cleared before
the first word after a resumption where that is no vector or array instruction; a word that is none traps ILLEGAL with
`tval` the word. A hart that waits runs the instruction at which it waits. A turn of the agenda runs its event, or its
hart; after a FATAL error, or a rejected boot image, only a device reset and the host's memory accesses act (R239, R437,
R442, R444), and after a FATAL error a write of a register that takes no command does too, which is the model's reading (log 37). The agenda, and the stop of a machine that has no turn left, are the model's own (log 1). -/
def Obligations.StepRunsDecoded : Prop :=
  (∀ (s0 s1 s2 : State) (p : Place), s0.agenda = [] → s0.fatal = false →
    let s := { s0 with clock := s0.clock + 1 }
    runnable s s.cur = true →
    (∀ w, s.me.wait = some w → step s0 = exec w.instr s) ∧
    (s.me.wait = none → s.me.pc.toNat % 8 = 0 → translate (hartWho s s.cur) .fetch s.me.pc.toNat 8 s = (s1, .ok p) →
      p.far = false → placeFault p s1 = (s2, none) → let v := countPlaces (hartWho s s.cur) [p] s2
      let bytes := readLoc s2 p.loc 8
      let major := (bytes.getD 7 0).toNat
      let vector := (0x40 ≤ major ∧ major ≤ 0x47) ∨ (0x60 ≤ major ∧ major ≤ 0x63) ∨ (0x70 ≤ major ∧ major ≤ 0x75)
      let u := if v.me.resumed = true then
          v.setMe { v.me with resumed := false, epr := if vector then v.me.epr else 0 }
        else v
      (∀ i, decodeBytes bytes = .ok i → wf i = true ∧ step s0 = exec i u) ∧
      (∀ r, decodeBytes bytes = .error r → u.me.level = .u → ∃ t, step s0 = .next t ∧
        TrapsScalar .illegal (BitVec.ofNat 64 (leNat bytes)) u t))) ∧
  (∀ (s : State) (i : Instr) (rest : List Turn), s.agenda = .event i :: rest →
    let t := { s with agenda := rest, clock := s.clock + 1 }
    let always := i = .devrst ∨ (∃ v, i = .registerWrite 0 8 v ∧ v.getLsbD 0 = true) ∨ ∃ pa rq, i = .hostMemoryAccess pa rq
    let stores := s.regs.boot ≠ 2 ∧ ∃ off v, i = .registerWrite 0 off v ∧ off ∈ [0x1000, 0x1010, 0x1020, 0x1040, 0x1048, 0x1058,
      0x1060, 0x1068, 0x1080, 0x1090, 0x1098, 0x10A0]
    ((s.fatal = false ∧ s.regs.boot ≠ 2) ∨ always ∨ stores → step s = exec i t) ∧
    (s.fatal = true ∨ s.regs.boot = 2 → ¬ always → ¬ stores → step s = .next t)) ∧
  (∀ (s : State) (h : Nat) (rest : List Turn) (turn : Turn), (turn = .hart h ∨ turn = .back h) → s.agenda = turn :: rest →
    let t := { s with agenda := rest, clock := s.clock + 1 }
    (s.fatal = false → step s = stepHart { t with cur := h }) ∧ (s.fatal = true → step s = .next t)) ∧
  (∀ (s : State), runnable s s.cur = false → stepHart s = .next s) ∧
  (∀ (s : State), (∃ e, step s = .fault e) ↔ s.fatal = true ∧ s.agenda = []) ∧ (∀ (s : State) r, step s ≠ .refused r)

/-- R66 to R80: words that the spec writes out decode to the instructions that it writes beside them. -/
def Obligations.WordsDecode : Prop :=
  decodeWord 0x10145FFFFFFFFFF8 = .ok (.addi { sd := 5, sa := 5, imm := -8 }) ∧
  decodeWord 0x201040FFFFFFFFFD = .ok (.br { cnd := 1, sa := 1, sb := 0, off := -3 }) ∧
  decodeWord 0x010B0C1083000000 = .ok (.lea { sd := 3, sa := 1, sb := 2, sc := 3 }) ∧
  decodeWord 0x324204210A300000 = .ok (.amo { sz := 2, sd := 4, sa := 2, ord := 0, scope := 4, imm := 0x10A300000 }) ∧
  decodeWord 0x40001010800E0000 = .ok (.vadd { vd := 4, va := 1, vb := 2, vc := 0, msk := 0, ch := 7, ovr := 0, mod := 0, rm := 0, sat := 0, z := 0 }) ∧
  decodeWord 0x6000814007200040 = .ok (.vld { vd := 8, sa := 5, sb := 0, msk := 0, e := 0, o := 1, ff := 1, ch := 1, sp := 1, ovr := 0, imm := 64 }) ∧
  decodeWord 0x7100184402000000 = .ok (.aadd { dd := 3, da := 1, db := 2, ka := 0, kb := 1, ax := 0, wd := 0, fl := 0, sa := 0 }) ∧
  decodeWord 0x8003002238000000 = .ok (.mact { xd := 0, xa := 2, xb := 8, at_ := 1, ch := 3, msk := 0, ovr := 0, rm := 0, sat := 0, q := 0 }) ∧
  decodeWord 0x8800006005300000 = .ok (.bind { sd := 0, sa := 6, sb := 0, vt := 5, lm := 3, imm := 0 }) ∧
  decodeWord 0xF0051020C0000000 = .ok (.tlbb { sd := 4, sa := 2, sb := 3, scope := 0, cn := 0, imm := 0 }) ∧
  decodeWord 0x40001010800E0001 = .error .reserved ∧ decodeWord 0x40001010800E1000 = .error .field ∧
  decodeWord 0 = .error .allZero
end

