-- ==== Sys2Proof/Laws/State.lean ====
section
/-!
SUPPORT. What each update of the state leaves: one lemma per field per update.
-/
namespace Sys2Proof.Machine

open Sys2Proof

@[simp] theorem State.setHart_cores (s : State) (h : Nat) (x : Hart) : (s.setHart h x).cores = s.cores := rfl
@[simp] theorem State.setHart_groups (s : State) (h : Nat) (x : Hart) : (s.setHart h x).groups = s.groups := rfl
@[simp] theorem State.setHart_kernels (s : State) (h : Nat) (x : Hart) : (s.setHart h x).kernels = s.kernels := rfl
@[simp] theorem State.setHart_ctxs (s : State) (h : Nat) (x : Hart) : (s.setHart h x).ctxs = s.ctxs := rfl
@[simp] theorem State.setHart_queues (s : State) (h : Nat) (x : Hart) : (s.setHart h x).queues = s.queues := rfl
@[simp] theorem State.setHart_mem (s : State) (h : Nat) (x : Hart) : (s.setHart h x).mem = s.mem := rfl
@[simp] theorem State.setHart_lines (s : State) (h : Nat) (x : Hart) : (s.setHart h x).lines = s.lines := rfl
@[simp] theorem State.setHart_hostMem (s : State) (h : Nat) (x : Hart) : (s.setHart h x).hostMem = s.hostMem := rfl
@[simp] theorem State.setHart_peerMem (s : State) (h : Nat) (x : Hart) : (s.setHart h x).peerMem = s.peerMem := rfl
@[simp] theorem State.setHart_outMarks (s : State) (h : Nat) (x : Hart) : (s.setHart h x).outMarks = s.outMarks := rfl
@[simp] theorem State.setHart_tlb (s : State) (h : Nat) (x : Hart) : (s.setHart h x).tlb = s.tlb := rfl
@[simp] theorem State.setHart_migs (s : State) (h : Nat) (x : Hart) : (s.setHart h x).migs = s.migs := rfl
@[simp] theorem State.setHart_copies (s : State) (h : Nat) (x : Hart) : (s.setHart h x).copies = s.copies := rfl
@[simp] theorem State.setHart_tables (s : State) (h : Nat) (x : Hart) : (s.setHart h x).tables = s.tables := rfl
@[simp] theorem State.setHart_chq (s : State) (h : Nat) (x : Hart) : (s.setHart h x).chq = s.chq := rfl
@[simp] theorem State.setHart_chseq (s : State) (h : Nat) (x : Hart) : (s.setHart h x).chseq = s.chseq := rfl
@[simp] theorem State.setHart_runs (s : State) (h : Nat) (x : Hart) : (s.setHart h x).runs = s.runs := rfl
@[simp] theorem State.setHart_queries (s : State) (h : Nat) (x : Hart) : (s.setHart h x).queries = s.queries := rfl
@[simp] theorem State.setHart_calls (s : State) (h : Nat) (x : Hart) : (s.setHart h x).calls = s.calls := rfl
@[simp] theorem State.setHart_regs (s : State) (h : Nat) (x : Hart) : (s.setHart h x).regs = s.regs := rfl
@[simp] theorem State.setHart_routes (s : State) (h : Nat) (x : Hart) : (s.setHart h x).routes = s.routes := rfl
@[simp] theorem State.setHart_lostDevs (s : State) (h : Nat) (x : Hart) : (s.setHart h x).lostDevs = s.lostDevs := rfl
@[simp] theorem State.setHart_ports (s : State) (h : Nat) (x : Hart) : (s.setHart h x).ports = s.ports := rfl
@[simp] theorem State.setHart_outq (s : State) (h : Nat) (x : Hart) : (s.setHart h x).outq = s.outq := rfl
@[simp] theorem State.setHart_mail (s : State) (h : Nat) (x : Hart) : (s.setHart h x).mail = s.mail := rfl
@[simp] theorem State.setHart_held (s : State) (h : Nat) (x : Hart) : (s.setHart h x).held = s.held := rfl
@[simp] theorem State.setHart_heldHost (s : State) (h : Nat) (x : Hart) : (s.setHart h x).heldHost = s.heldHost := rfl
@[simp] theorem State.setHart_islands (s : State) (h : Nat) (x : Hart) : (s.setHart h x).islands = s.islands := rfl
@[simp] theorem State.setHart_hot (s : State) (h : Nat) (x : Hart) : (s.setHart h x).hot = s.hot := rfl
@[simp] theorem State.setHart_msix (s : State) (h : Nat) (x : Hart) : (s.setHart h x).msix = s.msix := rfl
@[simp] theorem State.setHart_pcie (s : State) (h : Nat) (x : Hart) : (s.setHart h x).pcie = s.pcie := rfl
@[simp] theorem State.setHart_reply (s : State) (h : Nat) (x : Hart) : (s.setHart h x).reply = s.reply := rfl
@[simp] theorem State.setHart_fatal (s : State) (h : Nat) (x : Hart) : (s.setHart h x).fatal = s.fatal := rfl
@[simp] theorem State.setHart_serial (s : State) (h : Nat) (x : Hart) : (s.setHart h x).serial = s.serial := rfl
@[simp] theorem State.setHart_nextId (s : State) (h : Nat) (x : Hart) : (s.setHart h x).nextId = s.nextId := rfl
@[simp] theorem State.setHart_keyGen (s : State) (h : Nat) (x : Hart) : (s.setHart h x).keyGen = s.keyGen := rfl
@[simp] theorem State.setHart_qturn (s : State) (h : Nat) (x : Hart) : (s.setHart h x).qturn = s.qturn := rfl
@[simp] theorem State.setHart_cur (s : State) (h : Nat) (x : Hart) : (s.setHart h x).cur = s.cur := rfl
@[simp] theorem State.setHart_agenda (s : State) (h : Nat) (x : Hart) : (s.setHart h x).agenda = s.agenda := rfl
@[simp] theorem State.setHart_clock (s : State) (h : Nat) (x : Hart) : (s.setHart h x).clock = s.clock := rfl
@[simp] theorem State.setHart_fresh (s : State) (h : Nat) (x : Hart) : (s.setHart h x).fresh = s.fresh := rfl

@[simp] theorem State.setMe_cores (s : State) (x : Hart) : (s.setMe x).cores = s.cores := rfl
@[simp] theorem State.setMe_groups (s : State) (x : Hart) : (s.setMe x).groups = s.groups := rfl
@[simp] theorem State.setMe_kernels (s : State) (x : Hart) : (s.setMe x).kernels = s.kernels := rfl
@[simp] theorem State.setMe_ctxs (s : State) (x : Hart) : (s.setMe x).ctxs = s.ctxs := rfl
@[simp] theorem State.setMe_queues (s : State) (x : Hart) : (s.setMe x).queues = s.queues := rfl
@[simp] theorem State.setMe_mem (s : State) (x : Hart) : (s.setMe x).mem = s.mem := rfl
@[simp] theorem State.setMe_lines (s : State) (x : Hart) : (s.setMe x).lines = s.lines := rfl
@[simp] theorem State.setMe_hostMem (s : State) (x : Hart) : (s.setMe x).hostMem = s.hostMem := rfl
@[simp] theorem State.setMe_peerMem (s : State) (x : Hart) : (s.setMe x).peerMem = s.peerMem := rfl
@[simp] theorem State.setMe_outMarks (s : State) (x : Hart) : (s.setMe x).outMarks = s.outMarks := rfl
@[simp] theorem State.setMe_tlb (s : State) (x : Hart) : (s.setMe x).tlb = s.tlb := rfl
@[simp] theorem State.setMe_migs (s : State) (x : Hart) : (s.setMe x).migs = s.migs := rfl
@[simp] theorem State.setMe_copies (s : State) (x : Hart) : (s.setMe x).copies = s.copies := rfl
@[simp] theorem State.setMe_tables (s : State) (x : Hart) : (s.setMe x).tables = s.tables := rfl
@[simp] theorem State.setMe_chq (s : State) (x : Hart) : (s.setMe x).chq = s.chq := rfl
@[simp] theorem State.setMe_chseq (s : State) (x : Hart) : (s.setMe x).chseq = s.chseq := rfl
@[simp] theorem State.setMe_runs (s : State) (x : Hart) : (s.setMe x).runs = s.runs := rfl
@[simp] theorem State.setMe_queries (s : State) (x : Hart) : (s.setMe x).queries = s.queries := rfl
@[simp] theorem State.setMe_calls (s : State) (x : Hart) : (s.setMe x).calls = s.calls := rfl
@[simp] theorem State.setMe_regs (s : State) (x : Hart) : (s.setMe x).regs = s.regs := rfl
@[simp] theorem State.setMe_routes (s : State) (x : Hart) : (s.setMe x).routes = s.routes := rfl
@[simp] theorem State.setMe_lostDevs (s : State) (x : Hart) : (s.setMe x).lostDevs = s.lostDevs := rfl
@[simp] theorem State.setMe_ports (s : State) (x : Hart) : (s.setMe x).ports = s.ports := rfl
@[simp] theorem State.setMe_outq (s : State) (x : Hart) : (s.setMe x).outq = s.outq := rfl
@[simp] theorem State.setMe_mail (s : State) (x : Hart) : (s.setMe x).mail = s.mail := rfl
@[simp] theorem State.setMe_held (s : State) (x : Hart) : (s.setMe x).held = s.held := rfl
@[simp] theorem State.setMe_heldHost (s : State) (x : Hart) : (s.setMe x).heldHost = s.heldHost := rfl
@[simp] theorem State.setMe_islands (s : State) (x : Hart) : (s.setMe x).islands = s.islands := rfl
@[simp] theorem State.setMe_hot (s : State) (x : Hart) : (s.setMe x).hot = s.hot := rfl
@[simp] theorem State.setMe_msix (s : State) (x : Hart) : (s.setMe x).msix = s.msix := rfl
@[simp] theorem State.setMe_pcie (s : State) (x : Hart) : (s.setMe x).pcie = s.pcie := rfl
@[simp] theorem State.setMe_reply (s : State) (x : Hart) : (s.setMe x).reply = s.reply := rfl
@[simp] theorem State.setMe_fatal (s : State) (x : Hart) : (s.setMe x).fatal = s.fatal := rfl
@[simp] theorem State.setMe_serial (s : State) (x : Hart) : (s.setMe x).serial = s.serial := rfl
@[simp] theorem State.setMe_nextId (s : State) (x : Hart) : (s.setMe x).nextId = s.nextId := rfl
@[simp] theorem State.setMe_keyGen (s : State) (x : Hart) : (s.setMe x).keyGen = s.keyGen := rfl
@[simp] theorem State.setMe_qturn (s : State) (x : Hart) : (s.setMe x).qturn = s.qturn := rfl
@[simp] theorem State.setMe_cur (s : State) (x : Hart) : (s.setMe x).cur = s.cur := rfl
@[simp] theorem State.setMe_agenda (s : State) (x : Hart) : (s.setMe x).agenda = s.agenda := rfl
@[simp] theorem State.setMe_clock (s : State) (x : Hart) : (s.setMe x).clock = s.clock := rfl
@[simp] theorem State.setMe_fresh (s : State) (x : Hart) : (s.setMe x).fresh = s.fresh := rfl

@[simp] theorem State.modMe_cores (s : State) (f : Hart → Hart) : (s.modMe f).cores = s.cores := rfl
@[simp] theorem State.modMe_groups (s : State) (f : Hart → Hart) : (s.modMe f).groups = s.groups := rfl
@[simp] theorem State.modMe_kernels (s : State) (f : Hart → Hart) : (s.modMe f).kernels = s.kernels := rfl
@[simp] theorem State.modMe_ctxs (s : State) (f : Hart → Hart) : (s.modMe f).ctxs = s.ctxs := rfl
@[simp] theorem State.modMe_queues (s : State) (f : Hart → Hart) : (s.modMe f).queues = s.queues := rfl
@[simp] theorem State.modMe_mem (s : State) (f : Hart → Hart) : (s.modMe f).mem = s.mem := rfl
@[simp] theorem State.modMe_lines (s : State) (f : Hart → Hart) : (s.modMe f).lines = s.lines := rfl
@[simp] theorem State.modMe_hostMem (s : State) (f : Hart → Hart) : (s.modMe f).hostMem = s.hostMem := rfl
@[simp] theorem State.modMe_peerMem (s : State) (f : Hart → Hart) : (s.modMe f).peerMem = s.peerMem := rfl
@[simp] theorem State.modMe_outMarks (s : State) (f : Hart → Hart) : (s.modMe f).outMarks = s.outMarks := rfl
@[simp] theorem State.modMe_tlb (s : State) (f : Hart → Hart) : (s.modMe f).tlb = s.tlb := rfl
@[simp] theorem State.modMe_migs (s : State) (f : Hart → Hart) : (s.modMe f).migs = s.migs := rfl
@[simp] theorem State.modMe_copies (s : State) (f : Hart → Hart) : (s.modMe f).copies = s.copies := rfl
@[simp] theorem State.modMe_tables (s : State) (f : Hart → Hart) : (s.modMe f).tables = s.tables := rfl
@[simp] theorem State.modMe_chq (s : State) (f : Hart → Hart) : (s.modMe f).chq = s.chq := rfl
@[simp] theorem State.modMe_chseq (s : State) (f : Hart → Hart) : (s.modMe f).chseq = s.chseq := rfl
@[simp] theorem State.modMe_runs (s : State) (f : Hart → Hart) : (s.modMe f).runs = s.runs := rfl
@[simp] theorem State.modMe_queries (s : State) (f : Hart → Hart) : (s.modMe f).queries = s.queries := rfl
@[simp] theorem State.modMe_calls (s : State) (f : Hart → Hart) : (s.modMe f).calls = s.calls := rfl
@[simp] theorem State.modMe_regs (s : State) (f : Hart → Hart) : (s.modMe f).regs = s.regs := rfl
@[simp] theorem State.modMe_routes (s : State) (f : Hart → Hart) : (s.modMe f).routes = s.routes := rfl
@[simp] theorem State.modMe_lostDevs (s : State) (f : Hart → Hart) : (s.modMe f).lostDevs = s.lostDevs := rfl
@[simp] theorem State.modMe_ports (s : State) (f : Hart → Hart) : (s.modMe f).ports = s.ports := rfl
@[simp] theorem State.modMe_outq (s : State) (f : Hart → Hart) : (s.modMe f).outq = s.outq := rfl
@[simp] theorem State.modMe_mail (s : State) (f : Hart → Hart) : (s.modMe f).mail = s.mail := rfl
@[simp] theorem State.modMe_held (s : State) (f : Hart → Hart) : (s.modMe f).held = s.held := rfl
@[simp] theorem State.modMe_heldHost (s : State) (f : Hart → Hart) : (s.modMe f).heldHost = s.heldHost := rfl
@[simp] theorem State.modMe_islands (s : State) (f : Hart → Hart) : (s.modMe f).islands = s.islands := rfl
@[simp] theorem State.modMe_hot (s : State) (f : Hart → Hart) : (s.modMe f).hot = s.hot := rfl
@[simp] theorem State.modMe_msix (s : State) (f : Hart → Hart) : (s.modMe f).msix = s.msix := rfl
@[simp] theorem State.modMe_pcie (s : State) (f : Hart → Hart) : (s.modMe f).pcie = s.pcie := rfl
@[simp] theorem State.modMe_reply (s : State) (f : Hart → Hart) : (s.modMe f).reply = s.reply := rfl
@[simp] theorem State.modMe_fatal (s : State) (f : Hart → Hart) : (s.modMe f).fatal = s.fatal := rfl
@[simp] theorem State.modMe_serial (s : State) (f : Hart → Hart) : (s.modMe f).serial = s.serial := rfl
@[simp] theorem State.modMe_nextId (s : State) (f : Hart → Hart) : (s.modMe f).nextId = s.nextId := rfl
@[simp] theorem State.modMe_keyGen (s : State) (f : Hart → Hart) : (s.modMe f).keyGen = s.keyGen := rfl
@[simp] theorem State.modMe_qturn (s : State) (f : Hart → Hart) : (s.modMe f).qturn = s.qturn := rfl
@[simp] theorem State.modMe_cur (s : State) (f : Hart → Hart) : (s.modMe f).cur = s.cur := rfl
@[simp] theorem State.modMe_agenda (s : State) (f : Hart → Hart) : (s.modMe f).agenda = s.agenda := rfl
@[simp] theorem State.modMe_clock (s : State) (f : Hart → Hart) : (s.modMe f).clock = s.clock := rfl
@[simp] theorem State.modMe_fresh (s : State) (f : Hart → Hart) : (s.modMe f).fresh = s.fresh := rfl

@[simp] theorem State.modHart_cores (s : State) (h : Nat) (f : Hart → Hart) : (s.modHart h f).cores = s.cores := rfl
@[simp] theorem State.modHart_groups (s : State) (h : Nat) (f : Hart → Hart) : (s.modHart h f).groups = s.groups := rfl
@[simp] theorem State.modHart_kernels (s : State) (h : Nat) (f : Hart → Hart) : (s.modHart h f).kernels = s.kernels := rfl
@[simp] theorem State.modHart_ctxs (s : State) (h : Nat) (f : Hart → Hart) : (s.modHart h f).ctxs = s.ctxs := rfl
@[simp] theorem State.modHart_queues (s : State) (h : Nat) (f : Hart → Hart) : (s.modHart h f).queues = s.queues := rfl
@[simp] theorem State.modHart_mem (s : State) (h : Nat) (f : Hart → Hart) : (s.modHart h f).mem = s.mem := rfl
@[simp] theorem State.modHart_lines (s : State) (h : Nat) (f : Hart → Hart) : (s.modHart h f).lines = s.lines := rfl
@[simp] theorem State.modHart_hostMem (s : State) (h : Nat) (f : Hart → Hart) : (s.modHart h f).hostMem = s.hostMem := rfl
@[simp] theorem State.modHart_peerMem (s : State) (h : Nat) (f : Hart → Hart) : (s.modHart h f).peerMem = s.peerMem := rfl
@[simp] theorem State.modHart_outMarks (s : State) (h : Nat) (f : Hart → Hart) : (s.modHart h f).outMarks = s.outMarks := rfl
@[simp] theorem State.modHart_tlb (s : State) (h : Nat) (f : Hart → Hart) : (s.modHart h f).tlb = s.tlb := rfl
@[simp] theorem State.modHart_migs (s : State) (h : Nat) (f : Hart → Hart) : (s.modHart h f).migs = s.migs := rfl
@[simp] theorem State.modHart_copies (s : State) (h : Nat) (f : Hart → Hart) : (s.modHart h f).copies = s.copies := rfl
@[simp] theorem State.modHart_tables (s : State) (h : Nat) (f : Hart → Hart) : (s.modHart h f).tables = s.tables := rfl
@[simp] theorem State.modHart_chq (s : State) (h : Nat) (f : Hart → Hart) : (s.modHart h f).chq = s.chq := rfl
@[simp] theorem State.modHart_chseq (s : State) (h : Nat) (f : Hart → Hart) : (s.modHart h f).chseq = s.chseq := rfl
@[simp] theorem State.modHart_runs (s : State) (h : Nat) (f : Hart → Hart) : (s.modHart h f).runs = s.runs := rfl
@[simp] theorem State.modHart_queries (s : State) (h : Nat) (f : Hart → Hart) : (s.modHart h f).queries = s.queries := rfl
@[simp] theorem State.modHart_calls (s : State) (h : Nat) (f : Hart → Hart) : (s.modHart h f).calls = s.calls := rfl
@[simp] theorem State.modHart_regs (s : State) (h : Nat) (f : Hart → Hart) : (s.modHart h f).regs = s.regs := rfl
@[simp] theorem State.modHart_routes (s : State) (h : Nat) (f : Hart → Hart) : (s.modHart h f).routes = s.routes := rfl
@[simp] theorem State.modHart_lostDevs (s : State) (h : Nat) (f : Hart → Hart) : (s.modHart h f).lostDevs = s.lostDevs := rfl
@[simp] theorem State.modHart_ports (s : State) (h : Nat) (f : Hart → Hart) : (s.modHart h f).ports = s.ports := rfl
@[simp] theorem State.modHart_outq (s : State) (h : Nat) (f : Hart → Hart) : (s.modHart h f).outq = s.outq := rfl
@[simp] theorem State.modHart_mail (s : State) (h : Nat) (f : Hart → Hart) : (s.modHart h f).mail = s.mail := rfl
@[simp] theorem State.modHart_held (s : State) (h : Nat) (f : Hart → Hart) : (s.modHart h f).held = s.held := rfl
@[simp] theorem State.modHart_heldHost (s : State) (h : Nat) (f : Hart → Hart) : (s.modHart h f).heldHost = s.heldHost := rfl
@[simp] theorem State.modHart_islands (s : State) (h : Nat) (f : Hart → Hart) : (s.modHart h f).islands = s.islands := rfl
@[simp] theorem State.modHart_hot (s : State) (h : Nat) (f : Hart → Hart) : (s.modHart h f).hot = s.hot := rfl
@[simp] theorem State.modHart_msix (s : State) (h : Nat) (f : Hart → Hart) : (s.modHart h f).msix = s.msix := rfl
@[simp] theorem State.modHart_pcie (s : State) (h : Nat) (f : Hart → Hart) : (s.modHart h f).pcie = s.pcie := rfl
@[simp] theorem State.modHart_reply (s : State) (h : Nat) (f : Hart → Hart) : (s.modHart h f).reply = s.reply := rfl
@[simp] theorem State.modHart_fatal (s : State) (h : Nat) (f : Hart → Hart) : (s.modHart h f).fatal = s.fatal := rfl
@[simp] theorem State.modHart_serial (s : State) (h : Nat) (f : Hart → Hart) : (s.modHart h f).serial = s.serial := rfl
@[simp] theorem State.modHart_nextId (s : State) (h : Nat) (f : Hart → Hart) : (s.modHart h f).nextId = s.nextId := rfl
@[simp] theorem State.modHart_keyGen (s : State) (h : Nat) (f : Hart → Hart) : (s.modHart h f).keyGen = s.keyGen := rfl
@[simp] theorem State.modHart_qturn (s : State) (h : Nat) (f : Hart → Hart) : (s.modHart h f).qturn = s.qturn := rfl
@[simp] theorem State.modHart_cur (s : State) (h : Nat) (f : Hart → Hart) : (s.modHart h f).cur = s.cur := rfl
@[simp] theorem State.modHart_agenda (s : State) (h : Nat) (f : Hart → Hart) : (s.modHart h f).agenda = s.agenda := rfl
@[simp] theorem State.modHart_clock (s : State) (h : Nat) (f : Hart → Hart) : (s.modHart h f).clock = s.clock := rfl
@[simp] theorem State.modHart_fresh (s : State) (h : Nat) (f : Hart → Hart) : (s.modHart h f).fresh = s.fresh := rfl

@[simp] theorem State.setSr_cores (s : State) (r : BitVec 6) (v : Word) : (s.setSr r v).cores = s.cores := rfl
@[simp] theorem State.setSr_groups (s : State) (r : BitVec 6) (v : Word) : (s.setSr r v).groups = s.groups := rfl
@[simp] theorem State.setSr_kernels (s : State) (r : BitVec 6) (v : Word) : (s.setSr r v).kernels = s.kernels := rfl
@[simp] theorem State.setSr_ctxs (s : State) (r : BitVec 6) (v : Word) : (s.setSr r v).ctxs = s.ctxs := rfl
@[simp] theorem State.setSr_queues (s : State) (r : BitVec 6) (v : Word) : (s.setSr r v).queues = s.queues := rfl
@[simp] theorem State.setSr_mem (s : State) (r : BitVec 6) (v : Word) : (s.setSr r v).mem = s.mem := rfl
@[simp] theorem State.setSr_lines (s : State) (r : BitVec 6) (v : Word) : (s.setSr r v).lines = s.lines := rfl
@[simp] theorem State.setSr_hostMem (s : State) (r : BitVec 6) (v : Word) : (s.setSr r v).hostMem = s.hostMem := rfl
@[simp] theorem State.setSr_peerMem (s : State) (r : BitVec 6) (v : Word) : (s.setSr r v).peerMem = s.peerMem := rfl
@[simp] theorem State.setSr_outMarks (s : State) (r : BitVec 6) (v : Word) : (s.setSr r v).outMarks = s.outMarks := rfl
@[simp] theorem State.setSr_tlb (s : State) (r : BitVec 6) (v : Word) : (s.setSr r v).tlb = s.tlb := rfl
@[simp] theorem State.setSr_migs (s : State) (r : BitVec 6) (v : Word) : (s.setSr r v).migs = s.migs := rfl
@[simp] theorem State.setSr_copies (s : State) (r : BitVec 6) (v : Word) : (s.setSr r v).copies = s.copies := rfl
@[simp] theorem State.setSr_tables (s : State) (r : BitVec 6) (v : Word) : (s.setSr r v).tables = s.tables := rfl
@[simp] theorem State.setSr_chq (s : State) (r : BitVec 6) (v : Word) : (s.setSr r v).chq = s.chq := rfl
@[simp] theorem State.setSr_chseq (s : State) (r : BitVec 6) (v : Word) : (s.setSr r v).chseq = s.chseq := rfl
@[simp] theorem State.setSr_runs (s : State) (r : BitVec 6) (v : Word) : (s.setSr r v).runs = s.runs := rfl
@[simp] theorem State.setSr_queries (s : State) (r : BitVec 6) (v : Word) : (s.setSr r v).queries = s.queries := rfl
@[simp] theorem State.setSr_calls (s : State) (r : BitVec 6) (v : Word) : (s.setSr r v).calls = s.calls := rfl
@[simp] theorem State.setSr_regs (s : State) (r : BitVec 6) (v : Word) : (s.setSr r v).regs = s.regs := rfl
@[simp] theorem State.setSr_routes (s : State) (r : BitVec 6) (v : Word) : (s.setSr r v).routes = s.routes := rfl
@[simp] theorem State.setSr_lostDevs (s : State) (r : BitVec 6) (v : Word) : (s.setSr r v).lostDevs = s.lostDevs := rfl
@[simp] theorem State.setSr_ports (s : State) (r : BitVec 6) (v : Word) : (s.setSr r v).ports = s.ports := rfl
@[simp] theorem State.setSr_outq (s : State) (r : BitVec 6) (v : Word) : (s.setSr r v).outq = s.outq := rfl
@[simp] theorem State.setSr_mail (s : State) (r : BitVec 6) (v : Word) : (s.setSr r v).mail = s.mail := rfl
@[simp] theorem State.setSr_held (s : State) (r : BitVec 6) (v : Word) : (s.setSr r v).held = s.held := rfl
@[simp] theorem State.setSr_heldHost (s : State) (r : BitVec 6) (v : Word) : (s.setSr r v).heldHost = s.heldHost := rfl
@[simp] theorem State.setSr_islands (s : State) (r : BitVec 6) (v : Word) : (s.setSr r v).islands = s.islands := rfl
@[simp] theorem State.setSr_hot (s : State) (r : BitVec 6) (v : Word) : (s.setSr r v).hot = s.hot := rfl
@[simp] theorem State.setSr_msix (s : State) (r : BitVec 6) (v : Word) : (s.setSr r v).msix = s.msix := rfl
@[simp] theorem State.setSr_pcie (s : State) (r : BitVec 6) (v : Word) : (s.setSr r v).pcie = s.pcie := rfl
@[simp] theorem State.setSr_reply (s : State) (r : BitVec 6) (v : Word) : (s.setSr r v).reply = s.reply := rfl
@[simp] theorem State.setSr_fatal (s : State) (r : BitVec 6) (v : Word) : (s.setSr r v).fatal = s.fatal := rfl
@[simp] theorem State.setSr_serial (s : State) (r : BitVec 6) (v : Word) : (s.setSr r v).serial = s.serial := rfl
@[simp] theorem State.setSr_nextId (s : State) (r : BitVec 6) (v : Word) : (s.setSr r v).nextId = s.nextId := rfl
@[simp] theorem State.setSr_keyGen (s : State) (r : BitVec 6) (v : Word) : (s.setSr r v).keyGen = s.keyGen := rfl
@[simp] theorem State.setSr_qturn (s : State) (r : BitVec 6) (v : Word) : (s.setSr r v).qturn = s.qturn := rfl
@[simp] theorem State.setSr_cur (s : State) (r : BitVec 6) (v : Word) : (s.setSr r v).cur = s.cur := rfl
@[simp] theorem State.setSr_agenda (s : State) (r : BitVec 6) (v : Word) : (s.setSr r v).agenda = s.agenda := rfl
@[simp] theorem State.setSr_clock (s : State) (r : BitVec 6) (v : Word) : (s.setSr r v).clock = s.clock := rfl
@[simp] theorem State.setSr_fresh (s : State) (r : BitVec 6) (v : Word) : (s.setSr r v).fresh = s.fresh := rfl

@[simp] theorem State.setCore_harts (s : State) (c : Nat) (x : Core) : (s.setCore c x).harts = s.harts := rfl
@[simp] theorem State.setCore_groups (s : State) (c : Nat) (x : Core) : (s.setCore c x).groups = s.groups := rfl
@[simp] theorem State.setCore_kernels (s : State) (c : Nat) (x : Core) : (s.setCore c x).kernels = s.kernels := rfl
@[simp] theorem State.setCore_ctxs (s : State) (c : Nat) (x : Core) : (s.setCore c x).ctxs = s.ctxs := rfl
@[simp] theorem State.setCore_queues (s : State) (c : Nat) (x : Core) : (s.setCore c x).queues = s.queues := rfl
@[simp] theorem State.setCore_mem (s : State) (c : Nat) (x : Core) : (s.setCore c x).mem = s.mem := rfl
@[simp] theorem State.setCore_lines (s : State) (c : Nat) (x : Core) : (s.setCore c x).lines = s.lines := rfl
@[simp] theorem State.setCore_hostMem (s : State) (c : Nat) (x : Core) : (s.setCore c x).hostMem = s.hostMem := rfl
@[simp] theorem State.setCore_peerMem (s : State) (c : Nat) (x : Core) : (s.setCore c x).peerMem = s.peerMem := rfl
@[simp] theorem State.setCore_outMarks (s : State) (c : Nat) (x : Core) : (s.setCore c x).outMarks = s.outMarks := rfl
@[simp] theorem State.setCore_tlb (s : State) (c : Nat) (x : Core) : (s.setCore c x).tlb = s.tlb := rfl
@[simp] theorem State.setCore_migs (s : State) (c : Nat) (x : Core) : (s.setCore c x).migs = s.migs := rfl
@[simp] theorem State.setCore_copies (s : State) (c : Nat) (x : Core) : (s.setCore c x).copies = s.copies := rfl
@[simp] theorem State.setCore_tables (s : State) (c : Nat) (x : Core) : (s.setCore c x).tables = s.tables := rfl
@[simp] theorem State.setCore_chq (s : State) (c : Nat) (x : Core) : (s.setCore c x).chq = s.chq := rfl
@[simp] theorem State.setCore_chseq (s : State) (c : Nat) (x : Core) : (s.setCore c x).chseq = s.chseq := rfl
@[simp] theorem State.setCore_runs (s : State) (c : Nat) (x : Core) : (s.setCore c x).runs = s.runs := rfl
@[simp] theorem State.setCore_queries (s : State) (c : Nat) (x : Core) : (s.setCore c x).queries = s.queries := rfl
@[simp] theorem State.setCore_calls (s : State) (c : Nat) (x : Core) : (s.setCore c x).calls = s.calls := rfl
@[simp] theorem State.setCore_regs (s : State) (c : Nat) (x : Core) : (s.setCore c x).regs = s.regs := rfl
@[simp] theorem State.setCore_routes (s : State) (c : Nat) (x : Core) : (s.setCore c x).routes = s.routes := rfl
@[simp] theorem State.setCore_lostDevs (s : State) (c : Nat) (x : Core) : (s.setCore c x).lostDevs = s.lostDevs := rfl
@[simp] theorem State.setCore_ports (s : State) (c : Nat) (x : Core) : (s.setCore c x).ports = s.ports := rfl
@[simp] theorem State.setCore_outq (s : State) (c : Nat) (x : Core) : (s.setCore c x).outq = s.outq := rfl
@[simp] theorem State.setCore_mail (s : State) (c : Nat) (x : Core) : (s.setCore c x).mail = s.mail := rfl
@[simp] theorem State.setCore_held (s : State) (c : Nat) (x : Core) : (s.setCore c x).held = s.held := rfl
@[simp] theorem State.setCore_heldHost (s : State) (c : Nat) (x : Core) : (s.setCore c x).heldHost = s.heldHost := rfl
@[simp] theorem State.setCore_islands (s : State) (c : Nat) (x : Core) : (s.setCore c x).islands = s.islands := rfl
@[simp] theorem State.setCore_hot (s : State) (c : Nat) (x : Core) : (s.setCore c x).hot = s.hot := rfl
@[simp] theorem State.setCore_msix (s : State) (c : Nat) (x : Core) : (s.setCore c x).msix = s.msix := rfl
@[simp] theorem State.setCore_pcie (s : State) (c : Nat) (x : Core) : (s.setCore c x).pcie = s.pcie := rfl
@[simp] theorem State.setCore_reply (s : State) (c : Nat) (x : Core) : (s.setCore c x).reply = s.reply := rfl
@[simp] theorem State.setCore_fatal (s : State) (c : Nat) (x : Core) : (s.setCore c x).fatal = s.fatal := rfl
@[simp] theorem State.setCore_serial (s : State) (c : Nat) (x : Core) : (s.setCore c x).serial = s.serial := rfl
@[simp] theorem State.setCore_nextId (s : State) (c : Nat) (x : Core) : (s.setCore c x).nextId = s.nextId := rfl
@[simp] theorem State.setCore_keyGen (s : State) (c : Nat) (x : Core) : (s.setCore c x).keyGen = s.keyGen := rfl
@[simp] theorem State.setCore_qturn (s : State) (c : Nat) (x : Core) : (s.setCore c x).qturn = s.qturn := rfl
@[simp] theorem State.setCore_cur (s : State) (c : Nat) (x : Core) : (s.setCore c x).cur = s.cur := rfl
@[simp] theorem State.setCore_agenda (s : State) (c : Nat) (x : Core) : (s.setCore c x).agenda = s.agenda := rfl
@[simp] theorem State.setCore_clock (s : State) (c : Nat) (x : Core) : (s.setCore c x).clock = s.clock := rfl
@[simp] theorem State.setCore_fresh (s : State) (c : Nat) (x : Core) : (s.setCore c x).fresh = s.fresh := rfl

@[simp] theorem State.setGroup_harts (s : State) (g : Nat) (x : Group) : (s.setGroup g x).harts = s.harts := rfl
@[simp] theorem State.setGroup_cores (s : State) (g : Nat) (x : Group) : (s.setGroup g x).cores = s.cores := rfl
@[simp] theorem State.setGroup_kernels (s : State) (g : Nat) (x : Group) : (s.setGroup g x).kernels = s.kernels := rfl
@[simp] theorem State.setGroup_ctxs (s : State) (g : Nat) (x : Group) : (s.setGroup g x).ctxs = s.ctxs := rfl
@[simp] theorem State.setGroup_queues (s : State) (g : Nat) (x : Group) : (s.setGroup g x).queues = s.queues := rfl
@[simp] theorem State.setGroup_mem (s : State) (g : Nat) (x : Group) : (s.setGroup g x).mem = s.mem := rfl
@[simp] theorem State.setGroup_lines (s : State) (g : Nat) (x : Group) : (s.setGroup g x).lines = s.lines := rfl
@[simp] theorem State.setGroup_hostMem (s : State) (g : Nat) (x : Group) : (s.setGroup g x).hostMem = s.hostMem := rfl
@[simp] theorem State.setGroup_peerMem (s : State) (g : Nat) (x : Group) : (s.setGroup g x).peerMem = s.peerMem := rfl
@[simp] theorem State.setGroup_outMarks (s : State) (g : Nat) (x : Group) : (s.setGroup g x).outMarks = s.outMarks := rfl
@[simp] theorem State.setGroup_tlb (s : State) (g : Nat) (x : Group) : (s.setGroup g x).tlb = s.tlb := rfl
@[simp] theorem State.setGroup_migs (s : State) (g : Nat) (x : Group) : (s.setGroup g x).migs = s.migs := rfl
@[simp] theorem State.setGroup_copies (s : State) (g : Nat) (x : Group) : (s.setGroup g x).copies = s.copies := rfl
@[simp] theorem State.setGroup_tables (s : State) (g : Nat) (x : Group) : (s.setGroup g x).tables = s.tables := rfl
@[simp] theorem State.setGroup_chq (s : State) (g : Nat) (x : Group) : (s.setGroup g x).chq = s.chq := rfl
@[simp] theorem State.setGroup_chseq (s : State) (g : Nat) (x : Group) : (s.setGroup g x).chseq = s.chseq := rfl
@[simp] theorem State.setGroup_runs (s : State) (g : Nat) (x : Group) : (s.setGroup g x).runs = s.runs := rfl
@[simp] theorem State.setGroup_queries (s : State) (g : Nat) (x : Group) : (s.setGroup g x).queries = s.queries := rfl
@[simp] theorem State.setGroup_calls (s : State) (g : Nat) (x : Group) : (s.setGroup g x).calls = s.calls := rfl
@[simp] theorem State.setGroup_regs (s : State) (g : Nat) (x : Group) : (s.setGroup g x).regs = s.regs := rfl
@[simp] theorem State.setGroup_routes (s : State) (g : Nat) (x : Group) : (s.setGroup g x).routes = s.routes := rfl
@[simp] theorem State.setGroup_lostDevs (s : State) (g : Nat) (x : Group) : (s.setGroup g x).lostDevs = s.lostDevs := rfl
@[simp] theorem State.setGroup_ports (s : State) (g : Nat) (x : Group) : (s.setGroup g x).ports = s.ports := rfl
@[simp] theorem State.setGroup_outq (s : State) (g : Nat) (x : Group) : (s.setGroup g x).outq = s.outq := rfl
@[simp] theorem State.setGroup_mail (s : State) (g : Nat) (x : Group) : (s.setGroup g x).mail = s.mail := rfl
@[simp] theorem State.setGroup_held (s : State) (g : Nat) (x : Group) : (s.setGroup g x).held = s.held := rfl
@[simp] theorem State.setGroup_heldHost (s : State) (g : Nat) (x : Group) : (s.setGroup g x).heldHost = s.heldHost := rfl
@[simp] theorem State.setGroup_islands (s : State) (g : Nat) (x : Group) : (s.setGroup g x).islands = s.islands := rfl
@[simp] theorem State.setGroup_hot (s : State) (g : Nat) (x : Group) : (s.setGroup g x).hot = s.hot := rfl
@[simp] theorem State.setGroup_msix (s : State) (g : Nat) (x : Group) : (s.setGroup g x).msix = s.msix := rfl
@[simp] theorem State.setGroup_pcie (s : State) (g : Nat) (x : Group) : (s.setGroup g x).pcie = s.pcie := rfl
@[simp] theorem State.setGroup_reply (s : State) (g : Nat) (x : Group) : (s.setGroup g x).reply = s.reply := rfl
@[simp] theorem State.setGroup_fatal (s : State) (g : Nat) (x : Group) : (s.setGroup g x).fatal = s.fatal := rfl
@[simp] theorem State.setGroup_serial (s : State) (g : Nat) (x : Group) : (s.setGroup g x).serial = s.serial := rfl
@[simp] theorem State.setGroup_nextId (s : State) (g : Nat) (x : Group) : (s.setGroup g x).nextId = s.nextId := rfl
@[simp] theorem State.setGroup_keyGen (s : State) (g : Nat) (x : Group) : (s.setGroup g x).keyGen = s.keyGen := rfl
@[simp] theorem State.setGroup_qturn (s : State) (g : Nat) (x : Group) : (s.setGroup g x).qturn = s.qturn := rfl
@[simp] theorem State.setGroup_cur (s : State) (g : Nat) (x : Group) : (s.setGroup g x).cur = s.cur := rfl
@[simp] theorem State.setGroup_agenda (s : State) (g : Nat) (x : Group) : (s.setGroup g x).agenda = s.agenda := rfl
@[simp] theorem State.setGroup_clock (s : State) (g : Nat) (x : Group) : (s.setGroup g x).clock = s.clock := rfl
@[simp] theorem State.setGroup_fresh (s : State) (g : Nat) (x : Group) : (s.setGroup g x).fresh = s.fresh := rfl

@[simp] theorem State.setCtx_harts (s : State) (a : Nat) (x : Ctx) : (s.setCtx a x).harts = s.harts := rfl
@[simp] theorem State.setCtx_cores (s : State) (a : Nat) (x : Ctx) : (s.setCtx a x).cores = s.cores := rfl
@[simp] theorem State.setCtx_groups (s : State) (a : Nat) (x : Ctx) : (s.setCtx a x).groups = s.groups := rfl
@[simp] theorem State.setCtx_kernels (s : State) (a : Nat) (x : Ctx) : (s.setCtx a x).kernels = s.kernels := rfl
@[simp] theorem State.setCtx_queues (s : State) (a : Nat) (x : Ctx) : (s.setCtx a x).queues = s.queues := rfl
@[simp] theorem State.setCtx_mem (s : State) (a : Nat) (x : Ctx) : (s.setCtx a x).mem = s.mem := rfl
@[simp] theorem State.setCtx_lines (s : State) (a : Nat) (x : Ctx) : (s.setCtx a x).lines = s.lines := rfl
@[simp] theorem State.setCtx_hostMem (s : State) (a : Nat) (x : Ctx) : (s.setCtx a x).hostMem = s.hostMem := rfl
@[simp] theorem State.setCtx_peerMem (s : State) (a : Nat) (x : Ctx) : (s.setCtx a x).peerMem = s.peerMem := rfl
@[simp] theorem State.setCtx_outMarks (s : State) (a : Nat) (x : Ctx) : (s.setCtx a x).outMarks = s.outMarks := rfl
@[simp] theorem State.setCtx_tlb (s : State) (a : Nat) (x : Ctx) : (s.setCtx a x).tlb = s.tlb := rfl
@[simp] theorem State.setCtx_migs (s : State) (a : Nat) (x : Ctx) : (s.setCtx a x).migs = s.migs := rfl
@[simp] theorem State.setCtx_copies (s : State) (a : Nat) (x : Ctx) : (s.setCtx a x).copies = s.copies := rfl
@[simp] theorem State.setCtx_tables (s : State) (a : Nat) (x : Ctx) : (s.setCtx a x).tables = s.tables := rfl
@[simp] theorem State.setCtx_chq (s : State) (a : Nat) (x : Ctx) : (s.setCtx a x).chq = s.chq := rfl
@[simp] theorem State.setCtx_chseq (s : State) (a : Nat) (x : Ctx) : (s.setCtx a x).chseq = s.chseq := rfl
@[simp] theorem State.setCtx_runs (s : State) (a : Nat) (x : Ctx) : (s.setCtx a x).runs = s.runs := rfl
@[simp] theorem State.setCtx_queries (s : State) (a : Nat) (x : Ctx) : (s.setCtx a x).queries = s.queries := rfl
@[simp] theorem State.setCtx_calls (s : State) (a : Nat) (x : Ctx) : (s.setCtx a x).calls = s.calls := rfl
@[simp] theorem State.setCtx_regs (s : State) (a : Nat) (x : Ctx) : (s.setCtx a x).regs = s.regs := rfl
@[simp] theorem State.setCtx_routes (s : State) (a : Nat) (x : Ctx) : (s.setCtx a x).routes = s.routes := rfl
@[simp] theorem State.setCtx_lostDevs (s : State) (a : Nat) (x : Ctx) : (s.setCtx a x).lostDevs = s.lostDevs := rfl
@[simp] theorem State.setCtx_ports (s : State) (a : Nat) (x : Ctx) : (s.setCtx a x).ports = s.ports := rfl
@[simp] theorem State.setCtx_outq (s : State) (a : Nat) (x : Ctx) : (s.setCtx a x).outq = s.outq := rfl
@[simp] theorem State.setCtx_mail (s : State) (a : Nat) (x : Ctx) : (s.setCtx a x).mail = s.mail := rfl
@[simp] theorem State.setCtx_held (s : State) (a : Nat) (x : Ctx) : (s.setCtx a x).held = s.held := rfl
@[simp] theorem State.setCtx_heldHost (s : State) (a : Nat) (x : Ctx) : (s.setCtx a x).heldHost = s.heldHost := rfl
@[simp] theorem State.setCtx_islands (s : State) (a : Nat) (x : Ctx) : (s.setCtx a x).islands = s.islands := rfl
@[simp] theorem State.setCtx_hot (s : State) (a : Nat) (x : Ctx) : (s.setCtx a x).hot = s.hot := rfl
@[simp] theorem State.setCtx_msix (s : State) (a : Nat) (x : Ctx) : (s.setCtx a x).msix = s.msix := rfl
@[simp] theorem State.setCtx_pcie (s : State) (a : Nat) (x : Ctx) : (s.setCtx a x).pcie = s.pcie := rfl
@[simp] theorem State.setCtx_reply (s : State) (a : Nat) (x : Ctx) : (s.setCtx a x).reply = s.reply := rfl
@[simp] theorem State.setCtx_fatal (s : State) (a : Nat) (x : Ctx) : (s.setCtx a x).fatal = s.fatal := rfl
@[simp] theorem State.setCtx_serial (s : State) (a : Nat) (x : Ctx) : (s.setCtx a x).serial = s.serial := rfl
@[simp] theorem State.setCtx_nextId (s : State) (a : Nat) (x : Ctx) : (s.setCtx a x).nextId = s.nextId := rfl
@[simp] theorem State.setCtx_keyGen (s : State) (a : Nat) (x : Ctx) : (s.setCtx a x).keyGen = s.keyGen := rfl
@[simp] theorem State.setCtx_qturn (s : State) (a : Nat) (x : Ctx) : (s.setCtx a x).qturn = s.qturn := rfl
@[simp] theorem State.setCtx_cur (s : State) (a : Nat) (x : Ctx) : (s.setCtx a x).cur = s.cur := rfl
@[simp] theorem State.setCtx_agenda (s : State) (a : Nat) (x : Ctx) : (s.setCtx a x).agenda = s.agenda := rfl
@[simp] theorem State.setCtx_clock (s : State) (a : Nat) (x : Ctx) : (s.setCtx a x).clock = s.clock := rfl
@[simp] theorem State.setCtx_fresh (s : State) (a : Nat) (x : Ctx) : (s.setCtx a x).fresh = s.fresh := rfl

@[simp] theorem State.modCtx_harts (s : State) (a : Nat) (f : Ctx → Ctx) : (s.modCtx a f).harts = s.harts := rfl
@[simp] theorem State.modCtx_cores (s : State) (a : Nat) (f : Ctx → Ctx) : (s.modCtx a f).cores = s.cores := rfl
@[simp] theorem State.modCtx_groups (s : State) (a : Nat) (f : Ctx → Ctx) : (s.modCtx a f).groups = s.groups := rfl
@[simp] theorem State.modCtx_kernels (s : State) (a : Nat) (f : Ctx → Ctx) : (s.modCtx a f).kernels = s.kernels := rfl
@[simp] theorem State.modCtx_queues (s : State) (a : Nat) (f : Ctx → Ctx) : (s.modCtx a f).queues = s.queues := rfl
@[simp] theorem State.modCtx_mem (s : State) (a : Nat) (f : Ctx → Ctx) : (s.modCtx a f).mem = s.mem := rfl
@[simp] theorem State.modCtx_lines (s : State) (a : Nat) (f : Ctx → Ctx) : (s.modCtx a f).lines = s.lines := rfl
@[simp] theorem State.modCtx_hostMem (s : State) (a : Nat) (f : Ctx → Ctx) : (s.modCtx a f).hostMem = s.hostMem := rfl
@[simp] theorem State.modCtx_peerMem (s : State) (a : Nat) (f : Ctx → Ctx) : (s.modCtx a f).peerMem = s.peerMem := rfl
@[simp] theorem State.modCtx_outMarks (s : State) (a : Nat) (f : Ctx → Ctx) : (s.modCtx a f).outMarks = s.outMarks := rfl
@[simp] theorem State.modCtx_tlb (s : State) (a : Nat) (f : Ctx → Ctx) : (s.modCtx a f).tlb = s.tlb := rfl
@[simp] theorem State.modCtx_migs (s : State) (a : Nat) (f : Ctx → Ctx) : (s.modCtx a f).migs = s.migs := rfl
@[simp] theorem State.modCtx_copies (s : State) (a : Nat) (f : Ctx → Ctx) : (s.modCtx a f).copies = s.copies := rfl
@[simp] theorem State.modCtx_tables (s : State) (a : Nat) (f : Ctx → Ctx) : (s.modCtx a f).tables = s.tables := rfl
@[simp] theorem State.modCtx_chq (s : State) (a : Nat) (f : Ctx → Ctx) : (s.modCtx a f).chq = s.chq := rfl
@[simp] theorem State.modCtx_chseq (s : State) (a : Nat) (f : Ctx → Ctx) : (s.modCtx a f).chseq = s.chseq := rfl
@[simp] theorem State.modCtx_runs (s : State) (a : Nat) (f : Ctx → Ctx) : (s.modCtx a f).runs = s.runs := rfl
@[simp] theorem State.modCtx_queries (s : State) (a : Nat) (f : Ctx → Ctx) : (s.modCtx a f).queries = s.queries := rfl
@[simp] theorem State.modCtx_calls (s : State) (a : Nat) (f : Ctx → Ctx) : (s.modCtx a f).calls = s.calls := rfl
@[simp] theorem State.modCtx_regs (s : State) (a : Nat) (f : Ctx → Ctx) : (s.modCtx a f).regs = s.regs := rfl
@[simp] theorem State.modCtx_routes (s : State) (a : Nat) (f : Ctx → Ctx) : (s.modCtx a f).routes = s.routes := rfl
@[simp] theorem State.modCtx_lostDevs (s : State) (a : Nat) (f : Ctx → Ctx) : (s.modCtx a f).lostDevs = s.lostDevs := rfl
@[simp] theorem State.modCtx_ports (s : State) (a : Nat) (f : Ctx → Ctx) : (s.modCtx a f).ports = s.ports := rfl
@[simp] theorem State.modCtx_outq (s : State) (a : Nat) (f : Ctx → Ctx) : (s.modCtx a f).outq = s.outq := rfl
@[simp] theorem State.modCtx_mail (s : State) (a : Nat) (f : Ctx → Ctx) : (s.modCtx a f).mail = s.mail := rfl
@[simp] theorem State.modCtx_held (s : State) (a : Nat) (f : Ctx → Ctx) : (s.modCtx a f).held = s.held := rfl
@[simp] theorem State.modCtx_heldHost (s : State) (a : Nat) (f : Ctx → Ctx) : (s.modCtx a f).heldHost = s.heldHost := rfl
@[simp] theorem State.modCtx_islands (s : State) (a : Nat) (f : Ctx → Ctx) : (s.modCtx a f).islands = s.islands := rfl
@[simp] theorem State.modCtx_hot (s : State) (a : Nat) (f : Ctx → Ctx) : (s.modCtx a f).hot = s.hot := rfl
@[simp] theorem State.modCtx_msix (s : State) (a : Nat) (f : Ctx → Ctx) : (s.modCtx a f).msix = s.msix := rfl
@[simp] theorem State.modCtx_pcie (s : State) (a : Nat) (f : Ctx → Ctx) : (s.modCtx a f).pcie = s.pcie := rfl
@[simp] theorem State.modCtx_reply (s : State) (a : Nat) (f : Ctx → Ctx) : (s.modCtx a f).reply = s.reply := rfl
@[simp] theorem State.modCtx_fatal (s : State) (a : Nat) (f : Ctx → Ctx) : (s.modCtx a f).fatal = s.fatal := rfl
@[simp] theorem State.modCtx_serial (s : State) (a : Nat) (f : Ctx → Ctx) : (s.modCtx a f).serial = s.serial := rfl
@[simp] theorem State.modCtx_nextId (s : State) (a : Nat) (f : Ctx → Ctx) : (s.modCtx a f).nextId = s.nextId := rfl
@[simp] theorem State.modCtx_keyGen (s : State) (a : Nat) (f : Ctx → Ctx) : (s.modCtx a f).keyGen = s.keyGen := rfl
@[simp] theorem State.modCtx_qturn (s : State) (a : Nat) (f : Ctx → Ctx) : (s.modCtx a f).qturn = s.qturn := rfl
@[simp] theorem State.modCtx_cur (s : State) (a : Nat) (f : Ctx → Ctx) : (s.modCtx a f).cur = s.cur := rfl
@[simp] theorem State.modCtx_agenda (s : State) (a : Nat) (f : Ctx → Ctx) : (s.modCtx a f).agenda = s.agenda := rfl
@[simp] theorem State.modCtx_clock (s : State) (a : Nat) (f : Ctx → Ctx) : (s.modCtx a f).clock = s.clock := rfl
@[simp] theorem State.modCtx_fresh (s : State) (a : Nat) (f : Ctx → Ctx) : (s.modCtx a f).fresh = s.fresh := rfl

@[simp] theorem State.setKernel_harts (s : State) (k : Nat) (x : Kernel) : (s.setKernel k x).harts = s.harts := rfl
@[simp] theorem State.setKernel_cores (s : State) (k : Nat) (x : Kernel) : (s.setKernel k x).cores = s.cores := rfl
@[simp] theorem State.setKernel_groups (s : State) (k : Nat) (x : Kernel) : (s.setKernel k x).groups = s.groups := rfl
@[simp] theorem State.setKernel_ctxs (s : State) (k : Nat) (x : Kernel) : (s.setKernel k x).ctxs = s.ctxs := rfl
@[simp] theorem State.setKernel_queues (s : State) (k : Nat) (x : Kernel) : (s.setKernel k x).queues = s.queues := rfl
@[simp] theorem State.setKernel_mem (s : State) (k : Nat) (x : Kernel) : (s.setKernel k x).mem = s.mem := rfl
@[simp] theorem State.setKernel_lines (s : State) (k : Nat) (x : Kernel) : (s.setKernel k x).lines = s.lines := rfl
@[simp] theorem State.setKernel_hostMem (s : State) (k : Nat) (x : Kernel) : (s.setKernel k x).hostMem = s.hostMem := rfl
@[simp] theorem State.setKernel_peerMem (s : State) (k : Nat) (x : Kernel) : (s.setKernel k x).peerMem = s.peerMem := rfl
@[simp] theorem State.setKernel_outMarks (s : State) (k : Nat) (x : Kernel) : (s.setKernel k x).outMarks = s.outMarks := rfl
@[simp] theorem State.setKernel_tlb (s : State) (k : Nat) (x : Kernel) : (s.setKernel k x).tlb = s.tlb := rfl
@[simp] theorem State.setKernel_migs (s : State) (k : Nat) (x : Kernel) : (s.setKernel k x).migs = s.migs := rfl
@[simp] theorem State.setKernel_copies (s : State) (k : Nat) (x : Kernel) : (s.setKernel k x).copies = s.copies := rfl
@[simp] theorem State.setKernel_tables (s : State) (k : Nat) (x : Kernel) : (s.setKernel k x).tables = s.tables := rfl
@[simp] theorem State.setKernel_chq (s : State) (k : Nat) (x : Kernel) : (s.setKernel k x).chq = s.chq := rfl
@[simp] theorem State.setKernel_chseq (s : State) (k : Nat) (x : Kernel) : (s.setKernel k x).chseq = s.chseq := rfl
@[simp] theorem State.setKernel_runs (s : State) (k : Nat) (x : Kernel) : (s.setKernel k x).runs = s.runs := rfl
@[simp] theorem State.setKernel_queries (s : State) (k : Nat) (x : Kernel) : (s.setKernel k x).queries = s.queries := rfl
@[simp] theorem State.setKernel_calls (s : State) (k : Nat) (x : Kernel) : (s.setKernel k x).calls = s.calls := rfl
@[simp] theorem State.setKernel_regs (s : State) (k : Nat) (x : Kernel) : (s.setKernel k x).regs = s.regs := rfl
@[simp] theorem State.setKernel_routes (s : State) (k : Nat) (x : Kernel) : (s.setKernel k x).routes = s.routes := rfl
@[simp] theorem State.setKernel_lostDevs (s : State) (k : Nat) (x : Kernel) : (s.setKernel k x).lostDevs = s.lostDevs := rfl
@[simp] theorem State.setKernel_ports (s : State) (k : Nat) (x : Kernel) : (s.setKernel k x).ports = s.ports := rfl
@[simp] theorem State.setKernel_outq (s : State) (k : Nat) (x : Kernel) : (s.setKernel k x).outq = s.outq := rfl
@[simp] theorem State.setKernel_mail (s : State) (k : Nat) (x : Kernel) : (s.setKernel k x).mail = s.mail := rfl
@[simp] theorem State.setKernel_held (s : State) (k : Nat) (x : Kernel) : (s.setKernel k x).held = s.held := rfl
@[simp] theorem State.setKernel_heldHost (s : State) (k : Nat) (x : Kernel) : (s.setKernel k x).heldHost = s.heldHost := rfl
@[simp] theorem State.setKernel_islands (s : State) (k : Nat) (x : Kernel) : (s.setKernel k x).islands = s.islands := rfl
@[simp] theorem State.setKernel_hot (s : State) (k : Nat) (x : Kernel) : (s.setKernel k x).hot = s.hot := rfl
@[simp] theorem State.setKernel_msix (s : State) (k : Nat) (x : Kernel) : (s.setKernel k x).msix = s.msix := rfl
@[simp] theorem State.setKernel_pcie (s : State) (k : Nat) (x : Kernel) : (s.setKernel k x).pcie = s.pcie := rfl
@[simp] theorem State.setKernel_reply (s : State) (k : Nat) (x : Kernel) : (s.setKernel k x).reply = s.reply := rfl
@[simp] theorem State.setKernel_fatal (s : State) (k : Nat) (x : Kernel) : (s.setKernel k x).fatal = s.fatal := rfl
@[simp] theorem State.setKernel_serial (s : State) (k : Nat) (x : Kernel) : (s.setKernel k x).serial = s.serial := rfl
@[simp] theorem State.setKernel_nextId (s : State) (k : Nat) (x : Kernel) : (s.setKernel k x).nextId = s.nextId := rfl
@[simp] theorem State.setKernel_keyGen (s : State) (k : Nat) (x : Kernel) : (s.setKernel k x).keyGen = s.keyGen := rfl
@[simp] theorem State.setKernel_qturn (s : State) (k : Nat) (x : Kernel) : (s.setKernel k x).qturn = s.qturn := rfl
@[simp] theorem State.setKernel_cur (s : State) (k : Nat) (x : Kernel) : (s.setKernel k x).cur = s.cur := rfl
@[simp] theorem State.setKernel_agenda (s : State) (k : Nat) (x : Kernel) : (s.setKernel k x).agenda = s.agenda := rfl
@[simp] theorem State.setKernel_clock (s : State) (k : Nat) (x : Kernel) : (s.setKernel k x).clock = s.clock := rfl
@[simp] theorem State.setKernel_fresh (s : State) (k : Nat) (x : Kernel) : (s.setKernel k x).fresh = s.fresh := rfl

@[simp] theorem State.bump_harts (s : State) : (s.bump).harts = s.harts := rfl
@[simp] theorem State.bump_cores (s : State) : (s.bump).cores = s.cores := rfl
@[simp] theorem State.bump_groups (s : State) : (s.bump).groups = s.groups := rfl
@[simp] theorem State.bump_kernels (s : State) : (s.bump).kernels = s.kernels := rfl
@[simp] theorem State.bump_ctxs (s : State) : (s.bump).ctxs = s.ctxs := rfl
@[simp] theorem State.bump_queues (s : State) : (s.bump).queues = s.queues := rfl
@[simp] theorem State.bump_mem (s : State) : (s.bump).mem = s.mem := rfl
@[simp] theorem State.bump_lines (s : State) : (s.bump).lines = s.lines := rfl
@[simp] theorem State.bump_hostMem (s : State) : (s.bump).hostMem = s.hostMem := rfl
@[simp] theorem State.bump_peerMem (s : State) : (s.bump).peerMem = s.peerMem := rfl
@[simp] theorem State.bump_outMarks (s : State) : (s.bump).outMarks = s.outMarks := rfl
@[simp] theorem State.bump_tlb (s : State) : (s.bump).tlb = s.tlb := rfl
@[simp] theorem State.bump_migs (s : State) : (s.bump).migs = s.migs := rfl
@[simp] theorem State.bump_copies (s : State) : (s.bump).copies = s.copies := rfl
@[simp] theorem State.bump_tables (s : State) : (s.bump).tables = s.tables := rfl
@[simp] theorem State.bump_chq (s : State) : (s.bump).chq = s.chq := rfl
@[simp] theorem State.bump_chseq (s : State) : (s.bump).chseq = s.chseq := rfl
@[simp] theorem State.bump_runs (s : State) : (s.bump).runs = s.runs := rfl
@[simp] theorem State.bump_queries (s : State) : (s.bump).queries = s.queries := rfl
@[simp] theorem State.bump_calls (s : State) : (s.bump).calls = s.calls := rfl
@[simp] theorem State.bump_regs (s : State) : (s.bump).regs = s.regs := rfl
@[simp] theorem State.bump_routes (s : State) : (s.bump).routes = s.routes := rfl
@[simp] theorem State.bump_lostDevs (s : State) : (s.bump).lostDevs = s.lostDevs := rfl
@[simp] theorem State.bump_ports (s : State) : (s.bump).ports = s.ports := rfl
@[simp] theorem State.bump_outq (s : State) : (s.bump).outq = s.outq := rfl
@[simp] theorem State.bump_mail (s : State) : (s.bump).mail = s.mail := rfl
@[simp] theorem State.bump_held (s : State) : (s.bump).held = s.held := rfl
@[simp] theorem State.bump_heldHost (s : State) : (s.bump).heldHost = s.heldHost := rfl
@[simp] theorem State.bump_islands (s : State) : (s.bump).islands = s.islands := rfl
@[simp] theorem State.bump_hot (s : State) : (s.bump).hot = s.hot := rfl
@[simp] theorem State.bump_msix (s : State) : (s.bump).msix = s.msix := rfl
@[simp] theorem State.bump_pcie (s : State) : (s.bump).pcie = s.pcie := rfl
@[simp] theorem State.bump_reply (s : State) : (s.bump).reply = s.reply := rfl
@[simp] theorem State.bump_fatal (s : State) : (s.bump).fatal = s.fatal := rfl
@[simp] theorem State.bump_serial (s : State) : (s.bump).serial = s.serial := rfl
@[simp] theorem State.bump_nextId (s : State) : (s.bump).nextId = s.nextId := rfl
@[simp] theorem State.bump_keyGen (s : State) : (s.bump).keyGen = s.keyGen := rfl
@[simp] theorem State.bump_qturn (s : State) : (s.bump).qturn = s.qturn := rfl
@[simp] theorem State.bump_cur (s : State) : (s.bump).cur = s.cur := rfl
@[simp] theorem State.bump_agenda (s : State) : (s.bump).agenda = s.agenda := rfl
@[simp] theorem State.bump_clock (s : State) : (s.bump).clock = s.clock := rfl

@[simp] theorem State.setHart_harts (s : State) (h : Nat) (x : Hart) : (s.setHart h x).harts = smPut s.harts h x := rfl
@[simp] theorem State.setCore_cores (s : State) (c : Nat) (x : Core) : (s.setCore c x).cores = smPut s.cores c x := rfl
@[simp] theorem State.setGroup_groups (s : State) (g : Nat) (x : Group) : (s.setGroup g x).groups = smPut s.groups g x :=
  rfl
@[simp] theorem State.setCtx_ctxs (s : State) (a : Nat) (x : Ctx) : (s.setCtx a x).ctxs = smPut s.ctxs a x := rfl
@[simp] theorem State.setKernel_kernels (s : State) (k : Nat) (x : Kernel) :
    (s.setKernel k x).kernels = smPut s.kernels k x := rfl
@[simp] theorem State.bump_fresh (s : State) : s.bump.fresh = s.fresh + 1 := rfl

end Sys2Proof.Machine
end

