-- ==== Sys2Proof/Laws/Store.lean ====
section
/-!
SUPPORT. Finite maps and byte stores: what a read gives after a write, and that a write keeps the canonical form.
-/
namespace Sys2Proof.Machine

open Sys2Proof

/-! ## Finite maps -/

theorem smGet?_smPut {α : Type} (m : Sparse α) (k j : Nat) (v : α) :
    smGet? (smPut m k v) j = if j = k then some v else smGet? m j := by
  induction m with
  | nil => simp only [smPut, smGet?]; grind
  | cons p m ih => simp only [smPut]; grind [smGet?]

theorem smGet_smPut {α : Type} (d : α) (m : Sparse α) (k j : Nat) (v : α) :
    smGet d (smPut m k v) j = if j = k then v else smGet d m j := by
  simp only [smGet, smGet?_smPut]; split <;> rfl

@[simp] theorem smGet_smPut_same {α : Type} (d : α) (m : Sparse α) (k : Nat) (v : α) :
    smGet d (smPut m k v) k = v := by simp [smGet_smPut]

theorem smGet_smPut_other {α : Type} (d : α) (m : Sparse α) {k j : Nat} (v : α) (h : j ≠ k) :
    smGet d (smPut m k v) j = smGet d m j := by simp [smGet_smPut, h]

@[simp] theorem smPut_smPut {α : Type} (m : Sparse α) (k : Nat) (v w : α) :
    smPut (smPut m k v) k w = smPut m k w := by
  induction m with
  | nil => simp [smPut]
  | cons p m ih =>
    obtain ⟨i, x⟩ := p
    simp only [smPut]
    split
    · simp [smPut]
    · split
      · simp [smPut]
      · rename_i h1 h2; simp [smPut, h1, h2, ih]

/-! ## Byte stores -/

theorem bsGet_of_lt (m : ByteStore) (a : Nat) (h : ∀ p ∈ m, a < p.1) : bsGet m a = 0 := by
  induction m with
  | nil => rfl
  | cons p m ih =>
    obtain ⟨j, c⟩ := p
    have : j ≠ a := by have := h (j, c) (by simp); simp at this; omega
    simp only [bsGet, this, if_false]
    exact ih fun q hq => h q (by simp [hq])

/-- The canonical form by parts: the head's byte is not 0, the rest lies above it, and the rest is in that form. -/
theorem Memory.wf_cons (a : Nat) (b : Byte) (m : ByteStore) :
    Memory.wf ((a, b) :: m) = true ↔ b ≠ 0 ∧ (∀ p ∈ m, a < p.1) ∧ Memory.wf m = true := by
  induction m generalizing a b with
  | nil => simp [Memory.wf]
  | cons p m ih =>
    obtain ⟨c, d⟩ := p
    simp only [Memory.wf, Bool.and_eq_true, bne_iff_ne, ne_eq, decide_eq_true_eq, List.mem_cons, forall_eq_or_imp]
    constructor
    · rintro ⟨⟨h1, h2⟩, h3⟩
      exact ⟨h1, ⟨h2, fun p hp => lt_trans h2 (((ih c d).1 h3).2.1 p hp)⟩, h3⟩
    · rintro ⟨h1, ⟨h2, -⟩, h3⟩
      exact ⟨⟨h1, h2⟩, h3⟩

/-- Every listed address of a store with a byte written is the written one or was listed. -/
theorem mem_bsPut {m : ByteStore} {a : Nat} {b : Byte} {p : Host.Cell} (h : p ∈ bsPut m a b) : p = (a, b) ∨ p ∈ m := by
  induction m with
  | nil => by_cases hb : b = 0 <;> simp_all [bsPut]
  | cons q m ih =>
    obtain ⟨j, c⟩ := q
    simp only [bsPut] at h
    split at h
    · split at h <;> simp_all
    · split at h
      · split at h <;> simp_all; tauto
      · simp only [List.mem_cons] at h ⊢
        rcases h with h | h
        · exact .inr (.inl h)
        · rcases ih h with h | h
          · exact .inl h
          · exact .inr (.inr h)

theorem bsPut_wf (m : ByteStore) (a : Nat) (b : Byte) (h : Memory.wf m = true) : Memory.wf (bsPut m a b) = true := by
  induction m with
  | nil => simp only [bsPut]; split <;> simp_all [Memory.wf]
  | cons q m ih =>
    obtain ⟨j, c⟩ := q
    have hq := (Memory.wf_cons j c m).1 h
    simp only [bsPut]
    split
    · rename_i hlt
      split
      · exact h
      · rename_i hb
        refine (Memory.wf_cons a b _).2 ⟨hb, ?_, h⟩
        intro p hp
        rcases List.mem_cons.1 hp with rfl | hp
        · exact hlt
        · exact lt_trans hlt (hq.2.1 p hp)
    · split
      · rename_i _ he
        subst he
        split
        · exact hq.2.2
        · rename_i hb; exact (Memory.wf_cons a b m).2 ⟨hb, hq.2.1, hq.2.2⟩
      · refine (Memory.wf_cons j c _).2 ⟨hq.1, ?_, ih hq.2.2⟩
        intro p hp
        rcases mem_bsPut hp with rfl | hp
        · simp only; omega
        · exact hq.2.1 p hp

theorem bsGet_bsPut (m : ByteStore) (a x : Nat) (b : Byte) (h : Memory.wf m = true) :
    bsGet (bsPut m a b) x = if x = a then b else bsGet m x := by
  induction m with
  | nil => simp only [bsPut]; grind [bsGet]
  | cons q m ih =>
    obtain ⟨j, c⟩ := q
    have hq := (Memory.wf_cons j c m).1 h
    simp only [bsPut]
    split
    · rename_i hlt
      have h0 : bsGet ((j, c) :: m) a = 0 := bsGet_of_lt _ _ fun p hp => by
        rcases List.mem_cons.1 hp with rfl | hp
        · exact hlt
        · exact lt_trans hlt (hq.2.1 p hp)
      by_cases hx : x = a
      · subst hx; split
        · rename_i hb; simp [h0, hb]
        · simp [bsGet]
      · split
        · simp
        · have : a ≠ x := fun h => hx h.symm
          simp [bsGet, this]
    · split
      · rename_i _ he
        subst he
        have h0 : bsGet m a = 0 := bsGet_of_lt _ _ hq.2.1
        by_cases hx : x = a
        · subst hx; split
          · rename_i hb; simp [h0, hb]
          · simp [bsGet]
        · have : a ≠ x := fun h => hx h.symm
          split <;> simp [bsGet, this]
      · rename_i _ hne
        simp only [bsGet, ih hq.2.2]
        by_cases hx : j = x
        · subst hx; simp [hne, eq_comm]
        · simp [hx]

theorem bsWrite_wf (m : ByteStore) (a : Nat) (d : List Byte) (h : Memory.wf m = true) :
    Memory.wf (bsWrite m a d) = true := by
  induction d generalizing m a with
  | nil => exact h
  | cons b d ih => exact ih _ _ (bsPut_wf m a b h)

/-- A byte after a write: the written one inside the range, else the old one. -/
theorem bsGet_bsWrite (m : ByteStore) (a x : Nat) (d : List Byte) (h : Memory.wf m = true) :
    bsGet (bsWrite m a d) x = if a ≤ x ∧ x < a + d.length then d.getD (x - a) 0 else bsGet m x := by
  induction d generalizing m a with
  | nil => simp only [bsWrite, List.length_nil]; rw [if_neg]; omega
  | cons b d ih =>
    simp only [bsWrite, ih _ _ (bsPut_wf m a b h), bsGet_bsPut m a x b h, List.length_cons]
    by_cases hx : x = a
    · subst hx; simp
    · by_cases hr : a ≤ x ∧ x < a + (d.length + 1)
      · have h1 : a + 1 ≤ x ∧ x < a + 1 + d.length := by omega
        have h2 : x - a = (x - (a + 1)) + 1 := by omega
        rw [if_pos hr, if_pos h1, h2]; simp
      · have h1 : ¬ (a + 1 ≤ x ∧ x < a + 1 + d.length) := by omega
        rw [if_neg hr, if_neg h1, if_neg hx]

/-- Writing a list of bytes is writing its parts one after the other. -/
theorem bsWrite_append (m : ByteStore) (a : Nat) (d e : List Byte) :
    bsWrite m a (d ++ e) = bsWrite (bsWrite m a d) (a + d.length) e := by
  induction d generalizing m a with
  | nil => rfl
  | cons b d ih =>
    simp only [List.cons_append, bsWrite, ih, List.length_cons]
    rw [show a + 1 + d.length = a + (d.length + 1) by omega]

@[simp] theorem bsRead_length (m : ByteStore) (a n : Nat) : (bsRead m a n).length = n := by
  induction n generalizing a with
  | zero => rfl
  | succ n ih => simp [bsRead, ih]

theorem bsRead_congr (m m' : ByteStore) (a n : Nat) (h : ∀ x, a ≤ x → x < a + n → bsGet m x = bsGet m' x) :
    bsRead m a n = bsRead m' a n := by
  induction n generalizing a with
  | zero => rfl
  | succ n ih =>
    simp only [bsRead, h a (le_refl a) (by omega)]
    rw [ih (a + 1) fun x h1 h2 => h x (by omega) (by omega)]

/-- Reading back what was written. -/
theorem bsRead_bsWrite (m : ByteStore) (a : Nat) (d : List Byte) (h : Memory.wf m = true) :
    bsRead (bsWrite m a d) a d.length = d := by
  induction d generalizing m a with
  | nil => rfl
  | cons b d ih =>
    simp only [List.length_cons, bsRead, bsWrite]
    rw [ih _ _ (bsPut_wf m a b h), bsGet_bsWrite _ _ _ _ (bsPut_wf m a b h), if_neg (by omega), bsGet_bsPut m a a b h]
    simp

/-- Reading a range that a write does not touch. -/
theorem bsRead_bsWrite_apart (m : ByteStore) (a c n : Nat) (d : List Byte) (h : Memory.wf m = true)
    (ha : c + n ≤ a ∨ a + d.length ≤ c) : bsRead (bsWrite m a d) c n = bsRead m c n :=
  bsRead_congr _ _ _ _ fun x h1 h2 => by rw [bsGet_bsWrite m a x d h, if_neg (by omega)]

/-! ## Little-endian numbers (R3) -/

@[simp] theorem leBytes_length (n x : Nat) : (leBytes n x).length = n := by
  induction n generalizing x with
  | zero => rfl
  | succ n ih => simp [leBytes, ih]

theorem leNat_leBytes (n x : Nat) : leNat (leBytes n x) = x % 2 ^ (8 * n) := by
  induction n generalizing x with
  | zero => simp [leBytes, leNat, Nat.mod_one]
  | succ n ih =>
    simp only [leBytes, leNat, ih, BitVec.toNat_ofNat]
    rw [show 8 * (n + 1) = 8 + 8 * n by ring, pow_add, Nat.mod_mul]
    norm_num

theorem leNat_lt (l : List Byte) : leNat l < 2 ^ (8 * l.length) := by
  induction l with
  | nil => simp [leNat]
  | cons b l ih =>
    simp only [leNat, List.length_cons]
    have := b.isLt
    rw [show 8 * (l.length + 1) = 8 + 8 * l.length by ring, pow_add]
    omega

/-- A number written and read back. -/
theorem bsNat_bsWrite (m : ByteStore) (a n x : Nat) (h : Memory.wf m = true) :
    bsNat (bsWrite m a (leBytes n x)) a n = x % 2 ^ (8 * n) := by
  have := bsRead_bsWrite m a (leBytes n x) h
  rw [leBytes_length] at this
  rw [bsNat, this, leNat_leBytes]

end Sys2Proof.Machine
end

