-- ==== Sys2Proof/Laws/Registers.lean ====
section
/-!
SUPPORT. Harts by number, scalar and mask registers (R90, R140, R224), and an instruction that completes (R66).
-/
namespace Sys2Proof.Machine

open Sys2Proof

/-! ## Harts by number -/

theorem State.hart_setHart (s : State) (h j : Nat) (x : Hart) :
    (s.setHart h x).hart j = if j = h then x else s.hart j := by
  simp only [State.hart, State.setHart, smGet_smPut]

@[simp] theorem State.hart_setHart_same (s : State) (h : Nat) (x : Hart) : (s.setHart h x).hart h = x := by
  simp [State.hart_setHart]

@[simp] theorem State.me_setMe (s : State) (x : Hart) : (s.setMe x).me = x := State.hart_setHart_same s s.cur x

@[simp] theorem State.me_modMe (s : State) (f : Hart → Hart) : (s.modMe f).me = f s.me := State.me_setMe s (f s.me)

@[simp] theorem State.me_setSr (s : State) (r : BitVec 6) (v : Word) : (s.setSr r v).me = s.me.set r v :=
  State.me_modMe s _

@[simp] theorem State.setHart_setHart (s : State) (h : Nat) (x y : Hart) :
    (s.setHart h x).setHart h y = s.setHart h y := by
  simp [State.setHart]

@[simp] theorem State.setMe_setMe (s : State) (x y : Hart) : (s.setMe x).setMe y = s.setMe y :=
  State.setHart_setHart s s.cur x y

@[simp] theorem State.modMe_setMe (s : State) (x : Hart) (f : Hart → Hart) : (s.setMe x).modMe f = s.setMe (f x) := by
  simp [State.modMe]

@[simp] theorem State.modMe_modMe (s : State) (f g : Hart → Hart) : (s.modMe f).modMe g = s.setMe (g (f s.me)) := by
  simp [State.modMe]

theorem State.hart_setMe (s : State) (j : Nat) (x : Hart) : (s.setMe x).hart j = if j = s.cur then x else s.hart j :=
  State.hart_setHart s s.cur j x

theorem State.hart_setMe_other (s : State) {j : Nat} (x : Hart) (h : j ≠ s.cur) : (s.setMe x).hart j = s.hart j := by
  simp [State.hart_setMe, h]

@[simp] theorem State.hart_bump (s : State) (h : Nat) : s.bump.hart h = s.hart h := rfl

@[simp] theorem State.me_bump (s : State) : s.bump.me = s.me := rfl

/-! ## Register files -/

theorem vector_get_set {α : Type} [Inhabited α] {n : Nat} (v : Vector α n) (i j : Nat) (x : α) (hi : i < n) :
    (v.set! i x)[j]! = if j = i then x else v[j]! := by
  by_cases hj : j < n
  · rw [getElem!_pos _ j hj, getElem!_pos _ j hj]
    simp only [Vector.set!_eq_setIfInBounds, Vector.getElem_setIfInBounds]
    grind
  · have : j ≠ i := by omega
    rw [getElem!_neg _ j hj, getElem!_neg _ j hj, if_neg this]

/-! ## Scalar registers -/

@[simp] theorem Hart.get_zero (h : Hart) : h.get 0 = 0 := rfl

@[simp] theorem Hart.set_zero (h : Hart) (v : Word) : h.set 0 v = h := rfl

/-- A scalar register after a write: `s0` reads 0, the written register its value, every other what it was. -/
theorem Hart.get_set (h : Hart) (r q : BitVec 6) (v : Word) :
    (h.set r v).get q = if q = 0 then 0 else if q = r then v else h.get q := by
  have hr := r.isLt
  have hq := q.isLt
  have hn : q ≠ r → q.toNat ≠ r.toNat := fun he hh => he (BitVec.eq_of_toNat_eq hh)
  unfold Hart.get Hart.set
  by_cases h0 : q = 0
  · simp [h0]
  by_cases hr0 : r = 0
  · subst hr0; simp only [h0, if_false, if_true]
  simp only [h0, hr0, if_false]
  by_cases hl : h.level = .s
  · by_cases h56 : 56 ≤ r.toNat
    · simp only [hl, h56, and_self, if_true, true_and]
      have : r.toNat - 56 < 8 := by omega
      rw [vector_get_set _ _ _ _ this]
      grind
    · simp only [hl, h56, and_false, if_false, true_and]
      rw [vector_get_set _ _ _ _ (by omega)]
      grind
  · simp only [hl, false_and, if_false]
    rw [vector_get_set _ _ _ _ (by omega)]
    grind

/-! ## What each update of a hart leaves -/

@[simp] theorem Hart.set_pc (h : Hart) (r : BitVec 6) (v : Word) : (h.set r v).pc = h.pc := by
  simp only [Hart.set]; split <;> [rfl; split <;> rfl]
@[simp] theorem Hart.set_level (h : Hart) (r : BitVec 6) (v : Word) : (h.set r v).level = h.level := by
  simp only [Hart.set]; split <;> [rfl; split <;> rfl]
@[simp] theorem Hart.set_vreg (h : Hart) (r : BitVec 6) (v : Word) : (h.set r v).vreg = h.vreg := by
  simp only [Hart.set]; split <;> [rfl; split <;> rfl]
@[simp] theorem Hart.set_mreg (h : Hart) (r : BitVec 6) (v : Word) : (h.set r v).mreg = h.mreg := by
  simp only [Hart.set]; split <;> [rfl; split <;> rfl]
@[simp] theorem Hart.set_dreg (h : Hart) (r : BitVec 6) (v : Word) : (h.set r v).dreg = h.dreg := by
  simp only [Hart.set]; split <;> [rfl; split <;> rfl]
@[simp] theorem Hart.set_vl (h : Hart) (r : BitVec 6) (v : Word) : (h.set r v).vl = h.vl := by
  simp only [Hart.set]; split <;> [rfl; split <;> rfl]
@[simp] theorem Hart.set_vw (h : Hart) (r : BitVec 6) (v : Word) : (h.set r v).vw = h.vw := by
  simp only [Hart.set]; split <;> [rfl; split <;> rfl]
@[simp] theorem Hart.set_epr (h : Hart) (r : BitVec 6) (v : Word) : (h.set r v).epr = h.epr := by
  simp only [Hart.set]; split <;> [rfl; split <;> rfl]
@[simp] theorem Hart.set_carry (h : Hart) (r : BitVec 6) (v : Word) : (h.set r v).carry = h.carry := by
  simp only [Hart.set]; split <;> [rfl; split <;> rfl]
@[simp] theorem Hart.set_mshape (h : Hart) (r : BitVec 6) (v : Word) : (h.set r v).mshape = h.mshape := by
  simp only [Hart.set]; split <;> [rfl; split <;> rfl]
@[simp] theorem Hart.set_rowcnt (h : Hart) (r : BitVec 6) (v : Word) : (h.set r v).rowcnt = h.rowcnt := by
  simp only [Hart.set]; split <;> [rfl; split <;> rfl]
@[simp] theorem Hart.set_rowpitch (h : Hart) (r : BitVec 6) (v : Word) : (h.set r v).rowpitch = h.rowpitch := by
  simp only [Hart.set]; split <;> [rfl; split <;> rfl]
@[simp] theorem Hart.set_tagtab (h : Hart) (r : BitVec 6) (v : Word) : (h.set r v).tagtab = h.tagtab := by
  simp only [Hart.set]; split <;> [rfl; split <;> rfl]
@[simp] theorem Hart.set_frm (h : Hart) (r : BitVec 6) (v : Word) : (h.set r v).frm = h.frm := by
  simp only [Hart.set]; split <;> [rfl; split <;> rfl]
@[simp] theorem Hart.set_fflags (h : Hart) (r : BitVec 6) (v : Word) : (h.set r v).fflags = h.fflags := by
  simp only [Hart.set]; split <;> [rfl; split <;> rfl]
@[simp] theorem Hart.set_seed (h : Hart) (r : BitVec 6) (v : Word) : (h.set r v).seed = h.seed := by
  simp only [Hart.set]; split <;> [rfl; split <;> rfl]
@[simp] theorem Hart.set_ev (h : Hart) (r : BitVec 6) (v : Word) : (h.set r v).ev = h.ev := by
  simp only [Hart.set]; split <;> [rfl; split <;> rfl]
@[simp] theorem Hart.set_status (h : Hart) (r : BitVec 6) (v : Word) : (h.set r v).status = h.status := by
  simp only [Hart.set]; split <;> [rfl; split <;> rfl]
@[simp] theorem Hart.set_cause (h : Hart) (r : BitVec 6) (v : Word) : (h.set r v).cause = h.cause := by
  simp only [Hart.set]; split <;> [rfl; split <;> rfl]
@[simp] theorem Hart.set_tval (h : Hart) (r : BitVec 6) (v : Word) : (h.set r v).tval = h.tval := by
  simp only [Hart.set]; split <;> [rfl; split <;> rfl]
@[simp] theorem Hart.set_epc (h : Hart) (r : BitVec 6) (v : Word) : (h.set r v).epc = h.epc := by
  simp only [Hart.set]; split <;> [rfl; split <;> rfl]
@[simp] theorem Hart.set_matrix (h : Hart) (r : BitVec 6) (v : Word) : (h.set r v).matrix = h.matrix := by
  simp only [Hart.set]; split <;> [rfl; split <;> rfl]
@[simp] theorem Hart.set_fs (h : Hart) (r : BitVec 6) (v : Word) : (h.set r v).fs = h.fs := by
  simp only [Hart.set]; split <;> [rfl; split <;> rfl]
@[simp] theorem Hart.set_exited (h : Hart) (r : BitVec 6) (v : Word) : (h.set r v).exited = h.exited := by
  simp only [Hart.set]; split <;> [rfl; split <;> rfl]
@[simp] theorem Hart.set_saveDue (h : Hart) (r : BitVec 6) (v : Word) : (h.set r v).saveDue = h.saveDue := by
  simp only [Hart.set]; split <;> [rfl; split <;> rfl]
@[simp] theorem Hart.set_saved (h : Hart) (r : BitVec 6) (v : Word) : (h.set r v).saved = h.saved := by
  simp only [Hart.set]; split <;> [rfl; split <;> rfl]
@[simp] theorem Hart.set_binds (h : Hart) (r : BitVec 6) (v : Word) : (h.set r v).binds = h.binds := by
  simp only [Hart.set]; split <;> [rfl; split <;> rfl]
@[simp] theorem Hart.set_latches (h : Hart) (r : BitVec 6) (v : Word) : (h.set r v).latches = h.latches := by
  simp only [Hart.set]; split <;> [rfl; split <;> rfl]
@[simp] theorem Hart.set_pend (h : Hart) (r : BitVec 6) (v : Word) : (h.set r v).pend = h.pend := by
  simp only [Hart.set]; split <;> [rfl; split <;> rfl]
@[simp] theorem Hart.set_unacked (h : Hart) (r : BitVec 6) (v : Word) : (h.set r v).unacked = h.unacked := by
  simp only [Hart.set]; split <;> [rfl; split <;> rfl]
@[simp] theorem Hart.set_dropped (h : Hart) (r : BitVec 6) (v : Word) : (h.set r v).dropped = h.dropped := by
  simp only [Hart.set]; split <;> [rfl; split <;> rfl]
@[simp] theorem Hart.set_wait (h : Hart) (r : BitVec 6) (v : Word) : (h.set r v).wait = h.wait := by
  simp only [Hart.set]; split <;> [rfl; split <;> rfl]
@[simp] theorem Hart.set_strip (h : Hart) (r : BitVec 6) (v : Word) : (h.set r v).strip = h.strip := by
  simp only [Hart.set]; split <;> [rfl; split <;> rfl]
@[simp] theorem Hart.set_resumed (h : Hart) (r : BitVec 6) (v : Word) : (h.set r v).resumed = h.resumed := by
  simp only [Hart.set]; split <;> [rfl; split <;> rfl]
@[simp] theorem Hart.set_kept (h : Hart) (r : BitVec 6) (v : Word) : (h.set r v).kept = h.kept := by
  simp only [Hart.set]; split <;> [rfl; split <;> rfl]
@[simp] theorem Hart.set_dbgReg (h : Hart) (r : BitVec 6) (v : Word) : (h.set r v).dbgReg = h.dbgReg := by
  simp only [Hart.set]; split <;> [rfl; split <;> rfl]
@[simp] theorem Hart.set_dbg (h : Hart) (r : BitVec 6) (v : Word) : (h.set r v).dbg = h.dbg := by
  simp only [Hart.set]; split <;> [rfl; split <;> rfl]
@[simp] theorem Hart.set_group (h : Hart) (r : BitVec 6) (v : Word) : (h.set r v).group = h.group := by
  simp only [Hart.set]; split <;> [rfl; split <;> rfl]

@[simp] theorem Hart.setMask_sreg (h : Hart) (m : Nat) (v : BitVec 16384) : (h.setMask m v).sreg = h.sreg := by
  simp only [Hart.setMask]; split <;> rfl
@[simp] theorem Hart.setMask_sbank (h : Hart) (m : Nat) (v : BitVec 16384) : (h.setMask m v).sbank = h.sbank := by
  simp only [Hart.setMask]; split <;> rfl
@[simp] theorem Hart.setMask_pc (h : Hart) (m : Nat) (v : BitVec 16384) : (h.setMask m v).pc = h.pc := by
  simp only [Hart.setMask]; split <;> rfl
@[simp] theorem Hart.setMask_level (h : Hart) (m : Nat) (v : BitVec 16384) : (h.setMask m v).level = h.level := by
  simp only [Hart.setMask]; split <;> rfl
@[simp] theorem Hart.setMask_vreg (h : Hart) (m : Nat) (v : BitVec 16384) : (h.setMask m v).vreg = h.vreg := by
  simp only [Hart.setMask]; split <;> rfl
@[simp] theorem Hart.setMask_dreg (h : Hart) (m : Nat) (v : BitVec 16384) : (h.setMask m v).dreg = h.dreg := by
  simp only [Hart.setMask]; split <;> rfl
@[simp] theorem Hart.setMask_vl (h : Hart) (m : Nat) (v : BitVec 16384) : (h.setMask m v).vl = h.vl := by
  simp only [Hart.setMask]; split <;> rfl
@[simp] theorem Hart.setMask_epr (h : Hart) (m : Nat) (v : BitVec 16384) : (h.setMask m v).epr = h.epr := by
  simp only [Hart.setMask]; split <;> rfl
@[simp] theorem Hart.setMask_carry (h : Hart) (m : Nat) (v : BitVec 16384) : (h.setMask m v).carry = h.carry := by
  simp only [Hart.setMask]; split <;> rfl
@[simp] theorem Hart.setMask_mshape (h : Hart) (m : Nat) (v : BitVec 16384) : (h.setMask m v).mshape = h.mshape := by
  simp only [Hart.setMask]; split <;> rfl
@[simp] theorem Hart.setMask_rowcnt (h : Hart) (m : Nat) (v : BitVec 16384) : (h.setMask m v).rowcnt = h.rowcnt := by
  simp only [Hart.setMask]; split <;> rfl
@[simp] theorem Hart.setMask_rowpitch (h : Hart) (m : Nat) (v : BitVec 16384) : (h.setMask m v).rowpitch = h.rowpitch := by
  simp only [Hart.setMask]; split <;> rfl
@[simp] theorem Hart.setMask_tagtab (h : Hart) (m : Nat) (v : BitVec 16384) : (h.setMask m v).tagtab = h.tagtab := by
  simp only [Hart.setMask]; split <;> rfl
@[simp] theorem Hart.setMask_frm (h : Hart) (m : Nat) (v : BitVec 16384) : (h.setMask m v).frm = h.frm := by
  simp only [Hart.setMask]; split <;> rfl
@[simp] theorem Hart.setMask_fflags (h : Hart) (m : Nat) (v : BitVec 16384) : (h.setMask m v).fflags = h.fflags := by
  simp only [Hart.setMask]; split <;> rfl
@[simp] theorem Hart.setMask_seed (h : Hart) (m : Nat) (v : BitVec 16384) : (h.setMask m v).seed = h.seed := by
  simp only [Hart.setMask]; split <;> rfl
@[simp] theorem Hart.setMask_ev (h : Hart) (m : Nat) (v : BitVec 16384) : (h.setMask m v).ev = h.ev := by
  simp only [Hart.setMask]; split <;> rfl
@[simp] theorem Hart.setMask_status (h : Hart) (m : Nat) (v : BitVec 16384) : (h.setMask m v).status = h.status := by
  simp only [Hart.setMask]; split <;> rfl
@[simp] theorem Hart.setMask_cause (h : Hart) (m : Nat) (v : BitVec 16384) : (h.setMask m v).cause = h.cause := by
  simp only [Hart.setMask]; split <;> rfl
@[simp] theorem Hart.setMask_tval (h : Hart) (m : Nat) (v : BitVec 16384) : (h.setMask m v).tval = h.tval := by
  simp only [Hart.setMask]; split <;> rfl
@[simp] theorem Hart.setMask_epc (h : Hart) (m : Nat) (v : BitVec 16384) : (h.setMask m v).epc = h.epc := by
  simp only [Hart.setMask]; split <;> rfl
@[simp] theorem Hart.setMask_matrix (h : Hart) (m : Nat) (v : BitVec 16384) : (h.setMask m v).matrix = h.matrix := by
  simp only [Hart.setMask]; split <;> rfl
@[simp] theorem Hart.setMask_fs (h : Hart) (m : Nat) (v : BitVec 16384) : (h.setMask m v).fs = h.fs := by
  simp only [Hart.setMask]; split <;> rfl
@[simp] theorem Hart.setMask_exited (h : Hart) (m : Nat) (v : BitVec 16384) : (h.setMask m v).exited = h.exited := by
  simp only [Hart.setMask]; split <;> rfl
@[simp] theorem Hart.setMask_saveDue (h : Hart) (m : Nat) (v : BitVec 16384) : (h.setMask m v).saveDue = h.saveDue := by
  simp only [Hart.setMask]; split <;> rfl
@[simp] theorem Hart.setMask_saved (h : Hart) (m : Nat) (v : BitVec 16384) : (h.setMask m v).saved = h.saved := by
  simp only [Hart.setMask]; split <;> rfl
@[simp] theorem Hart.setMask_binds (h : Hart) (m : Nat) (v : BitVec 16384) : (h.setMask m v).binds = h.binds := by
  simp only [Hart.setMask]; split <;> rfl
@[simp] theorem Hart.setMask_latches (h : Hart) (m : Nat) (v : BitVec 16384) : (h.setMask m v).latches = h.latches := by
  simp only [Hart.setMask]; split <;> rfl
@[simp] theorem Hart.setMask_pend (h : Hart) (m : Nat) (v : BitVec 16384) : (h.setMask m v).pend = h.pend := by
  simp only [Hart.setMask]; split <;> rfl
@[simp] theorem Hart.setMask_unacked (h : Hart) (m : Nat) (v : BitVec 16384) : (h.setMask m v).unacked = h.unacked := by
  simp only [Hart.setMask]; split <;> rfl
@[simp] theorem Hart.setMask_dropped (h : Hart) (m : Nat) (v : BitVec 16384) : (h.setMask m v).dropped = h.dropped := by
  simp only [Hart.setMask]; split <;> rfl
@[simp] theorem Hart.setMask_wait (h : Hart) (m : Nat) (v : BitVec 16384) : (h.setMask m v).wait = h.wait := by
  simp only [Hart.setMask]; split <;> rfl
@[simp] theorem Hart.setMask_strip (h : Hart) (m : Nat) (v : BitVec 16384) : (h.setMask m v).strip = h.strip := by
  simp only [Hart.setMask]; split <;> rfl
@[simp] theorem Hart.setMask_resumed (h : Hart) (m : Nat) (v : BitVec 16384) : (h.setMask m v).resumed = h.resumed := by
  simp only [Hart.setMask]; split <;> rfl
@[simp] theorem Hart.setMask_kept (h : Hart) (m : Nat) (v : BitVec 16384) : (h.setMask m v).kept = h.kept := by
  simp only [Hart.setMask]; split <;> rfl
@[simp] theorem Hart.setMask_dbgReg (h : Hart) (m : Nat) (v : BitVec 16384) : (h.setMask m v).dbgReg = h.dbgReg := by
  simp only [Hart.setMask]; split <;> rfl
@[simp] theorem Hart.setMask_dbg (h : Hart) (m : Nat) (v : BitVec 16384) : (h.setMask m v).dbg = h.dbg := by
  simp only [Hart.setMask]; split <;> rfl
@[simp] theorem Hart.setMask_group (h : Hart) (m : Nat) (v : BitVec 16384) : (h.setMask m v).group = h.group := by
  simp only [Hart.setMask]; split <;> rfl

@[simp] theorem Hart.goTo_sreg (h : Hart) (a : Word) : (h.goTo a).sreg = h.sreg := rfl
@[simp] theorem Hart.goTo_sbank (h : Hart) (a : Word) : (h.goTo a).sbank = h.sbank := rfl
@[simp] theorem Hart.goTo_level (h : Hart) (a : Word) : (h.goTo a).level = h.level := rfl
@[simp] theorem Hart.goTo_vreg (h : Hart) (a : Word) : (h.goTo a).vreg = h.vreg := rfl
@[simp] theorem Hart.goTo_mreg (h : Hart) (a : Word) : (h.goTo a).mreg = h.mreg := rfl
@[simp] theorem Hart.goTo_dreg (h : Hart) (a : Word) : (h.goTo a).dreg = h.dreg := rfl
@[simp] theorem Hart.goTo_vl (h : Hart) (a : Word) : (h.goTo a).vl = h.vl := rfl
@[simp] theorem Hart.goTo_vw (h : Hart) (a : Word) : (h.goTo a).vw = h.vw := rfl
@[simp] theorem Hart.goTo_carry (h : Hart) (a : Word) : (h.goTo a).carry = h.carry := rfl
@[simp] theorem Hart.goTo_mshape (h : Hart) (a : Word) : (h.goTo a).mshape = h.mshape := rfl
@[simp] theorem Hart.goTo_rowcnt (h : Hart) (a : Word) : (h.goTo a).rowcnt = h.rowcnt := rfl
@[simp] theorem Hart.goTo_rowpitch (h : Hart) (a : Word) : (h.goTo a).rowpitch = h.rowpitch := rfl
@[simp] theorem Hart.goTo_tagtab (h : Hart) (a : Word) : (h.goTo a).tagtab = h.tagtab := rfl
@[simp] theorem Hart.goTo_frm (h : Hart) (a : Word) : (h.goTo a).frm = h.frm := rfl
@[simp] theorem Hart.goTo_fflags (h : Hart) (a : Word) : (h.goTo a).fflags = h.fflags := rfl
@[simp] theorem Hart.goTo_seed (h : Hart) (a : Word) : (h.goTo a).seed = h.seed := rfl
@[simp] theorem Hart.goTo_ev (h : Hart) (a : Word) : (h.goTo a).ev = h.ev := rfl
@[simp] theorem Hart.goTo_status (h : Hart) (a : Word) : (h.goTo a).status = h.status := rfl
@[simp] theorem Hart.goTo_cause (h : Hart) (a : Word) : (h.goTo a).cause = h.cause := rfl
@[simp] theorem Hart.goTo_tval (h : Hart) (a : Word) : (h.goTo a).tval = h.tval := rfl
@[simp] theorem Hart.goTo_epc (h : Hart) (a : Word) : (h.goTo a).epc = h.epc := rfl
@[simp] theorem Hart.goTo_matrix (h : Hart) (a : Word) : (h.goTo a).matrix = h.matrix := rfl
@[simp] theorem Hart.goTo_fs (h : Hart) (a : Word) : (h.goTo a).fs = h.fs := rfl
@[simp] theorem Hart.goTo_exited (h : Hart) (a : Word) : (h.goTo a).exited = h.exited := rfl
@[simp] theorem Hart.goTo_saveDue (h : Hart) (a : Word) : (h.goTo a).saveDue = h.saveDue := rfl
@[simp] theorem Hart.goTo_saved (h : Hart) (a : Word) : (h.goTo a).saved = h.saved := rfl
@[simp] theorem Hart.goTo_binds (h : Hart) (a : Word) : (h.goTo a).binds = h.binds := rfl
@[simp] theorem Hart.goTo_latches (h : Hart) (a : Word) : (h.goTo a).latches = h.latches := rfl
@[simp] theorem Hart.goTo_pend (h : Hart) (a : Word) : (h.goTo a).pend = h.pend := rfl
@[simp] theorem Hart.goTo_unacked (h : Hart) (a : Word) : (h.goTo a).unacked = h.unacked := rfl
@[simp] theorem Hart.goTo_dropped (h : Hart) (a : Word) : (h.goTo a).dropped = h.dropped := rfl
@[simp] theorem Hart.goTo_dbgReg (h : Hart) (a : Word) : (h.goTo a).dbgReg = h.dbgReg := rfl
@[simp] theorem Hart.goTo_dbg (h : Hart) (a : Word) : (h.goTo a).dbg = h.dbg := rfl
@[simp] theorem Hart.goTo_epr (h : Hart) (a : Word) : (h.goTo a).epr = h.epr := rfl
@[simp] theorem Hart.goTo_strip (h : Hart) (a : Word) : (h.goTo a).strip = h.strip := rfl
@[simp] theorem Hart.goTo_resumed (h : Hart) (a : Word) : (h.goTo a).resumed = h.resumed := rfl
@[simp] theorem Hart.goTo_kept (h : Hart) (a : Word) : (h.goTo a).kept = h.kept := rfl
@[simp] theorem Hart.goTo_group (h : Hart) (a : Word) : (h.goTo a).group = h.group := rfl
@[simp] theorem Hart.goTo_pc (h : Hart) (a : Word) : (h.goTo a).pc = a := rfl
@[simp] theorem Hart.goTo_wait (h : Hart) (a : Word) : (h.goTo a).wait = none := rfl

@[simp] theorem Hart.goTo_get (h : Hart) (a : Word) (r : BitVec 6) : (h.goTo a).get r = h.get r := by
  unfold Hart.get
  congr 1

@[simp] theorem Hart.goTo_mask (h : Hart) (a : Word) (m : Nat) : (h.goTo a).mask m = h.mask m := by
  simp only [Hart.mask, Hart.goTo_mreg]

@[simp] theorem Hart.setMask_get (h : Hart) (m : Nat) (v : BitVec 16384) (r : BitVec 6) :
    (h.setMask m v).get r = h.get r := by
  simp only [Hart.get, Hart.setMask_level, Hart.setMask_sbank, Hart.setMask_sreg]

/-- A mask register after a write: `m0` reads all ones, the written register its value, every other what it was. -/
theorem Hart.mask_setMask (h : Hart) (m q : Nat) (v : BitVec 16384) (hm : m < 16) :
    (h.setMask m v).mask q = if q = 0 then BitVec.allOnes 16384 else if q = m then v else h.mask q := by
  unfold Hart.mask Hart.setMask
  by_cases h0 : q = 0
  · rw [if_pos h0, if_pos h0]
  rw [if_neg h0, if_neg h0, if_neg h0]
  by_cases hm0 : m = 0
  · have : q ≠ m := by omega
    rw [if_pos hm0, if_neg this]
  rw [if_neg hm0]
  exact vector_get_set _ _ _ _ hm

/-! ## Completing -/

theorem stepAfter_of_not_steps (vec arr : Bool) (was : Hart) (s : State) (h : was.steps = false) :
    stepAfter vec arr was s = s := by
  simp [stepAfter, h]

theorem stepTrap_of_not_steps (was : Hart) (s : State) (h : was.steps = false) : stepTrap was s = s :=
  stepAfter_of_not_steps false false was s h

/-- An instruction that completes outside single-step: control reaches its target, and nothing else of the machine
changes. -/
theorem retireTo_of_not_steps (a : Word) (s : State) (h : s.me.steps = false) : retireTo a s = s.setMe (s.me.goTo a) := by
  simp [retireTo, stepTrap_of_not_steps _ _ h, State.modMe]

theorem retire_of_not_steps (s : State) (h : s.me.steps = false) : retire s = s.setMe (s.me.goTo (s.me.pc + 8)) :=
  retireTo_of_not_steps _ s h

@[simp] theorem Hart.set_steps (h : Hart) (r : BitVec 6) (v : Word) : (h.set r v).steps = h.steps := by
  simp [Hart.steps]

@[simp] theorem Hart.setMask_steps (h : Hart) (m : Nat) (v : BitVec 16384) : (h.setMask m v).steps = h.steps := by
  simp [Hart.steps]

theorem retireVec_of_not_steps (s : State) (h : s.me.steps = false) :
    retireVec s = s.setMe { s.me with epr := 0, kept := s.me.others, pc := s.me.pc + 8, wait := none } := by
  have h' : (s.modMe Hart.endVec).me.steps = false := by
    rw [State.me_modMe]; exact h
  rw [retireVec, retire_of_not_steps _ h', State.me_modMe, State.modMe, State.setMe_setMe]
  rfl

/-- A trap at level U: the hart enters the S runtime, and nothing else of the machine changes (R226). -/
theorem takeTrap_at_u (t : Trap) (s : State) (h : s.me.level = .u) : takeTrap t s = enterHandler s.cur t s := by
  simp [takeTrap, h]

theorem takeTrap_at_s (t : Trap) (s : State) (h : s.me.level = .s) : takeTrap t s = contextFault t s := by
  simp [takeTrap, h]

end Sys2Proof.Machine
end

