-- ==== Sys2Proof/Laws/Scalar.lean ====
section
/-!
SUPPORT. What an instruction leaves that writes one scalar register, or none, and completes.
-/
namespace Sys2Proof.Machine

open Sys2Proof

theorem onlyHart_setMe (s : State) (x : Hart) : OnlyHart s (s.setMe x) :=
  ⟨rfl, fun _ hj => State.hart_setMe_other s x hj⟩

theorem onlyHart_refl (s : State) : OnlyHart s s := ⟨rfl, fun _ _ => rfl⟩

theorem onlyHart_trans {s t u : State} (h1 : OnlyHart s t) (h2 : OnlyHart t u) : OnlyHart s u := by
  have hc : t.cur = s.cur := by have := congrArg State.cur h1.1; simpa using this
  refine ⟨?_, fun j hj => ?_⟩
  · have e1 := h1.1
    have e2 := h2.1
    calc ({ u with harts := s.harts } : State) = { ({ u with harts := t.harts } : State) with harts := s.harts } := rfl
      _ = { t with harts := s.harts } := by rw [e2]
      _ = s := e1
  · rw [h2.2 j (by rw [hc]; exact hj), h1.2 j hj]

/-- Memory is where it was when only the hart changed. -/
theorem onlyHart_memory {s t : State} (h : OnlyHart s t) : SameMemory s t := by
  have hm : ∀ l n, readLoc ({ t with harts := s.harts } : State) l n = readLoc t l n := by
    intro l n; cases l <;> rfl
  refine ⟨fun l n => ?_, ?_⟩
  · rw [← hm, h.1]
  · have := congrArg State.lines h.1; exact this

theorem scalarWrite_set (s : State) (sd : BitVec 6) (v : Word) (x : Hart)
    (h1 : x.sreg = (s.me.set sd v).sreg) (h2 : x.sbank = (s.me.set sd v).sbank) (h3 : x.level = s.me.level) :
    ScalarWrite sd v s (s.setMe x) := by
  have hg : ∀ r, x.get r = (s.me.set sd v).get r := by
    intro r; unfold Hart.get; rw [h1, h2, h3, Hart.set_level]
  have hsd := sd.isLt
  refine ⟨fun r => ?_, fun hl => ?_, fun hl r hr => ?_⟩
  · rw [State.sr, State.me_setMe, hg, Hart.get_set]; rfl
  · rw [State.me_setMe, h2]
    unfold Hart.set
    split
    · rfl
    · rw [if_neg (by rw [hl]; simp)]
  · rw [State.me_setMe, h1]
    unfold Hart.set
    split
    · rfl
    · by_cases h56 : 56 ≤ sd.toNat
      · rw [if_pos ⟨hl, h56⟩]
      · rw [if_neg (fun hh => h56 hh.2)]
        show (s.me.sreg.set! sd.toNat v)[r]! = _
        rw [vector_get_set _ _ _ _ (by omega), if_neg (by omega)]

/-- SR[SD] := v, then control at a target. -/
theorem retireTo_setSr (sd : BitVec 6) (v a : Word) (s : State) (hs : s.me.steps = false) :
    Writes sd v a s (retireTo a (s.setSr sd v)) := by
  have he : retireTo a (s.setSr sd v) = s.setMe ((s.me.set sd v).goTo a) := by
    rw [retireTo_of_not_steps _ _ (by simpa using hs), State.me_setSr, State.setSr, State.modMe, State.setMe_setMe]
  rw [he]
  refine ⟨scalarWrite_set s sd v _ rfl rfl (by simp), ⟨?_, ?_⟩, ?_, onlyHart_setMe _ _⟩
  · rw [State.me_setMe]; rfl
  · rw [State.me_setMe]; rfl
  · unfold ScalarFrame
    rw [State.me_setMe]
    unfold Hart.set Hart.goTo
    split
    · rfl
    · split <;> rfl

theorem writeSd_spec (sd : BitVec 6) (v : Word) (s : State) (hs : s.me.steps = false) :
    Writes sd v (s.me.pc + 8) s (writeSd sd v s) := by
  have : (s.setSr sd v).me.pc = s.me.pc := by simp
  rw [writeSd, retire, this]
  exact retireTo_setSr sd v _ s hs

/-- Control at a target, and nothing else. -/
theorem retireTo_spec (a : Word) (s : State) (hs : s.me.steps = false) : Passes a s (retireTo a s) := by
  rw [retireTo_of_not_steps _ _ hs]
  refine ⟨?_, ?_, ?_, ⟨?_, ?_⟩, onlyHart_setMe _ _⟩
  · unfold ScalarFrame; rw [State.me_setMe]; rfl
  all_goals rw [State.me_setMe]; rfl

end Sys2Proof.Machine
end

