-- ==== Sys2Proof/Laws/Vector.lean ====
section
/-!
SUPPORT. Vector registers as bytes and elements (R40, R108), instructions whose operands are not bound (R111), and what
an elementwise instruction leaves (R117).
-/
namespace Sys2Proof.Machine

open Sys2Proof

/-! ## Units of registers -/

/-- The byte offset of unit i and the bytes it takes under a tag (R40, R47). -/
def Tag.offset (t : Tag) (i : Nat) : Nat := if t.isSx then i * t.slotBytes else i * t.bytes

theorem Tag.blockBytes_le_slot (t : Tag) : t.isSx = true → t.blockBytes ≤ t.slotBytes := by
  cases t <;> decide

/-- The distance of two units (R40, R47). -/
def Tag.stride (t : Tag) : Nat := if t.isSx then t.slotBytes else t.bytes

theorem Tag.offset_eq (t : Tag) (i : Nat) : t.offset i = i * t.stride := by
  simp only [Tag.offset, Tag.stride]; split <;> rfl

theorem Tag.unitBytes_le_stride (t : Tag) : t.unitBytes ≤ t.stride := by cases t <;> decide

theorem Tag.stride_pos (t : Tag) : 0 < t.stride := by cases t <;> decide

theorem Tag.unitBytes_pos (t : Tag) : 0 < t.unitBytes := by cases t <;> decide

theorem Hart.unit_eq (h : Hart) (v : Nat) (t : Tag) (i : Nat) :
    h.unit v t i = bsNat (h.vreg[v]!) (t.offset i) t.unitBytes := by
  simp only [Hart.unit, Hart.elem, Hart.block, Tag.offset, Tag.unitBytes]; split <;> rfl

/-- The bytes of a unit's value, with the zero bytes that fill the slot of a block (R47). -/
def Tag.unitData (t : Tag) (x : Nat) : List Byte := leBytes t.unitBytes x ++ List.replicate (t.stride - t.unitBytes) 0

theorem Tag.unitData_length (t : Tag) (x : Nat) : (t.unitData x).length = t.stride := by
  have := t.unitBytes_le_stride
  simp only [Tag.unitData, List.length_append, leBytes_length, List.length_replicate]; omega

theorem Tag.unitData_getD (t : Tag) (x k : Nat) : (t.unitData x).getD k 0 = (leBytes t.unitBytes x).getD k 0 := by
  simp only [Tag.unitData, List.getD_eq_getElem?_getD, List.getElem?_append, leBytes_length]
  split
  · rfl
  · rename_i h
    rw [List.getElem?_eq_none (l := leBytes t.unitBytes x) (by rw [leBytes_length]; omega)]
    simp only [List.getElem?_replicate]
    split <;> rfl

theorem Tag.bytes_eq_unitBytes {t : Tag} (h : t.isSx = false) : t.bytes = t.unitBytes := by simp [Tag.unitBytes, h]

theorem padTo_eq (n : Nat) (l : List Byte) (h : l.length ≤ n) : padTo n l = l ++ List.replicate (n - l.length) 0 := by
  rw [padTo, List.take_append, List.take_of_length_le h, List.take_replicate, Nat.min_eq_left (Nat.sub_le _ _)]

theorem Hart.setUnit_eq (h : Hart) (v : Nat) (t : Tag) (i x : Nat) :
    h.setUnit v t i x =
      { h with vreg := h.vreg.set! v (bsWrite (h.vreg[v]!) (t.offset i) (t.unitData x)), vw := true } := by
  have hd : (if t.isSx then padTo t.slotBytes (leBytes t.blockBytes x) else leBytes t.bytes x) = t.unitData x := by
    unfold Tag.unitData Tag.unitBytes Tag.stride
    split
    · rename_i hx
      rw [padTo_eq _ _ (by rw [leBytes_length]; exact Tag.blockBytes_le_slot t hx), leBytes_length]
    · simp
  simp only [Hart.setUnit, hd, Tag.offset]

theorem Hart.setUnit_vecWf (h : Hart) (v : Nat) (t : Tag) (i x : Nat) (hv : v < 64) (hw : h.vecWf) :
    (h.setUnit v t i x).vecWf := by
  intro w
  rw [Hart.setUnit_eq]
  show Memory.wf ((h.vreg.set! v _)[w]!) = true
  rw [vector_get_set _ _ _ _ hv]
  split
  · exact bsWrite_wf _ _ _ (hw v)
  · exact hw w

/-- A byte of a register after a unit is written. -/
theorem Hart.setUnit_byte (h : Hart) (v w : Nat) (t : Tag) (i x b : Nat) (hv : v < 64) (hw : h.vecWf) :
    bsGet ((h.setUnit v t i x).vreg[w]!) b =
      if w = v ∧ t.offset i ≤ b ∧ b < t.offset i + t.stride then
        (leBytes t.unitBytes x).getD (b - t.offset i) 0
      else bsGet (h.vreg[w]!) b := by
  rw [Hart.setUnit_eq]
  show bsGet ((h.vreg.set! v _)[w]!) b = _
  rw [vector_get_set _ _ _ _ hv]
  by_cases hwv : w = v
  · subst hwv
    rw [if_pos rfl, bsGet_bsWrite _ _ _ _ (hw w), Tag.unitData_length, Tag.unitData_getD]
    simp
  · rw [if_neg hwv, if_neg (fun hh => hwv hh.1)]

/-- A unit after a unit is written: the written one holds the value's low bits, every other what it held. -/
theorem Hart.unit_setUnit (h : Hart) (v w : Nat) (t : Tag) (i j x : Nat) (hv : v < 64) (hw : h.vecWf) :
    (h.setUnit v t i x).unit w t j = if w = v ∧ j = i then x % 2 ^ (8 * t.unitBytes) else h.unit w t j := by
  rw [Hart.unit_eq, Hart.unit_eq]
  by_cases hwv : w = v
  · subst hwv
    have hr : (h.setUnit w t i x).vreg[w]! = bsWrite (h.vreg[w]!) (t.offset i) (t.unitData x) := by
      rw [Hart.setUnit_eq]
      show (h.vreg.set! w _)[w]! = _
      rw [vector_get_set _ _ _ _ hv, if_pos rfl]
    rw [hr]
    by_cases hj : j = i
    · subst hj
      rw [Tag.unitData, bsWrite_append, leBytes_length, bsNat,
        bsRead_bsWrite_apart _ _ _ _ _ (bsWrite_wf _ _ _ (hw w)) (.inl (le_refl _)), ← bsNat,
        bsNat_bsWrite _ _ _ _ (hw w)]
      simp
    · rw [if_neg (fun hh => hj hh.2)]
      have hs := t.unitBytes_le_stride
      have hap : t.offset j + t.unitBytes ≤ t.offset i ∨ t.offset i + (t.unitData x).length ≤ t.offset j := by
        rw [Tag.unitData_length, Tag.offset_eq, Tag.offset_eq]
        rcases Nat.lt_or_gt_of_ne hj with h1 | h1
        · left
          have : (j + 1) * t.stride ≤ i * t.stride := Nat.mul_le_mul_right _ h1
          rw [Nat.add_mul] at this; omega
        · right
          have : (i + 1) * t.stride ≤ j * t.stride := Nat.mul_le_mul_right _ h1
          rw [Nat.add_mul] at this; omega
      rw [bsNat, bsRead_bsWrite_apart _ _ _ _ _ (hw w) hap, bsNat]
  · rw [if_neg (fun hh => hwv hh.1)]
    have hr : (h.setUnit v t i x).vreg[w]! = h.vreg[w]! := by
      rw [Hart.setUnit_eq]
      show (h.vreg.set! v _)[w]! = _
      rw [vector_get_set _ _ _ _ hv, if_neg hwv]
    rw [hr]

theorem Hart.setUnits_vecWf (v : Nat) (t : Tag) (i : Nat) (l : List (Option Nat)) (h : Hart) (hv : v < 64)
    (hw : h.vecWf) : (Hart.setUnits v t i l h).vecWf := by
  induction l generalizing i h with
  | nil => exact hw
  | cons o l ih =>
    cases o with
    | none => exact ih _ _ hw
    | some x => exact ih _ _ (Hart.setUnit_vecWf h v t i x hv hw)

/-- Writing units changes the register's bytes and VW alone. -/
theorem Hart.setUnits_rest (v : Nat) (t : Tag) (i : Nat) (l : List (Option Nat)) (h : Hart) :
    { Hart.setUnits v t i l h with vreg := h.vreg, vw := h.vw } = h := by
  induction l generalizing i h with
  | nil => rfl
  | cons o l ih =>
    cases o with
    | none => exact ih _ _
    | some x =>
      have := ih (i + 1) (h.setUnit v t i x)
      rw [Hart.setUnits]
      have h2 : { Hart.setUnits v t (i + 1) l (h.setUnit v t i x) with vreg := h.vreg, vw := h.vw }
          = { ({ Hart.setUnits v t (i + 1) l (h.setUnit v t i x) with
                 vreg := (h.setUnit v t i x).vreg, vw := (h.setUnit v t i x).vw } : Hart) with
              vreg := h.vreg, vw := h.vw } := rfl
      rw [h2, this, Hart.setUnit_eq]

/-- A unit after a list of units is written from index i on. -/
theorem Hart.unit_setUnits (v w : Nat) (t : Tag) (i j : Nat) (l : List (Option Nat)) (h : Hart) (hv : v < 64)
    (hw : h.vecWf) :
    (Hart.setUnits v t i l h).unit w t j =
      if w = v ∧ i ≤ j ∧ j < i + l.length then
        (match l.getD (j - i) none with | some x => x % 2 ^ (8 * t.unitBytes) | none => h.unit w t j)
      else h.unit w t j := by
  induction l generalizing i h with
  | nil => simp only [Hart.setUnits, List.length_nil]; rw [if_neg]; omega
  | cons o l ih =>
    have key : ∀ (h' : Hart), h'.vecWf →
        (∀ j', h'.unit w t j' = if w = v ∧ j' = i then
          (match o with | some x => x % 2 ^ (8 * t.unitBytes) | none => h.unit w t j') else h.unit w t j') →
        (Hart.setUnits v t (i + 1) l h').unit w t j =
          if w = v ∧ i ≤ j ∧ j < i + (o :: l).length then
            (match (o :: l).getD (j - i) none with | some x => x % 2 ^ (8 * t.unitBytes) | none => h.unit w t j)
          else h.unit w t j := by
      intro h' hw' hu
      rw [ih _ _ hw']
      have hu' := hu j
      by_cases hwv : w = v
      · by_cases hj : j = i
        · subst hj
          rw [if_pos ⟨hwv, rfl⟩] at hu'
          have h1 : ¬ (w = v ∧ j + 1 ≤ j ∧ j < j + 1 + l.length) := by omega
          rw [if_neg h1, hu', if_pos (by simp [hwv])]
          simp
        · rw [if_neg (fun hh => hj hh.2)] at hu'
          rw [hu']
          by_cases hr : i ≤ j ∧ j < i + (l.length + 1)
          · have h1 : i + 1 ≤ j ∧ j < i + 1 + l.length := by omega
            have h2 : j - i = (j - (i + 1)) + 1 := by omega
            rw [if_pos ⟨hwv, h1⟩, if_pos ⟨hwv, by simpa using hr⟩, h2]
            simp
          · have h1 : ¬ (i + 1 ≤ j ∧ j < i + 1 + l.length) := by omega
            rw [if_neg (fun hh => h1 hh.2), if_neg (fun hh => hr (by simpa using hh.2))]
      · rw [if_neg (fun hh => hwv hh.1)] at hu'
        rw [if_neg (fun hh => hwv hh.1), if_neg (fun hh => hwv hh.1), hu']
    cases o with
    | none =>
      refine key h hw fun j' => ?_
      split <;> rfl
    | some x =>
      exact key _ (Hart.setUnit_vecWf h v t i x hv hw) fun j' => Hart.unit_setUnit h v w t i j' x hv hw

/-- A byte outside the written units keeps its value. -/
theorem Hart.setUnits_byte (v w : Nat) (t : Tag) (i b : Nat) (l : List (Option Nat)) (h : Hart) (hv : v < 64)
    (hw : h.vecWf) (hb : w ≠ v ∨ b < t.offset i ∨ t.offset (i + l.length) ≤ b) :
    bsGet ((Hart.setUnits v t i l h).vreg[w]!) b = bsGet (h.vreg[w]!) b := by
  induction l generalizing i h with
  | nil => rfl
  | cons o l ih =>
    have hs := t.unitBytes_le_stride
    have hlen : i + (o :: l).length = i + 1 + l.length := by simp; omega
    rw [hlen] at hb
    have hstep : t.offset i ≤ t.offset (i + 1) := by
      rw [Tag.offset_eq, Tag.offset_eq]; exact Nat.mul_le_mul_right _ (by omega)
    have hb' : w ≠ v ∨ b < t.offset (i + 1) ∨ t.offset (i + 1 + l.length) ≤ b := by omega
    cases o with
    | none => exact ih _ _ hw hb'
    | some x =>
      rw [Hart.setUnits, ih _ _ (Hart.setUnit_vecWf h v t i x hv hw) hb', Hart.setUnit_byte _ _ _ _ _ _ _ hv hw,
        if_neg]
      rintro ⟨h1, h2, h3⟩
      have h4 : t.offset (i + 1) ≤ t.offset (i + 1 + l.length) := by
        rw [Tag.offset_eq, Tag.offset_eq]; exact Nat.mul_le_mul_right _ (by omega)
      have h5 : t.offset (i + 1) = t.offset i + t.stride := by
        rw [Tag.offset_eq, Tag.offset_eq]; ring
      omega

/-! ## Operands that are not bound -/

/-- What n elements of a register that is not bound deliver. -/
def Hart.ownStrip (h : Hart) (ovr n v : Nat) : Strip :=
  let t := h.opTag ovr v
  { tag := t, vals := (List.range (if t.isSx then (n + 15) / 16 else n)).map (h.unit v t), skew := 0, flags := 0 }

theorem operandStrips_unbound (h ovr n : Nat) (l : List Nat) (s : State)
    (hl : ∀ v ∈ l, (s.hart h).binding? v = none) :
    operandStrips h ovr n l s = (s, .ok (l.map ((s.hart h).ownStrip ovr n))) := by
  induction l with
  | nil => rfl
  | cons v l ih =>
    have h1 := hl v (by simp)
    have h2 := ih fun w hw => hl w (by simp [hw])
    simp only [operandStrips, operandStrip, h1, h2, Hart.ownStrip, List.map_cons]

theorem readRefused_unbound (s : State) (h : Hart) (ovr n v : Nat) (hv : h.binding? v = none) :
    readRefused s h ovr n v = none := by simp [readRefused, hv]

theorem writeRefused_unbound (s : State) (h : Hart) (ovr : Nat) (never : Bool) (v : Nat) (hv : h.binding? v = none) :
    writeRefused s h ovr never v = none := by simp [writeRefused, hv]

theorem advanceAll_unbound (h n : Nat) (l : List Nat) (s : State) (hl : ∀ v ∈ l, (s.hart h).binding? v = none) :
    advanceAll h n l s = s := by
  have key : ∀ (l' : List Nat), (∀ v ∈ l', (s.hart h).binding? v = none) →
      l'.foldl (fun s v => match (s.hart h).binding? v with
        | some b => advance h n b s
        | none => s) s = s := by
    intro l'
    induction l' with
    | nil => intro; rfl
    | cons v l' ih =>
      intro hl'
      simp only [List.foldl_cons, hl' v (by simp)]
      exact ih fun w hw => hl' w (by simp [hw])
  exact key _ fun v hv => hl v (List.mem_eraseDups.1 hv)

theorem firstTrap_none (l : List (Option Trap)) (h : ∀ x ∈ l, x = none) : firstTrap l = none := by
  induction l with
  | nil => rfl
  | cons x l ih =>
    rw [h x (by simp), firstTrap]
    exact ih fun y hy => h y (by simp [hy])

theorem capCheck_none (s : State) (l : List (Tag × Nat)) (h : ∀ p ∈ l, s.me.len ≤ s.mvl p.1) : capCheck s l = none := by
  induction l with
  | nil => rfl
  | cons p l ih =>
    obtain ⟨t, q⟩ := p
    have := h (t, q) (by simp)
    simp only [capCheck]
    rw [if_neg (by simp only at this; omega)]
    exact ih fun y hy => h y (by simp [hy])

/-- The sources of an instruction outside element steps that has kept nothing, none of them bound. -/
theorem sourceStrips_unbound (ovr n : Nat) (src : List Nat) (s : State) (hk : s.me.keptNow = none)
    (he : s.me.elemSteps = false) (hs : ∀ v ∈ src, s.me.binding? v = none) :
    sourceStrips ovr n src s = (s, .ok (src.map (s.me.ownStrip ovr n))) := by
  rw [sourceStrips, hk, operandStrips_unbound s.cur ovr n src s hs]
  simp only [he, Bool.false_eq_true, if_false]
  rfl

/-- A vector instruction whose operands are not bound and whose tags and length its entry accepts, at its first element
or a resumption below VL, outside element steps: its body runs on what its registers hold. -/
theorem vecGo_unbound (ovr : Nat) (dst src : List Nat) (caps : List (Tag × Nat))
    (body : List Strip → State → State) (s : State)
    (hk : s.me.keptNow = none) (hst : s.me.elemSteps = false)
    (he : s.me.epr = 0 ∨ s.me.epr.toNat < s.me.len)
    (hd : ∀ v ∈ dst, s.me.binding? v = none) (hs : ∀ v ∈ src, s.me.binding? v = none)
    (hc : ∀ p ∈ caps, s.me.len ≤ s.mvl p.1) :
    vecGo ovr dst src none caps body s =
      if s.me.len = 0 then body (src.map fun v => { tag := s.me.opTag ovr v, vals := [], skew := 0, flags := 0 }) s
      else body (src.map (s.me.ownStrip ovr s.me.len)) s := by
  have h0 : ¬ (s.me.epr ≠ 0 ∧ s.me.len ≤ s.me.epr.toNat) := by
    rintro ⟨h1, h2⟩; rcases he with h | h
    · exact h1 h
    · omega
  have h1 : vecChecks s ovr dst src none caps = none := by
    apply firstTrap_none
    intro x hx
    simp only [List.mem_append, List.mem_map, List.mem_cons, List.not_mem_nil, or_false] at hx
    rcases hx with (⟨v, hv, rfl⟩ | ⟨v, hv, rfl⟩) | rfl | rfl
    · exact writeRefused_unbound _ _ _ _ _ (hd v hv)
    · exact readRefused_unbound _ _ _ _ _ (hs v hv)
    · rfl
    · exact capCheck_none _ _ hc
  simp only [vecGo, if_neg h0, hk, h1, Option.isSome_none, Bool.false_eq_true, if_false,
    sourceStrips_unbound ovr s.me.len src s hk hst hs]

end Sys2Proof.Machine
end

