-- ==== Sys2Proof/Laws/Elementwise.lean ====
section
/-!
SUPPORT. What an elementwise instruction whose operands are not bound leaves (R108, R117).
-/
namespace Sys2Proof.Machine

open Sys2Proof

theorem Hart.ownStrip_flat (h : Hart) (ovr n v e : Nat) (he : e < n) :
    ((h.ownStrip ovr n v).flat.1, (h.ownStrip ovr n v).flat.2.getD e 0) = h.source ovr v e := by
  unfold Strip.flat Hart.ownStrip Hart.source
  by_cases hx : (h.opTag ovr v).isSx = true
  · simp only [hx, if_true, List.drop_zero, Prod.mk.injEq, true_and]
    have key : ∀ (l : List Nat) (g : Nat → Nat → Nat) (e : Nat), e < 16 * l.length →
        (l.flatMap fun b => (List.range 16).map fun i => g b i).getD e 0 = g (l.getD (e / 16) 0) (e % 16) := by
      intro l g
      induction l with
      | nil => intro e he; simp at he
      | cons b l ih =>
        intro e he
        rw [List.flatMap_cons]
        by_cases h16 : e < 16
        · rw [List.getD_append _ _ _ _ (by simpa using h16)]
          have h1 : e / 16 = 0 := by omega
          have h2 : e % 16 = e := by omega
          rw [h1, h2]
          simp [List.getD_eq_getElem?_getD, h16]
        · rw [List.getD_append_right _ _ _ _ (by simpa using h16)]
          have h1 : e / 16 = (e - 16) / 16 + 1 := by omega
          have h2 : e % 16 = (e - 16) % 16 := by omega
          rw [h1, h2]
          simp only [List.length_map, List.length_range, List.getD_cons_succ]
          exact ih _ (by simp at he; omega)
    have hlen : e < 16 * ((List.range ((n + 15) / 16)).map (h.unit v (h.opTag ovr v))).length := by
      simp only [List.length_map, List.length_range]; omega
    have := key _ (fun b i => ((Tag.ffmt .f32).round .rne false 0 (sxElem (h.opTag ovr v) b i)).1) e hlen
    rw [this]
    have hk : e / 16 < (n + 15) / 16 := by omega
    simp [List.getD_eq_getElem?_getD, hk, Hart.unit, hx]
  · simp only [hx, if_false, Bool.false_eq_true]
    simp [List.getD_eq_getElem?_getD, he, Hart.unit, hx]

theorem Strip.flat_length (h : Hart) (ovr n v : Nat) : n ≤ (h.ownStrip ovr n v).flat.2.length := by
  unfold Strip.flat Hart.ownStrip
  by_cases hx : (h.opTag ovr v).isSx = true
  · simp only [hx, if_true, List.drop_zero, List.length_flatMap, List.map_map]
    simp only [Function.comp_def, List.length_map, List.length_range, List.map_const', List.sum_replicate, smul_eq_mul]
    omega
  · simp [hx]

/-- The row of elements that an instruction combines at an index below its length. -/
theorem Hart.sources_eq (h : Hart) (m ovr : Nat) (modAt : Option Nat) (src : List Nat) (e : Nat) (he : e < h.len) :
    rowAt (columns m h.len modAt (src.map (h.ownStrip ovr h.len))) e = h.sources m ovr modAt src e := by
  have hlt : ∀ j, (modIndex m e h.len) = some j → j < h.len := by
    intro j hj
    unfold modIndex at hj
    simp only at hj
    split at hj <;> (split at hj <;> [simp at hj; (simp only [Option.some.injEq] at hj; omega)])
  have h0 : m = 0 → modIndex m e h.len = some e := by
    intro hm; subst hm
    have : ¬ ((e : Int) < 0) := by omega
    simp [modIndex, this]
    omega
  unfold rowAt columns Hart.sources
  rw [List.map_map, List.zipIdx_map, List.map_map]
  apply List.map_congr_left
  intro p _
  obtain ⟨v, k⟩ := p
  simp only [Function.comp_apply, Prod.map_apply, id_eq]
  by_cases hk : modAt = some k
  · simp only [hk, if_true]
    unfold modified Hart.sourceMod
    by_cases hm : m = 0
    · rw [if_pos hm, h0 hm]; exact Hart.ownStrip_flat h ovr _ v e he
    · rw [if_neg hm]
      have hl := Strip.flat_length h ovr h.len v
      have hel : e < (h.ownStrip ovr h.len v).flat.2.length := by omega
      rw [List.getD_eq_getElem?_getD, List.getElem?_map, List.getElem?_zipIdx, List.getElem?_eq_getElem hel]
      simp only [Option.map_some, Option.getD_some, zero_add]
      rcases hj : modIndex m e h.len with _ | j
      · simp only
        have := Hart.ownStrip_flat h ovr h.len v e he
        rw [List.getD_eq_getElem?_getD, List.getElem?_eq_getElem hel, Option.getD_some] at this
        rw [← this]
        split <;> rfl
      · simp only
        have hh := Hart.ownStrip_flat h ovr h.len v j (hlt j hj)
        have h1 := Hart.ownStrip_flat h ovr h.len v e he
        exact hh
  · simp only [hk, if_false]
    exact Hart.ownStrip_flat h ovr _ v e he

/-! ## Results under the mask (R108) -/

theorem elemResults_length (active : Nat → Bool) (z d : Bool) (fn : Nat → Nat → Nat × Flags) (n e : Nat) (seed : Word) :
    (elemResults active z d fn n e seed).1.length = n := by
  induction n generalizing e seed with
  | zero => rfl
  | succ n ih => unfold elemResults; split <;> simp [ih]

theorem elemResults_congr (active active' : Nat → Bool) (z d : Bool) (fn fn' : Nat → Nat → Nat × Flags) (n e : Nat)
    (seed : Word) (ha : ∀ j, e ≤ j → j < e + n → active j = active' j)
    (hf : ∀ u j, e ≤ j → j < e + n → fn u j = fn' u j) :
    elemResults active z d fn n e seed = elemResults active' z d fn' n e seed := by
  induction n generalizing e seed with
  | zero => rfl
  | succ n ih =>
    have h1 := ha e (le_refl e) (by omega)
    unfold elemResults
    rw [h1]
    have h2 := fun s => ih (e + 1) s (fun j p q => ha j (by omega) (by omega)) (fun u j p q => hf u j (by omega) (by omega))
    split
    · simp only [h2, hf _ e (le_refl e) (by omega)]
    · simp only [h2]

/-- Without draws the generator stays, and each result is its element's own. -/
theorem elemResults_still (active : Nat → Bool) (z : Bool) (fn : Nat → Nat × Flags) (n e : Nat) (seed : Word) :
    (elemResults active z false (fun _ => fn) n e seed).2.2 = seed ∧
    (∀ k, k < n → (elemResults active z false (fun _ => fn) n e seed).1.getD k none =
      if active (e + k) then some (fn (e + k)).1 else if z then some 0 else none) ∧
    (∀ b, (elemResults active z false (fun _ => fn) n e seed).2.1.getLsbD b = true ↔
      ∃ k, k < n ∧ active (e + k) = true ∧ (fn (e + k)).2.getLsbD b = true) := by
  induction n generalizing e seed with
  | zero => simp [elemResults]
  | succ n ih =>
    obtain ⟨i1, i2, i3⟩ := ih (e + 1) seed
    have hidx : ∀ k, e + 1 + k = e + (k + 1) := fun k => by omega
    unfold elemResults
    by_cases ha : active e = true
    · simp only [ha, if_true, Bool.false_eq_true, if_false]
      refine ⟨i1, ?_, ?_⟩
      · intro k hk
        cases k with
        | zero => simp [ha]
        | succ k => rw [List.getD_cons_succ, i2 k (by omega), hidx]
      · intro b
        rw [BitVec.getLsbD_or, Bool.or_eq_true, i3]
        constructor
        · rintro (h | ⟨k, hk, h1, h2⟩)
          · exact ⟨0, by omega, by simpa using ha, by simpa using h⟩
          · exact ⟨k + 1, by omega, by rw [← hidx]; exact h1, by rw [← hidx]; exact h2⟩
        · rintro ⟨k, hk, h1, h2⟩
          cases k with
          | zero => exact .inl (by simpa using h2)
          | succ k => exact .inr ⟨k, by omega, by rw [hidx]; exact h1, by rw [hidx]; exact h2⟩
    · have ha' : active e = false := by simpa using ha
      simp only [ha', Bool.false_eq_true, if_false]
      refine ⟨i1, ?_, ?_⟩
      · intro k hk
        cases k with
        | zero => simp [ha']
        | succ k => rw [List.getD_cons_succ, i2 k (by omega), hidx]
      · intro b
        rw [i3]
        constructor
        · rintro ⟨k, hk, h1, h2⟩
          exact ⟨k + 1, by omega, by rw [← hidx]; exact h1, by rw [← hidx]; exact h2⟩
        · rintro ⟨k, hk, h1, h2⟩
          cases k with
          | zero => exact absurd (by simpa using h1) ha
          | succ k => exact ⟨k, by omega, by rw [hidx]; exact h1, by rw [hidx]; exact h2⟩

/-! ## The state after the instruction -/

theorem Hart.elemSteps_of_not_steps (h : Hart) (hs : h.steps = false) : h.elemSteps = false := by
  simp only [Hart.steps, Hart.elemSteps, Bool.and_eq_false_iff, Bool.or_eq_false_iff] at *
  tauto

theorem raise_eq (fl : Flags) (s : State) : raise fl s = s.setMe { s.me with fflags := s.me.fflags ||| fl } ∨
    (fl = 0 ∧ raise fl s = s) := by
  unfold raise; split
  · right; exact ⟨by assumption, rfl⟩
  · left; rfl

/-- The hart that an instruction leaves which wrote units of one register, raised flags and completed. -/
def Hart.vecDone (h : Hart) (vd : Nat) (td : Tag) (i : Nat) (outs : List (Option Nat)) (fl : Flags)
    (fin : Hart → Hart) : Hart :=
  let x := fin (Hart.setUnits vd td i outs h)
  { x with fflags := x.fflags ||| fl, epr := 0, kept := x.others, pc := x.pc + 8, wait := none }

/-- Writing the units of a destination that is not bound, and completing. -/
theorem vecWrite_plain (vd : Nat) (td : Tag) (i : Nat) (outs : List (Option Nat)) (acts : List Bool) (fl : Flags)
    (fin : Hart → Hart) (src : List Nat) (s : State) (hs : s.me.steps = false) (hd : s.me.binding? vd = none)
    (hr : ∀ v ∈ src, s.me.binding? v = none)
    (hf : ∀ h : Hart, (fin h).steps = h.steps ∧ (fin h).binds = h.binds ∧ (fin h).vl = h.vl) :
    vecWrite vd td i outs acts fl fin { e1 := s.me.len, src := src, strips := 0 } s = s.setMe (s.me.vecDone vd td i outs fl fin) := by
  have hrest := Hart.setUnits_rest vd td i outs s.me
  generalize hx : Hart.setUnits vd td i outs s.me = x at *
  have hb : x.binds = s.me.binds := by have := congrArg Hart.binds hrest; exact this
  have hvl : x.vl = s.me.vl := by have := congrArg Hart.vl hrest; exact this
  have hst : x.steps = s.me.steps := by have := congrArg Hart.steps hrest; exact this
  have hfx := hf x
  unfold vecWrite
  simp only [hd]
  have hm : s.modMe (fun h => fin (Hart.setUnits vd td i outs h)) = s.setMe (fin x) := by
    rw [State.modMe, hx]
  rw [hm]
  have hraise : raise fl (s.setMe (fin x)) = s.setMe { fin x with fflags := (fin x).fflags ||| fl } := by
    unfold raise; split
    · rename_i h0; subst h0
      congr 1
      rw [show (fin x).fflags ||| 0 = (fin x).fflags from by simp]
    · rw [State.modMe, State.me_setMe, State.setMe_setMe]
  rw [hraise]
  unfold vecEnd
  have hlen : (s.setMe { fin x with fflags := (fin x).fflags ||| fl }).me.len = s.me.len := by
    rw [State.me_setMe]; show (fin x).vl.toNat = s.me.vl.toNat; rw [hfx.2.2, hvl]
  have hadv : advanceAll (s.setMe { fin x with fflags := (fin x).fflags ||| fl }).cur
      (s.setMe { fin x with fflags := (fin x).fflags ||| fl }).me.len src
      (s.setMe { fin x with fflags := (fin x).fflags ||| fl })
      = s.setMe { fin x with fflags := (fin x).fflags ||| fl } := by
    apply advanceAll_unbound
    intro v hv
    have hme : (s.setMe { fin x with fflags := (fin x).fflags ||| fl }).hart
        (s.setMe { fin x with fflags := (fin x).fflags ||| fl }).cur = { fin x with fflags := (fin x).fflags ||| fl } :=
      State.me_setMe s _
    rw [hme]
    have := hr v hv
    unfold Hart.binding? at this ⊢
    show (fin x).binds.find? _ = none
    rw [hfx.2.1, hb]; exact this
  rw [if_neg (by rw [hlen]; omega), hadv, ite_self, show ∀ u, raise 0 u = u from fun u => if_pos rfl,
    retireVec_of_not_steps]
  · rw [State.me_setMe, State.setMe_setMe]
    simp only [Hart.vecDone, hx]
    rfl
  · rw [State.me_setMe]
    show (fin x).steps = false
    rw [hfx.1, hst, hs]

/-- An elementwise instruction whose operands are not bound, outside single-step, with tags and length its entry
accepts: the units from `epr` on are the results, and the instruction completes. -/
theorem runElementwise_plain (f : FmtV) (d : Elementwise) (s : State) (hs : s.me.steps = false)
    (hk : s.me.keptNow = none)
    (he : s.me.epr = 0 ∨ s.me.epr.toNat < s.me.len)
    (hd : s.me.binding? f.vd.toNat = none) (hb : ∀ v ∈ d.src, s.me.binding? v = none) (hr : d.refused = none)
    (hc : ∀ t ∈ s.me.opTag f.ovr.toNat f.vd.toNat :: d.src.map (s.me.opTag f.ovr.toNat), s.me.len ≤ s.mvl t) :
    let r := elemResults (s.me.active f.msk.toNat) (f.z = 1) d.draws
      (fun u e => d.fn u (s.me.sources f.mod.toNat f.ovr.toNat d.modAt d.src e))
      (s.me.len - s.me.epr.toNat) s.me.epr.toNat s.me.seed
    runElementwise f d s = .setMe s (s.me.vecDone f.vd.toNat (s.me.opTag f.ovr.toNat f.vd.toNat) s.me.epr.toNat r.1 r.2.1
      fun h => { h with seed := r.2.2 }) := by
  intro r
  have hcap : ∀ p ∈ withPos (s.me.opTag f.ovr.toNat f.vd.toNat :: d.src.map (s.me.opTag f.ovr.toNat)),
      s.me.len ≤ s.mvl p.1 := fun p hp => hc p.1 (List.fst_mem_of_mem_zipIdx hp)
  have hfin : ∀ (w : Word) (h : Hart), ({ h with seed := w } : Hart).steps = h.steps ∧
      ({ h with seed := w } : Hart).binds = h.binds ∧ ({ h with seed := w } : Hart).vl = h.vl :=
    fun w h => ⟨rfl, rfl, rfl⟩
  have hest := Hart.elemSteps_of_not_steps _ hs
  have hwin : s.me.window (s.me.opTag f.ovr.toNat f.vd.toNat) = (s.me.epr.toNat, s.me.len) := by
    simp [Hart.window, Hart.windowBy, hest]
  unfold runElementwise
  simp only
  rw [hr, vecGo_unbound _ _ _ _ _ _ hk hest he (by simpa using hd) hb hcap]
  simp only [hwin]
  split
  · rename_i h0
    have hn : s.me.len - s.me.epr.toNat = 0 := by omega
    have hr0 : r = ([], 0, s.me.seed) := by simp only [r, hn]; rfl
    have hx : ∀ (fn : Nat → Nat → Nat × Flags),
        elemResults (s.me.active f.msk.toNat) (f.z = 1) d.draws fn (s.me.len - s.me.epr.toNat) s.me.epr.toNat s.me.seed
          = ([], 0, s.me.seed) := by intro fn; rw [hn]; rfl
    have hsf : stripFlags (d.src.map fun v =>
        ({ tag := s.me.opTag f.ovr.toNat v, vals := [], skew := 0, flags := 0 } : Strip)) = 0 := by
      unfold stripFlags
      induction d.src with
      | nil => rfl
      | cons v l ih => simpa using ih
    rw [hx, hsf, hr0]
    exact vecWrite_plain _ _ _ _ _ _ _ _ _ hs hd hb (hfin _)
  · have hsf : stripFlags (d.src.map (s.me.ownStrip f.ovr.toNat s.me.len)) = 0 := by
      unfold stripFlags
      induction d.src with
      | nil => rfl
      | cons v l ih => simpa [Hart.ownStrip] using ih
    have hrr : elemResults (s.me.active f.msk.toNat) (f.z = 1) d.draws
        (fun u e => d.fn u (rowAt (columns f.mod.toNat s.me.len d.modAt
          (d.src.map (s.me.ownStrip f.ovr.toNat s.me.len))) e))
        (s.me.len - s.me.epr.toNat) s.me.epr.toNat s.me.seed = r := by
      apply elemResults_congr
      · intros; rfl
      · intro u j h1 h2
        rw [Hart.sources_eq _ _ _ _ _ _ (by omega)]
    rw [hrr, hsf]
    exact vecWrite_plain _ _ _ _ _ _ _ _ _ hs hd hb (hfin _)


theorem Hart.unit_elem (h : Hart) (v : Nat) (t : Tag) (e : Nat) (ht : t.isSx = false) : h.unit v t e = h.elem v t e := by
  simp [Hart.unit, ht]

/-- Writing units of one register leaves every other register. -/
theorem Hart.setUnits_other (v w : Nat) (t : Tag) (i : Nat) (l : List (Option Nat)) (h : Hart) (hv : v < 64)
    (hw : w ≠ v) : (Hart.setUnits v t i l h).vreg[w]! = h.vreg[w]! := by
  induction l generalizing i h with
  | nil => rfl
  | cons o l ih =>
    cases o with
    | none => exact ih _ _
    | some y =>
      rw [Hart.setUnits, ih, Hart.setUnit_eq]
      show (h.vreg.set! _ _)[w]! = _
      rw [vector_get_set _ _ _ _ hv, if_neg hw]

/-- What stays when an instruction wrote `outs` from unit i on, raised flags and left the generator at `seed`. -/
theorem vecDone_frame (s : State) (vd : Nat) (td : Tag) (i n : Nat) (outs : List (Option Nat)) (fl : Flags)
    (seed : Word) (hv : vd < 64) (hw : s.me.vecWf) (hn : i + outs.length ≤ n) :
    VecFrame vd td n (decide (seed ≠ s.me.seed)) s
      (s.setMe (s.me.vecDone vd td i outs fl fun h => { h with seed := seed })) := by
  have hrest := Hart.setUnits_rest vd td i outs s.me
  generalize hx : Hart.setUnits vd td i outs s.me = x at *
  have hreg : ∀ w : Nat, (s.me.vecDone vd td i outs fl fun h => { h with seed := seed }).vreg[w]! = x.vreg[w]! := by
    intro w; rw [← hx]; rfl
  have hpc : x.pc = s.me.pc := by have := congrArg Hart.pc hrest; exact this
  have hlv : x.level = s.me.level := by have := congrArg Hart.level hrest; exact this
  have hkp : x.kept = s.me.kept := by have := congrArg Hart.kept hrest; exact this
  refine ⟨⟨?_, ?_, ?_, ?_⟩, ?_, ?_, ?_, ?_, onlyHart_setMe _ _⟩
  · rw [State.me_setMe]; simp only [Hart.vecDone, hx, hpc]
  · rw [State.me_setMe]; rfl
  · rw [State.me_setMe]; rfl
  · rw [State.me_setMe]; simp only [Hart.vecDone, hx, Hart.others, hlv, hkp]
  · intro v hvd
    rw [State.me_setMe, hreg, ← hx]
    exact Hart.setUnits_other _ _ _ _ _ _ hv hvd
  · intro b hb
    rw [State.me_setMe, hreg, ← hx]
    apply Hart.setUnits_byte _ _ _ _ _ _ _ hv hw
    right; right
    have h1 : td.offset (i + outs.length) ≤ td.offset n := by
      rw [Tag.offset_eq, Tag.offset_eq]; exact Nat.mul_le_mul_right _ hn
    have h2 : td.offset n ≤ b := by
      unfold Tag.offset; exact hb
    omega
  · intro hse
    rw [State.me_setMe]
    show seed = _
    simpa using hse
  · rw [State.me_setMe]
    simp only [Hart.vecDone, hx]
    rw [← hrest]

/-- What an elementwise instruction leaves whose function draws nothing: each result is its function of the sources. -/
theorem runElementwise_result (f : FmtV) (d : Elementwise) (fn : List (Tag × Nat) → Nat × Flags) (s : State)
   (hd : d.draws = false) (hfn : ∀ u xs, d.fn u xs = fn xs)
   (hrdy : VecReady s (f.vd.toNat :: d.src)) (hr : d.refused = none)
   (hsx : (s.me.opTag f.ovr.toNat f.vd.toNat).isSx = false)
   (hc : VecFits s (s.me.opTag f.ovr.toNat f.vd.toNat :: d.src.map (s.me.opTag f.ovr.toNat))) :
   Elementwise.result f (s.me.opTag f.ovr.toNat f.vd.toNat) (fun e => fn (s.me.sources f.mod.toNat f.ovr.toNat d.modAt d.src e)) s
     (runElementwise f d s) := by
  obtain ⟨hs, hk, hw, he, hb⟩ := hrdy
  have hv := f.vd.isLt
  rw [runElementwise_plain f d s hs hk he (hb _ (by simp)) (fun v hv => hb v (by simp [hv])) hr hc]
  rw [hd]
  have hee : elemResults (s.me.active f.msk.toNat) (decide (f.z = 1)) false (fun u e => d.fn u (s.me.sources f.mod.toNat f.ovr.toNat d.modAt d.src e)) (s.me.len - s.me.epr.toNat) s.me.epr.toNat s.me.seed
     = elemResults (s.me.active f.msk.toNat) (decide (f.z = 1)) false (fun _ e => fn (s.me.sources f.mod.toNat f.ovr.toNat d.modAt d.src e)) (s.me.len - s.me.epr.toNat) s.me.epr.toNat s.me.seed := by
    apply elemResults_congr
    · intros; rfl
    · intros; exact hfn _ _
  rw [hee]
  obtain ⟨r1, r2, r3⟩ := elemResults_still (s.me.active f.msk.toNat) (decide (f.z = 1)) (fun e => fn (s.me.sources f.mod.toNat f.ovr.toNat d.modAt d.src e)) (s.me.len - s.me.epr.toNat) s.me.epr.toNat s.me.seed
  have rl := elemResults_length (s.me.active f.msk.toNat) (decide (f.z = 1)) false (fun _ e => fn (s.me.sources f.mod.toNat f.ovr.toNat d.modAt d.src e)) (s.me.len - s.me.epr.toNat) s.me.epr.toNat s.me.seed
  generalize elemResults (s.me.active f.msk.toNat) (decide (f.z = 1)) false (fun _ e => fn (s.me.sources f.mod.toNat f.ovr.toNat d.modAt d.src e)) (s.me.len - s.me.epr.toNat) s.me.epr.toNat s.me.seed = r at *
  generalize htd : s.me.opTag f.ovr.toNat f.vd.toNat = td at *
  have hrest := Hart.setUnits_rest f.vd.toNat td s.me.epr.toNat r.1 s.me
  generalize hx : Hart.setUnits f.vd.toNat td s.me.epr.toNat r.1 s.me = x at *
  have hle : s.me.epr.toNat ≤ s.me.len := by
    rcases he with h | h
    · rw [h]; simp
    · omega
  refine ⟨?_, ?_, ?_⟩
  · intro e hel
    rw [State.me_setMe]
    have : (s.me.vecDone f.vd.toNat td s.me.epr.toNat r.1 r.2.1 fun h => { h with seed := r.2.2 }).elem f.vd.toNat td e = x.unit f.vd.toNat td e := by
      rw [Hart.unit_elem _ _ _ _ hsx, ← hx]; rfl
    rw [this, ← hx, Hart.unit_setUnits _ _ _ _ _ _ _ hv hw, rl]
    rw [Hart.unit_elem _ _ _ _ hsx]
    have hub : td.unitBytes = td.bytes := by simp [Tag.unitBytes, hsx]
    by_cases h1 : e < s.me.epr.toNat
    · rw [if_neg (by omega), if_pos h1]
    · rw [if_pos ⟨rfl, by omega⟩, if_neg h1]
      rw [r2 _ (by omega), show s.me.epr.toNat + (e - s.me.epr.toNat) = e by omega, hub]
      simp only [Tag.width, decide_eq_true_eq]
      by_cases ha : s.me.active f.msk.toNat e = true
      · simp only [ha, if_true]
      · simp only [ha, if_false, Bool.false_eq_true]
        by_cases hz : f.z = 1
        · simp only [hz, if_true, Nat.zero_mod]
        · simp only [hz, if_false]
  · intro b
    rw [State.me_setMe]
    have hf : x.fflags = s.me.fflags := by have := congrArg Hart.fflags hrest; exact this
    have : (s.me.vecDone f.vd.toNat td s.me.epr.toNat r.1 r.2.1 fun h => { h with seed := r.2.2 }).fflags = s.me.fflags ||| r.2.1 := by
      rw [← hf, ← hx]; rfl
    rw [this, BitVec.getLsbD_or, Bool.or_eq_true, r3]
    constructor
    · rintro (h | ⟨k, h1, h2, h3⟩)
      · exact .inl h
      · exact .inr ⟨_, by omega, by omega, h2, h3⟩
    · rintro (h | ⟨e, h1, h2, h3, h4⟩)
      · exact .inl h
      · exact .inr ⟨e - s.me.epr.toNat, by omega, by rw [show s.me.epr.toNat + (e - s.me.epr.toNat) = e by omega]; exact h3, by rw [show s.me.epr.toNat + (e - s.me.epr.toNat) = e by omega]; exact h4⟩
  · have := vecDone_frame s f.vd.toNat td s.me.epr.toNat s.me.len r.1 r.2.1 r.2.2 hv hw (by rw [rl]; omega)
    rw [r1] at this ⊢
    simpa using this

theorem refuseFrom_none (bad : Tag → Bool) (l : List Tag) (p : Nat) (h : ∀ x ∈ l, bad x = false) :
    refuseFrom bad p l = none := by
  induction l generalizing p with
  | nil => rfl
  | cons t l ih => simp only [refuseFrom, h t (by simp)]; exact ih _ fun x hx => h x (by simp [hx])

end Sys2Proof.Machine
end

