-- ==== Sys2Proof/Laws/Memory.lean ====
section
/-!
SUPPORT. The operations over memory: each keeps every memory in canonical form, and each leaves the harts and every
other part of the state that is no memory as it was.
-/
namespace Sys2Proof.Machine

open Sys2Proof

/-! ## Finite maps -/

theorem mem_smPut {α : Type} {m : Sparse α} {k : Nat} {v : α} {p : Nat × α} (h : p ∈ smPut m k v) :
    p = (k, v) ∨ p ∈ m := by
  induction m with
  | nil => simpa [smPut] using h
  | cons q m ih =>
    simp only [smPut] at h
    split at h
    · simpa using h
    · split at h
      · rcases List.mem_cons.mp h with h | h
        · exact .inl h
        · exact .inr (List.mem_cons_of_mem _ h)
      · rcases List.mem_cons.mp h with h | h
        · exact .inr (by simp [h])
        · exact (ih h).imp id (List.mem_cons_of_mem _)

theorem mem_of_smGet? {α : Type} {m : Sparse α} {k : Nat} {v : α} (h : smGet? m k = some v) : (k, v) ∈ m := by
  induction m with
  | nil => simp [smGet?] at h
  | cons q m ih =>
    simp only [smGet?] at h
    split at h
    · next he => cases q; simp_all
    · exact List.mem_cons_of_mem _ (ih h)

/-- What holds of the default and of every listed value holds of every value read. -/
theorem smGet_all {α : Type} {P : α → Prop} {d : α} {m : Sparse α} (hd : P d) (hm : ∀ p ∈ m, P p.2) (k : Nat) :
    P (smGet d m k) := by
  unfold smGet
  cases h : smGet? m k with
  | none => exact hd
  | some v => exact hm _ (mem_of_smGet? h)

/-- What holds of a written value and of every listed value holds of every value listed after the write. -/
theorem smPut_all {α : Type} {P : α → Prop} {m : Sparse α} {k : Nat} {v : α} (hv : P v) (hm : ∀ p ∈ m, P p.2) :
    ∀ p ∈ smPut m k v, P p.2 := fun p hp => by
  rcases mem_smPut hp with rfl | h
  · exact hv
  · exact hm p h

/-! ## Parts in canonical form -/

theorem Core.reset_canonical : Core.reset.canonical := by
  refine ⟨rfl, rfl, fun l => ?_, fun a => ?_⟩
  · by_cases h : l < 32
    · simp [Core.reset, getElem!_pos, h, Memory.wf]
    · simp only [Core.reset, getElem!_neg, h, not_false_eq_true]; rfl
  · by_cases h : a < 2
    · simp [Core.reset, getElem!_pos, h, Memory.wf]
    · simp only [Core.reset, getElem!_neg, h, not_false_eq_true]; rfl

theorem Hart.reset_vecWf : Hart.reset.vecWf := by
  intro v
  by_cases h : v < 64
  · simp [Hart.reset, getElem!_pos, h, Memory.wf]
  · simp only [Hart.reset, getElem!_neg, h, not_false_eq_true]; rfl

theorem State.canonical_core {s : State} (h : s.canonical) (c : Nat) : (s.core c).canonical :=
  smGet_all Core.reset_canonical h.2.2.2.1 c

theorem State.canonical_hart {s : State} (h : s.canonical) (j : Nat) : (s.hart j).vecWf :=
  smGet_all Hart.reset_vecWf h.2.2.2.2.1 j

theorem State.canonical_me {s : State} (h : s.canonical) : s.me.vecWf := State.canonical_hart h s.cur

theorem State.canonical_group {s : State} {g : Nat} {x : Group} (h : s.canonical) (hg : s.group? g = some x) :
    x.canonical := h.2.2.2.2.2 _ (mem_of_smGet? hg)

theorem State.canonical_setCore {s : State} {c : Nat} {x : Core} (h : s.canonical) (hx : x.canonical) :
    (s.setCore c x).canonical :=
  ⟨h.1, h.2.1, h.2.2.1, smPut_all (P := Core.canonical) hx h.2.2.2.1, h.2.2.2.2⟩

theorem State.canonical_setHart {s : State} {j : Nat} {x : Hart} (h : s.canonical) (hx : x.vecWf) :
    (s.setHart j x).canonical :=
  ⟨h.1, h.2.1, h.2.2.1, h.2.2.2.1, smPut_all (P := Hart.vecWf) hx h.2.2.2.2.1, h.2.2.2.2.2⟩

theorem State.canonical_modHart {s : State} {j : Nat} {f : Hart → Hart} (h : s.canonical)
    (hf : ∀ x : Hart, x.vecWf → (f x).vecWf) : (s.modHart j f).canonical :=
  State.canonical_setHart h (hf _ (State.canonical_hart h j))

theorem State.canonical_setGroup {s : State} {g : Nat} {x : Group} (h : s.canonical) (hx : x.canonical) :
    (s.setGroup g x).canonical :=
  ⟨h.1, h.2.1, h.2.2.1, h.2.2.2.1, h.2.2.2.2.1, smPut_all (P := Group.canonical) hx h.2.2.2.2.2⟩

/-! ## What the memory operations leave -/

/-- A state with other memories, metadata, contexts, marks and count of free values. -/
def State.withMemories (s : State) (mem : ByteStore) (lines : Sparse Line) (fresh : Nat) (ctxs : Sparse Ctx)
    (hostMem : ByteStore) (peerMem : Sparse ByteStore) (cores : Sparse Core) (marks : List (Option Nat × Nat)) : State :=
  { s with mem := mem, lines := lines, fresh := fresh, ctxs := ctxs, hostMem := hostMem, peerMem := peerMem, cores := cores,
           outMarks := marks }

/-- Two states differ in no more than what memory operations change. -/
def MemoryOnly (s t : State) : Prop := ∃ m l f x hm pm c k, t = s.withMemories m l f x hm pm c k

theorem MemoryOnly.refl (s : State) : MemoryOnly s s :=
  ⟨s.mem, s.lines, s.fresh, s.ctxs, s.hostMem, s.peerMem, s.cores, s.outMarks, rfl⟩

theorem MemoryOnly.trans {s t u : State} (h : MemoryOnly s t) (k : MemoryOnly t u) : MemoryOnly s u := by
  obtain ⟨m, l, f, x, hm, pm, c, o, rfl⟩ := h
  obtain ⟨m', l', f', x', hm', pm', c', o', rfl⟩ := k
  exact ⟨m', l', f', x', hm', pm', c', o', rfl⟩

theorem putLine_only (c : Cry) (pa : Nat) (d : List Byte) (s : State) : MemoryOnly s (putLine c pa d s) :=
  ⟨_, _, _, s.ctxs, s.hostMem, s.peerMem, s.cores, s.outMarks, rfl⟩

theorem storeBuf_only (a b : Nat) (s : State) : MemoryOnly s (storeBuf a b s) := by
  unfold storeBuf
  simp only
  split
  · exact putLine_only _ _ _ s
  · exact .refl s

theorem writeLine_only (c : Cry) (pa : Nat) (d : List Byte) (s : State) : MemoryOnly s (writeLine c pa d s) := by
  unfold writeLine
  simp only
  split
  · refine (putLine_only c pa d s).trans (.trans ?_ (storeBuf_only _ _ _))
    exact ⟨_, _, _, _, _, _, _, _, rfl⟩
  · exact putLine_only c pa d s

/-- A write changes the memories, their lines' metadata, LC of a buffer and the count of free values, nothing else. -/
theorem writeLoc_only (l : Loc) (c : Cry) (d : List Byte) (s : State) : MemoryOnly s (writeLoc l c d s) := by
  cases l with
  | dev pa => exact writeLine_only c pa d s
  | host pa => exact ⟨s.mem, s.lines, s.fresh, s.ctxs, _, s.peerMem, s.cores, _, rfl⟩
  | peer k pa => exact ⟨s.mem, s.lines, s.fresh, s.ctxs, s.hostMem, _, s.cores, _, rfl⟩
  | spad k off => exact ⟨s.mem, s.lines, s.fresh, s.ctxs, s.hostMem, s.peerMem, _, s.outMarks, rfl⟩
  | sdata k off => exact ⟨s.mem, s.lines, s.fresh, s.ctxs, s.hostMem, s.peerMem, _, s.outMarks, rfl⟩
  | lpriv k lane off => exact ⟨s.mem, s.lines, s.fresh, s.ctxs, s.hostMem, s.peerMem, _, s.outMarks, rfl⟩

theorem performAll_only (l : List PStore) (s : State) : MemoryOnly s (performAll l s) := by
  induction l generalizing s with
  | nil => exact .refl s
  | cons p l ih => exact (writeLoc_only p.loc p.cry p.data s).trans (ih _)

theorem ovuneLine_only (pa : Nat) (d : List Byte) (s : State) : MemoryOnly s (ovuneLine pa d s) := by
  unfold ovuneLine
  split
  · exact writeLoc_only _ _ _ s
  · split
    · exact writeLine_only _ _ _ s
    · exact .refl s

theorem ovuneWrite_only (pa : Nat) (d : List Byte) (s : State) : MemoryOnly s (ovuneWrite pa d s) := by
  unfold ovuneWrite
  generalize piecesOf pa d.length = l
  induction l generalizing s with
  | nil => exact .refl s
  | cons p l ih => exact (ovuneLine_only _ _ s).trans (ih _)

theorem MemoryOnly.harts {s t : State} (h : MemoryOnly s t) : t.harts = s.harts := by
  obtain ⟨m, l, f, x, hm, pm, c, k, rfl⟩ := h; rfl
theorem MemoryOnly.groups {s t : State} (h : MemoryOnly s t) : t.groups = s.groups := by
  obtain ⟨m, l, f, x, hm, pm, c, k, rfl⟩ := h; rfl
theorem MemoryOnly.cur {s t : State} (h : MemoryOnly s t) : t.cur = s.cur := by
  obtain ⟨m, l, f, x, hm, pm, c, k, rfl⟩ := h; rfl
theorem MemoryOnly.regs {s t : State} (h : MemoryOnly s t) : t.regs = s.regs := by
  obtain ⟨m, l, f, x, hm, pm, c, k, rfl⟩ := h; rfl

@[simp] theorem writeLoc_harts (l : Loc) (c : Cry) (d : List Byte) (s : State) : (writeLoc l c d s).harts = s.harts :=
  (writeLoc_only l c d s).harts
@[simp] theorem writeLoc_groups (l : Loc) (c : Cry) (d : List Byte) (s : State) : (writeLoc l c d s).groups = s.groups :=
  (writeLoc_only l c d s).groups
@[simp] theorem writeLoc_cur (l : Loc) (c : Cry) (d : List Byte) (s : State) : (writeLoc l c d s).cur = s.cur :=
  (writeLoc_only l c d s).cur
@[simp] theorem writeLoc_hart (l : Loc) (c : Cry) (d : List Byte) (s : State) (h : Nat) :
    (writeLoc l c d s).hart h = s.hart h := by simp [State.hart]
@[simp] theorem writeLoc_me (l : Loc) (c : Cry) (d : List Byte) (s : State) : (writeLoc l c d s).me = s.me := by
  simp [State.me]
@[simp] theorem performAll_harts (l : List PStore) (s : State) : (performAll l s).harts = s.harts := (performAll_only l s).harts
@[simp] theorem performAll_groups (l : List PStore) (s : State) : (performAll l s).groups = s.groups :=
  (performAll_only l s).groups
@[simp] theorem performAll_cur (l : List PStore) (s : State) : (performAll l s).cur = s.cur := (performAll_only l s).cur
@[simp] theorem performAll_hart (l : List PStore) (s : State) (h : Nat) : (performAll l s).hart h = s.hart h := by
  simp [State.hart]

/-! ## Canonical form is kept -/

theorem ite_wf {b : Prop} [Decidable b] {m m' : ByteStore} (h : Memory.wf m = true) (h' : Memory.wf m' = true) :
    Memory.wf (if b then m else m') = true := by
  split
  · exact h
  · exact h'

theorem putLine_canonical {c : Cry} {pa : Nat} {d : List Byte} {s : State} (h : s.canonical) :
    (putLine c pa d s).canonical := by
  refine ⟨?_, h.2⟩
  exact bsWrite_wf _ _ _ (ite_wf (bsWrite_wf _ _ _ h.1) h.1)

theorem State.canonical_modCtx {s : State} {a : Nat} {f : Ctx → Ctx} (h : s.canonical) : (s.modCtx a f).canonical := h

theorem storeBuf_canonical {a b : Nat} {s : State} (h : s.canonical) : (storeBuf a b s).canonical := by
  unfold storeBuf
  simp only
  split
  · exact putLine_canonical h
  · exact h

theorem writeLine_canonical {c : Cry} {pa : Nat} {d : List Byte} {s : State} (h : s.canonical) :
    (writeLine c pa d s).canonical := by
  unfold writeLine
  simp only
  split
  · exact storeBuf_canonical (State.canonical_modCtx (putLine_canonical h))
  · exact putLine_canonical h

/-- Every write of bytes keeps every memory in canonical form. -/
theorem writeLoc_canonical {l : Loc} {c : Cry} {d : List Byte} {s : State} (h : s.canonical) :
    (writeLoc l c d s).canonical := by
  cases l with
  | dev pa => exact writeLine_canonical h
  | host pa => exact ⟨h.1, bsWrite_wf _ _ _ h.2.1, h.2.2⟩
  | peer k pa =>
    exact ⟨h.1, h.2.1, smPut_all (P := fun m => Memory.wf m = true)
      (bsWrite_wf _ _ _ (smGet_all (P := fun m => Memory.wf m = true) rfl h.2.2.1 k)) h.2.2.1, h.2.2.2⟩
  | spad k off =>
    have hk := State.canonical_core h k
    exact State.canonical_setCore h ⟨bsWrite_wf _ _ _ hk.1, hk.2⟩
  | sdata k off =>
    have hk := State.canonical_core h k
    exact State.canonical_setCore h ⟨hk.1, bsWrite_wf _ _ _ hk.2.1, hk.2.2⟩
  | lpriv k lane off =>
    have hk := State.canonical_core h k
    refine State.canonical_setCore h ⟨hk.1, hk.2.1, fun j => ?_, hk.2.2.2⟩
    by_cases hl : lane < 32
    · rw [vector_get_set _ _ _ _ hl]
      split
      · exact bsWrite_wf _ _ _ (hk.2.2.1 lane)
      · exact hk.2.2.1 j
    · rw [show ((s.core k).lpriv.set! lane _) = (s.core k).lpriv from by
        simp [Vector.set!, Array.setIfInBounds, hl]]
      exact hk.2.2.1 j

theorem perform_canonical {p : PStore} {s : State} (h : s.canonical) : (perform p s).canonical := writeLoc_canonical h

/-- What every element of a fold keeps, the fold keeps. -/
theorem foldl_keeps {α β : Type} {P : α → Prop} {f : α → β → α} (hf : ∀ a b, P a → P (f a b)) (l : List β) {a : α} (h : P a) :
    P (l.foldl f a) := by
  induction l generalizing a with
  | nil => exact h
  | cons b l ih => exact ih (hf a b h)

theorem performAll_canonical {l : List PStore} {s : State} (h : s.canonical) : (performAll l s).canonical :=
  foldl_keeps (P := State.canonical) (fun _ _ h => perform_canonical h) l h

theorem settleAll_canonical {j : Nat} {s : State} (h : s.canonical) : (settleAll j s).canonical := by
  unfold settleAll
  split
  · exact h
  · exact State.canonical_modHart (performAll_canonical h) fun _ hx => hx

theorem settleN_canonical {j n : Nat} {s : State} (h : s.canonical) : (settleN j n s).canonical :=
  State.canonical_modHart (performAll_canonical h) fun _ hx => hx

theorem bump_canonical {s : State} (h : s.canonical) : s.bump.canonical := h

theorem settleSome_canonical {j : Nat} {s : State} (h : s.canonical) : (settleSome j s).canonical := by
  unfold settleSome
  split
  · exact h
  · exact settleN_canonical h

theorem ovuneLine_canonical {pa : Nat} {d : List Byte} {s : State} (h : s.canonical) : (ovuneLine pa d s).canonical := by
  unfold ovuneLine
  split
  · exact writeLoc_canonical h
  · split
    · exact writeLine_canonical h
    · exact h

theorem ovuneWrite_canonical {pa : Nat} {d : List Byte} {s : State} (h : s.canonical) : (ovuneWrite pa d s).canonical :=
  foldl_keeps (P := State.canonical) (fun _ _ h => ovuneLine_canonical h) _ h

/-- Flits that leave change ports alone. -/
theorem pumpAll_only (l : List OutFlit) (s : State) : ∃ k, (pumpAll l s).1 = { s with ports := k } := by
  induction l generalizing s with
  | nil => exact ⟨s.ports, rfl⟩
  | cons f l ih =>
    simp only [pumpAll]
    split
    · obtain ⟨k, hk⟩ := ih (s.modPort _ (Port.send f))
      exact ⟨k, hk⟩
    · exact ih s

theorem pump_only (s : State) : ∃ p q, pump s = { s with ports := p, outq := q } := by
  obtain ⟨k, hk⟩ := pumpAll_only s.outq s
  refine ⟨k, (pumpAll s.outq s).2, ?_⟩
  unfold pump
  dsimp only
  rw [hk]

/-- A flit that is given to the link changes ports, waiting flits and the count of free values. -/
theorem sendFor_only (store : Option Nat) (d ty : Nat) (s : State) :
    ∃ p q f, sendFor store d ty s = { s with ports := p, outq := q, fresh := f } := by
  obtain ⟨p, q, h⟩ := pump_only { s.bump with outq := s.bump.outq ++ [
    { port := none, dest := d, ty := ty, slice := (Config.flitByte (64 * s.fresh + 56)).toNat,
      payload := freePayload s.fresh, store := store }] }
  exact ⟨p, q, _, h⟩

theorem countHotBy_only (k : Nat) (a : Nat) (va : Option Nat) (pa : Nat) (s : State) :
    ∃ c, countHotBy k a va pa s = { s with hot := c } := by
  unfold countHotBy
  split
  · exact ⟨_, rfl⟩
  · exact ⟨s.hot, rfl⟩

/-- Counting the accesses to a list of places changes the counts alone. -/
theorem countHots_only (w : Who) (ps : List Place) (s : State) : ∃ c, countHots w ps s = { s with hot := c } := by
  unfold countHots
  induction ps generalizing s with
  | nil => exact ⟨s.hot, rfl⟩
  | cons p ps ih =>
    simp only [List.foldl_cons]
    split
    · obtain ⟨c, h⟩ := countHotBy_only 1 w.asid (some p.va) _ s
      rw [show countHot _ _ _ s = _ from h]
      exact ih _
    · exact ih s

theorem countHots_canonical {w : Who} {ps : List Place} {s : State} (h : s.canonical) : (countHots w ps s).canonical := by
  obtain ⟨c, hc⟩ := countHots_only w ps s
  rw [hc]
  exact h

/-- Counting accesses changes the counts of LPDDR6 and the link, nothing else. -/
theorem countPlaces_only (w : Who) (ps : List Place) (s : State) :
    ∃ k p q f, countPlaces w ps s = { s with hot := k, ports := p, outq := q, fresh := f } := by
  unfold countPlaces
  induction ps generalizing s with
  | nil => exact ⟨s.hot, s.ports, s.outq, s.fresh, rfl⟩
  | cons p ps ih =>
    simp only [List.foldl_cons]
    split
    · obtain ⟨c, h⟩ := countHotBy_only 1 w.asid (some p.va) _ s
      rw [show countHot _ _ _ s = _ from h]
      exact ih _
    · obtain ⟨a, b, c, h⟩ := sendFor_only none _ _ s
      rw [show sendTo _ _ s = _ from h]
      exact ih _
    · exact ih s

theorem countPlaces_canonical {w : Who} {ps : List Place} {s : State} (h : s.canonical) : (countPlaces w ps s).canonical := by
  obtain ⟨k, p, q, f, hk⟩ := countPlaces_only w ps s
  rw [hk]
  exact h

/-- What a barrier record's update does, where it answers a state: nothing where the record does not change, else the write
of the record. -/
theorem recordUpdate_ok {p : Place} {x y : Nat} {s t : State} (h : recordUpdate p x y s = .ok t) :
    (y = x ∧ t = s) ∨ (y ≠ x ∧ p.full s = false ∧ t = recordPut p y s) := by
  unfold recordUpdate at h
  split at h
  · cases h; exact .inl ⟨‹_›, rfl⟩
  · unfold recordWrite at h
    split at h
    · cases h
    · cases h; exact .inr ⟨‹_›, by simpa using ‹¬p.full s = true›, rfl⟩

/-- What lets a release go on: no remote store of the hart was dropped, none is unacknowledged, and its accesses perform. -/
theorem releaseGate_ok {h : Nat} {s t : State} (hg : releaseGate h s = .ok t) :
    (s.hart h).dropped = [] ∧ (s.hart h).unacked = [] ∧ t = settleAll h s := by
  unfold releaseGate remoteGate at hg
  split at hg
  · cases hg
  · rename_i hd
    split at hd
    · cases hd
    · rename_i hf
      split at hd
      · cases hd
      · rename_i hu
        cases hg
        refine ⟨List.eq_nil_iff_forall_not_mem.2 fun r hr => ?_, List.eq_nil_iff_forall_not_mem.2 fun r hr => ?_, rfl⟩
        · simpa using List.find?_eq_none.1 hf r hr
        · exact hu (List.any_eq_true.2 ⟨r, hr, rfl⟩)

theorem filter_wf (p : Host.Cell → Bool) (m : ByteStore) (h : Memory.wf m = true) : Memory.wf (m.filter p) = true := by
  induction m with
  | nil => rfl
  | cons q m ih =>
    obtain ⟨a, b⟩ := q
    rw [Memory.wf_cons] at h
    by_cases hp : p (a, b)
    · rw [List.filter_cons_of_pos hp, Memory.wf_cons]
      exact ⟨h.1, fun x hx => h.2.1 x (List.mem_of_mem_filter hx), ih h.2.2⟩
    · rw [List.filter_cons_of_neg hp]
      exact ih h.2.2

theorem moveBytes_wf (src dst n : Nat) (m : ByteStore) (h : Memory.wf m = true) : Memory.wf (moveBytes src dst n m) = true :=
  foldl_keeps (P := fun m => Memory.wf m = true) (fun _ _ h => bsPut_wf _ _ _ h) _ (filter_wf _ m h)

end Sys2Proof.Machine
end

