-- ==== Sys2Proof/Laws/PerInstr.lean ====
section
/-!
SUPPORT. Statements for all instructions, made per instruction: the word of an instruction has one of the major codes of
R85 in its top byte, so that no word stands in a major that the spec reserves.
-/
namespace Sys2Proof.Laws.Major

open Sys2Proof

/-- The major codes of R85 and R87. -/
def majors : List Nat :=
  [0x01, 0x02, 0x03, 0x04, 0x10, 0x11, 0x12, 0x13, 0x14, 0x15, 0x16, 0x17, 0x18, 0x19, 0x1A, 0x20, 0x21, 0x22, 0x23, 0x24,
   0x30, 0x31, 0x32, 0x33, 0x40, 0x41, 0x42, 0x43, 0x44, 0x45, 0x46, 0x47, 0x60, 0x61, 0x62, 0x63, 0x70, 0x71, 0x72, 0x73,
   0x75, 0x80, 0x88, 0x90, 0xA0, 0xF0, 0xFE]

/-- The word of the instruction, where it has one, stands in a major of the spec. -/
def Statement (i : Instr) : Prop := ∀ w, encode i = some w → w.toNat / 2 ^ 56 ∈ majors

theorem major_of (m x : Nat) (hm : m ∈ majors) (hx : x < 2 ^ 56) :
    (BitVec.ofNat 64 (m * 2 ^ 56 + x)).toNat / 2 ^ 56 ∈ majors := by
  have h : ∀ n ∈ majors, n < 2 ^ 8 := by decide
  have hb := h m hm
  rw [BitVec.toNat_ofNat, Nat.mod_eq_of_lt (by omega), show (m * 2 ^ 56 + x) / 2 ^ 56 = m by omega]
  exact hm

theorem packS_major (m fn : Nat) (f : FmtS) (hm : m ∈ majors ∧ fn < 256) :
    ∀ w, some (packS m fn f) = some w → w.toNat / 2 ^ 56 ∈ majors := by
  rintro w h
  obtain rfl : packS m fn f = w := Option.some.inj h
  have hf := hm.2
  have h0 := f.sd.isLt
  have h1 := f.sa.isLt
  have h2 := f.sb.isLt
  have h3 := f.sc.isLt
  unfold packS
  simp only [Nat.add_assoc]
  exact major_of _ _ hm.1 (by omega)

theorem packI_major (m : Nat) (f : FmtI) (hm : m ∈ majors) :
    ∀ w, some (packI m f) = some w → w.toNat / 2 ^ 56 ∈ majors := by
  rintro w h
  obtain rfl : packI m f = w := Option.some.inj h
  have h0 := f.sd.isLt
  have h1 := f.sa.isLt
  have h2 := f.imm.isLt
  unfold packI
  simp only [Nat.add_assoc]
  exact major_of _ _ hm (by omega)

theorem packB_major (m : Nat) (f : FmtB) (hm : m ∈ majors) :
    ∀ w, some (packB m f) = some w → w.toNat / 2 ^ 56 ∈ majors := by
  rintro w h
  obtain rfl : packB m f = w := Option.some.inj h
  have h0 := f.cnd.isLt
  have h1 := f.sa.isLt
  have h2 := f.sb.isLt
  have h3 := f.off.isLt
  unfold packB
  simp only [Nat.add_assoc]
  exact major_of _ _ hm (by omega)

theorem packJ_major (m : Nat) (f : FmtJ) (hm : m ∈ majors) :
    ∀ w, some (packJ m f) = some w → w.toNat / 2 ^ 56 ∈ majors := by
  rintro w h
  obtain rfl : packJ m f = w := Option.some.inj h
  have h0 := f.sd.isLt
  have h1 := f.off.isLt
  unfold packJ
  simp only [Nat.add_assoc]
  exact major_of _ _ hm (by omega)

theorem packM_major (m : Nat) (f : FmtM) (hm : m ∈ majors) :
    ∀ w, some (packM m f) = some w → w.toNat / 2 ^ 56 ∈ majors := by
  rintro w h
  obtain rfl : packM m f = w := Option.some.inj h
  have h0 := f.sz.isLt
  have h1 := f.sd.isLt
  have h2 := f.sa.isLt
  have h3 := f.ord.isLt
  have h4 := f.scope.isLt
  have h5 := f.imm.isLt
  unfold packM
  simp only [Nat.add_assoc]
  exact major_of _ _ hm (by omega)

theorem packV_major (m fn : Nat) (f : FmtV) (hm : m ∈ majors ∧ fn < 256) :
    ∀ w, some (packV m fn f) = some w → w.toNat / 2 ^ 56 ∈ majors := by
  rintro w h
  obtain rfl : packV m fn f = w := Option.some.inj h
  have hf := hm.2
  have h0 := f.vd.isLt
  have h1 := f.va.isLt
  have h2 := f.vb.isLt
  have h3 := f.vc.isLt
  have h4 := f.msk.isLt
  have h5 := f.ch.isLt
  have h6 := f.ovr.isLt
  have h7 := f.mod.isLt
  have h8 := f.rm.isLt
  have h9 := f.sat.isLt
  have h10 := f.z.isLt
  unfold packV
  simp only [Nat.add_assoc]
  exact major_of _ _ hm.1 (by omega)

theorem packVM_major (m fn : Nat) (f : FmtVM) (hm : m ∈ majors ∧ fn < 64) :
    ∀ w, some (packVM m fn f) = some w → w.toNat / 2 ^ 56 ∈ majors := by
  rintro w h
  obtain rfl : packVM m fn f = w := Option.some.inj h
  have hf := hm.2
  have h0 := f.vd.isLt
  have h1 := f.sa.isLt
  have h2 := f.sb.isLt
  have h3 := f.msk.isLt
  have h4 := f.e.isLt
  have h5 := f.o.isLt
  have h6 := f.ff.isLt
  have h7 := f.ch.isLt
  have h8 := f.sp.isLt
  have h9 := f.ovr.isLt
  have h10 := f.imm.isLt
  unfold packVM
  simp only [Nat.add_assoc]
  exact major_of _ _ hm.1 (by omega)

theorem packA_major (m fn : Nat) (f : FmtA) (hm : m ∈ majors ∧ fn < 256) :
    ∀ w, some (packA m fn f) = some w → w.toNat / 2 ^ 56 ∈ majors := by
  rintro w h
  obtain rfl : packA m fn f = w := Option.some.inj h
  have hf := hm.2
  have h0 := f.dd.isLt
  have h1 := f.da.isLt
  have h2 := f.db.isLt
  have h3 := f.ka.isLt
  have h4 := f.kb.isLt
  have h5 := f.ax.isLt
  have h6 := f.wd.isLt
  have h7 := f.fl.isLt
  have h8 := f.sa.isLt
  unfold packA
  simp only [Nat.add_assoc]
  exact major_of _ _ hm.1 (by omega)

theorem packX_major (m fn : Nat) (f : FmtX) (hm : m ∈ majors ∧ fn < 256) :
    ∀ w, some (packX m fn f) = some w → w.toNat / 2 ^ 56 ∈ majors := by
  rintro w h
  obtain rfl : packX m fn f = w := Option.some.inj h
  have hf := hm.2
  have h0 := f.xd.isLt
  have h1 := f.xa.isLt
  have h2 := f.xb.isLt
  have h3 := f.at_.isLt
  have h4 := f.ch.isLt
  have h5 := f.msk.isLt
  have h6 := f.ovr.isLt
  have h7 := f.rm.isLt
  have h8 := f.sat.isLt
  have h9 := f.q.isLt
  unfold packX
  simp only [Nat.add_assoc]
  exact major_of _ _ hm.1 (by omega)

theorem packC_major (m fn : Nat) (f : FmtC) (hm : m ∈ majors ∧ fn < 256) :
    ∀ w, some (packC m fn f) = some w → w.toNat / 2 ^ 56 ∈ majors := by
  rintro w h
  obtain rfl : packC m fn f = w := Option.some.inj h
  have hf := hm.2
  have h0 := f.sd.isLt
  have h1 := f.sa.isLt
  have h2 := f.sb.isLt
  have h3 := f.vt.isLt
  have h4 := f.lm.isLt
  have h5 := f.imm.isLt
  unfold packC
  simp only [Nat.add_assoc]
  exact major_of _ _ hm.1 (by omega)

theorem packY_major (m fn : Nat) (f : FmtY) (hm : m ∈ majors ∧ fn < 256) :
    ∀ w, some (packY m fn f) = some w → w.toNat / 2 ^ 56 ∈ majors := by
  rintro w h
  obtain rfl : packY m fn f = w := Option.some.inj h
  have hf := hm.2
  have h0 := f.sd.isLt
  have h1 := f.sa.isLt
  have h2 := f.sb.isLt
  have h3 := f.scope.isLt
  have h4 := f.cn.isLt
  have h5 := f.imm.isLt
  unfold packY
  simp only [Nat.add_assoc]
  exact major_of _ _ hm.1 (by omega)

theorem add (f : FmtS) : Statement (.add f) := packS_major _ _ f (by decide)
theorem sub (f : FmtS) : Statement (.sub f) := packS_major _ _ f (by decide)
theorem andS (f : FmtS) : Statement (.andS f) := packS_major _ _ f (by decide)
theorem orS (f : FmtS) : Statement (.orS f) := packS_major _ _ f (by decide)
theorem xorS (f : FmtS) : Statement (.xorS f) := packS_major _ _ f (by decide)
theorem andn (f : FmtS) : Statement (.andn f) := packS_major _ _ f (by decide)
theorem minS (f : FmtS) : Statement (.minS f) := packS_major _ _ f (by decide)
theorem maxS (f : FmtS) : Statement (.maxS f) := packS_major _ _ f (by decide)
theorem minu (f : FmtS) : Statement (.minu f) := packS_major _ _ f (by decide)
theorem maxu (f : FmtS) : Statement (.maxu f) := packS_major _ _ f (by decide)
theorem sel (f : FmtS) : Statement (.sel f) := packS_major _ _ f (by decide)
theorem lea (f : FmtS) : Statement (.lea f) := packS_major _ _ f (by decide)
theorem mul (f : FmtS) : Statement (.mul f) := packS_major _ _ f (by decide)
theorem mulh (f : FmtS) : Statement (.mulh f) := packS_major _ _ f (by decide)
theorem mulhu (f : FmtS) : Statement (.mulhu f) := packS_major _ _ f (by decide)
theorem div (f : FmtS) : Statement (.div f) := packS_major _ _ f (by decide)
theorem divu (f : FmtS) : Statement (.divu f) := packS_major _ _ f (by decide)
theorem rem (f : FmtS) : Statement (.rem f) := packS_major _ _ f (by decide)
theorem remu (f : FmtS) : Statement (.remu f) := packS_major _ _ f (by decide)
theorem madd (f : FmtS) : Statement (.madd f) := packS_major _ _ f (by decide)
theorem shl (f : FmtS) : Statement (.shl f) := packS_major _ _ f (by decide)
theorem shr (f : FmtS) : Statement (.shr f) := packS_major _ _ f (by decide)
theorem sra (f : FmtS) : Statement (.sra f) := packS_major _ _ f (by decide)
theorem rol (f : FmtS) : Statement (.rol f) := packS_major _ _ f (by decide)
theorem clz (f : FmtS) : Statement (.clz f) := packS_major _ _ f (by decide)
theorem ctz (f : FmtS) : Statement (.ctz f) := packS_major _ _ f (by decide)
theorem popc (f : FmtS) : Statement (.popc f) := packS_major _ _ f (by decide)
theorem sext (f : FmtS) : Statement (.sext f) := packS_major _ _ f (by decide)
theorem zext (f : FmtS) : Statement (.zext f) := packS_major _ _ f (by decide)
theorem slt (f : FmtS) : Statement (.slt f) := packS_major _ _ f (by decide)
theorem sltu (f : FmtS) : Statement (.sltu f) := packS_major _ _ f (by decide)
theorem seq (f : FmtS) : Statement (.seq f) := packS_major _ _ f (by decide)
theorem sne (f : FmtS) : Statement (.sne f) := packS_major _ _ f (by decide)
theorem addi (f : FmtI) : Statement (.addi f) := packI_major _ f (by decide)
theorem andi (f : FmtI) : Statement (.andi f) := packI_major _ f (by decide)
theorem ori (f : FmtI) : Statement (.ori f) := packI_major _ f (by decide)
theorem xori (f : FmtI) : Statement (.xori f) := packI_major _ f (by decide)
theorem shli (f : FmtI) : Statement (.shli f) := packI_major _ f (by decide)
theorem shri (f : FmtI) : Statement (.shri f) := packI_major _ f (by decide)
theorem srai (f : FmtI) : Statement (.srai f) := packI_major _ f (by decide)
theorem li (f : FmtI) : Statement (.li f) := packI_major _ f (by decide)
theorem lih (f : FmtI) : Statement (.lih f) := packI_major _ f (by decide)
theorem slti (f : FmtI) : Statement (.slti f) := packI_major _ f (by decide)
theorem sltiu (f : FmtI) : Statement (.sltiu f) := packI_major _ f (by decide)
theorem br (f : FmtB) : Statement (.br f) := packB_major _ f (by decide)
theorem jmp (f : FmtJ) : Statement (.jmp f) := packJ_major _ f (by decide)
theorem call (f : FmtJ) : Statement (.call f) := packJ_major _ f (by decide)
theorem jr (f : FmtI) : Statement (.jr f) := packI_major _ f (by decide)
theorem loop (f : FmtB) : Statement (.loop f) := packB_major _ f (by decide)
theorem ld (f : FmtM) : Statement (.ld f) := packM_major _ f (by decide)
theorem st (f : FmtM) : Statement (.st f) := packM_major _ f (by decide)
theorem amo (f : FmtM) : Statement (.amo f) := packM_major _ f (by decide)
theorem fence (f : FmtM) : Statement (.fence f) := packM_major _ f (by decide)
theorem vadd (f : FmtV) : Statement (.vadd f) := packV_major _ _ f (by decide)
theorem vsub (f : FmtV) : Statement (.vsub f) := packV_major _ _ f (by decide)
theorem vmul (f : FmtV) : Statement (.vmul f) := packV_major _ _ f (by decide)
theorem vmulh (f : FmtV) : Statement (.vmulh f) := packV_major _ _ f (by decide)
theorem vdiv (f : FmtV) : Statement (.vdiv f) := packV_major _ _ f (by decide)
theorem vrem (f : FmtV) : Statement (.vrem f) := packV_major _ _ f (by decide)
theorem vmin (f : FmtV) : Statement (.vmin f) := packV_major _ _ f (by decide)
theorem vmax (f : FmtV) : Statement (.vmax f) := packV_major _ _ f (by decide)
theorem vabs (f : FmtV) : Statement (.vabs f) := packV_major _ _ f (by decide)
theorem vneg (f : FmtV) : Statement (.vneg f) := packV_major _ _ f (by decide)
theorem vabsd (f : FmtV) : Statement (.vabsd f) := packV_major _ _ f (by decide)
theorem vavg (f : FmtV) : Statement (.vavg f) := packV_major _ _ f (by decide)
theorem vfma (f : FmtV) : Statement (.vfma f) := packV_major _ _ f (by decide)
theorem vfms (f : FmtV) : Statement (.vfms f) := packV_major _ _ f (by decide)
theorem vfnma (f : FmtV) : Statement (.vfnma f) := packV_major _ _ f (by decide)
theorem vclamp (f : FmtV) : Statement (.vclamp f) := packV_major _ _ f (by decide)
theorem vsqrt (f : FmtV) : Statement (.vsqrt f) := packV_major _ _ f (by decide)
theorem vexp2 (f : FmtV) : Statement (.vexp2 f) := packV_major _ _ f (by decide)
theorem vlog2 (f : FmtV) : Statement (.vlog2 f) := packV_major _ _ f (by decide)
theorem vrcpe (f : FmtV) : Statement (.vrcpe f) := packV_major _ _ f (by decide)
theorem vrcps (f : FmtV) : Statement (.vrcps f) := packV_major _ _ f (by decide)
theorem vrsqe (f : FmtV) : Statement (.vrsqe f) := packV_major _ _ f (by decide)
theorem vrsqs (f : FmtV) : Statement (.vrsqs f) := packV_major _ _ f (by decide)
theorem vand (f : FmtV) : Statement (.vand f) := packV_major _ _ f (by decide)
theorem vor (f : FmtV) : Statement (.vor f) := packV_major _ _ f (by decide)
theorem vxor (f : FmtV) : Statement (.vxor f) := packV_major _ _ f (by decide)
theorem vnot (f : FmtV) : Statement (.vnot f) := packV_major _ _ f (by decide)
theorem vshl (f : FmtV) : Statement (.vshl f) := packV_major _ _ f (by decide)
theorem vshr (f : FmtV) : Statement (.vshr f) := packV_major _ _ f (by decide)
theorem vrol (f : FmtV) : Statement (.vrol f) := packV_major _ _ f (by decide)
theorem vpopc (f : FmtV) : Statement (.vpopc f) := packV_major _ _ f (by decide)
theorem vclz (f : FmtV) : Statement (.vclz f) := packV_major _ _ f (by decide)
theorem vcmp (f : FmtV) : Statement (.vcmp f) := packV_major _ _ f (by decide)
theorem vsel (f : FmtV) : Statement (.vsel f) := packV_major _ _ f (by decide)
theorem vclass (f : FmtV) : Statement (.vclass f) := packV_major _ _ f (by decide)
theorem vcvt (f : FmtV) : Statement (.vcvt f) := packV_major _ _ f (by decide)
theorem vqnt (f : FmtV) : Statement (.vqnt f) := packV_major _ _ f (by decide)
theorem vpxunp (f : FmtV) : Statement (.vpxunp f) := packV_major _ _ f (by decide)
theorem vpxpak (f : FmtV) : Statement (.vpxpak f) := packV_major _ _ f (by decide)
theorem vred (f : FmtV) : Statement (.vred f) := packV_major _ _ f (by decide)
theorem vscan (f : FmtV) : Statement (.vscan f) := packV_major _ _ f (by decide)
theorem vperm (f : FmtV) : Statement (.vperm f) := packV_major _ _ f (by decide)
theorem vslideup (f : FmtV) : Statement (.vslideup f) := packV_major _ _ f (by decide)
theorem vslidedn (f : FmtV) : Statement (.vslidedn f) := packV_major _ _ f (by decide)
theorem vcompress (f : FmtV) : Statement (.vcompress f) := packV_major _ _ f (by decide)
theorem vexpand (f : FmtV) : Statement (.vexpand f) := packV_major _ _ f (by decide)
theorem viota (f : FmtV) : Statement (.viota f) := packV_major _ _ f (by decide)
theorem vid (f : FmtV) : Statement (.vid f) := packV_major _ _ f (by decide)
theorem vsplat (f : FmtV) : Statement (.vsplat f) := packV_major _ _ f (by decide)
theorem vmv (f : FmtV) : Statement (.vmv f) := packV_major _ _ f (by decide)
theorem vextr (f : FmtV) : Statement (.vextr f) := packV_major _ _ f (by decide)
theorem vins (f : FmtV) : Statement (.vins f) := packV_major _ _ f (by decide)
theorem vkey (f : FmtV) : Statement (.vkey f) := packV_major _ _ f (by decide)
theorem vsortk (f : FmtV) : Statement (.vsortk f) := packV_major _ _ f (by decide)
theorem vmergek (f : FmtV) : Statement (.vmergek f) := packV_major _ _ f (by decide)
theorem vtopk (f : FmtV) : Statement (.vtopk f) := packV_major _ _ f (by decide)
theorem vunkey (f : FmtV) : Statement (.vunkey f) := packV_major _ _ f (by decide)
theorem mand (f : FmtV) : Statement (.mand f) := packV_major _ _ f (by decide)
theorem mor (f : FmtV) : Statement (.mor f) := packV_major _ _ f (by decide)
theorem mxor (f : FmtV) : Statement (.mxor f) := packV_major _ _ f (by decide)
theorem mandn (f : FmtV) : Statement (.mandn f) := packV_major _ _ f (by decide)
theorem mnot (f : FmtV) : Statement (.mnot f) := packV_major _ _ f (by decide)
theorem mpopc (f : FmtV) : Statement (.mpopc f) := packV_major _ _ f (by decide)
theorem mfirst (f : FmtV) : Statement (.mfirst f) := packV_major _ _ f (by decide)
theorem mset (f : FmtV) : Statement (.mset f) := packV_major _ _ f (by decide)
theorem mget (f : FmtV) : Statement (.mget f) := packV_major _ _ f (by decide)
theorem mwait (f : FmtV) : Statement (.mwait f) := packV_major _ _ f (by decide)
theorem mwaitComplete (h : Nat) : Statement (.mwaitComplete h) := nofun
theorem setvl (f : FmtV) : Statement (.setvl f) := packV_major _ _ f (by decide)
theorem settag (f : FmtV) : Statement (.settag f) := packV_major _ _ f (by decide)
theorem vld (f : FmtVM) : Statement (.vld f) := packVM_major _ _ f (by decide)
theorem vlds (f : FmtVM) : Statement (.vlds f) := packVM_major _ _ f (by decide)
theorem vldx (f : FmtVM) : Statement (.vldx f) := packVM_major _ _ f (by decide)
theorem vldt (f : FmtVM) : Statement (.vldt f) := packVM_major _ _ f (by decide)
theorem vldl (f : FmtVM) : Statement (.vldl f) := packVM_major _ _ f (by decide)
theorem vldc (f : FmtVM) : Statement (.vldc f) := packVM_major _ _ f (by decide)
theorem vst (f : FmtVM) : Statement (.vst f) := packVM_major _ _ f (by decide)
theorem vsts (f : FmtVM) : Statement (.vsts f) := packVM_major _ _ f (by decide)
theorem vstx (f : FmtVM) : Statement (.vstx f) := packVM_major _ _ f (by decide)
theorem vstt (f : FmtVM) : Statement (.vstt f) := packVM_major _ _ f (by decide)
theorem vstl (f : FmtVM) : Statement (.vstl f) := packVM_major _ _ f (by decide)
theorem vamo (f : FmtVM) : Statement (.vamo f) := packVM_major _ _ f (by decide)
theorem vpf (f : FmtVM) : Statement (.vpf f) := packVM_major _ _ f (by decide)
theorem cpy (f : FmtVM) : Statement (.cpy f) := packVM_major _ _ f (by decide)
theorem tileCopyChunkDone (t : Nat) : Statement (.tileCopyChunkDone t) := nofun
theorem tileCopyFault (t : Nat) : Statement (.tileCopyFault t) := nofun
theorem dld (f : FmtA) : Statement (.dld f) := packA_major _ _ f (by decide)
theorem dstr (f : FmtA) : Statement (.dstr f) := packA_major _ _ f (by decide)
theorem dget (f : FmtA) : Statement (.dget f) := packA_major _ _ f (by decide)
theorem dsetx (f : FmtA) : Statement (.dsetx f) := packA_major _ _ f (by decide)
theorem dresh (f : FmtA) : Statement (.dresh f) := packA_major _ _ f (by decide)
theorem dtrans (f : FmtA) : Statement (.dtrans f) := packA_major _ _ f (by decide)
theorem dtake (f : FmtA) : Statement (.dtake f) := packA_major _ _ f (by decide)
theorem aadd (f : FmtA) : Statement (.aadd f) := packA_major _ _ f (by decide)
theorem asub (f : FmtA) : Statement (.asub f) := packA_major _ _ f (by decide)
theorem amul (f : FmtA) : Statement (.amul f) := packA_major _ _ f (by decide)
theorem adiv (f : FmtA) : Statement (.adiv f) := packA_major _ _ f (by decide)
theorem amin (f : FmtA) : Statement (.amin f) := packA_major _ _ f (by decide)
theorem amax (f : FmtA) : Statement (.amax f) := packA_major _ _ f (by decide)
theorem afma (f : FmtA) : Statement (.afma f) := packA_major _ _ f (by decide)
theorem aclamp (f : FmtA) : Statement (.aclamp f) := packA_major _ _ f (by decide)
theorem acmp (f : FmtA) : Statement (.acmp f) := packA_major _ _ f (by decide)
theorem asel (f : FmtA) : Statement (.asel f) := packA_major _ _ f (by decide)
theorem acvt (f : FmtA) : Statement (.acvt f) := packA_major _ _ f (by decide)
theorem aand (f : FmtA) : Statement (.aand f) := packA_major _ _ f (by decide)
theorem aor (f : FmtA) : Statement (.aor f) := packA_major _ _ f (by decide)
theorem axor (f : FmtA) : Statement (.axor f) := packA_major _ _ f (by decide)
theorem anot (f : FmtA) : Statement (.anot f) := packA_major _ _ f (by decide)
theorem aabs (f : FmtA) : Statement (.aabs f) := packA_major _ _ f (by decide)
theorem aneg (f : FmtA) : Statement (.aneg f) := packA_major _ _ f (by decide)
theorem asqrt (f : FmtA) : Statement (.asqrt f) := packA_major _ _ f (by decide)
theorem aexp2 (f : FmtA) : Statement (.aexp2 f) := packA_major _ _ f (by decide)
theorem alog2 (f : FmtA) : Statement (.alog2 f) := packA_major _ _ f (by decide)
theorem aqnt (f : FmtA) : Statement (.aqnt f) := packA_major _ _ f (by decide)
theorem aiota (f : FmtA) : Statement (.aiota f) := packA_major _ _ f (by decide)
theorem afill (f : FmtA) : Statement (.afill f) := packA_major _ _ f (by decide)
theorem acopy (f : FmtA) : Statement (.acopy f) := packA_major _ _ f (by decide)
theorem arot (f : FmtA) : Statement (.arot f) := packA_major _ _ f (by decide)
theorem arev (f : FmtA) : Statement (.arev f) := packA_major _ _ f (by decide)
theorem atake (f : FmtA) : Statement (.atake f) := packA_major _ _ f (by decide)
theorem aresh (f : FmtA) : Statement (.aresh f) := packA_major _ _ f (by decide)
theorem acat (f : FmtA) : Statement (.acat f) := packA_major _ _ f (by decide)
theorem agath (f : FmtA) : Statement (.agath f) := packA_major _ _ f (by decide)
theorem acomp (f : FmtA) : Statement (.acomp f) := packA_major _ _ f (by decide)
theorem aexpd (f : FmtA) : Statement (.aexpd f) := packA_major _ _ f (by decide)
theorem agrade (f : FmtA) : Statement (.agrade f) := packA_major _ _ f (by decide)
theorem aouter (f : FmtA) : Statement (.aouter f) := packA_major _ _ f (by decide)
theorem ainner (f : FmtA) : Statement (.ainner f) := packA_major _ _ f (by decide)
theorem atopk (f : FmtA) : Statement (.atopk f) := packA_major _ _ f (by decide)
theorem ared (f : FmtA) : Statement (.ared f) := packA_major _ _ f (by decide)
theorem ascan (f : FmtA) : Statement (.ascan f) := packA_major _ _ f (by decide)
theorem amed (f : FmtA) : Statement (.amed f) := packA_major _ _ f (by decide)
theorem wadj (f : FmtA) : Statement (.wadj f) := packA_major _ _ f (by decide)
theorem wchk (f : FmtA) : Statement (.wchk f) := packA_major _ _ f (by decide)
theorem wchkSeal (f : FmtA) : Statement (.wchkSeal f) := packA_major _ _ f (by decide)
theorem wrel (f : FmtA) : Statement (.wrel f) := packA_major _ _ f (by decide)
theorem mmodeOn (f : FmtX) : Statement (.mmodeOn f) := packX_major _ _ f (by decide)
theorem mmodeOff (f : FmtX) : Statement (.mmodeOff f) := packX_major _ _ f (by decide)
theorem mshape (f : FmtX) : Statement (.mshape f) := packX_major _ _ f (by decide)
theorem mzero (f : FmtX) : Statement (.mzero f) := packX_major _ _ f (by decide)
theorem mact (f : FmtX) : Statement (.mact f) := packX_major _ _ f (by decide)
theorem macts (f : FmtX) : Statement (.macts f) := packX_major _ _ f (by decide)
theorem mmovn (f : FmtX) : Statement (.mmovn f) := packX_major _ _ f (by decide)
theorem mmovw (f : FmtX) : Statement (.mmovw f) := packX_major _ _ f (by decide)
theorem mvmac (f : FmtX) : Statement (.mvmac f) := packX_major _ _ f (by decide)
theorem bind (f : FmtC) : Statement (.bind f) := packC_major _ _ f (by decide)
theorem unbind (f : FmtC) : Statement (.unbind f) := packC_major _ _ f (by decide)
theorem sstat (f : FmtC) : Statement (.sstat f) := packC_major _ _ f (by decide)
theorem streamUnitRead (h vt : Nat) : Statement (.streamUnitRead h vt) := nofun
theorem writeStripPerform (h vt : Nat) : Statement (.writeStripPerform h vt) := nofun
theorem decoderBlock (h vt : Nat) : Statement (.decoderBlock h vt) := nofun
theorem xtab (f : FmtC) : Statement (.xtab f) := packC_major _ _ f (by decide)
theorem tableReplace (ch : Nat) : Statement (.tableReplace ch) := nofun
theorem xrun (f : FmtC) : Statement (.xrun f) := packC_major _ _ f (by decide)
theorem xstat (f : FmtC) : Statement (.xstat f) := packC_major _ _ f (by decide)
theorem runStart (ch : Nat) : Statement (.runStart ch) := nofun
theorem transducerStep (r : Nat) : Statement (.transducerStep r) := nofun
theorem runEnd (r : Nat) : Statement (.runEnd r) := nofun
theorem pqry (f : FmtC) : Statement (.pqry f) := packC_major _ _ f (by decide)
theorem pstat (f : FmtC) : Statement (.pstat f) := packC_major _ _ f (by decide)
theorem queryStart (q : Nat) : Statement (.queryStart q) := nofun
theorem queryEnd (q : Nat) : Statement (.queryEnd q) := nofun
theorem cstat (f : FmtC) : Statement (.cstat f) := packC_major _ _ f (by decide)
theorem cabort (f : FmtC) : Statement (.cabort f) := packC_major _ _ f (by decide)
theorem bar (f : FmtY) : Statement (.bar f) := packY_major _ _ f (by decide)
theorem barrierRecheck (h : Nat) : Statement (.barrierRecheck h) := nofun
theorem binitSet (f : FmtY) : Statement (.binitSet f) := packY_major _ _ f (by decide)
theorem binitFault (f : FmtY) : Statement (.binitFault f) := packY_major _ _ f (by decide)
theorem qpost (f : FmtY) : Statement (.qpost f) := packY_major _ _ f (by decide)
theorem qpoll (f : FmtY) : Statement (.qpoll f) := packY_major _ _ f (by decide)
theorem launch (f : FmtY) : Statement (.launch f) := packY_major _ _ f (by decide)
theorem kexit (f : FmtY) : Statement (.kexit f) := packY_major _ _ f (by decide)
theorem kexitAbort (f : FmtY) : Statement (.kexitAbort f) := packY_major _ _ f (by decide)
theorem cwait (f : FmtY) : Statement (.cwait f) := packY_major _ _ f (by decide)
theorem cwaitRecheck (h : Nat) : Statement (.cwaitRecheck h) := nofun
theorem evwait (f : FmtY) : Statement (.evwait f) := packY_major _ _ f (by decide)
theorem evwaitWake (h : Nat) : Statement (.evwaitWake h) := nofun
theorem yield (f : FmtY) : Statement (.yield f) := packY_major _ _ f (by decide)
theorem getc (f : FmtY) : Statement (.getc f) := packY_major _ _ f (by decide)
theorem setc (f : FmtY) : Statement (.setc f) := packY_major _ _ f (by decide)
theorem sysc (f : FmtY) : Statement (.sysc f) := packY_major _ _ f (by decide)
theorem brk (f : FmtY) : Statement (.brk f) := packY_major _ _ f (by decide)
theorem tret (f : FmtY) : Statement (.tret f) := packY_major _ _ f (by decide)
theorem tlbb (f : FmtY) : Statement (.tlbb f) := packY_major _ _ f (by decide)
theorem tlbu (f : FmtY) : Statement (.tlbu f) := packY_major _ _ f (by decide)
theorem tlbi (f : FmtY) : Statement (.tlbi f) := packY_major _ _ f (by decide)
theorem pmig (f : FmtY) : Statement (.pmig f) := packY_major _ _ f (by decide)
theorem nop (f : FmtY) : Statement (.nop f) := packY_major _ _ f (by decide)
theorem hintNop (bits : BitVec 56) : Statement (.hintNop bits) := by
  intro w h
  obtain rfl : BitVec.ofNat 64 (0xFE * 2 ^ 56 + bits.toNat) = w := Option.some.inj h
  exact major_of _ _ (by decide) bits.isLt
theorem preemptRequest (g : Nat) : Statement (.preemptRequest g) := nofun
theorem laneGrowthOffer (g : Nat) : Statement (.laneGrowthOffer g) := nofun
theorem reclaimDeadline (g : Nat) : Statement (.reclaimDeadline g) := nofun
theorem groupResume (g : Nat) : Statement (.groupResume g) := nofun
theorem groupPlace : Statement (.groupPlace) := nofun
theorem kernelDispatch (k : Nat) : Statement (.kernelDispatch k) := nofun
theorem kernelRetire (k : Nat) : Statement (.kernelRetire k) := nofun
theorem create (asid : Nat) : Statement (.create asid) := nofun
theorem switchOut (asid : Nat) : Statement (.switchOut asid) := nofun
theorem switchIn (asid : Nat) : Statement (.switchIn asid) := nofun
theorem teardown (asid : Nat) : Statement (.teardown asid) := nofun
theorem resume (asid : Nat) : Statement (.resume asid) := nofun
theorem badOp (op asid : Nat) : Statement (.badOp op asid) := nofun
theorem zeroisationConfirmed (asid : Nat) : Statement (.zeroisationConfirmed asid) := nofun
theorem contextCommandComplete : Statement (.contextCommandComplete) := nofun
theorem attach (q : Nat) : Statement (.attach q) := nofun
theorem detach (q : Nat) : Statement (.detach q) := nofun
theorem reset (q : Nat) : Statement (.reset q) := nofun
theorem tail (q : Nat) (v : Word) : Statement (.tail q v) := nofun
theorem queueSchedule : Statement (.queueSchedule) := nofun
theorem counterWaitRecheck (q : Nat) : Statement (.counterWaitRecheck q) := nofun
theorem queueCopyDone (t : Nat) : Statement (.queueCopyDone t) := nofun
theorem queueAging (q : Nat) : Statement (.queueAging q) := nofun
theorem queueSwitchIn (q : Nat) : Statement (.queueSwitchIn q) := nofun
theorem eventPost (asid : Nat) : Statement (.eventPost asid) := nofun
theorem pageWalk (h : Nat) (va : Word) (acc : Access) : Statement (.pageWalk h va acc) := nofun
theorem migration (m : Nat) : Statement (.migration m) := nofun
theorem migrationTimeout (m : Nat) : Statement (.migrationTimeout m) := nofun
theorem hotWindow : Statement (.hotWindow) := nofun
theorem rakeScrub (pa : Nat) (found : Scrub) : Statement (.rakeScrub pa found) := nofun
theorem bankRefresh (bank : Nat) : Statement (.bankRefresh bank) := nofun
theorem hostMemoryAccess (pa : Nat) (rq : HostReq) : Statement (.hostMemoryAccess pa rq) := nofun
theorem linkEnable (p : Nat) : Statement (.linkEnable p) := nofun
theorem linkDisable (p : Nat) : Statement (.linkDisable p) := nofun
theorem drain (p : Nat) : Statement (.drain p) := nofun
theorem trainingEnd (p lanes peer peerPort : Nat) : Statement (.trainingEnd p lanes peer peerPort) := nofun
theorem laneLost (p : Nat) : Statement (.laneLost p) := nofun
theorem replayLimit (p : Nat) : Statement (.replayLimit p) := nofun
theorem deadTime (p : Nat) : Statement (.deadTime p) := nofun
theorem drainDone (p : Nat) : Statement (.drainDone p) := nofun
theorem heartbeat : Statement (.heartbeat) := nofun
theorem flitReceive (p : Nat) (flit : List Byte) : Statement (.flitReceive p flit) := nofun
theorem deviceLost (d : Nat) : Statement (.deviceLost d) := nofun
theorem routeEntryWrite (d : Nat) (v : Word) : Statement (.routeEntryWrite d v) := nofun
theorem remoteAccess (dev asid pa buf mode : Nat) (rq : RemoteReq) : Statement (.remoteAccess dev asid pa buf mode rq) := nofun
theorem callStart (c : Nat) (others : List CallTerms) : Statement (.callStart c others) := nofun
theorem collectiveChunkDone (c chunk : Nat) (contrib : List (List Byte)) : Statement (.collectiveChunkDone c chunk contrib) := nofun
theorem callLocal (c : Nat) : Statement (.callLocal c) := nofun
theorem callDone (c : Nat) : Statement (.callDone c) := nofun
theorem callAbort (c status lost : Nat) : Statement (.callAbort c status lost) := nofun
theorem islandDvfs (i mhz : Nat) : Statement (.islandDvfs i mhz) := nofun
theorem droopStretch (i : Nat) : Statement (.droopStretch i) := nofun
theorem powerCapTick (draw : Nat) : Statement (.powerCapTick draw) := nofun
theorem attcmd : Statement (.attcmd) := nofun
theorem attestationReport : Statement (.attestationReport) := nofun
theorem devrst : Statement (.devrst) := nofun
theorem firmwareBoot (images : List (List Byte × List Byte)) : Statement (.firmwareBoot images) := nofun
theorem fatalError (cause cls unit detail : Nat) : Statement (.fatalError cause cls unit detail) := nofun
theorem debugRegisterWrite (h off : Nat) (v : Word) : Statement (.debugRegisterWrite h off v) := nofun
theorem registerWrite (bar off : Nat) (v : Word) : Statement (.registerWrite bar off v) := nofun
theorem laneReclaim (core : Nat) : Statement (.laneReclaim core) := nofun
theorem queryFault (q : Nat) : Statement (.queryFault q) := nofun
theorem qcmdBadOp (op q : Nat) : Statement (.qcmdBadOp op q) := nofun

end Sys2Proof.Laws.Major
end

