-- ==== Sys2Proof/Tests/Slice0.lean ====
section
/-!
SUPPORT. Tests: words that the spec writes out, ill-formed terms, single steps with results from the spec, and for each
statement with hypotheses a concrete state and operands that meet them (one witness for each clause).
-/
namespace Sys2Proof.Tests

open Sys2Proof Sys2Proof.Machine

set_option Elab.async false
set_option maxRecDepth 100000
set_option exponentiation.threshold 600

/-! ## States -/

/-- The elements of a vector register. -/
def vec (t : Tag) (l : List Nat) : ByteStore := bsWrite [] 0 (l.flatMap (leBytes t.bytes))

/-- Scalar registers of the hart whose turn it is. -/
def regs (l : List (Nat × Nat)) (s : State) : State :=
  s.modMe fun h => { h with sreg := l.foldl (fun v p => v.set! p.1 (BitVec.ofNat 64 p.2)) h.sreg }

/-- Bytes of device memory from 0x1000000 on. -/
def put (a : Nat) (l : List Byte) (s : State) : State := { s with mem := bsWrite s.mem (0x1000000 + a) l }

/-- A vector register of the hart whose turn it is. -/
def vreg (v : Nat) (b : ByteStore) (s : State) : State := s.modMe fun h => { h with vreg := h.vreg.set! v b }

/-- A hart at level U with VL 4, all lanes of its core and 4096 bytes of scratchpad; its pages 0 and 1 are device memory
at 0x1000000 and 0x1010000. -/
def lab : State :=
  let s := bootState [] State.reset
  { s with
    tlb := s.tlb.flatMap fun p => [(p.1, { p.2 with leaf := p.2.leaf ||| 4 }),
      (p.1, { p.2 with base := 1, leaf := (p.2.leaf ||| 4) + BitVec.ofNat 64 (2 ^ 28) })]
    mem := bsWrite (bsWrite s.mem 0x1000000 (leBytes 32 0x102030405060708090A0B0C0D0E0F10)) 0x1010000 (leBytes 32 0x1122334455667788)
    groups := s.groups.map fun p => (p.1, { p.2 with quads := 255, spadSize := 4096 })
    ctxs := smPut s.ctxs 1 { s.ctx 1 with sentry := 0x8000, nbuf := 3 }
    cores := smPut s.cores 0 { s.core 0 with spad := bsWrite [] 0 ((List.range 64).map (BitVec.ofNat 8)) }
    harts := smPut s.harts 0 { s.hart 0 with
      sreg := ((((Vector.ofFn fun i : Fin 64 => BitVec.ofNat 64 (i.val * 8)).set! 20 0x007FFFFFFFFFC000).set! 21 0x10000).set! 22
        0x100000000000000).set! 23 3
      tagtab := #v[0x55555555AAAAAAAA, 0xFFFFFFFF00000000, 0x22222222DDDDDDDD, 0x6666666688888888]
      vl := 4
      mreg := (Vector.replicate 16 0).set! 1 5
      vreg := ((((((((Vector.replicate 64 []).set! 1 (vec .f32 [0x3F800000, 0xC0000000, 0x40490FDB, 0x7F800000])).set! 2
        (vec .f32 [0x40400000, 0x3F000000, 0xBF800000, 0x42280000])).set! 9 (vec .i32 [7, 0xFFFFFFFF, 0x80000000, 1])).set! 10
        (vec .i32 [3, 2, 0xFFFFFFFF, 0])).set! 17 (vec .u8 [1, 2, 200, 255])).set! 25
        (vec .kx [0x500000001, 0x900000000, 0x500000000, 0x700000003])).set! 26
        (vec .kx [0x600000001, 0x100000000, 0x500000007, 0x800000003])).set! 57 (vec .u64 [0, 8, 16, 24]) } }

/-- `lab` at level S. -/
def labS : State := lab.modMe fun h => { h with level := .s }

/-- `lab` under ISTEP. -/
def labStep : State := lab.modMe fun h => { h with dbg := { h.dbg with ctl := 1 } }

/-! ## Helpers -/

/-- The instruction answers a next state. -/
def Runs (i : Instr) (s : State) : Prop := ∃ t, exec i s = .next t

theorem runs {i : Instr} {s : State} {P : State → Prop} (h : ∃ t, exec i s = .next t ∧ P t) : Runs i s :=
  h.imp fun _ h => h.1

theorem runs₂ {α : Sort _} {i : Instr} {s : State} {P : State → α → Prop} (h : ∃ t v, exec i s = .next t ∧ P t v) : Runs i s :=
  let ⟨t, _, h⟩ := h
  ⟨t, h.1⟩

theorem runs₃ {α β : Sort _} {i : Instr} {s : State} {P : State → α → β → Prop}
    (h : ∃ t v w, exec i s = .next t ∧ P t v w) : Runs i s :=
  let ⟨t, _, _, h⟩ := h
  ⟨t, h.1⟩

theorem runsUT {i : Instr} {s : State} {P : State → State → Prop} (h : ∃ u t, exec i s = .next t ∧ P u t) : Runs i s :=
  let ⟨_, t, h⟩ := h
  ⟨t, h.1⟩

theorem runsEq {i : Instr} {s t : State} (h : exec i s = .next t) : Runs i s := ⟨t, h⟩

/-- The value of an answer that is one. -/
def okVal {ε α : Type _} (e : Except ε α) (h : e.isOk = true) : α :=
  match e, h with
  | .ok a, _ => a

theorem okEq {σ ε α : Type _} (e : σ × Except ε α) (h : e.2.isOk = true) : e = (e.1, .ok (okVal e.2 h)) := by
  obtain ⟨s, e⟩ := e
  cases e with
  | ok a => rfl
  | error x => cases h

theorem okEq₁ {ε α : Type _} (e : Except ε α) (h : e.isOk = true) : e = .ok (okVal e h) := by
  cases e with
  | ok a => rfl
  | error x => cases h

theorem noneEq {σ α : Type _} (e : σ × Option α) (h : e.2.isNone = true) : e = (e.1, none) := by
  obtain ⟨s, e⟩ := e
  cases e with
  | none => rfl
  | some a => cases h

theorem vecWf_of {h : Hart} (c : (List.range 64).all (fun v => Memory.wf (h.vreg[v]!)) = true) : h.vecWf := by
  intro v
  by_cases hv : v < 64
  · exact (List.all_eq_true.mp c) v (List.mem_range.mpr hv)
  · have : h.vreg[v]! = [] := by
      rw [getElem!_neg h.vreg v hv]; rfl
    rw [this]; rfl

theorem vecReady_of {s : State} {l : List Nat}
    (c : (decide (s.me.steps = false ∧ s.me.keptNow = none) && (List.range 64).all (fun v => Memory.wf (s.me.vreg[v]!)) &&
      decide (s.me.epr = 0 ∨ s.me.epr.toNat < s.me.len) && l.all fun v => (s.me.binding? v).isNone) = true) : VecReady s l := by
  simp only [Bool.and_eq_true, decide_eq_true_eq, List.all_eq_true (p := fun v => (s.me.binding? v).isNone), Option.isNone_iff_eq_none] at c
  exact ⟨c.1.1.1.1, c.1.1.1.2, vecWf_of c.1.1.2, c.1.2, c.2⟩

theorem vecFits_of {s : State} {l : List Tag} (c : l.all (fun t => decide (s.me.len ≤ s.mvl t)) = true) : VecFits s l := by
  simpa [VecFits, List.all_eq_true] using c

theorem noPreempt_of {s : State} (c : (s.groupOf s.cur).all (fun p => !p.2.pre) = true) : NoPreempt s := by
  intro g x h
  rw [h] at c
  simpa using c

theorem noBar_of {o : Option Wait} (c : o.isNone = true) : ∀ g l n, o ≠ some (.bar g l n) := by
  cases o with
  | none => simp
  | some w => cases c

theorem lt2_of {n m : Nat} {P : Nat → Nat → Prop} (c : ∀ r, r < n → ∀ q, q < m → P r q) : ∀ r q, r < n → q < m → P r q :=
  fun r q hr hq => c r hr q hq

theorem lab_ok : Memory.wf lab.mem = true ∧ lab.me.steps = false ∧ lab.me.level = .u := by decide +kernel

/-! ## Witnesses

Each theorem applies its statement to a concrete state and operands and proves every hypothesis of them; what is left is
that the instruction answers there. -/

theorem witness_ScalarResults (h : Obligations.ScalarResults) :
    Runs (.add ⟨12, 1, 2, 0⟩) lab ∧ Runs (.sra ⟨12, 7, 2, 0⟩) lab ∧ Runs (.div ⟨12, 1, 0, 0⟩) lab ∧
    Runs (.lih ⟨12, 1, 0xFFFFF⟩) lab ∧ Runs (.remu ⟨12, 1, 2, 0⟩) lab :=
  ⟨runs₂ (h.1.1 _ _ lab_ok.2.1), runs₂ (h.2.1.2.2.1 _ _ lab_ok.2.1), runs (h.2.2.1.1 _ _ lab_ok.2.1),
   runs₂ (h.2.2.2.1.2.2.2.2.2.2.2.2.1 _ _ lab_ok.2.1), runs (h.2.2.1.2.2.2 _ _ lab_ok.2.1)⟩

theorem witness_ControlTransfer (h : Obligations.ControlTransfer) :
    Runs (.br ⟨5, 1, 2, -1⟩) lab ∧ Runs (.jmp ⟨0, -1⟩) lab ∧ Runs (.call ⟨1, 5⟩) lab ∧ Runs (.jr ⟨1, 1, 8⟩) lab ∧
    Runs (.jr ⟨1, 1, 7⟩) lab ∧ Runs (.loop ⟨0, 1, 0, -2⟩) lab ∧ ((⟨1, 1, 0, -3⟩ : FmtB).cnd.toNat < 6) ∧
    ((⟨0, 7, 0, -2⟩ : FmtB).sa ≠ 0) ∧ ((⟨0, -1⟩ : FmtJ).sd = 0) := by
  refine ⟨runs (h.1 _ _ ?_ ?_), runs (h.2.1 _ _ ?_), runs (h.2.2.1 _ _ ?_), runs (h.2.2.2.1 _ _ ?_), runs (h.2.2.2.1 _ _ ?_),
    runs (h.2.2.2.2.1 _ _ ?_ ?_), h.2.2.2.2.2.1 0x201040FFFFFFFFFD _ ?_, (h.2.2.2.2.2.2.1 0x2401C0FFFFFFFFFE _ ?_).1,
    h.2.2.2.2.2.2.2 (encode (.jmp ⟨0, -1⟩)).get! _ ?_⟩ <;> decide +kernel

/-- The operands of the witnesses of `JR`: at the first the target is aligned, at the second it is not. -/
theorem witness_ControlTransfer_targets : (lab.sr 1 + BitVec.ofInt 64 8).toNat % 8 = 0 ∧
    (lab.sr 1 + BitVec.ofInt 64 7).toNat % 8 ≠ 0 ∧ lab.me.level = .u := by decide +kernel

def trapPage : Trap := { code := Cause.page.code, vec := true, arr := false, tval := 5, epr := 2, past := false }

theorem witness_TrapEntry (h : Obligations.TrapEntry) :
    (takeTrap trapPage lab).me.level = .s ∧ (takeTrap trapPage labS).me.saved = true := by
  refine ⟨(h.1 lab .page trapPage ?_ ?_).1, (h.2 labS trapPage ?_ ?_ ?_).2.2.1⟩ <;> decide +kernel

theorem witness_SystemCalls (h : Obligations.SystemCalls) :
    Runs (.sysc ⟨1, 2, 0, 0, 0, 9⟩) lab ∧ Runs (.brk ⟨0, 0, 0, 0, 0, 9⟩) lab ∧ Runs (.sysc ⟨1, 2, 0, 0, 0, 9⟩) labS ∧
    Runs (.tret ⟨0, 0, 0, 0, 0, 0⟩) labS := by
  refine ⟨runs (h.1 _ _ ?_), runs (h.2.1 _ _ ?_), runs (h.2.2.1 _ _ ?_ ?_), runs (h.2.2.2 _ _ ?_ ?_ ?_ (noPreempt_of ?_))⟩ <;> decide +kernel

theorem witness_Privilege (h : Obligations.Privilege) :
    Runs (.tret ⟨0, 0, 0, 0, 0, 0⟩) lab ∧ Runs (.tlbi ⟨0, 1, 2, 0, 0, 0⟩) lab ∧ Runs (.pmig ⟨1, 2, 0, 0, 0, 0⟩) lab ∧
    Runs (.getc ⟨1, 0, 0, 0, 0x20, 0⟩) lab ∧ Runs (.setc ⟨0, 1, 0, 0, 0x22, 0⟩) lab := by
  refine ⟨runs (h _ _ ?_).1, runs (h _ _ ?_).2.1, runs (h _ _ ?_).2.2.1, runs ((h _ _ ?_).2.2.2.1 ?_),
    runs ((h _ _ ?_).2.2.2.2 ?_)⟩ <;> decide +kernel

theorem witness_ControlRegisterReads (h : Obligations.ControlRegisterReads) :
    Runs (.getc ⟨1, 0, 0, 0, 0, 0⟩) lab ∧ Runs (.getc ⟨1, 0, 0, 0, 0x33, 0⟩) lab ∧ Runs (.getc ⟨1, 0, 0, 0, 2, 0⟩) lab ∧
    Runs (.getc ⟨1, 0, 0, 0, 0x22, 0⟩) labS := by
  refine ⟨runs ((h _ _ ?_).1 (0, _) (List.mem_cons_self ..) ?_), runs ((h _ _ ?_).1 (0x33, _) (List.getLast_mem (by simp)) ?_),
    runs ((h _ _ ?_).2.1 ?_ (2, _) (List.mem_cons_self ..) ?_), runs ((h _ _ ?_).2.2 ?_ (0x22, _) (List.getLast_mem (by simp)) ?_)⟩ <;>
  decide +kernel

theorem witness_ControlRegisterWrites (h : Obligations.ControlRegisterWrites) :
    Runs (.setc ⟨0, 1, 0, 0, 3, 0⟩) lab ∧ Runs (.setc ⟨0, 1, 0, 0, 0x19, 0⟩) lab ∧ Runs (.setc ⟨0, 1, 0, 0, 0, 0⟩) labS ∧ Runs (.setc ⟨0, 1, 0, 0, 4, 0⟩) labS ∧
    Runs (.setc ⟨0, 1, 0, 0, 0x22, 0⟩) labS := by
  refine ⟨runsEq ((h _ _ ?_).1 (3, _) (List.mem_cons_self ..) ?_), runsEq ((h _ _ ?_).1 (0x19, _) (List.getLast_mem (by simp)) ?_),
    runsEq ((h _ _ ?_).2 ?_ (0, _) (List.mem_cons_self ..) ?_),
    runsEq ((h _ _ ?_).2 ?_ (4, _) (List.mem_cons_of_mem _ (List.mem_cons_of_mem _ (List.mem_cons_self ..))) ?_), runsEq ((h _ _ ?_).2 ?_ (0x22, _) (List.getLast_mem (by simp)) ?_)⟩ <;>
  decide +kernel

/-- `lab` where the hart waits at `EVWAIT` for event 3, which has come. -/
def labEv : State := lab.modMe fun h => { h with ev := 8, wait := some (.evwait ⟨1, 0, 0, 0, 0, 8⟩) }

/-- `lab` where a remote store of a vector or of a scalar access was dropped (R419). -/
def labLost (vec : Bool) : State := lab.modMe fun h => { h with dropped := [{ dev := 3, va := 64, vec := vec, id := 0, gone := false }] }

/-- `lab` where a remote store is not acknowledged yet (R420). -/
def labUnacked (vec : Bool) : State := lab.modMe fun h => { h with unacked := [{ dev := 3, va := 64, vec := vec, id := 0, gone := false }] }

theorem witness_EventsAndFences (h : Obligations.EventsAndFences) :
    Runs (.evwait ⟨1, 0, 0, 0, 0, 8⟩) labEv ∧ Runs (.evwait ⟨1, 0, 0, 0, 0, 8⟩) lab ∧ Runs (.evwaitWake 0) labEv ∧
    Runs (.nop ⟨0, 0, 0, 0, 0, 0⟩) lab ∧ (∃ f, decodeWord 0xF009000000000000 = .ok (.nop f)) ∧
    (∃ r, decodeWord 0xF009000000000001 = .error r) ∧ Runs (.hintNop 5) lab ∧ Runs (.yield ⟨0, 0, 0, 0, 0, 0⟩) lab ∧
    Runs (.nop ⟨0, 0, 0, 0, 0, 0⟩) labStep ∧ Runs (.fence ⟨0, 0, 0, 0, 5, 3⟩) lab ∧
    Runs (.fence ⟨0, 0, 0, 0, 5, 0⟩) (labLost true) ∧ Runs (.fence ⟨0, 0, 0, 0, 5, 1⟩) (labLost true) ∧
    Runs (.st ⟨2, 12, 21, 2, 4, 0⟩) (labLost true) ∧ Runs (.amo ⟨2, 12, 21, 3, 4, 0⟩) (labLost false) ∧
    Runs (.fence ⟨0, 0, 0, 0, 5, 0⟩) (labUnacked false) ∧ Runs (.st ⟨2, 12, 21, 2, 4, 0⟩) (labUnacked true) ∧
    Runs (.amo ⟨2, 12, 21, 2, 4, 0⟩) (labUnacked false) ∧ Runs (.fence ⟨0, 0, 0, 0, 5, 2⟩) (labLost true) := by
  refine ⟨runs (h.1.1 _ _ ?_ ?_), runs (h.1.2.1 _ _ (noPreempt_of ?_) ?_ ?_), runs (h.1.2.2.1 _ ⟨1, 0, 0, 0, 0, 8⟩ _ ?_ ?_ ?_), runs (h.1.2.2.2.1 _ _ ?_),
    by simpa using h.1.2.2.2.2.1 0xF009000000000000 rfl, by simpa using h.1.2.2.2.2.1 0xF009000000000001 rfl,
    runs (h.1.2.2.2.2.2.1 _ _ ?_), runs (h.1.2.2.2.2.2.2 _ _ ?_ ?_), runs₂ (h.2.1 _ _ ?_ ?_ ?_), runs ((h.2.2.1 _ _ ?_).1 ?_ ?_ ?_),
    runs ((h.2.2.1 _ _ ?_).1 ?_ ?_ ?_), runs ((h.2.2.1 _ _ ?_).2.2 [] _ [] rfl (by simp) ?_ ?_),
    runs ((h.2.2.2.1 _ _ _ [] rfl ?_).1 ?_), runs ((h.2.2.2.1 _ _ _ [] rfl ?_).2 ?_),
    runsEq ((h.2.2.1 _ _ ?_).2.1 ?_ ?_), runsEq ((h.2.2.2.2 _ _ ?_ ?_).1 ?_), runsEq ((h.2.2.2.2 _ _ ?_ ?_).2 ?_),
    runs ((h.2.2.1 _ _ ?_).2.2 [] _ [] rfl (by simp) ?_ ?_)⟩ <;> decide +kernel

theorem ownLine_of {s : State} {p : Place} {pa : Nat}
    (c : (decide (p.loc = .dev pa ∧ p.hs = false ∧ p.mig = false ∧ p.far = false ∧ p.cry.mode ≠ .none ∧ cntFull s [] p.cry pa = false ∧
      Memory.wf s.mem = true) &&
      (s.line (pa / 64)).key.all fun k => k == keyGenOf s p.cry) = true) : OwnLine s p pa := by
  simp only [Bool.and_eq_true, decide_eq_true_eq] at c
  refine ⟨c.1.1, c.1.2.1, c.1.2.2.1, c.1.2.2.2.1, c.1.2.2.2.2.1, c.1.2.2.2.2.2.1, fun k hk => ?_, c.1.2.2.2.2.2.2⟩
  have := c.2
  rw [hk] at this
  simpa using this

theorem plain_of {s : State} {ea : Word} {n : Nat} {ld st : Bool}
    (c : watchHit s.me ea.toNat n ld st = false ∧ ea.toNat < 2 ^ 55 ∧ ea.toNat % n = 0) : PlainAddress s ea n ld st := c

theorem clean_of {s : State} {off n : Nat} (c : (s.core (s.cur / 4)).poison = []) : CleanData s off n := by
  intro w hw; rw [c] at hw; cases hw

/-- A relaxed access performs after what happens to have performed; the witnesses have nothing accepted. -/
theorem relaxed_of {s : State} {P : Prop} (c : ¬ P) : Gated P s (settleSome s.cur s) := ⟨fun _ => rfl, fun h => absurd h c⟩

theorem release_of {s : State} {P : Prop} (c : P) (d : s.me.dropped = []) (u : s.me.unacked = []) :
    Gated P s (settleAll s.cur s) := ⟨fun h => absurd c h, fun _ => ⟨d, u, rfl⟩⟩

/-- s20 is the base of the scalar data window, s21 an address in device memory. -/
theorem witness_ScalarLoads (h : Obligations.ScalarLoads) :
    Runs (.ld ⟨4, 12, 20, 0, 0, 0⟩) lab ∧ Runs (.ld ⟨3, 12, 20, 0, 0, 0x3FF8⟩) lab ∧ Runs (.ld ⟨3, 12, 21, 1, 0, 8⟩) lab := by
  refine ⟨runs ((h _ _ ?_ (plain_of ?_)).1 ?_ (clean_of ?_)), runs ((h _ _ ?_ (plain_of ?_)).1 ?_ (clean_of ?_)),
    runs ((h _ _ ?_ (plain_of ?_)).2 ?_ _ _ _ (okEq _ ?_) ?_ (noneEq _ ?_))⟩ <;>
  first | decide +kernel | (unfold InDataWindow; decide +kernel)

theorem witness_ScalarStores (h : Obligations.ScalarStores) :
    Runs (.st ⟨2, 12, 20, 0, 0, 0x3FFC⟩) lab ∧ Runs (.st ⟨3, 12, 21, 0, 0, 8⟩) lab ∧ Runs (.st ⟨3, 12, 21, 2, 4, 8⟩) lab := by
  refine ⟨runsUT ((h _ _ _ ?_ (relaxed_of ?_) (plain_of ?_)).1 ?_ ?_),
    runsUT ((h _ _ _ ?_ (relaxed_of ?_) (plain_of ?_)).2 ?_ _ _ 0x1010008 (okEq _ ?_) (ownLine_of ?_)),
    runsUT ((h _ _ _ ?_ (release_of ?_ ?_ ?_) (plain_of ?_)).2 ?_ _ _ 0x1010008 (okEq _ ?_) (ownLine_of ?_))⟩ <;>
  first | decide +kernel | (unfold InDataWindow; decide +kernel)

/-- The immediate of `AMO.ADD` and of `AMO.CAS` with SV s7 and SE s8, at displacement 8. -/
theorem witness_ScalarAtomics (h : Obligations.ScalarAtomics) :
    Runs (.amo ⟨3, 12, 20, 0, 0, 7 * 2 ^ 25 + 8⟩) lab ∧ Runs (.amo ⟨2, 12, 21, 1, 0, 2 * 2 ^ 31 + 7 * 2 ^ 25 + 8 * 2 ^ 19 + 8⟩) lab ∧
    Runs (.amo ⟨3, 12, 21, 3, 4, 7 * 2 ^ 25 + 8⟩) lab := by
  refine ⟨runsUT ((h _ _ _ ?_ (relaxed_of ?_) ?_ ?_ (plain_of ?_)).1 ?_ ?_ (clean_of ?_)),
    runsUT ((h _ _ _ ?_ (relaxed_of ?_) ?_ ?_ (plain_of ?_)).2 ?_ _ _ 0x1010008 (okEq _ ?_) (ownLine_of ?_) (Prod.ext ?_ ?_)),
    runsUT ((h _ _ _ ?_ (release_of ?_ ?_ ?_) ?_ ?_ (plain_of ?_)).2 ?_ _ _ 0x1010008 (okEq _ ?_) (ownLine_of ?_) (Prod.ext ?_ ?_))⟩ <;>
  first | decide +kernel | (unfold InDataWindow; decide +kernel)

/-- s22 is 2^56; s21 + 1 is no multiple of 4. -/
theorem witness_ScalarAddressTraps (h : Obligations.ScalarAddressTraps) :
    Runs (.ld ⟨2, 12, 22, 0, 0, 0⟩) lab ∧ Runs (.ld ⟨2, 12, 21, 0, 0, 1⟩) lab ∧ Runs (.st ⟨2, 12, 22, 2, 4, 0⟩) lab ∧
    Runs (.st ⟨2, 12, 21, 0, 0, 1⟩) lab ∧ Runs (.amo ⟨2, 12, 22, 1, 0, 0⟩) lab ∧ Runs (.amo ⟨2, 12, 21, 1, 0, 1⟩) lab := by
  refine ⟨runs (((h _ _ _ ?_).1 (relaxed_of id) ?_).1 ?_), runs (((h _ _ _ ?_).1 (relaxed_of id) ?_).2 ?_ ?_),
    runs (((h _ _ _ ?_).2.1 (release_of ?_ ?_ ?_) ?_).1 ?_), runs (((h _ _ _ ?_).2.1 (relaxed_of ?_) ?_).2 ?_ ?_),
    runs (((h _ _ _ ?_).2.2 (relaxed_of ?_) ?_).1 ?_), runs (((h _ _ _ ?_).2.2 (relaxed_of ?_) ?_).2 ?_ ?_)⟩ <;> decide +kernel

theorem okEqP {ε α β : Type _} (e : Except ε (α × β)) (h : e.isOk = true) : e = .ok ((okVal e h).1, (okVal e h).2) :=
  okEq₁ e h

/-- Format V with VD, VA, VB, VC, under mask register 0, with no other control field. -/
def fv (vd va vb vc : Nat) : FmtV :=
  ⟨BitVec.ofNat 6 vd, BitVec.ofNat 6 va, BitVec.ofNat 6 vb, BitVec.ofNat 6 vc, 0, 0, 0, 0, 0, 0, 0⟩

/-- v0 to v7 hold f32, v8 to v15 i32, v16 to v23 u8, v24 to v31 kx. -/
theorem witness_VectorArithmetic (h : Obligations.VectorArithmetic) :
    Runs (.vadd (fv 4 1 2 0)) lab ∧ Runs (.vabs (fv 12 9 0 0)) lab ∧ Runs (.vfma (fv 4 1 2 1)) lab ∧ Runs (.vrcpe (fv 4 1 0 0)) lab := by
  refine ⟨runs (h.1.1 _ _ .f32 _ (vecReady_of ?_) (vecFits_of ?_) ?_ (okEqP _ ?_) ?_),
    runs (h.1.2.2.2.2.2.2.2.2.1 _ _ .i32 _ (vecReady_of ?_) (vecFits_of ?_) ?_ (okEqP _ ?_) ?_),
    runs (h.1.2.2.2.2.2.2.2.2.2.2.2.2.1 _ _ .f32 _ (vecReady_of ?_) (vecFits_of ?_) ?_ (okEqP _ ?_) ?_),
    runs (h.1.2.2.2.2.2.2.2.2.2.2.2.2.2.2.2.2.2.2.2.1 _ _ .f32 _ (vecReady_of ?_) (vecFits_of ?_) ?_ (okEqP _ ?_) ?_)⟩ <;>
  decide +kernel

/-- The largest and the smallest i8, and a division that leaves a remainder. -/
theorem witness_IntegerElements (h : Obligations.IntegerElements) :
    elemArith .add .i8 .i8 .rne true [(.i8, 127), (.i8, 127)] = (127, fSAT) ∧
    elemArith .rem .i8 .i8 .rne false [(.i8, 0xF9), (.i8, 2)] = (0xFF, 0) ∧
    elemArith .avg .u8 .u8 .rne false [(.u8, 1), (.u8, 2)] = (2, 0) ∧
    elemArith .clamp .i8 .i8 .rne false [(.i8, 0x80), (.i8, 0xFF), (.i8, 1)] = (0xFF, 0) ∧
    elemCmp 2 .i8 .u8 .rne false (.i8, 0x80) (.i8, 0x7F) = (0xFF, 0) ∧
    elemCmp 5 .i8 .u8 .rne true (.i8, 0x80) (.i8, 0x7F) = (0, 0) ∧
    elemCmp 2 .kx .u8 .rne false (.kx, 0x500000002) (.kx, 0x500000001) = (0xFF, 0) ∧
    elemCmp 4 .kx .u8 .rne false (.kx, 0x500000001) (.kx, 0x600000000) = (0, 0) ∧
    (elemCmp 6 .f32 .u32 .rne false (.f32, 0x7FC00000) (.f32, 0)).1 = 0xFFFFFFFF ∧
    (elemCmp 5 .f32 .u32 .rne false (.f32, 0x7FC00000) (.f32, 0)).2 = fNV := by
  refine ⟨?_, ?_, ?_, ?_, (h.2.1 2 .i8 .u8 .rne false 0x80 0x7F ?_ ?_ ?_ ?_).1 ?_,
    (h.2.1 5 .i8 .u8 .rne true 0x80 0x7F ?_ ?_ ?_ ?_).2 ?_,
    (h.2.2.1 2 .u8 .rne false 0x500000002 0x500000001 ?_).1 ?_, (h.2.2.1 4 .u8 .rne false 0x500000001 0x600000000 ?_).2 ?_,
    (h.2.2.2 6 .f32 .u32 .rne false 0x7FC00000 0 ?_ ?_ ?_).1, (h.2.2.2 5 .f32 .u32 .rne false 0x7FC00000 0 ?_ ?_ ?_).2 ?_⟩
  · have := (h.1 .i8 .rne true 127 127 0 (by decide) (by decide) (by decide) (by decide)).1
    exact this.trans (by decide +kernel)
  · have := ((h.1 .i8 .rne false 0xF9 2 0 (by decide) (by decide) (by decide) (by decide)).2.2.2.2.2.2.2.2.2.2.2.2.2.2.1 (by decide)).2
    exact this.trans (by decide +kernel)
  · exact ((h.1 .u8 .rne false 1 2 0 (by decide) (by decide) (by decide) (by decide)).2.2.2.2.2.2.2.2.2.2.2.2.2.1 (by decide)).trans (by decide +kernel)
  · exact ((h.1 .i8 .rne false 0x80 0xFF 1 (by decide) (by decide) (by decide) (by decide)).2.2.2.2.2.2.2.2.2.2.2.2.1).trans (by decide +kernel)
  all_goals decide +kernel

theorem witness_VectorLogicAndCompare (h : Obligations.VectorLogicAndCompare) :
    Runs (.vand (fv 4 1 2 0)) lab ∧ Runs (.vshl (fv 12 9 10 0)) lab ∧ Runs (.vpopc (fv 12 9 0 0)) lab ∧
    Runs (.vcmp (fv 12 1 2 7)) lab ∧ Runs (.vsel (fv 4 1 2 9)) lab ∧ Runs (.vsel (fv 27 25 26 9)) lab ∧
    Runs (.vclass (fv 12 1 0 0)) lab := by
  refine ⟨runs (h.1 _ _ (vecReady_of ?_) (vecFits_of ?_) ?_ ?_ ?_),
    runs (h.2.2.2.2.1 _ _ (vecReady_of ?_) (vecFits_of ?_) ?_ ?_ ?_),
    runs (h.2.2.2.2.2.2.2.1 _ _ (vecReady_of ?_) (vecFits_of ?_) ?_ ?_ ?_),
    runs (h.2.2.2.2.2.2.2.2.2.1 _ _ .f32 _ (vecReady_of ?_) (vecFits_of ?_) ?_ ?_ (okEqP _ ?_)),
    runs (h.2.2.2.2.2.2.2.2.2.2.1 _ _ (vecReady_of ?_) (vecFits_of ?_) ?_ ?_),
    runs (h.2.2.2.2.2.2.2.2.2.2.1 _ _ (vecReady_of ?_) (vecFits_of ?_) ?_ ?_),
    runs (h.2.2.2.2.2.2.2.2.2.2.2 _ _ (vecReady_of ?_) (vecFits_of ?_) ?_ ?_ ?_)⟩ <;>
  decide +kernel

/-- Tags for conversions: v32 to v39 hold sx4, v40 to v47 u16; VL is 16, or 4 for a packed layout. -/
def labSx : State := lab.modMe fun h => { h with vl := 16 }

theorem witness_VectorConversion (h : Obligations.VectorConversion) :
    Runs (.vcvt (fv 12 1 0 0)) lab ∧ Runs (.vqnt (fv 12 1 2 0)) lab ∧ Runs (.vcvt { fv 34 1 0 0 with rm := 6 }) labSx ∧
    Runs (.vpxunp (fv 41 17 0 2)) lab ∧ Runs (.vpxpak (fv 17 41 0 0)) lab := by
  refine ⟨runs ((h.1 (fv 12 1 0 0) _ _ 1 _ _ (Or.inl ⟨rfl, rfl, rfl, rfl⟩) ?_ ?_ (vecReady_of ?_) (vecFits_of ?_) ?_).1 ?_),
    runs ((h.1 (fv 12 1 2 0) _ _ 2 _ _ (Or.inr ⟨rfl, rfl, rfl, rfl⟩) ?_ ?_ (vecReady_of ?_) (vecFits_of ?_) ?_).1 ?_),
    runs ((h.1 { fv 34 1 0 0 with rm := 6 } _ _ 1 _ _ (Or.inl ⟨rfl, rfl, rfl, rfl⟩) ?_ ?_ (vecReady_of ?_) (vecFits_of ?_) ?_).2 ?_ ?_),
    runs ((h.2 _ _ ?_ (vecReady_of ?_) (vecFits_of ?_)).1 ?_ ?_), runs ((h.2 _ _ ?_ (vecReady_of ?_) (vecFits_of ?_)).2 ?_ ?_ ?_)⟩ <;>
  decide +kernel

theorem someEqP {α β : Type _} (o : Option (α × β)) (h : o.isSome = true) : o = some ((o.get h).1, (o.get h).2) := by
  cases o with
  | none => cases h
  | some a => rfl

theorem someEq {α : Type _} (o : Option α) (h : o.isSome = true) : o = some (o.get h) := by
  cases o with
  | none => cases h
  | some a => rfl

theorem witness_CrossLane (h : Obligations.CrossLane) :
    Runs (.vred (fv 4 1 0 0)) lab ∧ Runs (.vscan (fv 12 9 0 8)) lab ∧ Runs (.vperm (fv 4 1 10 0)) lab ∧
    Runs (.vslideup (fv 4 1 1 0)) lab ∧ Runs (.viota (fv 12 0 0 0)) lab ∧ Runs (.vid (fv 4 0 0 0)) lab ∧
    Runs (.vsplat (fv 4 1 0 0)) lab ∧ Runs (.vmv (fv 4 0 1 0)) lab ∧ Runs (.vmv (fv 34 0 35 0)) labSx ∧
    Runs (.vextr (fv 12 9 0 0)) lab := by
  refine ⟨runs ((h _ _).1 (vecReady_of ?_) (vecFits_of ?_) ?_ ?_ ?_), runs ((h _ _).2.1 (vecReady_of ?_) (vecFits_of ?_) ?_),
    runs ((h _ _).2.2.1 (vecReady_of ?_) (vecFits_of ?_) ?_ ?_), runs ((h _ _).2.2.2.1 (vecReady_of ?_) (vecFits_of ?_) ?_).1,
    runs ((h _ _).2.2.2.2.1 (vecReady_of ?_) (vecFits_of ?_) ?_), runs ((h _ _).2.2.2.2.2.1 (vecReady_of ?_) (vecFits_of ?_) ?_ ?_),
    runs ((h _ _).2.2.2.2.2.2.1 (vecReady_of ?_) (vecFits_of ?_) ?_).1,
    runs (((h _ _).2.2.2.2.2.2.2.1 (vecReady_of ?_) (vecFits_of ?_)).1 ?_ ?_ ?_),
    runs (((h _ _).2.2.2.2.2.2.2.1 (vecReady_of ?_) (vecFits_of ?_)).2 ?_ ?_ ?_),
    runs ((h _ _).2.2.2.2.2.2.2.2 (vecReady_of ?_) (vecFits_of ?_) ?_)⟩ <;>
  decide +kernel

theorem witness_KeysAndSorting (h : Obligations.KeysAndSorting) :
    Runs (.vkey (fv 27 1 0 0)) lab ∧ Runs (.vsortk (fv 27 25 0 0)) lab ∧ Runs (.vtopk (fv 27 25 0 3)) lab ∧
    Runs (.vmergek (fv 27 25 26 1)) lab ∧ Runs (.vunkey (fv 4 25 0 1)) lab := by
  refine ⟨runs ((h _ _).1 (vecReady_of ?_) (vecFits_of ?_) ?_), runs ((h _ _).2.1 (vecReady_of ?_) (vecFits_of ?_) ?_ ?_).1,
    runs (((h _ _).2.1 (vecReady_of ?_) (vecFits_of ?_) ?_ ?_).2 ?_ ?_),
    runs ((h _ _).2.2.1 (vecReady_of ?_) (vecFits_of ?_) ?_ ?_ ?_),
    runs ((h _ _).2.2.2 (vecReady_of ?_) (vecFits_of ?_) ?_ ?_ ?_ ?_ ?_)⟩ <;>
  decide +kernel

/-- Bits of `m1` from 0 on are 1, 0, 1; `s16` and `s17` name the bits of the waits. -/
def labM : State := regs [(16, 2), (17, 1), (18, 1), (19, 0)] lab

/-- A fault of a copy for `m1`. -/
def pageLatch : Latch := { lm := 1, cause := Cause.page.code, tval := 5, work := .copy 1, delivered := false }

/-- `labM` with a copy's fault for `m1` latched. -/
def labL : State := labM.modMe fun h => { h with latches := [pageLatch] }

/-- `labM` where the hart waits at `MWAIT`. -/
def labW : State := labM.modMe fun h => { h with wait := some (.mwait (fv 1 16 17 0)) }

theorem running_of {s : State} (c : (s.groupOf s.cur).all (fun p => decide (p.2.st ≠ .waiting)) = true) :
    ∀ g x, s.groupOf s.cur = some (g, x) → x.st ≠ .waiting := by
  intro g x h
  rw [h] at c
  simpa using c

theorem between_of {lo n : Nat} {b : Nat → Bool} (c : (List.range n).all (fun i => b (lo + i)) = true) :
    ∀ i, i < 16384 → lo ≤ i → i < lo + n → b i = true := by
  intro i _ h1 h2
  have := (List.all_eq_true.mp c) (i - lo) (List.mem_range.mpr (by omega))
  simpa [show lo + (i - lo) = i by omega] using this

theorem witness_MaskInstructions (h : Obligations.MaskInstructions) :
    Runs (.mand (fv 15 1 0 0)) labM ∧ Runs (.mpopc (fv 12 1 0 0)) labM ∧ Runs (.mfirst (fv 12 1 0 0)) labM ∧
    Runs (.mset (fv 3 9 0 0)) labM ∧ Runs (.mwait (fv 1 16 17 0)) labM ∧ Runs (.mwait (fv 1 18 17 0)) labM ∧
    Runs (.mwait (fv 1 18 17 0)) labL ∧ Runs (.mwaitComplete 0) labW ∧ Runs (.mget (fv 4 1 0 0)) lab := by
  refine ⟨runs ((h.1 _ _ ?_ ?_).1 ?_), runs (h.1 _ _ ?_ ?_).2.2.2.2.2.1, runs (h.1 _ _ ?_ ?_).2.2.2.2.2.2.1,
    runs ((h.1 _ _ ?_ ?_).2.2.2.2.2.2.2.1 ?_ ?_ (vecFits_of ?_)), runs ((h.1 _ _ ?_ ?_).2.2.2.2.2.2.2.2.1 ?_ ?_),
    runs ((h.1 _ _ ?_ ?_).2.2.2.2.2.2.2.2.2.1 ?_ ?_ ?_ ?_ (noPreempt_of ?_)),
    runs ((h.1 _ _ ?_ ?_).2.2.2.2.2.2.2.2.2.2.1 ?_ ?_ pageLatch .page ?_ ?_ ?_ (fun _ h => nomatch h) ?_ (running_of ?_)),
    runs ((h.1 (fv 1 16 17 0) labW ?_ ?_).2.2.2.2.2.2.2.2.2.2.2 0 ?_ ?_ (between_of ?_)),
    runs (h.2 _ _ (vecReady_of ?_) (vecFits_of ?_) ?_ ?_ ?_)⟩ <;>
  decide +kernel

/-- `lab` where no lane is held. -/
def labNoLanes : State := { lab with groups := lab.groups.map fun p => (p.1, { p.2 with quads := 0 }) }

/-- `lab` where v5 is bound. -/
def labBound : State := lab.modMe fun h => { h with binds := [newBinding 5 0 0 0 false] }

theorem witness_LengthAndTags (h : Obligations.LengthAndTags) :
    Runs (.setvl (fv 12 1 4 0)) lab ∧ Runs (.setvl (fv 12 1 4 0)) labNoLanes ∧ Runs (.settag (fv 0 0 9 63)) lab ∧
    Runs (.settag (fv 4 0 9 3)) labBound := by
  refine ⟨runs (h.1 _ _ _ _ ?_ (someEqP _ ?_) ?_ ?_ ?_ ?_), runs₂ (h.2.1 _ _ _ _ ?_ (someEqP _ ?_) ?_ ?_ ?_ ?_ ?_),
    runs (h.2.2.1 _ _ ?_ ?_ ?_), runs (h.2.2.2 _ _ 5 ?_ ?_ ?_ ?_ ?_)⟩ <;>
  decide +kernel

/-- The group of `lab` and its number. -/
def labGroup : Nat × Group := lab.groups[0]'(by decide +kernel)

/-- `lab` with its group changed. -/
def grp (f : Group → Group) (s : State) : State := { s with groups := s.groups.map fun p => (p.1, f p.2) }

/-- A second group, number 7, waits for two lane groups on the core at priority 3. -/
def labWaiter (f : Group → Group) : State := let s := grp f lab
  { s with groups := smPut s.groups 7 { labGroup.2 with slots := [1], num := 1, quads := 0, lmin := 2, prio := 3, st := .ready }
           harts := smPut s.harts 1 { s.me with group := some 7, wait := some (.setvl (fv 4 1 2 0)) } }

/-- The group after a PREEMPT trap saved it. -/
def labSaved : State := grp (fun x => { x with st := .preempted, saveKind := .trap }) lab

theorem uNoBar_of {s : State} {l : List Nat}
    (c : l.all (fun h => decide ((s.hart h).level = .u) && (s.hart h).wait.isNone) = true) :
    ∀ h ∈ l, (s.hart h).level = .u ∧ ∀ f latch gen, (s.hart h).wait ≠ some (.bar f latch gen) := by
  intro h hh
  have := List.all_eq_true.mp c h hh
  simp only [Bool.and_eq_true, decide_eq_true_eq] at this
  exact ⟨this.1, noBar_of this.2⟩

theorem witness_LaneArbiter (h : Obligations.LaneArbiter) :
    Runs (.laneGrowthOffer labGroup.1) (grp (fun x => { x with quads := 1 }) lab) ∧
    Runs (.laneGrowthOffer labGroup.1) (grp (fun x => { x with rcl := true, next := 1 }) lab) ∧
    Runs (.laneReclaim labGroup.2.core) (labWaiter id) ∧
    Runs (.preemptRequest labGroup.1) (labWaiter fun x => { x with lmin := 8 }) ∧
    Runs (.reclaimDeadline labGroup.1) (grp (fun x => { x with pre := true }) lab) ∧
    Runs (.reclaimDeadline labGroup.1) lab ∧ Runs (.groupResume labGroup.1) labSaved := by
  refine ⟨runs₂ ((h.1 _ _ _ (someEq _ ?_) ?_ ?_).1 ?_ ?_ ?_), runsEq ((h.1 _ _ _ (someEq _ ?_) ?_ ?_).2.1 ?_),
    runs₂ ((h.1 _ labGroup.1 labGroup.2 ?_ ?_ ?_).2.2.1 2 none ?_ ?_ ?_),
    runs ((h.1 _ _ _ (someEq _ ?_) ?_ ?_).2.2.2.1 ?_ ?_ ?_),
    runs₂ ((h.1 _ _ _ (someEq _ ?_) ?_ ?_).2.2.2.2.1 ?_ ?_ ?_ (uNoBar_of ?_) ?_),
    runsEq ((h.1 _ _ _ (someEq _ ?_) ?_ ?_).2.2.2.2.2 ?_ ?_), runs (h.2 _ _ _ (someEq _ ?_) ?_ ?_ ?_ ?_ ?_)⟩ <;>
  decide +kernel

/-- Format VM with VD, SA, SB, the mask register, O, the space, the tag override and the immediate. -/
def fm (vd sa sb msk o sp ovr imm : Nat) : FmtVM :=
  ⟨BitVec.ofNat 6 vd, BitVec.ofNat 6 sa, BitVec.ofNat 6 sb, BitVec.ofNat 4 msk, 0, BitVec.ofNat 1 o, 0, 0, BitVec.ofNat 3 sp,
   BitVec.ofNat 4 ovr, BitVec.ofNat 17 imm⟩

theorem memReady_of {form : VForm} {f : FmtVM} {s : State} {rows : Nat}
    (c : (List.range 64).all (fun v => Memory.wf (s.me.vreg[v]!)) = true)
    (d : s.me.steps = false ∧ f.vd.toNat + rows ≤ 64 ∧
      (∀ v ∈ (if form = .tile then (List.range 8).map fun r => f.vd.toNat + r else [f.vd.toNat]) ++
        (if form.indexed then [f.sb.toNat] else []), s.me.binding? v = none) ∧
      (∀ v ∈ (List.range rows).map fun r => f.vd.toNat + r, (s.me.tagOf v).isSx = false ∧
        (s.me.opTag f.ovr.toNat v).isSx = false ∧ (s.me.tagOf v = .kx → f.ovr = 0) ∧ s.me.len ≤ s.mvl (s.me.tagOf v)) ∧
      (form.indexed = true → (s.me.tagOf f.sb.toNat).isInt = true ∧ s.me.len ≤ s.mvl (s.me.tagOf f.sb.toNat))) :
    MemReady form f s rows :=
  ⟨d.1, vecWf_of c, d.2.1, d.2.2.1, d.2.2.2.1, d.2.2.2.2⟩

theorem smGet_all {α : Type} {P : α → Prop} {d : α} (hd : P d) {m : Sparse α} (h : ∀ p ∈ m, P p.2) (k : Nat) : P (smGet d m k) := by
  induction m with
  | nil => exact hd
  | cons p m ih =>
    obtain ⟨j, v⟩ := p
    by_cases e : j = k
    · simpa [smGet, smGet?, e] using h (j, v) (List.mem_cons_self ..)
    · simpa [smGet, smGet?, e] using ih fun q hq => h q (List.mem_cons_of_mem _ hq)

theorem noPoison_of {s : State} (c : s.cores.all (fun p => p.2.poison.isEmpty) = true) : NoPoison s := fun k =>
  smGet_all (P := fun x : Core => x.poison = []) rfl (fun p hp => by simpa using List.all_eq_true.mp c p hp) k

/-- `lab` with three rows of a tile, 64 bytes apart. -/
def labRows : State := lab.modMe fun h => { h with rowcnt := 3, rowpitch := 64 }

/-- `lab` where the word at byte 64 of the scratchpad is poisoned. -/
def labPoison : State := { lab with cores := smPut lab.cores 0 { lab.core 0 with poison := [(.spad, 8)] } }

/-- VL 16 for whole blocks, and an address whose second element lies in a page without a leaf. -/
def labBlock : State := regs [(30, 0x1FFFC)] (lab.modMe fun h => { h with vl := 16 })

/-- One witness for each form: unit, stride, index, lane, tile; of the spaces, the scratchpad of the core and of the
cluster, scalar data and lane-private memory. s8 is 64. -/
theorem witness_VectorLoads (h : Obligations.VectorLoads) :
    Runs (.vld (fm 4 8 0 0 0 1 0 0)) lab ∧ Runs (.vlds (fm 4 8 1 1 0 1 0 0)) lab ∧ Runs (.vldx (fm 12 8 57 0 0 4 0 0)) lab ∧
    Runs (.vldl (fm 4 8 57 0 0 0 0 0)) lab ∧ Runs (.vldt (fm 0 8 0 0 0 1 0 0)) labRows ∧ Runs (.vld (fm 4 8 0 0 0 2 0 0)) lab ∧
    Runs (.vld (fm 4 8 0 0 0 1 0 0)) labPoison := by
  refine ⟨runs ((h.1 (fm 4 8 0 0 0 1 0 0) _ _ _ (.unit, _, 1) ?_ (someEqP _ ?_) ?_ (memReady_of ?_ ?_) ?_ ?_ (lt2_of ?_)).2 (noPoison_of ?_)),
    runs ((h.1 (fm 4 8 1 1 0 1 0 0) _ _ _ (.stride, _, 1) ?_ (someEqP _ ?_) ?_ (memReady_of ?_ ?_) ?_ ?_ (lt2_of ?_)).2 (noPoison_of ?_)),
    runs ((h.1 (fm 12 8 57 0 0 4 0 0) _ _ _ (.index, _, 4) ?_ (someEqP _ ?_) ?_ (memReady_of ?_ ?_) ?_ ?_ (lt2_of ?_)).2 (noPoison_of ?_)),
    runs ((h.1 (fm 4 8 57 0 0 0 0 0) _ _ _ (.lane, _, 3) ?_ (someEqP _ ?_) ?_ (memReady_of ?_ ?_) ?_ ?_ (lt2_of ?_)).2 (noPoison_of ?_)),
    runs ((h.1 (fm 0 8 0 0 0 1 0 0) _ _ _ (.tile, _, 1) ?_ (someEqP _ ?_) ?_ (memReady_of ?_ ?_) ?_ ?_ (lt2_of ?_)).2 (noPoison_of ?_)),
    runs ((h.1 (fm 4 8 0 0 0 2 0 0) _ _ _ (.unit, _, 2) ?_ (someEqP _ ?_) ?_ (memReady_of ?_ ?_) ?_ ?_ (lt2_of ?_)).2 (noPoison_of ?_)),
    runs ((h.1 (fm 4 8 0 0 0 1 0 0) _ _ _ (.unit, _, 1) ?_ (someEqP _ ?_) ?_ (memReady_of ?_ ?_) ?_ ?_ (lt2_of ?_)).1
      0 [1, 2, 3] 0 64 8 ?_ ?_ ?_ ?_ ?_ ?_)⟩ <;>
  decide +kernel

theorem witness_VectorStores (h : Obligations.VectorStores) :
    Runs (.vst (fm 4 8 0 0 0 1 0 0)) lab ∧ Runs (.vsts (fm 4 8 1 1 1 1 0 0)) lab ∧ Runs (.vstx (fm 12 8 57 0 0 4 0 0)) lab ∧
    Runs (.vstl (fm 4 8 57 0 1 0 0 0)) lab ∧ Runs (.vstt (fm 0 8 0 0 0 1 0 0)) labRows ∧ Runs (.vst (fm 4 8 0 0 0 2 0 0)) lab := by
  refine ⟨runs (h.1 (fm 4 8 0 0 0 1 0 0) _ _ _ (.unit, _, 1) ?_ (someEqP _ ?_) ?_ (memReady_of ?_ ?_) ?_ ?_ (lt2_of ?_)),
    runs (h.1 (fm 4 8 1 1 1 1 0 0) _ _ _ (.stride, _, 1) ?_ (someEqP _ ?_) ?_ (memReady_of ?_ ?_) ?_ ?_ (lt2_of ?_)),
    runs (h.1 (fm 12 8 57 0 0 4 0 0) _ _ _ (.index, _, 4) ?_ (someEqP _ ?_) ?_ (memReady_of ?_ ?_) ?_ ?_ (lt2_of ?_)),
    runs (h.1 (fm 4 8 57 0 1 0 0 0) _ _ _ (.lane, _, 3) ?_ (someEqP _ ?_) ?_ (memReady_of ?_ ?_) ?_ ?_ (lt2_of ?_)),
    runs (h.1 (fm 0 8 0 0 0 1 0 0) _ _ _ (.tile, _, 1) ?_ (someEqP _ ?_) ?_ (memReady_of ?_ ?_) ?_ ?_ (lt2_of ?_)),
    runs (h.1 (fm 4 8 0 0 0 2 0 0) _ _ _ (.unit, _, 2) ?_ (someEqP _ ?_) ?_ (memReady_of ?_ ?_) ?_ ?_ (lt2_of ?_))⟩ <;>
  decide +kernel

/-- v32 to v39 hold sx4; a tag override of 13 is sx4. -/
theorem witness_BlockStores (h : Obligations.VectorStores) :
    Runs (.vst (fm 34 8 0 0 0 1 0 0)) labBlock ∧ Runs (.vst (fm 4 8 0 0 1 1 13 0)) labBlock := by
  refine ⟨runs ((h.2 _ _ _ _ (someEqP _ ?_) ?_ ?_ ?_ (vecFits_of ?_) ?_ ?_ ?_ ?_ ?_ ?_ ?_).1 ?_),
    runs ((h.2 _ _ _ _ (someEqP _ ?_) ?_ ?_ ?_ (vecFits_of ?_) ?_ ?_ ?_ ?_ ?_ ?_ ?_).2 ?_ ?_)⟩ <;>
  decide +kernel

/-- `lab` where `m2` is 1 at element 2 alone. -/
def labOne : State := lab.modMe fun h => { h with mreg := h.mreg.set! 2 4 }

/-- The trap of an answer that is one. -/
def trapVal {α : Type _} (e : Except Stop α) : Trap :=
  match e with
  | .error (.trap t) => t
  | _ => trapPage

theorem trapEq {σ α : Type _} (e : σ × Except Stop α) (c : (match e.2 with | .error (.trap _) => true | _ => false) = true) :
    e = (e.1, .error (.trap (trapVal e.2))) := by
  obtain ⟨s, e⟩ := e
  rcases e with ⟨t⟩ | a
  · cases t <;> simp_all [trapVal]
  · cases c

/-- The trap of a write that has one. -/
def optTrap (e : Option Stop) : Trap :=
  match e with
  | some (.trap t) => t
  | _ => trapPage

theorem optTrapEq {σ : Type _} (e : σ × Option Stop) (c : (match e.2 with | some (.trap _) => true | _ => false) = true) :
    e = (e.1, some (.trap (optTrap e.2))) := by
  obtain ⟨s, e⟩ := e
  rcases e with _ | t
  · cases c
  · cases t <;> simp_all [optTrap]

/-- The first load of a state where the second element faults. -/
theorem witness_BlockLoads (h : Obligations.VectorLoads) :
    Runs (.vld (fm 34 8 0 0 0 1 0 0)) labBlock ∧ Runs (.vld (fm 4 8 0 0 0 1 13 0)) labBlock ∧
    Runs (.vld { fm 4 30 0 0 0 0 0 0 with ff := 1 }) labBlock := by
  refine ⟨runs (((h.2 (fm 34 8 0 0 0 1 0 0) _ _ _ (someEqP _ ?_) ?_ (vecWf_of ?_) ?_ ?_ (vecFits_of ?_)).1 ?_ ?_ ?_ ?_ ?_ (noPoison_of ?_) ?_ ?_).1 ?_ ?_),
    runs (((h.2 (fm 4 8 0 0 0 1 13 0) _ _ _ (someEqP _ ?_) ?_ (vecWf_of ?_) ?_ ?_ (vecFits_of ?_)).1 ?_ ?_ ?_ ?_ ?_ (noPoison_of ?_) ?_ ?_).2 ?_ ?_),
    runs ((h.2 { fm 4 30 0 0 0 0 0 0 with ff := 1 } _ _ _ (someEqP _ ?_) ?_ (vecWf_of ?_) ?_ ?_ (vecFits_of ?_)).2 ?_ ?_ ?_ ?_
      0 1 ((List.range 14).map (· + 2)) ?_ ?_ ?_ _ _ (okEq _ ?_) _ _ (trapEq _ ?_) ?_)⟩ <;>
  decide +kernel

/-- A load and a store of device memory, a load at a misaligned address and a store at one with bit 56 set. -/
theorem witness_VectorElementAccess (h : Obligations.VectorElementAccess) :
    Runs (.vld (fm 4 21 0 2 0 0 0 0)) labOne ∧ Runs (.vld (fm 4 21 0 2 0 0 0 1)) labOne ∧ Runs (.vst (fm 4 21 0 2 0 0 0 0)) labOne ∧
    Runs (.vst (fm 4 22 0 2 0 0 0 0)) labOne ∧ Runs (.vamo (fm 12 8 57 2 0 1 0 8)) labOne ∧ Runs (.vpf (fm 0 8 0 0 0 0 0 0)) labOne ∧
    Runs (.vld (fm 4 22 0 0 0 0 0 1)) (lab.modMe fun h => { h with vl := 0 }) ∧ Runs (.vamo (fm 12 8 57 1 0 1 0 8)) lab := by
  refine ⟨runs (((h.1.2 (fm 4 21 0 2 0 0 0 0) _ _ _ 2 (someEqP _ ?_) ?_ ?_).1 (.unit, _, 0) ?_ ?_ (memReady_of ?_ ?_) ?_).1 _ _ (okEq _ ?_)),
    runs (((h.1.2 (fm 4 21 0 2 0 0 0 1) _ _ _ 2 (someEqP _ ?_) ?_ ?_).1 (.unit, _, 0) ?_ ?_ (memReady_of ?_ ?_) ?_).2 _ _ .align (trapEq _ ?_) ?_ ?_ ?_),
    runs (((h.1.2 (fm 4 21 0 2 0 0 0 0) _ _ _ 2 (someEqP _ ?_) ?_ ?_).2 (.unit, _, 0) ?_ ?_ (memReady_of ?_ ?_) ?_).1 _ (noneEq _ ?_)),
    runs (((h.1.2 (fm 4 22 0 2 0 0 0 0) _ _ _ 2 (someEqP _ ?_) ?_ ?_).2 (.unit, _, 0) ?_ ?_ (memReady_of ?_ ?_) ?_).2 _ _ .page (optTrapEq _ ?_) ?_ ?_ ?_),
    runs (h.2.1 _ _ _ _ 2 88 (someEqP _ ?_) (vecReady_of ?_) ?_ (vecFits_of ?_) ?_ ?_ ?_ ?_ ?_ ?_ ?_ ?_ ?_ ?_),
    runs (h.2.2.2 _ _ ?_), runs (h.1.1 (fm 4 22 0 0 0 0 0 1) _ (.unit, _, 0) ?_ (memReady_of ?_ ?_) ?_ ?_),
    runs₂ (h.2.2.1 (fm 12 8 57 1 0 1 0 8) lab _ _ (someEqP _ ?_) (vecReady_of ?_) ?_ (vecFits_of ?_) ?_ ?_ ?_ ?_ ?_ ?_ ?_ ?_ ?_ ?_)⟩ <;>
  decide +kernel

/-- s30 is an address in device memory, s31 one in the scratchpad, s32 a length, s33 no length. -/
def labCpy : State := regs [(30, 0x10000), (31, 256), (32, 768), (33, 0)] lab

/-- The copy that `CPY` hands to the engine there, from an address. -/
def tile (out : Bool) (main len : Nat) : Copy :=
  { id := 9, hart := some (0, 3), queue := none, asid := 1, cluster := 0, engine := 0, dirOut := out, main := BitVec.ofNat 64 main
    core := 0, off := 256, dst := 256, len := len, chunk := 256, next := 0, sup := false, stopped := false }

/-- `lab` with a copy in flight. -/
def labTile (c : Copy) : State := { lab with copies := [c] }

theorem notSaving_of {s : State} {h : Nat}
    (c : ((s.hart h).group.bind s.group?).all (fun x => x.harts.all fun j => !(s.hart j).saved) = true) : NotSaving s h := by
  intro g x hg hx j hj
  simp only [hg, hx, Option.bind_some, Option.all_some, List.all_eq_true] at c
  simpa using c j hj

theorem okAt {σ ε α : Type _} {s : σ} {e : σ × Except ε α} (h : e.1 = s) (k : e.2.isOk = true) : e = (s, .ok (okVal e.2 k)) :=
  h ▸ okEq e k

theorem oneLine_of {P : Nat → Prop} {c : Copy} (e : chunkLines c = [0]) (h : P 0) : ∀ o ∈ chunkLines c, P o := by
  intro o ho
  rw [e, List.mem_singleton] at ho
  exact ho ▸ h

theorem witness_TileCopies (h : Obligations.TileCopies) :
    Runs (.cpy (fm 3 30 32 0 0 1 0 0)) labCpy ∧ Runs (.cpy (fm 3 30 33 0 0 1 0 0)) labCpy ∧
    Runs (.cpy (fm 3 30 32 0 0 1 0 0)) { labCpy with copies := List.replicate 64 (tile false 0x10000 768) } ∧
    Runs (.tileCopyChunkDone 9) (labTile (tile false 0x10000 768)) := by
  refine ⟨runs₂ ((h.1 _ _ _ _ ?_ (someEqP _ ?_) ?_ ?_ ?_).2 0 256 ?_ ?_ |>.1 ?_), runs ((h.1 _ _ _ _ ?_ (someEqP _ ?_) ?_ ?_ ?_).1 ?_),
    runsEq ((h.1 _ _ _ _ ?_ (someEqP _ ?_) ?_ ?_ ?_).2 0 256 ?_ ?_ |>.2 ?_),
    runs (h.2.1 _ 0 3 (tile false 0x10000 768) _ _ ?_ ?_ ?_ ?_ ?_ (noneEq _ ?_) (notSaving_of ?_))⟩ <;>
  decide +kernel

/-- A chunk of one line, in and out, and a copy that meets a page without a leaf. -/
theorem witness_TileCopies_lines (h : Obligations.TileCopies) :
    Runs (.tileCopyChunkDone 9) (labTile (tile false 0x10000 64)) ∧ Runs (.tileCopyChunkDone 9) (labTile (tile true 0x10000 64)) ∧
    Runs (.tileCopyFault 9) (labTile (tile false 0x90000 768)) := by
  refine ⟨runs (h.2.2.1 _ 0 3 (tile false 0x10000 64) _ (fun o => 0x1010000 + o) ?_ ?_ ?_ ?_ ?_ ?_ (notSaving_of ?_) ?_
      (oneLine_of ?_ ⟨_, okAt ?_ ?_, ?_, ?_, ?_, ?_⟩) ?_),
    runs (h.2.2.1 _ 0 3 (tile true 0x10000 64) _ (fun o => 0x1010000 + o) ?_ ?_ ?_ ?_ ?_ ?_ (notSaving_of ?_) ?_
      (oneLine_of ?_ ⟨_, okAt ?_ ?_, ?_, ?_, ?_, ?_⟩) ?_),
    runs (h.2.2.2 _ 0 3 (tile false 0x90000 768) _ _ .page ?_ ?_ ?_ ?_ ?_ (notSaving_of ?_) ?_ ?_ (Prod.ext rfl ?_))⟩
  all_goals first
    | decide +kernel
    | exact ownLine_of (by decide +kernel)
    | (rw [if_neg (by decide)]; exact ⟨by decide +kernel, Prod.ext (by decide +kernel) (by decide +kernel)⟩)

/-- A dense record. -/
def mkd (base : Nat) (shape : List Nat) (t : Tag) (space cap : Nat) : Desc :=
  { base := BitVec.ofNat 64 base
    ext := Vector.ofFn fun i : Fin 8 => BitVec.ofNat 32 (shape.getD i.val 0)
    str := Vector.ofFn fun i : Fin 8 => if i.val < shape.length then BitVec.ofNat 40 ((shape.drop (i.val + 1)).prod) else 0
    cap := BitVec.ofNat 64 cap, rank := BitVec.ofNat 4 shape.length, tag := BitVec.ofNat 4 t.code, space := BitVec.ofNat 3 space }

/-- d1 to d24. -/
def descs : List Desc := [Desc.null,
  mkd 0 [2, 3] .f32 1 6, mkd 0x40 [2, 3] .f32 1 6, mkd 0x80 [6] .f32 1 40, mkd 0xC0 [3] .i32 1 3, mkd 0xE0 [2, 3] .i32 1 6,
  mkd 0x140 [6] .i32 1 40, mkd 0x200 [6] .f32 1 3, mkd 0x240 [2, 3] .kx 1 6, mkd 0x300 [6] .kx 1 40, mkd 0x20 [] .f32 1 1,
  mkd 0x600 [2, 16] .sx4 1 32, mkd 0x400 [2, 16] .f32 1 32, mkd 0x700 [32] .sx4 1 64, mkd 0x800 [2] .i32 1 2,
  { mkd 0 [2, 3] .f32 1 6 with str := (mkd 0 [2, 3] .f32 1 6).str.set! 0 100 },
  { mkd 0x10000 [4096] .u8 0 4096 with str := (mkd 0 [2] .u8 0 0).str.set! 0 2 }, mkd 0xE00 [4] .u8 1 4, mkd 0x20 [3] .f32 1 3,
  mkd 0x900 [3, 2] .f32 1 6, mkd 0xA00 [0] .f32 1 6, mkd 0x60 [3] .u8 1 3, mkd 0x40 [2, 3] .u8 1 6, mkd 0x100 [20] .f32 1 20,
  mkd 0xB00 [40] .u8 1 80]

/-- `lab` with these descriptors. -/
def labD : State := { lab with
  cores := smPut lab.cores 0 { lab.core 0 with spad := bsWrite [] 0 ((List.range 48).map fun i => BitVec.ofNat 8 (i * 37 + 11)) }
  harts := smPut lab.harts 0 { lab.me with dreg := Vector.ofFn fun i : Fin 32 => descs.getD i.val Desc.null } }

/-- Format A. -/
def fa (dd da db ka kb ax wd fl sa : Nat) : FmtA :=
  ⟨BitVec.ofNat 5 dd, BitVec.ofNat 5 da, BitVec.ofNat 5 db, BitVec.ofNat 4 ka, BitVec.ofNat 4 kb, BitVec.ofNat 4 ax, BitVec.ofNat 5 wd,
   BitVec.ofNat 4 fl, BitVec.ofNat 6 sa⟩

/-- `labD` with a record in memory at s21; s33 is −1, s34 is 2, s35 is 2^39, s36 is 2^32. -/
def labR : State := regs [(33, 2 ^ 64 - 1), (34, 2), (35, 2 ^ 39), (36, 2 ^ 32), (37, 9), (38, 16)] (put 0x10000 (mkd 0x1234 [3, 5] .i32 1 99).bytes labD)

/-- Every clause of `DSETX`, at the values where the clauses meet. -/
theorem witness_Descriptors_records (h : Obligations.Descriptors) :
    Runs (.dld (fa 1 0 0 0 0 0 0 0 21)) labR ∧ Runs (.dstr (fa 0 1 0 0 0 0 0 0 21)) labR ∧ Runs (.dget (fa 0 1 0 0 0 1 0 0 2)) labR ∧
    Runs (.dsetx (fa 1 0 0 0 0 1 0 0 34)) labR ∧ Runs (.dsetx (fa 1 0 0 0 0 1 0 0 36)) labR ∧ Runs (.dsetx (fa 1 0 0 0 0 2 0 0 34)) labR ∧
    Runs (.dsetx (fa 1 0 1 0 0 1 0 0 33)) labR ∧ Runs (.dsetx (fa 1 0 1 0 0 1 0 0 35)) labR ∧ Runs (.dsetx (fa 1 0 2 0 0 0 0 0 1)) labR ∧
    Runs (.dsetx (fa 1 0 2 0 0 0 0 0 37)) labR ∧ Runs (.dsetx (fa 1 0 3 0 0 0 0 0 34)) labR ∧ Runs (.dsetx (fa 1 0 3 0 0 0 0 0 38)) labR ∧
    Runs (.dsetx (fa 1 0 4 0 0 0 0 0 34)) labR ∧ Runs (.dsetx (fa 1 0 4 0 0 0 0 0 23)) labR ∧ Runs (.dsetx (fa 1 0 5 0 0 0 0 0 36)) labR ∧
    Runs (.dsetx (fa 1 0 6 0 0 0 0 0 36)) labR := by
  refine ⟨runs₂ (h.1.1 _ _ _ _ ?_ ?_ ?_ (okEq _ ?_) ?_), runs (h.1.2.1 _ _ _ ?_ ?_ ?_ (noneEq _ ?_)).2.2, runs (h.1.2.2.1 _ _ ?_),
    runs ((h.1.2.2.2 _ _ ?_ ?_).1 ?_ ?_ ?_), runs ((h.1.2.2.2 _ _ ?_ ?_).2.1 ?_ ?_ ?_), runs ((h.1.2.2.2 _ _ ?_ ?_).2.2.1 ?_ ?_ ?_ ?_),
    runs ((h.1.2.2.2 _ _ ?_ ?_).2.2.2.1 ?_ ?_ ?_ ?_), runs ((h.1.2.2.2 _ _ ?_ ?_).2.2.2.2.1 ?_ ?_ ?_),
    (Exists.elim ((h.1.2.2.2 (fa 1 0 2 0 0 0 0 0 1) labR ?_ ?_).2.2.2.2.2.1 ?_ ?_) fun _ h => runs h.1),
    runs ((h.1.2.2.2 _ _ ?_ ?_).2.2.2.2.2.2.1 ?_ ?_ ?_), runs ((h.1.2.2.2 _ _ ?_ ?_).2.2.2.2.2.2.2.1 ?_ ?_),
    runs ((h.1.2.2.2 _ _ ?_ ?_).2.2.2.2.2.2.2.2.1 ?_ ?_ ?_), runs ((h.1.2.2.2 _ _ ?_ ?_).2.2.2.2.2.2.2.2.2.1 ?_ ?_),
    runs ((h.1.2.2.2 _ _ ?_ ?_).2.2.2.2.2.2.2.2.2.2.1 ?_ ?_ ?_), runs ((h.1.2.2.2 _ _ ?_ ?_).2.2.2.2.2.2.2.2.2.2.2.1 ?_),
    runs ((h.1.2.2.2 _ _ ?_ ?_).2.2.2.2.2.2.2.2.2.2.2.2 ?_)⟩ <;>
  decide +kernel

theorem witness_Descriptors_shapes (h : Obligations.Descriptors) :
    Runs (.dresh (fa 3 1 19 0 0 0 0 0 0)) labR ∧ Runs (.dresh (fa 3 1 4 0 0 0 0 0 0)) labR ∧ Runs (.dtrans (fa 3 1 1 0 0 0 0 0 0)) labR ∧
    Runs (.dtrans (fa 3 1 1 0 0 2 0 0 0)) labR ∧ Runs (.dtake (fa 3 1 0 0 0 1 0 0 23)) labR ∧ Runs (.dtake (fa 3 15 0 0 0 0 0 0 33)) labR ∧
    Runs (.dtake (fa 3 1 0 0 0 0 0 0 23)) labR ∧ Runs (.dtake (fa 3 1 0 0 0 2 0 0 23)) labR := by
  refine ⟨runs₂ ((h.2 _ _ ?_).1 ?_ ?_ ?_ ?_ ?_), runs ((h.2 _ _ ?_).2.1 ?_ ?_ ?_ ?_), runs₂ ((h.2 _ _ ?_).2.2.1 ?_ ?_ ?_),
    runs ((h.2 _ _ ?_).2.2.2.1 ?_ ?_), runs₂ ((h.2 _ _ ?_).2.2.2.2.1 ?_ ?_ ?_), runs₂ ((h.2 _ _ ?_).2.2.2.2.1 ?_ ?_ ?_),
    runs ((h.2 _ _ ?_).2.2.2.2.2.1 ?_ ?_ ?_), runs ((h.2 _ _ ?_).2.2.2.2.2.2 ?_ ?_)⟩ <;>
  decide +kernel

theorem arrayReady_of {s : State} {x : Group} {d : Desc} {srcs : List Desc} {total ls : Nat}
    (c : s.myGroup.map Prod.snd = some x) (np : (s.groupOf s.cur).all (fun p => !p.2.pre) = true) (cl : NoPoison s)
    (r : s.me.steps = false ∧ s.me.elemSteps = false ∧
      (s.me.epr.toNat < total ∨ (total = 0 ∧ s.me.epr = 0)) ∧ total < 2 ^ 64 ∧
      (∀ a ∈ d :: srcs, a.space.toNat ∈ [0, 1, 2, 4, 5] ∧ a.rank.toNat ≤ 8) ∧ (∀ a ∈ srcs, sxStride a = none) ∧
      ls = (if s.me.len = 0 then s.mvl (largest ((d :: srcs).map Desc.elemTag).zipIdx).1 else s.me.len) ∧ 0 < ls ∧
      ls ≤ s.mvl (largest ((d :: srcs).map Desc.elemTag).zipIdx).1) : ArrayReady s x d srcs total ls := by
  have : ∃ g, s.myGroup = some (g, x) := by
    cases h : s.myGroup with
    | none => rw [h] at c; cases c
    | some p => rw [h] at c; exact ⟨p.1, by simp at c; simp [← c]⟩
  exact ⟨this, r.1, r.2.1, noPreempt_of np, cl, r.2.2.1, r.2.2.2.1, r.2.2.2.2.1, r.2.2.2.2.2.1, r.2.2.2.2.2.2⟩

/-- The place is in no peer's memory. -/
def nearB (p : Place) : Bool := match p.loc with
  | .peer _ _ => false
  | _ => true

theorem near_of {p : Place} (c : nearB p = true) : ∀ d pa, p.loc ≠ .peer d pa := by
  intro d pa h
  simp [nearB, h] at c

/-- The checks of an access to an array, decided. -/
def reachB (s : State) (x : Group) (acc : Access) (sp : Nat) (a : Word) (size al : Nat) : Bool :=
  decide (a.toNat % al = 0) && ((sramAt s x sp 0 a size).isSome ||
    (decide ((sp = 0 ∨ sp = 5) ∧ a.toNat < 2 ^ 55 ∧ watchHit s.me a.toNat size (acc = .load) (acc = .store) = false) &&
     decide ((translateAll (vecWho s s.cur) acc (piecesOf a.toNat size) s).1 = s) &&
     (translateAll (vecWho s s.cur) acc (piecesOf a.toNat size) s).2.isOk &&
     decide (∀ p ∈ translated s acc a size, p.far = false ∧ (sp = 5 → p.hs = true) ∧ (acc = .store → p.mig = false ∧ nearB p = true) ∧
        (acc = .load → (placeFault p s).1 = s ∧ (placeFault p s).2 = none))))

theorem reaches_of {s : State} {x : Group} {acc : Access} {sp : Nat} {a : Word} {size al : Nat}
    (c : reachB s x acc sp a size al = true) : Reaches s x acc sp a size al := by
  simp only [reachB, Bool.and_eq_true, Bool.or_eq_true, decide_eq_true_eq] at c
  refine ⟨c.1, c.2.imp id fun h => ⟨h.1.1.1.1, h.1.1.1.2.1, h.1.1.1.2.2, ⟨_, okAt h.1.1.2 h.1.2⟩, fun p hp => ?_⟩⟩
  obtain ⟨h1, h2, h3, h4⟩ := h.2 p hp
  exact ⟨h1, h2, fun e => ⟨(h3 e).1, near_of (h3 e).2⟩, fun e => Prod.ext (h4 e).1 (h4 e).2⟩

/-- An element can be read, a result stored. -/
def elemB (s : State) (x : Group) (d : Desc) (idx : List Nat) : Bool :=
  reachB s x .load d.space.toNat (elemAddress d idx) d.elemTag.unitBytes d.align
def resultB (s : State) (x : Group) (d : Desc) (i : Nat) : Bool :=
  reachB s x .store d.space.toNat (resultAddress d i) d.elemTag.unitBytes d.align

theorem result_of {s : State} {x : Group} {n : Nat} {d : Nat → Desc} {at_ : Nat → Nat}
    (c : ∀ i, i < n → resultB s x (d i) (at_ i) = true) : ∀ i, i < n → ResultReached s x (d i) (at_ i) :=
  fun i hi => reaches_of (c i hi)

theorem reached_of {s : State} {x : Group} {n : Nat} {d : Desc} {k : Nat → Nat} {at_ : Nat → List (Desc × List Nat)}
    (c : ∀ i, i < n → resultB s x d (k i) = true ∧ ∀ p ∈ at_ i, elemB s x p.1 p.2 = true) :
    ∀ i, i < n → ResultReached s x d (k i) ∧ ∀ p ∈ at_ i, ElemReached s x p.1 p.2 :=
  fun i hi => ⟨reaches_of (c i hi).1, fun p hp => reaches_of ((c i hi).2 p hp)⟩

theorem elem_of {s : State} {x : Group} {n : Nat} {d : Desc} {k : Nat → List Nat}
    (c : ∀ i, i < n → elemB s x d (k i) = true) : ∀ i, i < n → ElemReached s x d (k i) := fun i hi => reaches_of (c i hi)

theorem elemIn_of {α : Type} {s : State} {x : Group} {l : List α} {d : Desc} {k : α → List Nat}
    (c : ∀ i ∈ l, elemB s x d (k i) = true) : ∀ i ∈ l, ElemReached s x d (k i) := fun i hi => reaches_of (c i hi)

theorem elemTo_of {s : State} {x : Group} {lo hi : Nat} {d : Desc} {k : Nat → List Nat}
    (c : ∀ i, i < hi → lo ≤ i → elemB s x d (k i) = true) : ∀ i, lo ≤ i → i < hi → ElemReached s x d (k i) :=
  fun i h1 h2 => reaches_of (c i h2 h1)

theorem elemAt_of {s : State} {x : Group} {n m : Nat} {d : Desc} {k : Nat → Nat → List Nat}
    (c : ∀ l, l < n → ∀ p, p < m → elemB s x d (k l p) = true) : ∀ l p, l < n → p < m → ElemReached s x d (k l p) :=
  fun l p hl hp => reaches_of (c l hl p hp)

theorem resultIn_of {α : Type} {s : State} {x : Group} {l : List α} {d : Desc} {k : α → Nat}
    (c : ∀ i ∈ l, resultB s x d (k i) = true) : ∀ i ∈ l, ResultReached s x d (k i) := fun i hi => reaches_of (c i hi)

theorem lines_of {s : State} {x : Group} {lo hi : Nat} {d : Desc} {reads : Nat → List (Desc × List Nat)}
    {outs : Nat → List (Nat × Nat)}
    (c : ∀ l, l < hi → lo ≤ l → (∀ p ∈ reads l, elemB s x p.1 p.2 = true) ∧ ∀ p ∈ outs l, resultB s x d p.1 = true) :
    ∀ l, lo ≤ l → l < hi → (∀ p ∈ reads l, ElemReached s x p.1 p.2) ∧ ∀ p ∈ outs l, ResultReached s x d p.1 :=
  fun l h1 h2 => ⟨fun p hp => reaches_of ((c l h2 h1).1 p hp), fun p hp => reaches_of ((c l h2 h1).2 p hp)⟩

theorem expd_of {s : State} {x : Group} {n cap : Nat} {a b d : Desc} {kb ka : Nat → List Nat} {takes : Nat → Bool}
    (c : ∀ i, i < n → elemB s x b (kb i) = true ∧ (i < cap → resultB s x d i = true) ∧
      (takes i = true → elemB s x a (ka i) = true)) :
    ∀ i, i < n → ElemReached s x b (kb i) ∧ (i < cap → ResultReached s x d i) ∧ (takes i = true → ElemReached s x a (ka i)) :=
  fun i hi => ⟨reaches_of (c i hi).1, fun h => reaches_of ((c i hi).2.1 h), fun h => reaches_of ((c i hi).2.2 h)⟩

theorem countRoom_of {s : State} {l : List PStore}
    (c : l.all (fun p => match p.loc with | .dev _ => false | _ => true) = true) : CountRoom s l := by
  intro p hp i hr
  have := List.all_eq_true.mp c p hp
  unfold PStore.raises at hr
  split at this <;> simp_all

theorem arithTags_of {op : AOp} {f : FmtA} {s : State} {tags : List Tag}
    (c : ∀ t ∈ (s.me.desc f.dd).elemTag :: tags, t ≠ .f64 ∧ t ≠ .kx)
    (d : ((match promoteAll tags with | .ok q => decide (q.1 = workTag tags) | _ => false) && decide (workTag tags ≠ .f64) &&
      op.accepts (workTag tags)) = true) : arithTags op f s tags := by
  simp only [Bool.and_eq_true, decide_eq_true_eq] at d
  cases h : promoteAll tags with
  | error e => rw [h] at d; simp at d
  | ok q =>
    rw [h] at d
    simp only [decide_eq_true_eq] at d
    exact ⟨c, q.2, by rw [h, ← d.1.1], d.1.2, d.2⟩

theorem witness_ArrayElementwise (h : Obligations.ArrayElementwise) :
    Runs (.aadd (fa 3 1 2 0 0 0 0 0 0)) labD ∧ Runs (.afma (fa 3 1 2 0 0 0 1 0 0)) labD ∧ Runs (.aabs (fa 6 5 0 0 0 0 0 8 0)) labD ∧
    Runs (.aand (fa 6 5 5 0 0 0 0 0 0)) labD ∧ Runs (.aclamp (fa 3 1 0 0 0 0 0 0 2)) labD ∧ Runs (.acmp (fa 24 1 2 0 0 0 0 0 7)) labD ∧
    Runs (.asel (fa 3 1 2 0 0 0 5 0 0)) labD ∧ Runs (.acvt (fa 6 1 0 0 0 0 0 0 0)) labD ∧ Runs (.aqnt (fa 24 1 2 0 0 0 0 0 0)) labD := by
  refine ⟨runs (h.1.1 _ _ labGroup.2 _ 4 (okEq₁ _ ?_) ?_ ?_ ?_ ⟨arithTags_of ?_ ?_, ?_⟩ (arrayReady_of ?_ ?_ (noPoison_of ?_) ?_) (reached_of ?_) (countRoom_of ?_)),
    runs (h.1.2.2.2.2.2.2.1 _ _ labGroup.2 _ 4 (okEq₁ _ ?_) ?_ ?_ ?_ ⟨arithTags_of ?_ ?_, ?_⟩ (arrayReady_of ?_ ?_ (noPoison_of ?_) ?_) (reached_of ?_) (countRoom_of ?_)),
    runs (h.1.2.2.2.2.2.2.2.1 _ _ labGroup.2 _ 4 (okEq₁ _ ?_) ?_ ?_ ?_ ⟨arithTags_of ?_ ?_, ?_⟩ (arrayReady_of ?_ ?_ (noPoison_of ?_) ?_) (reached_of ?_) (countRoom_of ?_)),
    runs (h.1.2.2.2.2.2.2.2.2.2.2.2.2.1 _ _ labGroup.2 _ 4 (okEq₁ _ ?_) ?_ ?_ ?_ ?_ (arrayReady_of ?_ ?_ (noPoison_of ?_) ?_) (reached_of ?_) (countRoom_of ?_)),
    runs (h.1.2.2.2.2.2.2.2.2.2.2.2.2.2.2.2.2.1 _ _ labGroup.2 _ 4 (okEq₁ _ ?_) ?_ ?_ ?_ ⟨arithTags_of ?_ ?_, ?_⟩ (arrayReady_of ?_ ?_ (noPoison_of ?_) ?_) (reached_of ?_) (countRoom_of ?_)),
    runs (h.1.2.2.2.2.2.2.2.2.2.2.2.2.2.2.2.2.2.1 _ _ labGroup.2 _ 4 (okEq₁ _ ?_) ?_ ?_ ?_ ⟨?_, ?_, _, okEqP _ ?_, ?_⟩ (arrayReady_of ?_ ?_ (noPoison_of ?_) ?_) (reached_of ?_) (countRoom_of ?_)),
    runs (h.1.2.2.2.2.2.2.2.2.2.2.2.2.2.2.2.2.2.2.1 _ _ labGroup.2 _ 4 (okEq₁ _ ?_) ?_ ?_ ?_ ⟨?_, ?_⟩ (arrayReady_of ?_ ?_ (noPoison_of ?_) ?_) (reached_of ?_) (countRoom_of ?_)),
    runs (h.1.2.2.2.2.2.2.2.2.2.2.2.2.2.2.2.2.2.2.2.1 _ _ labGroup.2 _ 4 (okEq₁ _ ?_) ?_ ?_ ?_ ?_ (arrayReady_of ?_ ?_ (noPoison_of ?_) ?_) (reached_of ?_) (countRoom_of ?_)),
    runs (h.1.2.2.2.2.2.2.2.2.2.2.2.2.2.2.2.2.2.2.2.2 _ _ labGroup.2 _ 4 (okEq₁ _ ?_) ?_ ?_ ?_ ?_ (arrayReady_of ?_ ?_ (noPoison_of ?_) ?_) (reached_of ?_) (countRoom_of ?_))⟩ <;>
  first | decide +kernel | (unfold narrowTags; decide +kernel)

/-- `labD` with the slices filled, and `d1` and `d2` in device memory. -/
def labDev : State := { labD with
  tlb := labD.tlb.flatMap fun p => p :: (List.range 8).map fun q => (.slice 0 q, p.2)
  harts := smPut labD.harts 0 { labD.me with
    dreg := (labD.me.dreg.set! 1 (mkd 0x10000 [2, 3] .f32 0 6)).set! 2 (mkd 0x10020 [2, 3] .f32 0 6) } }

theorem witness_ArrayElementwise_memory (h : Obligations.ArrayElementwise) : Runs (.aadd (fa 3 1 2 0 0 0 0 0 0)) labDev := by
  refine runs (h.1.1 _ _ labGroup.2 _ 4 (okEq₁ _ ?_) ?_ ?_ ?_ ⟨arithTags_of ?_ ?_, ?_⟩ (arrayReady_of ?_ ?_ (noPoison_of ?_) ?_)
    (reached_of ?_) (countRoom_of ?_)) <;> decide +kernel

/-- `labD` with VL 16, resumed at position 16. -/
def labDx : State := labD.modMe fun h => { h with vl := 16, epr := 16 }

theorem witness_ArrayElementwise_sx (h : Obligations.ArrayElementwise) :
    Runs (.acvt (fa 13 12 0 0 0 0 0 6 0)) labDx ∧ Runs (.aqnt (fa 13 12 11 0 0 0 0 1 0)) labDx := by
  refine ⟨runs (h.2.2 (fa 13 12 0 0 0 0 0 6 0) _ labGroup.2 _ 16 1 _ _ (.inl ⟨rfl, rfl, rfl⟩) (okEq₁ _ ?_) ?_ ?_ ?_ ?_ ?_ ?_ ?_ (arrayReady_of ?_ ?_ (noPoison_of ?_) ?_) (reached_of ?_) (countRoom_of ?_)),
    runs (h.2.2 (fa 13 12 11 0 0 0 0 1 0) _ labGroup.2 _ 16 2 _ _ (.inr ⟨rfl, rfl, rfl⟩) (okEq₁ _ ?_) ?_ ?_ ?_ ?_ ?_ ?_ ?_ (arrayReady_of ?_ ?_ (noPoison_of ?_) ?_) (reached_of ?_) (countRoom_of ?_))⟩ <;>
  first | decide +kernel | (unfold narrowTags; decide +kernel)

theorem isOk_of {ε α : Type _} {P : α → Prop} {e : Except ε α} (h : ∃ r, e = .ok r ∧ P r) : e.isOk = true := by
  obtain ⟨r, h, _⟩ := h
  rw [h]; rfl

/-- Frames and cells that agree, frames that do not at axis 1, cells that do not at axis 0; an axis of the cell, and one beyond it. -/
theorem witness_ArrayAgreement (h : Obligations.ArrayAgreement) :
    (agreeTwo [2, 3] [2, 3] 0 8).isOk = true ∧
    agreeTwo [2, 3, 4] [2, 5, 4] 10 10 = .error (frameTrap 0 1 0 3 5) ∧ agreeTwo [2, 3] [2, 4] 1 1 = .error (frameTrap 1 0 0 3 4) ∧
    (linesOf (mkd 0 [2, 3] .f32 1 6) 0 1).isOk = true ∧ linesOf (mkd 0 [2, 3] .f32 1 6) 1 1 = .error (frameTrap 3 0 3 1 1) := by
  refine ⟨isOk_of ((h.1 [2, 3] [2, 3] 0 8 ?_ ?_ ?_ ?_).1 ?_ ?_),
    ((h.1 [2, 3, 4] [2, 5, 4] 10 10 ?_ ?_ ?_ ?_).2.1 1 ?_ ?_ ?_ ?_).trans (congrArg _ ?_),
    ((h.1 [2, 3] [2, 4] 1 1 ?_ ?_ ?_ ?_).2.2 ?_ 0 ?_ ?_ ?_ ?_).trans (congrArg _ ?_), isOk_of ((h.2 (mkd 0 [2, 3] .f32 1 6) 0 1 ?_ ?_).1 ?_),
    ((h.2 (mkd 0 [2, 3] .f32 1 6) 1 1 ?_ ?_).2 ?_).trans (congrArg _ ?_)⟩ <;>
  decide +kernel

theorem witness_ArrayPrimitives (h : Obligations.ArrayPrimitives) :
    Runs (.aiota (fa 3 0 0 0 0 0 0 0 1)) labD ∧ Runs (.aiota (fa 5 0 0 0 0 1 0 1 1)) labD ∧ Runs (.afill (fa 3 0 0 0 0 0 0 0 1)) labD ∧
    Runs (.acopy (fa 3 1 0 0 0 0 0 0 0)) labD ∧ Runs (.aresh (fa 23 1 0 0 0 0 0 0 0)) labD ∧ Runs (.arot (fa 3 1 0 0 0 1 0 0 1)) labD ∧
    Runs (.atake (fa 3 1 0 0 0 1 0 0 33)) labR ∧ Runs (.acat (fa 3 1 2 0 0 1 0 0 0)) labD ∧ Runs (.agath (fa 3 1 14 0 0 0 0 0 0)) labD ∧
    Runs (.aouter (fa 3 10 18 0 0 0 0 0 2)) labD ∧ Runs (.aouter (fa 6 14 4 0 0 0 0 0 13)) labD := by
  refine ⟨runs ((h.1 _ _).1 ?_ ?_ labGroup.2 4 ?_ ?_ (arrayReady_of ?_ ?_ (noPoison_of ?_) ?_) (reached_of ?_) (countRoom_of ?_)), runs ((h.1 _ _).1 ?_ ?_ labGroup.2 4 ?_ ?_ (arrayReady_of ?_ ?_ (noPoison_of ?_) ?_) (reached_of ?_) (countRoom_of ?_)),
    runs ((h.1 _ _).2.1 ?_ ?_ labGroup.2 4 ?_ ?_ (arrayReady_of ?_ ?_ (noPoison_of ?_) ?_) (reached_of ?_) (countRoom_of ?_)),
    runs (((h.1 _ _).2.2.1 ?_).1 labGroup.2 4 ?_ ?_ (arrayReady_of ?_ ?_ (noPoison_of ?_) ?_) (reached_of ?_) (countRoom_of ?_)),
    runs (((h.1 _ _).2.2.1 ?_).2.1 labGroup.2 4 ?_ ?_ (arrayReady_of ?_ ?_ (noPoison_of ?_) ?_) (reached_of ?_) (countRoom_of ?_)),
    runs ((((h.1 _ _).2.2.1 ?_).2.2.1 ?_).1 labGroup.2 4 ?_ ?_ (arrayReady_of ?_ ?_ (noPoison_of ?_) ?_) (reached_of ?_) (countRoom_of ?_)),
    runs ((((h.1 _ _).2.2.1 ?_).2.2.1 ?_).2.2 ?_ labGroup.2 4 ?_ ?_ (arrayReady_of ?_ ?_ (noPoison_of ?_) ?_) (reached_of ?_) (countRoom_of ?_)),
    runs (((h.1 _ _).2.2.1 ?_).2.2.2 ?_ ?_ ?_ ?_ ?_ ?_ labGroup.2 4 ?_ ?_ (arrayReady_of ?_ ?_ (noPoison_of ?_) ?_) (reached_of ?_) (countRoom_of ?_)),
    runs ((h.1 _ _).2.2.2.1 ?_ ?_ ?_ ?_ labGroup.2 4 ?_ ?_ (arrayReady_of ?_ ?_ (noPoison_of ?_) ?_) (reached_of ?_) (countRoom_of ?_)),
    runs ((h.1 _ _).2.2.2.2 ?_ ?_ ⟨_, okEqP _ ?_, ?_⟩ ?_ ?_ labGroup.2 4 ?_ ?_ (arrayReady_of ?_ ?_ (noPoison_of ?_) ?_) (reached_of ?_) (countRoom_of ?_)),
    runs ((h.1 _ _).2.2.2.2 ?_ ?_ ⟨_, okEqP _ ?_, ?_⟩ ?_ ?_ labGroup.2 4 ?_ ?_ (arrayReady_of ?_ ?_ (noPoison_of ?_) ?_) (reached_of ?_) (countRoom_of ?_))⟩ <;>
  first | decide +kernel | (unfold moveTags; decide +kernel)

/-- `labD` with VL 16. -/
def labD16 : State := labD.modMe fun h => { h with vl := 16 }

/-- One strip with room for the chosen elements, and one without. -/
theorem witness_ArrayPrimitives_masks (h : Obligations.ArrayPrimitives) :
    Runs (.acomp (fa 3 1 1 0 0 0 0 0 2)) labD16 ∧ Runs (.acomp (fa 7 1 1 0 0 0 0 0 2)) labD16 ∧ Runs (.aexpd (fa 3 18 18 0 0 0 0 0 2)) labD16 := by
  refine ⟨runs ((h.2 _ _ labGroup.2 16 ?_ ?_ ?_).1 6 _ (okEq₁ _ ?_) ?_ ?_ ?_ (arrayReady_of ?_ ?_ (noPoison_of ?_) ?_) (elem_of ?_) (elemIn_of ?_) (result_of ?_) (countRoom_of ?_)),
    runs ((h.2 _ _ labGroup.2 16 ?_ ?_ ?_).1 6 _ (okEq₁ _ ?_) ?_ ?_ ?_ (arrayReady_of ?_ ?_ (noPoison_of ?_) ?_) (elem_of ?_) (elemIn_of ?_) (result_of ?_) (countRoom_of ?_)),
    runs ((h.2 _ _ labGroup.2 16 ?_ ?_ ?_).2 ?_ 3 ?_ ?_ (arrayReady_of ?_ ?_ (noPoison_of ?_) ?_) (expd_of ?_) (countRoom_of ?_))⟩ <;>
  first | decide +kernel | (unfold moveTags; decide +kernel)

/-- Reductions of d1 along its last axis: a sum, a sum within bounds, a position; a line in pieces. -/
theorem witness_ArrayReduce (h : Obligations.ArrayReduce) :
    Runs (.ared (fa 7 1 0 0 0 1 0 0 0)) labD ∧ Runs (.ared (fa 7 1 9 0 0 1 0 0 2)) labD ∧ Runs (.ared (fa 4 1 7 0 0 1 0 0 0)) labD ∧
    Runs (.ared (fa 7 3 0 0 0 0 0 0 0)) labD ∧ Runs (.ared (fa 7 3 0 0 0 0 0 0 0)) (labD.modMe fun h => { h with epr := 4, carry := 0x3F800000 }) := by
  refine ⟨runs ((h.1 _ _ _ (okEq₁ _ ?_) ?_ ?_ ?_ ?_ ?_).1 ?_ ?_ labGroup.2 4 0 ?_ ?_ ?_ (arrayReady_of ?_ ?_ (noPoison_of ?_) ?_) (lines_of ?_) (countRoom_of ?_)),
    runs ((h.1 _ _ _ (okEq₁ _ ?_) ?_ ?_ ?_ ?_ ?_).2.1 ?_ ?_ labGroup.2 4 0 ?_ ?_ ?_ (arrayReady_of ?_ ?_ (noPoison_of ?_) ?_) (lines_of ?_) (countRoom_of ?_)),
    runs ((h.1 _ _ _ (okEq₁ _ ?_) ?_ ?_ ?_ ?_ ?_).2.2 ?_ ?_ ?_ ?_ ?_ labGroup.2 4 0 ?_ ?_ ?_ (arrayReady_of ?_ ?_ (noPoison_of ?_) ?_) (lines_of ?_) (countRoom_of ?_)),
    runs (h.2 _ _ _ labGroup.2 4 0 0 (okEq₁ _ ?_) ?_ ?_ ?_ ?_ ?_ ?_ ?_ ?_ ?_ ?_ (arrayReady_of ?_ ?_ (noPoison_of ?_) ?_) (elemTo_of ?_) (reaches_of ?_) (countRoom_of ?_)),
    runs (h.2 _ _ _ labGroup.2 4 0 4 (okEq₁ _ ?_) ?_ ?_ ?_ ?_ ?_ ?_ ?_ ?_ ?_ ?_ (arrayReady_of ?_ ?_ (noPoison_of ?_) ?_) (elemTo_of ?_) (reaches_of ?_) (countRoom_of ?_))⟩ <;>
  decide +kernel

theorem witness_ArrayOrder (h : Obligations.ArrayOrder) :
    Runs (.ascan (fa 3 1 0 0 0 1 0 0 0)) labD ∧ Runs (.amed (fa 7 1 0 0 0 1 0 0 0)) labD ∧ Runs (.agrade (fa 6 1 0 0 0 1 0 1 0)) labD := by
  refine ⟨runs ((h _ _ _ (okEq₁ _ ?_) ?_).1 ?_ ?_ ?_ ?_ ?_ labGroup.2 4 0 ?_ ?_ ?_ (arrayReady_of ?_ ?_ (noPoison_of ?_) ?_) (lines_of ?_) (countRoom_of ?_)),
    runs ((h _ _ _ (okEq₁ _ ?_) ?_).2.1 ?_ ?_ ?_ ?_ ?_ ?_ ?_ labGroup.2 4 0 ?_ ?_ ?_ (arrayReady_of ?_ ?_ (noPoison_of ?_) ?_) (lines_of ?_) (countRoom_of ?_)),
    runs ((h _ _ _ (okEq₁ _ ?_) ?_).2.2.1 ?_ ?_ ?_ ?_ labGroup.2 4 0 ?_ ?_ ?_ (arrayReady_of ?_ ?_ (noPoison_of ?_) ?_) (lines_of ?_) (countRoom_of ?_))⟩ <;>
  decide +kernel

/-- The two best of each line of d1; s34 is 2. -/
theorem witness_ArrayOrder_topk (h : Obligations.ArrayOrder) : Runs (.atopk (fa 9 1 0 0 0 1 0 0 34)) (labR.modMe fun h => { h with vl := 16 }) := by
  refine runs ((h _ _ _ (okEq₁ _ ?_) ?_).2.2.2 labGroup.2 16 ?_ ?_ ?_ ?_ ?_ ?_ ?_ ?_ (arrayReady_of ?_ ?_ (noPoison_of ?_) ?_) (elemAt_of ?_) (resultIn_of ?_) (countRoom_of ?_)) <;>
  decide +kernel

/-- d1 is 2 by 3, d19 is 3 by 2. -/
theorem witness_ArrayInner (h : Obligations.ArrayInner) :
    Runs (.ainner (fa 3 1 19 0 0 0 0 0 2)) labD ∧ Runs (.ainner (fa 6 4 4 0 0 6 0 0 13)) labD := by
  refine ⟨runs (h _ _ ?_ ?_ ?_ ?_ ?_ ?_ ?_ ?_ ⟨_, okEqP _ ?_, ?_⟩ ?_ labGroup.2 4 0 ?_ ?_ ?_ (arrayReady_of ?_ ?_ (noPoison_of ?_) ?_) (lines_of ?_) (countRoom_of ?_)),
    runs (h _ _ ?_ ?_ ?_ ?_ ?_ ?_ ?_ ?_ ⟨_, okEqP _ ?_, ?_⟩ ?_ labGroup.2 4 0 ?_ ?_ ?_ (arrayReady_of ?_ ?_ (noPoison_of ?_) ?_) (lines_of ?_) (countRoom_of ?_))⟩ <;>
  decide +kernel

/-- Format X. -/
def fx (xd xa xb at_ msk ovr rm sat : Nat) : FmtX :=
  ⟨BitVec.ofNat 6 xd, BitVec.ofNat 6 xa, BitVec.ofNat 6 xb, BitVec.ofNat 1 at_, 0, BitVec.ofNat 4 msk, BitVec.ofNat 4 ovr,
   BitVec.ofNat 3 rm, BitVec.ofNat 1 sat, 0⟩

/-- `lab` in matrix mode, M 3 and N 4 of f32; s5 is 2, s6 a request of `MSHAPE`, s7 is 2^48, s24 is 128. -/
def labMx : State := (regs [(5, 2), (6, 0x7000200003), (7, 2 ^ 48), (24, 128)] lab).modMe fun h =>
  { h with matrix := true, mshape := BitVec.ofNat 64 (Tag.f32.code * 2 ^ 32 + 8 * 2 ^ 16 + 4 * 2 ^ 8 + 3) }

/-- `labMx` outside matrix mode. -/
def labNoMx : State := labMx.modMe fun h => { h with matrix := false }

/-- Another group holds the matrix array. -/
def labHeld : State := { labNoMx with cores := smPut labNoMx.cores 0 { labNoMx.core 0 with mholder := some 9 } }

theorem matrixReady_of {f : FmtX} {s : State} {l : List Nat}
    (c : s.me.steps = false ∧ s.me.matrix = true ∧ Memory.wf (s.tile f.at_) = true ∧ ∀ v ∈ l, s.me.binding? v = none)
    (w : (List.range 64).all (fun v => Memory.wf (s.me.vreg[v]!)) = true) : MatrixReady f s l :=
  ⟨c.1, c.2.1, vecWf_of w, c.2.2.1, c.2.2.2⟩

theorem witness_MatrixMode (h : Obligations.MatrixMode) :
    Runs (.mmodeOn (fx 0 0 0 0 0 0 0 0)) labNoMx ∧ Runs (.mmodeOn (fx 0 0 0 0 0 0 0 0)) labHeld ∧
    Runs (.mmodeOff (fx 0 0 0 0 0 0 0 0)) labMx ∧ Runs (.mshape (fx 5 6 1 0 0 0 0 0)) lab ∧ Runs (.mshape (fx 5 7 1 0 0 0 0 0)) labMx ∧
    Runs (.mshape (fx 5 6 25 0 0 0 0 0)) labMx ∧ Runs (.mzero (fx 0 0 0 1 0 0 0 0)) labMx ∧ Runs (.mzero (fx 0 0 0 1 0 0 0 0)) labNoMx := by
  refine ⟨runs ((h.1 _ _ _ _ (someEqP _ ?_) ?_).1 ?_), runs ((h.1 _ _ _ _ (someEqP _ ?_) ?_).2 ?_ ?_ ?_ ?_),
    runs (h.2.1 _ _ _ _ (someEqP _ ?_) ?_), runs ((h.2.2.1 _ _).1 ?_ ?_ ?_), runs₂ ((h.2.2.1 _ _).2.1 ?_ ?_), runs ((h.2.2.1 _ _).2.2 ?_ ?_ ?_),
    runs (h.2.2.2.1 _ _ ?_ ?_), runs (h.2.2.2.2 _ _ ?_ ?_)⟩ <;>
  decide +kernel

theorem witness_MatrixTiles (h : Obligations.MatrixTiles) :
    Runs (.mact (fx 0 1 0 1 0 0 0 0)) labMx ∧ Runs (.macts (fx 0 1 0 1 1 0 0 0)) labMx ∧ Runs (.mmovw (fx 5 9 0 1 0 0 0 0)) labMx ∧
    Runs (.mvmac (fx 5 1 2 1 0 0 0 0)) labMx ∧ Runs (.mmovw (fx 24 9 0 1 0 0 0 0)) labMx ∧ Runs (.mmovn (fx 9 5 0 1 0 0 6 0)) labMx ∧
    Runs (.mmovn (fx 34 5 0 0 0 0 0 0)) (labMx.modMe fun h => { h with mshape := BitVec.ofNat 64 (16 * 2 ^ 8 + 16) }) ∧
    Runs (.mmovn (fx 9 5 0 1 0 0 0 0)) (labMx.modMe fun h => { h with mshape := BitVec.ofNat 64 (4 * 2 ^ 8) }) := by
  refine ⟨runs ((h.1 _ _).1 ⟨matrixReady_of ?_ ?_, ?_, ?_, ?_, ?_, ?_, ?_, ?_, ?_⟩),
    runs ((h.1 _ _).2.1 ⟨matrixReady_of ?_ ?_, ?_, ?_, ?_, ?_, ?_, ?_, ?_, ?_⟩ ?_), runs ((h.1 _ _).2.2.1 (matrixReady_of ?_ ?_) ?_ ?_ ?_ ?_ ?_),
    runs ((h.1 _ _).2.2.2.1 (matrixReady_of ?_ ?_) ?_ ?_ ?_), runs ((h.1 _ _).2.2.2.2 ?_ ?_ ?_ ?_ ?_ ?_ ?_),
    runs ((h.2 _ _ (matrixReady_of ?_ ?_) ?_ ?_ ?_ ?_ ?_).2.1 ?_ ?_), runs ((h.2 _ _ (matrixReady_of ?_ ?_) ?_ ?_ ?_ ?_ ?_).2.2 ?_ ?_ ?_),
    runs ((h.2 _ _ (matrixReady_of ?_ ?_) ?_ ?_ ?_ ?_ ?_).1 ?_ ?_)⟩ <;>
  decide +kernel

theorem region_of {d : Desc} {size : Nat} {s : State}
    (c : d.space = 0 ∧ d.rank = 1 ∧ d.tag = 0 ∧ d.base.toNat % 64 = 0 ∧ 1 ≤ (d.str[0]!).toInt ∧ (d.str[0]!).toInt ≤ 255 ∧
      64 + size ≤ (d.ext[0]!).toNat ∧ hostShared d.base s = false) : IsRegion d size s := c

theorem okEq₂ {σ ε α β : Type _} (e : σ × Except ε (α × β)) (h : e.2.isOk = true) :
    e = (e.1, .ok ((okVal e.2 h).1, (okVal e.2 h).2)) := okEq e h

/-- The header of a witness of d1 after an operator, for n contributors, with two uses. -/
def hdr (op n iax : Nat) : Header :=
  { sealHeader (mkd 0 [2, 3] .f32 1 6) n 2 1 with op := op, iax := iax, wlog := opLog op n, fbytes := if op = 6 then 48 else 8 }

/-- d16 is the region of a witness: here of the top-k of d1. -/
def labWit (h : Header) : State := regs [(2, 5)] (put 0x10000 h.bytes labD)

theorem witness_WitnessInstructions (h : Obligations.WitnessInstructions) :
    Runs (.wchk (fa 0 0 0 0 0 0 16 0 2)) (labWit (hdr 6 5 1)) ∧ Runs (.wchk (fa 0 0 0 0 0 0 16 0 2)) (labWit { hdr 6 5 1 with magic := 0 }) ∧
    Runs (.wchkSeal (fa 0 1 0 0 0 0 16 0 2)) (labWit (hdr 6 5 1)) ∧ Runs (.wrel (fa 0 0 0 0 0 0 16 0 0)) (labWit (hdr 6 5 1)) ∧
    Runs (.wrel (fa 0 0 0 0 0 0 16 0 0)) (labWit { hdr 6 5 1 with flags := 0 }) ∧ Runs (.wrel (fa 0 0 0 0 0 0 1 0 0)) labD := by
  refine ⟨runs ((h.1 _ _ ?_).1 _ _ _ (region_of ?_) (okEq₂ _ ?_) ?_), runs ((h.1 _ _ ?_).1 _ _ _ (region_of ?_) (okEq₂ _ ?_) ?_),
    runs ((h.1 _ _ ?_).2.1 _ (region_of ?_) ?_ ?_ ?_ ?_ (noneEq _ ?_)),
    runs ((h.1 _ _ ?_).2.2.1 _ _ _ _ (region_of ?_) (okEq₂ _ ?_) ?_ (noneEq _ ?_)),
    runs ((h.1 _ _ ?_).2.2.1 _ _ _ _ (region_of ?_) (okEq₂ _ ?_) ?_ (noneEq _ ?_)),
    runs ((h.1 (fa 0 0 0 0 0 0 1 0 0) labD ?_).2.2.2 ?_ ?_ (.wrel _) ?_)⟩ <;>
  decide +kernel

theorem witness_WitnessInstructions_layout (h : Obligations.WitnessInstructions) :
    (hdr 8 2 0).bytes.length = 64 ∧ packFields 4 [1, 2, 3] / 2 ^ 8 % 2 ^ 4 = 3 ∧ opLog 5 2 = 0 ∧ opLog 1 256 = 4 := by
  refine ⟨(h.2.1 (hdr 8 2 0) ?_ ?_ ?_ ?_ ?_ ?_ ?_ ?_ ?_ ?_ ?_ ?_ ?_ ?_).1, h.2.2.1 4 [1, 2, 3] 2 ?_, (h.2.2.2.2 5 2 ?_ ?_).trans ?_,
    (h.2.2.2.2 1 256 ?_ ?_).trans ?_⟩ <;>
  decide +kernel

/-- `AMIN` of d1 and d2, and `ACLAMP` of d1, with the witness at d16. -/
theorem witness_WitnessedArrays (h : Obligations.WitnessedArrays) :
    Runs (.amin (fa 3 1 2 0 0 0 16 0 0)) labD16 ∧ Runs (.aclamp (fa 3 1 0 0 0 0 16 0 2)) labD16 := by
  refine ⟨runs (h.2.1 (fa 3 1 2 0 0 0 16 0 0) labD16 _ _ labGroup.2 _ 16 _ (.amin (fa 3 1 2 0 0 0 16 0 0), .min, 2, 8) ?_ (okEq₁ _ ?_) ?_ ?_ ?_ ?_ ?_ ?_
      (arithTags_of ?_ ?_) ?_ (arrayReady_of ?_ ?_ (noPoison_of ?_) ?_) (reached_of ?_) (countRoom_of ?_) ?_ (region_of ?_) (okEq _ ?_) (noneEq _ ?_)),
    runs (h.2.1 (fa 3 1 0 0 0 0 16 0 2) labD16 _ _ labGroup.2 _ 16 _ (.aclamp (fa 3 1 0 0 0 0 16 0 2), .clamp, 1, 9) ?_ (okEq₁ _ ?_) ?_ ?_ ?_ ?_ ?_ ?_
      (arithTags_of ?_ ?_) ?_ (arrayReady_of ?_ ?_ (noPoison_of ?_) ?_) (reached_of ?_) (countRoom_of ?_) ?_ (region_of ?_) (okEq _ ?_) (noneEq _ ?_))⟩ <;>
  decide +kernel

/-- The witnesses of a greatest and a least element, an integer sum and a clamped sum of each line, of the medians, and of the
two best. -/
theorem witness_WitnessedArrays_lines (h : Obligations.WitnessedArrays) :
    Runs (.ared (fa 7 1 3 0 0 1 16 0 0)) labD16 ∧ Runs (.ared (fa 7 1 2 0 0 1 16 0 0)) labD16 ∧
    Runs (.ared (fa 6 5 0 0 0 1 16 0 0)) labD16 ∧ Runs (.ared (fa 7 1 9 0 0 1 16 0 2)) labD16 ∧
    Runs (.amed (fa 7 1 0 0 0 1 16 0 0)) labD16 ∧ Runs (.atopk (fa 9 1 0 0 0 1 16 0 34)) (labR.modMe fun h => { h with vl := 16 }) := by
  refine ⟨runs (((h.2.2 _ _ _ (okEq₁ _ ?_) ?_ ?_).1 ?_ ?_).1 ?_ ?_ ?_ _ _ labGroup.2 16 _ ?_ ?_ ?_ ?_ ?_ (arrayReady_of ?_ ?_ (noPoison_of ?_) ?_) (elemAt_of ?_) (resultIn_of ?_) (countRoom_of ?_) ?_ (region_of ?_) (okEq _ ?_) (noneEq _ ?_)),
    runs (((h.2.2 _ _ _ (okEq₁ _ ?_) ?_ ?_).1 ?_ ?_).1 ?_ ?_ ?_ _ _ labGroup.2 16 _ ?_ ?_ ?_ ?_ ?_ (arrayReady_of ?_ ?_ (noPoison_of ?_) ?_) (elemAt_of ?_) (resultIn_of ?_) (countRoom_of ?_) ?_ (region_of ?_) (okEq _ ?_) (noneEq _ ?_)),
    runs (((h.2.2 _ _ _ (okEq₁ _ ?_) ?_ ?_).1 ?_ ?_).2.1 ?_ ?_ _ _ labGroup.2 16 _ ?_ ?_ ?_ ?_ ?_ (arrayReady_of ?_ ?_ (noPoison_of ?_) ?_) (elemAt_of ?_) (resultIn_of ?_) (countRoom_of ?_) ?_ (region_of ?_) (okEq _ ?_) (noneEq _ ?_)),
    runs (((h.2.2 _ _ _ (okEq₁ _ ?_) ?_ ?_).1 ?_ ?_).2.2 ?_ _ _ labGroup.2 16 _ ?_ ?_ ?_ ?_ ?_ (arrayReady_of ?_ ?_ (noPoison_of ?_) ?_) (elemAt_of ?_) (resultIn_of ?_) (countRoom_of ?_) ?_ (region_of ?_) (okEq _ ?_) (noneEq _ ?_)),
    runs ((h.2.2 _ _ _ (okEq₁ _ ?_) ?_ ?_).2.1 ?_ ?_ ?_ ?_ ?_ _ _ labGroup.2 16 _ ?_ ?_ ?_ ?_ ?_ (arrayReady_of ?_ ?_ (noPoison_of ?_) ?_) (elemAt_of ?_) (resultIn_of ?_) (countRoom_of ?_) ?_ (region_of ?_) (okEq _ ?_) (noneEq _ ?_)),
    runs ((h.2.2 _ _ _ (okEq₁ _ ?_) ?_ ?_).2.2 ?_ ?_ ?_ ?_ ?_ ?_ _ _ labGroup.2 16 _ ?_ ?_ ?_ ?_ ?_ (arrayReady_of ?_ ?_ (noPoison_of ?_) ?_) (elemAt_of ?_) (resultIn_of ?_) (countRoom_of ?_) ?_ (region_of ?_) (okEq _ ?_) (noneEq _ ?_))⟩ <;>
  decide +kernel

/-- One witness for each clause on operators. -/
theorem witness_WitnessedArrays_adjoint (h : Obligations.WitnessedArrays) :
    (adjointAt 0x10000 (hdr 1 3 1) 0 false [1, 2] labD).2.isOk = true ∧ (adjointAt 0x10000 (hdr 4 3 1) 0 false [1, 2] labD).2.isOk = true ∧
    (adjointAt 0x10000 (hdr 4 3 1) 2 false [1, 2] labD).2.isOk = true ∧ (adjointAt 0x10000 (hdr 9 1 0) 0 false [1, 2] labD).2.isOk = true ∧
    (adjointAt 0x10000 (hdr 5 3 1) 0 true [1, 2] labD).2.isOk = true ∧ (adjointAt 0x10000 (hdr 8 2 0) 1 false [1, 2] labD).2.isOk = true := by
  refine ⟨congrArg (fun e => e.2.isOk) ((h.1.1 0x10000 (hdr 1 3 1) 0 false [1, 2] labD _ _ ?_ (okEq _ ?_)).1 ?_),
    congrArg (fun e => e.2.isOk) ((h.1.1 0x10000 (hdr 4 3 1) 0 false [1, 2] labD _ _ ?_ (okEq _ ?_)).2.1 ?_ ?_),
    congrArg (fun e => e.2.isOk) ((h.1.1 0x10000 (hdr 4 3 1) 2 false [1, 2] labD _ _ ?_ (okEq _ ?_)).2.2.1 ?_ ?_),
    congrArg (fun e => e.2.isOk) ((h.1.1 0x10000 (hdr 9 1 0) 0 false [1, 2] labD _ _ ?_ (okEq _ ?_)).2.2.2.1 ?_ ?_),
    congrArg (fun e => e.2.isOk) ((h.1.1 0x10000 (hdr 5 3 1) 0 true [1, 2] labD _ _ ?_ (okEq _ ?_)).2.2.2.2.1 ?_),
    congrArg (fun e => e.2.isOk) ((h.1.1 0x10000 (hdr 8 2 0) 1 false [1, 2] labD _ _ ?_ (okEq _ ?_)).2.2.2.2.2 ?_)⟩ <;>
  decide +kernel

/-- What commits a strip of `WADJ` to d3: no witness is written, and the strip at 0 takes one use of the witness at d16. -/
def adjJob : ArrayJob :=
  { dd := 3, d := labD.me.desc 3, shape := [], total := 0, next := id, body := fun _ _ s => (s, .ok (Pan.of s [] 0)), wit := none
    claim := claimUse (labD.me.desc 16).base, done := id }

/-- `labD` with the witness of an `AMAX` at d16, and VL 16. -/
def labAdj : State := (labWit (hdr 8 2 0)).modMe fun h => { h with vl := 16 }

theorem adjJob_base : (labD.me.desc 16).base =
    ((settleAll labAdj.cur labAdj).me.desc (fa 3 1 0 0 0 0 16 1 0).wd).base := by decide +kernel

theorem witness_WitnessedArrays_wadj (h : Obligations.WitnessedArrays) : Runs (.wadj (fa 3 1 0 0 0 0 16 1 0)) labAdj := by
  refine runs (h.1.2 (fa 3 1 0 0 0 0 16 1 0) labAdj _ _ _ _ _ 16 adjJob _ ?_ ?_ ?_ ?_ ?_ ?_ ?_ ?_ ?_ ?_ (region_of ?_) (okEq₂ _ (by decide +kernel)) ?_ ?_ ?_ ?_ ?_ ?_ ?_
    (okEq _ (by decide +kernel)) ?_ rfl (congrArg claimUse adjJob_base) (noneEq _ ?_) ?_ ?_) <;>
  first | decide +kernel | (unfold StripLength; decide +kernel)

/-- Format C. -/
def fc (sd sa sb vt lm imm : Nat) : FmtC :=
  ⟨BitVec.ofNat 6 sd, BitVec.ofNat 6 sa, BitVec.ofNat 6 sb, BitVec.ofNat 6 vt, BitVec.ofNat 4 lm, BitVec.ofNat 20 imm⟩

/-- A record of kind MEM: direction, space, tag, count, base and stride. -/
def memRec (dir sp : Nat) (t : Tag) (count base stride : Nat) : Nat :=
  1 + dir * 2 ^ 8 + sp * 2 ^ 9 + t.code * 2 ^ 16 + count * 2 ^ 64 + base * 2 ^ 128 + stride * 2 ^ 192

/-- A record of kind COMP: tag, count, source and its length, destination. -/
def compRec (t : Tag) (count src len dest : Nat) : Nat :=
  4 + t.code * 2 ^ 16 + count * 2 ^ 64 + src * 2 ^ 128 + len * 2 ^ 192 + dest * 2 ^ 256

/-- A raw block of a compressed stream. -/
def rawBlock (t : Tag) (l : List Nat) : List Byte :=
  let pay := l.flatMap (leBytes t.bytes)
  leBytes 2 0x5342 ++ leBytes 1 0 ++ leBytes 1 t.code ++ leBytes 4 l.length ++ leBytes 4 pay.length ++ leBytes 4 (crc32c pay).toNat ++ pay

/-- A binding of a record. -/
def bnd (vt lm r : Nat) : Binding := newBinding vt lm 0x10000 (BitVec.ofNat 512 r) false

/-- `lab` with bindings. -/
def labB (l : List Binding) : State := lab.modMe fun h => { h with binds := l }

/-- A MEM record at s21; v9 holds i32. -/
def labBind : State := put 0x10000 (leBytes 64 (memRec 0 1 .i32 6 0x10 4)) lab

/-- A call that runs, for a binding of kind COLL. -/
def call (st : CallState) (sent chunks : List Nat) : Call :=
  { id := 0, die := 0, tag := 7, asid := 1, serial := lab.serialOf 0, hart := 0, lm := 5, slot := 1
    record := BitVec.ofNat 512 (6 + Tag.i32.code * 2 ^ 16 + 8 * 2 ^ 64 + 7 * 2 ^ 192 + 2 ^ 208 + 0x10700 * 2 ^ 256 + 0x10400 * 2 ^ 192 * 2 ^ 192 + 4 * 2 ^ 224 * 2 ^ 224)
    seq := 0, memb := [0, 1], st := st, status := 0, lost := 0xFFFF, sent := sent.map (BitVec.ofNat 64), chunks := chunks, count := 0
    time := 77, order := 5, srcDone := false, out := [], hops := [], named := true, sup := false }

theorem witness_StreamBindings (h : Obligations.StreamBindings) :
    Runs (.bind (fc 0 21 0 9 0 0)) labBind ∧ Runs (.bind (fc 0 21 0 9 0 0)) (labBind.modMe fun h => { h with binds := [bnd 9 0 0] }) ∧
    Runs (.bind (fc 0 21 0 9 0 0)) (labBind.modMe fun h => { h with binds := (List.range 8).map fun i => bnd (i + 40) 0 0 }) ∧
    Runs (.unbind (fc 12 0 0 9 0 0)) lab ∧ Runs (.unbind (fc 12 0 0 9 0 0)) (labB [bnd 9 0 (memRec 0 1 .i32 6 0x10 4)]) ∧
    Runs (.unbind (fc 12 0 0 9 0 0)) { labB [bnd 9 0 6] with calls := [call .running [] []] } ∧ Runs (.sstat (fc 12 0 0 9 0 0)) lab := by
  refine ⟨runs ((h.1 (fc 0 21 0 9 0 0) labBind _ _ ?_ (okEq _ ?_)).1 ?_ ?_ ?_ ?_ ?_ ?_ ?_), runs ((h.1 (fc 0 21 0 9 0 0) _ _ _ ?_ (okEq _ ?_)).2.1 ?_ ?_),
    runs ((h.1 (fc 0 21 0 9 0 0) _ _ _ ?_ (okEq _ ?_)).2.2.1 ?_ ?_ ?_), runs ((h.2.2.1 _ _ ?_).1 ?_), runs ((h.2.2.1 _ _ ?_).2.1 _ (someEq _ ?_) ?_ ?_),
    runsEq ((h.2.2.1 _ _ ?_).2.2 _ _ (someEq _ ?_) ?_ (someEq _ ?_) ?_ ?_), runs₂ (h.2.2.2 _ _ ?_)⟩ <;>
  decide +kernel

/-- A record at s21; v9 holds i32, v1 f32. -/
def labRec (r : Nat) : State := put 0x10000 (leBytes 64 r) lab

/-- A COLL record of this device alone: TAG 7, members at 0x10700, destination 0x10400 in event mode. -/
def collRec : Nat := 6 + Tag.i32.code * 2 ^ 16 + 8 * 2 ^ 64 + 7 * 2 ^ 192 + 0x10700 * 2 ^ 256 + 0x10400 * 2 ^ 384 + 4 * 2 ^ 448

/-- One witness for each reason of STREAM, for TAG, and for what stops a COLL record; a COLL record that passes. -/
theorem witness_StreamBindings_kind_zero (h : Obligations.StreamBindings) : Runs (.bind (fc 0 21 0 9 0 0)) (labRec 0) := by
  refine runs (((h.1 (fc 0 21 0 9 0 0) (labRec 0) _ _ ?_ (okEq _ ?_)).2.2.2 ?_ ?_ ?_).1 ?_) <;>
  decide +kernel

theorem witness_StreamBindings_kind_seven (h : Obligations.StreamBindings) : Runs (.bind (fc 0 21 0 9 0 0)) (labRec 7) := by
  refine runs (((h.1 (fc 0 21 0 9 0 0) (labRec 7) _ _ ?_ (okEq _ ?_)).2.2.2 ?_ ?_ ?_).1 ?_) <;>
  decide +kernel

theorem witness_StreamBindings_field (h : Obligations.StreamBindings) : Runs (.bind (fc 0 21 0 9 0 0)) (labRec (memRec 0 1 .i32 6 0x10 4 + 2 ^ 12)) := by
  refine runs (((h.1 (fc 0 21 0 9 0 0) (labRec (memRec 0 1 .i32 6 0x10 4 + 2 ^ 12)) _ _ ?_ (okEq _ ?_)).2.2.2 ?_ ?_ ?_).2 ?_ ?_ |>.1 1 ?_) <;>
  decide +kernel

theorem witness_StreamBindings_count (h : Obligations.StreamBindings) : Runs (.bind (fc 0 21 0 9 0 0)) (labRec (memRec 0 1 .i32 0 0x10 4)) := by
  refine runs (((h.1 (fc 0 21 0 9 0 0) (labRec (memRec 0 1 .i32 0 0x10 4)) _ _ ?_ (okEq _ ?_)).2.2.2 ?_ ?_ ?_).2 ?_ ?_ |>.2 ?_ |>.1 ?_) <;>
  decide +kernel

theorem witness_StreamBindings_louver (h : Obligations.StreamBindings) : Runs (.bind (fc 0 21 0 9 1 0)) (labRec (memRec 0 1 .i32 6 0x10 4)) := by
  refine runs (((h.1 (fc 0 21 0 9 1 0) (labRec (memRec 0 1 .i32 6 0x10 4)) _ _ ?_ (okEq _ ?_)).2.2.2 ?_ ?_ ?_).2 ?_ ?_ |>.2 ?_ |>.2 ?_ |>.1 ?_) <;>
  decide +kernel

theorem witness_StreamBindings_room (h : Obligations.StreamBindings) : Runs (.bind (fc 0 21 0 9 5 0)) (labRec (compRec .i32 6 0x10 64 4096)) := by
  refine runs (((h.1 (fc 0 21 0 9 5 0) (labRec (compRec .i32 6 0x10 64 4096)) _ _ ?_ (okEq _ ?_)).2.2.2 ?_ ?_ ?_).2 ?_ ?_ |>.2 ?_ |>.2 ?_ |>.2.1 ?_ ?_ ?_) <;>
  decide +kernel

theorem witness_StreamBindings_tag (h : Obligations.StreamBindings) : Runs (.bind (fc 0 21 0 9 0 0)) (labRec (memRec 0 1 .sx4 16 0x10 Tag.sx4.blockBytes)) := by
  refine runs (((h.1 (fc 0 21 0 9 0 0) (labRec (memRec 0 1 .sx4 16 0x10 Tag.sx4.blockBytes)) _ _ ?_ (okEq _ ?_)).2.2.2 ?_ ?_ ?_).2 ?_ ?_ |>.2 ?_ |>.2 ?_ |>.2.2.1 ?_ ?_ ?_ ?_) <;>
  first | decide +kernel | (unfold RefusedTag; decide +kernel)

theorem witness_StreamBindings_coll_louver (h : Obligations.StreamBindings) : Runs (.bind (fc 0 21 0 9 0 0)) (labRec collRec) := by
  refine runs (((h.1 (fc 0 21 0 9 0 0) (labRec collRec) _ _ ?_ (okEq _ ?_)).2.2.2 ?_ ?_ ?_).2 ?_ ?_ |>.2 ?_ |>.2 ?_ |>.2.2.2 ?_ _ ?_ ?_ |>.1 _ .stream (trapEq _ ?_) ?_ ?_) <;>
  decide +kernel

theorem witness_StreamBindings_coll_tag (h : Obligations.StreamBindings) : Runs (.bind (fc 0 21 0 1 5 0)) (labRec collRec) := by
  refine runs (((h.1 (fc 0 21 0 1 5 0) (labRec collRec) _ _ ?_ (okEq _ ?_)).2.2.2 ?_ ?_ ?_).2 ?_ ?_ |>.2 ?_ |>.2 ?_ |>.2.2.2 ?_ _ ?_ ?_ |>.2 _ (okEq _ ?_) |>.1 ?_) <;>
  first | decide +kernel | (unfold RefusedTag; decide +kernel)

theorem witness_StreamBindings_coll (h : Obligations.StreamBindings) : Runs (.bind (fc 0 21 0 9 5 0)) (labRec collRec) := by
  refine runs₃ (((h.1 (fc 0 21 0 9 5 0) (labRec collRec) _ _ ?_ (okEq _ ?_)).2.2.2 ?_ ?_ ?_).2 ?_ ?_ |>.2 ?_ |>.2 ?_ |>.2.2.2 ?_ _ ?_ ?_ |>.2 _ (okEq _ ?_) |>.2 ?_ ?_ ?_) <;>
  decide +kernel

/-- What SSTAT gives of a read-ahead, a decoded count, a query's bit, and a call's slot, position and state. -/
theorem witness_StreamBindings_sstat (h : Obligations.StreamBindings) :
    (∃ v : Word, v = 3 ∧ Runs (.sstat (fc 12 0 0 9 0 2)) (labB [{ bnd 9 0 (memRec 0 1 .i32 6 0x10 4) with pos := 2, ahead := [0] }])) ∧
    (∃ v : Word, v = 0 ∧ Runs (.sstat (fc 12 0 0 9 0 2)) (labB [bnd 9 5 (compRec .i32 6 0x10 64 0)])) ∧
    (∃ v : Word, v = 1 ∧ Runs (.sstat (fc 12 0 0 9 0 8)) (labB [bnd 9 1 (5 + 2 * 2 ^ 192)])) ∧
    (∃ v : Word, v = 2 ^ 32 * 0xFFFF + 2 ∧ Runs (.sstat (fc 12 0 0 9 0 10)) { labB [bnd 9 5 6] with calls := [call .running [] []] }) ∧
    (∃ v : Word, v = 0 ∧ Runs (.sstat (fc 12 0 0 9 0 12)) (labB [bnd 9 5 6])) := by
  refine ⟨let ⟨t, v, e, _, _, k⟩ := h.2.2.2 (fc 12 0 0 9 0 2) (labB [{ bnd 9 0 (memRec 0 1 .i32 6 0x10 4) with pos := 2, ahead := [0] }]) ?_;
      ⟨v, ((k _ (someEq _ ?_)).2.2.1 ?_).1 ?_ ?_ |>.trans ?_, runsEq e⟩,
    let ⟨t, v, e, _, _, k⟩ := h.2.2.2 (fc 12 0 0 9 0 2) (labB [bnd 9 5 (compRec .i32 6 0x10 64 0)]) ?_;
      ⟨v, ((k _ (someEq _ ?_)).2.2.1 ?_).2.1 ?_ |>.trans ?_, runsEq e⟩,
    let ⟨t, v, e, _, _, k⟩ := h.2.2.2 (fc 12 0 0 9 0 8) (labB [bnd 9 1 (5 + 2 * 2 ^ 192)]) ?_;
      ⟨v, ((k _ (someEq _ ?_)).2.2.2.1 ?_).1 ?_ ?_ |>.trans ?_, runsEq e⟩,
    let ⟨t, v, e, _, _, k⟩ := h.2.2.2 (fc 12 0 0 9 0 10) { labB [bnd 9 5 6] with calls := [call .running [] []] } ?_;
      ⟨v, (((k _ (someEq _ ?_)).2.2.2.1 ?_).2.1 ?_).2.2 ?_ _ (someEq _ ?_) |>.trans ?_, runsEq e⟩,
    let ⟨t, v, e, _, _, k⟩ := h.2.2.2 (fc 12 0 0 9 0 12) (labB [bnd 9 5 6]) ?_;
      ⟨v, ((k _ (someEq _ ?_)).2.2.2.1 ?_).2.2 ?_ ?_, runsEq e⟩⟩ <;>
  decide +kernel

/-- A FMT record of three-byte groups and a SCALE record, in the scratchpad. -/
def fmtRec : Nat := 2 + 2 ^ 9 + Tag.u16.code * 2 ^ 16 + 6 * 2 ^ 64 + 2 ^ 192
def scaleRec : Nat := 3 + 2 ^ 9 + Tag.i8.code * 2 ^ 16 + 6 * 2 ^ 64 + 0x20 * 2 ^ 192 + Tag.f32.code * 2 ^ 256 + 4 * 2 ^ 264

/-- What the elements of a stream become in a register. -/
def streamVals (s : State) (x : Group) (b : Binding) (t : Tag) (e : Nat) : Nat × Flags :=
  (streamAt s x b t (s.me.rmOf 0) (b.pos + e)).getD (0, 0)

/-- A source bound to a stream of each kind, and a destination. -/
theorem witness_StreamOperand (h : Obligations.StreamOperand) :
    Runs (.vabs (fv 12 9 0 0)) (labB [bnd 9 0 (memRec 0 1 .i32 6 0x10 4)]) ∧ Runs (.vabs (fv 12 9 0 0)) (labB [bnd 9 0 fmtRec]) ∧
    Runs (.vadd (fv 4 1 2 0)) (labB [bnd 1 0 scaleRec]) ∧ Runs (.vadd (fv 9 10 11 0)) (labB [bnd 9 0 (memRec 1 1 .i32 6 0x10 4)]) := by
  refine ⟨runs₂ ((h (.vabs, .abs, 1) (by simp)).1 (fv 12 9 0 0) (labB [bnd 9 0 (memRec 0 1 .i32 6 0x10 4)]) _ _ (bnd 9 0 (memRec 0 1 .i32 6 0x10 4)) .i32 _
      (streamVals lab labGroup.2 (bnd 9 0 (memRec 0 1 .i32 6 0x10 4)) .i32) (someEqP _ ?_) ?_ ?_ (vecReady_of ?_) (vecFits_of ?_) ?_ (okEqP _ ?_) ?_ ?_ ?_ ?_ ?_ ?_ ?_ ?_ ?_ ?_ (noPoison_of ?_) ?_),
    runs₂ ((h (.vabs, .abs, 1) (by simp)).1 (fv 12 9 0 0) (labB [bnd 9 0 fmtRec]) _ _ (bnd 9 0 fmtRec) .i32 _
      (streamVals lab labGroup.2 (bnd 9 0 fmtRec) .i32) (someEqP _ ?_) ?_ ?_ (vecReady_of ?_) (vecFits_of ?_) ?_ (okEqP _ ?_) ?_ ?_ ?_ ?_ ?_ ?_ ?_ ?_ ?_ ?_ (noPoison_of ?_) ?_),
    runs₂ ((h (.vadd, .add, 2) (by simp)).1 (fv 4 1 2 0) (labB [bnd 1 0 scaleRec]) _ _ (bnd 1 0 scaleRec) .f32 _
      (streamVals lab labGroup.2 (bnd 1 0 scaleRec) .f32) (someEqP _ ?_) ?_ ?_ (vecReady_of ?_) (vecFits_of ?_) ?_ (okEqP _ ?_) ?_ ?_ ?_ ?_ ?_ ?_ ?_ ?_ ?_ ?_ (noPoison_of ?_) ?_),
    runs₂ ((h (.vadd, .add, 2) (by simp)).2 (fv 9 10 11 0) (labB [bnd 9 0 (memRec 1 1 .i32 6 0x10 4)]) _ _
      (bnd 9 0 (memRec 1 1 .i32 6 0x10 4)) .i32 _ (someEqP _ ?_) ?_ ?_ (vecReady_of ?_) (vecFits_of ?_) ?_ (okEqP _ ?_) ?_ ?_ ?_ ?_ ?_ ?_ ?_ ?_ ?_ ?_ ?_)⟩ <;>
  decide +kernel

/-- A stored element of a write strip. -/
def strip (i : Nat) : PStore := { loc := .spad 0 i, data := [1], cry := Cry.ovune, strip := some (9, i) }

theorem witness_StreamEngines (h : Obligations.StreamEngines) :
    Runs (.streamUnitRead 0 9) (labB [{ bnd 9 0 (memRec 0 1 .i32 6 0x10 4) with lastN := 4 }]) ∧
    Runs (.writeStripPerform 0 9) ((labB [bnd 9 0 (memRec 1 1 .i32 6 0x10 4)]).modMe fun h => { h with pend := [strip 0, strip 1] }) := by
  refine ⟨runs ((h.1 _ _ (Binding.mk 9 0 0x10000 (BitVec.ofNat 512 (memRec 0 1 .i32 6 0x10 4)) 0 0 .active 0 0 0 [] 0 4 0 0 0 0 0 0 false none) ?_).1 _ _ ?_ ?_ ?_ ?_ ?_ ?_ (okEq _ ?_) ?_),
    runs ((h.1 _ _ (bnd 9 0 (memRec 1 1 .i32 6 0x10 4)) ?_).2.1 0 [strip 0] [strip 1] ?_ ?_ ?_ ?_ ?_)⟩ <;>
  first | decide +kernel | (intro p hp j hj; simp only [List.mem_singleton] at hp; subst hp; cases hj; rfl)

/-- A compressed stream of one raw block of 8 elements at 0x10200, decoded to offset 64 of the scratchpad. -/
def decBind : Binding := bnd 10 2 (compRec .i32 32 0x10200 256 64)

/-- `lab` with that binding. -/
def labDec : State := put 0x10200 (rawBlock .i32 [7, 8, 9, 10, 11, 12, 13, 14]) (labB [decBind])

/-- The reads of the decoder there. -/
def decRead (o n : Nat) (s : State) : State × Except Stop (List Byte) :=
  readRange (bindWho labDec 0 decBind) 0 decBind.sp (BitVec.ofNat 64 (decBind.record.toNat / 2 ^ 128 % 2 ^ 64 + decBind.decOff + o)) n s

theorem witness_StreamEngines_decoder (h : Obligations.StreamEngines) : Runs (.decoderBlock 0 10) labDec := by
  refine runsEq ((h.1 labDec 0 decBind ?_).2.2.1 (decRead 0 16 labDec).1 (decRead 16 32 (decRead 0 16 labDec).1).1 _
    (okVal (decRead 0 16 labDec).2 (by decide +kernel)) (okVal (decRead 16 32 (decRead 0 16 labDec).1).2 (by decide +kernel))
    ?_ ?_ ?_ ?_ ?_ ?_ ?_ ?_ ?_ (okEq _ ?_) ?_ ?_ ?_ ?_ ?_ ?_ ?_ ?_ ?_ (noneEq _ ?_) ?_ ?_) <;>
  decide +kernel

/-- The binding, a block of it written and not yet verified: good, and with a CRC that failed. -/
def decWrote (bad : Option (BitVec 6 × Word)) : Binding := { decBind with wrote := some { elems := 8, size := 48, bad := bad } }

/-- `lab` with that binding. -/
def labWrote (bad : Option (BitVec 6 × Word)) : State := labB [decWrote bad]

theorem witness_StreamEngines_verify (h : Obligations.StreamEngines) :
    Runs (.decoderBlock 0 10) (labWrote none) ∧ Runs (.decoderBlock 0 10) (labWrote (some (43, 7))) := by
  refine ⟨runs (((h.1 (labWrote none) 0 (decWrote none) ?_).2.2.2 { elems := 8, size := 48, bad := none } ?_ ?_ ?_ ?_ ?_ ?_ ?_).2 ?_ ?_ ?_),
    runsEq (((h.1 (labWrote (some (43, 7))) 0 (decWrote (some (43, 7))) ?_).2.2.2 { elems := 8, size := 48, bad := some (43, 7) }
      ?_ ?_ ?_ ?_ ?_ ?_ ?_).1 (43, 7) ?_)⟩ <;>
  decide +kernel

/-- Two i32 in a raw block at s25; s26 is its size, a multiple of 16. -/
def labVldc : State := regs [(25, 0x10100), (26, 32)] (put 0x10100 (rawBlock .i32 [7, 8]) lab)

theorem watch_of {h : Hart} (c : fld h.dbg.ctl 2 2 = 0 ∧ fld h.dbg.ctl 4 2 = 0) : ∀ a n, watchHit h a n true false = false := by
  intro a n
  simp [watchHit, c.1, c.2]

theorem witness_StreamEngines_vldc (h : Obligations.StreamEngines) : Runs (.vldc (fm 8 25 26 0 0 0 0 0)) labVldc := by
  refine runs (h.2 (fm 8 25 26 0 0 0 0 0) labVldc _ _ _ _ ?_ (vecWf_of ?_) ?_ ?_ ?_ ?_ ?_ ?_ (watch_of ?_) ?_ ?_ ?_ ?_ ?_
    (okEq _ (by decide +kernel)) ?_ ?_ (okEq _ (by decide +kernel)) ?_ ?_ ?_ ?_) <;>
  decide +kernel

/-- `lab` with one call. -/
def labCall (c : Call) : State := { lab with calls := [c] }

/-- The terms that a member of another rank has bound, for a count. -/
def terms (count : Nat) : CallTerms :=
  { kindc := 0, op := 0, mtag := Tag.i32.code, count := count, nm1 := 1, wc := false, root := 0, rank := 1, memb := [0, 1] }

/-- A call that runs, all of its contribution sent. -/
def callSent (st : CallState) (chunks : List Nat) : Call := { call st [1, 2, 3, 4, 5, 6, 7, 8] chunks with out := [1], srcDone := true }

/-- A call of nine members that runs as a ring, one element in each chunk; its own part has left. -/
def callRing : Call := { call .running [1, 2, 3, 4, 5, 6, 7, 8, 9] [] with
  record := BitVec.ofNat 512 (6 + Tag.i32.code * 2 ^ 16 + 9 * 2 ^ 64 + 7 * 2 ^ 192 + 8 * 2 ^ 208), memb := List.range 9, out := [8], srcDone := true }

/-- From SETUP to RUNNING, with nothing to send yet and with the contribution there, or to ABORTED; a chunk combined; a
partial value passed on in a ring; LOCAL; DONE; an abort. -/
theorem witness_CollectiveCalls (h : Obligations.CollectiveCalls) :
    Runs (.callStart 0 [terms 8]) (labCall (call .setup [] [])) ∧
    Runs (.callStart 0 [terms 8]) (labCall (call .setup [1, 2, 3, 4, 5, 6, 7, 8] [])) ∧
    Runs (.callStart 0 [terms 9]) (labCall (call .setup [] [])) ∧
    Runs (.collectiveChunkDone 0 0 [[], leBytes 16 5]) (labCall (callSent .running [])) ∧
    Runs (.collectiveChunkDone 0 (callRing.bits + 3) [leBytes 4 5]) (labCall callRing) ∧
    Runs (.callLocal 0) (labCall (callSent .running [0, 1])) ∧
    Runs (.callDone 0) (labCall (callSent .loc [0, 1])) ∧ Runs (.callAbort 0 1 1) (labCall (call .setup [] [])) := by
  refine ⟨runs (((h.1 _ 0 _ ⟨someEq _ ?_, ?_, ?_, ?_⟩).1 [terms 8] ?_ ?_).1 ?_ ⟨?_, ?_⟩),
    runs₂ (((h.1 _ 0 _ ⟨someEq _ ?_, ?_, ?_, ?_⟩).1 [terms 8] ?_ ?_).2.1 ?_ ?_ ?_ ?_ ?_ ?_ ?_),
    runs (((h.1 _ 0 _ ⟨someEq _ ?_, ?_, ?_, ?_⟩).1 [terms 9] ?_ ?_).2.2 ?_),
    runs ((h.1 _ 0 (callSent .running []) ⟨?_, ?_, ?_, ?_⟩).2.1 [[], leBytes 16 5] _ ?_ ?_ ?_ ?_ ?_ ?_ ?_ ?_ ?_ ⟨?_, ?_⟩ ?_ ?_ ?_ (noneEq _ ?_) ?_ ?_),
    runs ((h.1 (labCall callRing) 0 callRing ⟨?_, ?_, ?_, ?_⟩).2.2.1 3 (leBytes 4 5) ?_ ?_ ?_ ?_ ?_ ?_ ?_ ?_ ?_ ?_ ?_ ⟨?_, ?_⟩),
    runs ((h.1 _ 0 _ ⟨someEq _ ?_, ?_, ?_, ?_⟩).2.2.2.1 ?_ ?_ ?_), runs ((h.1 _ 0 _ ⟨someEq _ ?_, ?_, ?_, ?_⟩).2.2.2.2.1 ?_ ?_ ?_),
    runs ((h.1 _ 0 _ ⟨someEq _ ?_, ?_, ?_, ?_⟩).2.2.2.2.2 1 1 ?_ ?_ ?_)⟩ <;>
  decide +kernel

/-- The tag of no call, of one in SETUP, of one that is DONE. -/
theorem witness_CollectiveCalls_read (h : Obligations.CollectiveCalls) :
    Runs (.cstat (fc 12 0 0 0 0 7)) lab ∧ Runs (.cabort (fc 12 0 0 0 0 7)) lab ∧ Runs (.cstat (fc 12 0 0 0 0 (7 + 2 ^ 16))) (labCall (call .setup [] [])) ∧
    Runs (.cabort (fc 12 0 0 0 0 7)) (labCall (call .done [] [])) ∧ Runs (.cabort (fc 12 0 0 0 0 7)) (labCall (call .setup [] [])) := by
  refine ⟨runs ((h.2 _ _ ?_).1 ?_).1, runs ((h.2 _ _ ?_).1 ?_).2, runs ((h.2 _ _ ?_).2 [] (call .setup [] []) [] rfl ?_ ?_ ?_).1,
    runs (((h.2 _ _ ?_).2 [] (call .done [] []) [] rfl ?_ ?_ ?_).2.1 ?_ ?_),
    runs (((h.2 _ _ ?_).2 [] (call .setup [] []) [] rfl ?_ ?_ ?_).2.2 ?_ ⟨?_, ?_, ?_, ?_⟩)⟩ <;>
  decide +kernel

/-- A run entry: source and its bits, destination and its capacity, slot, width and state of the start, bit, status. -/
def ent (src bits dst dcap slot w0 bit status : Nat) : Nat :=
  src + bits * 2 ^ 64 + dst * 2 ^ 128 + dcap * 2 ^ 192 + slot * 2 ^ 224 + 2 ^ 232 + (w0 - 1) * 2 ^ 240 + bit * 2 ^ 272 + status * 2 ^ 192 * 2 ^ 192

/-- A run of channel 2 of a table in slot 0. -/
def aRun (st : RunState) (lm : Nat) : Run :=
  { id := 2, ch := 2, seq := 2, hart := 0, asid := 1, serial := lab.serialOf 0, entry := BitVec.ofNat 512 (ent 0x10100 400 0x10200 4 0 4 9 0x10300)
    lm := lm, st := st, code := 256, s := 0, w := 4, acc := 5, k := 3, prev := 1000, n := 1, pos := 0, pit := [], sup := false }

/-- A table whose entry 0 holds an action and an argument; the run there next reads four bits in state 0. -/
def aTable (act arg : Nat) : Table :=
  { ch := 2, slot := 0, asid := 1, entries := (List.range 16).map fun _ => BitVec.ofNat 32 (3 * 2 ^ 16 + act * 2 ^ 12 + arg) }

/-- Channel 2 with a table, a run and a queue. -/
def labX (ts : List Table) (rs : List Run) (q : List ChItem) : State := regs [(23, 2), (24, 2 + 2 * 2 ^ 32)]
  { lab with tables := ts, runs := rs, chq := [(2, q)], chseq := [(2, 0xFFFFFFFF)] }

theorem someAll {α : Type _} {o : Option α} {P : α → Prop} [DecidablePred P] (c : o.all (fun a => decide (P a)) = true) :
    ∀ a, o = some a → P a := by
  intro a h
  rw [h] at c
  simpa using c

/-- `labX` with a second context that is RESIDENT, whose table is in slot 0. -/
def labTaken : State :=
  let s := labX [{ aTable 0 0 with asid := 2 }] [] []
  { s with ctxs := smPut s.ctxs 2 { s.ctx 2 with st := .resident } }

/-- Loading two entries, into a slot of another context that is and that is not in use; a run entry; no run, and one, of
that name; a table that takes its slot, and one of a context that is gone; a run starts. -/
theorem witness_SluiceLanes (h : Obligations.SluiceLanes) :
    Runs (.xtab (fc 12 21 23 0 0 2)) (labX [aTable 0 0] [] []) ∧ Runs (.xtab (fc 12 21 23 0 0 2)) labTaken ∧
    Runs (.xtab (fc 12 21 23 0 0 2)) (labX [{ aTable 0 0 with asid := 2 }] [] []) ∧ Runs (.xrun (fc 12 21 0 0 3 2)) (labX [] [] []) ∧
    Runs (.xstat (fc 12 24 0 0 0 0)) (labX [] [] []) ∧ Runs (.xstat (fc 12 24 0 0 0 0)) (labX [] [aRun .held 3] []) ∧
    Runs (.tableReplace 2) (labX [] [] [.table (aTable 0 0)]) ∧ Runs (.tableReplace 2) (labX [] [] [.table { aTable 0 0 with asid := 2 }]) ∧
    Runs (.runStart 2) (labX [aTable 0 0] [aRun .queued 3] [.run 2]) := by
  refine ⟨runs (((h.1 (fc 12 21 23 0 0 2) (labX [aTable 0 0] [] [])).1 _ _ ?_ ?_ (okEq _ ?_) ?_ ?_ ?_).2 fun u hu => .inl (someAll (P := fun u => u.asid = 1) ?_ u hu)),
    runs (((h.1 (fc 12 21 23 0 0 2) labTaken).1 _ _ ?_ ?_ (okEq _ ?_) ?_ ?_ ?_).1 { aTable 0 0 with asid := 2 } ?_ ?_ ⟨?_, ?_⟩),
    runs (((h.1 (fc 12 21 23 0 0 2) (labX [{ aTable 0 0 with asid := 2 }] [] [])).1 _ _ ?_ ?_ (okEq _ ?_) ?_ ?_ ?_).2
      fun u hu => Or.inr fun hl => hl.1 (someAll (P := fun u => (State.ctx _ u.asid).st = .absent) ?_ u hu)),
    runs₂ ((h.1 (fc 12 21 0 0 3 2) _).2.1 _ _ _ ?_ (okEq₁ _ ?_) (okEq _ ?_) ?_ ?_), runs (((h.1 _ _).2.2 ?_).1 ?_),
    runs (((h.1 _ _).2.2 ?_).2 (aRun .held 3) [] [] rfl ?_ ?_), runs (((h.2.1 _ 2 []).1 (aTable 0 0) ?_ ?_ ?_).2 ⟨?_, ?_⟩),
    runsEq (((h.2.1 (labX [] [] [.table { aTable 0 0 with asid := 2 }]) 2 []).1 { aTable 0 0 with asid := 2 } ?_ ?_ ?_).1 fun hl => hl.1 ?_),
    runs₂ ((h.2.1 _ 2 []).2 (aRun .queued 3) ?_ ?_ ?_ (Or.inl ?_) ?_ ⟨aTable 0 0, ?_, ?_⟩)⟩ <;>
  decide +kernel

/-- One witness for each action: none, emit, accumulate, shift, emit the sum, the difference, the symbol, end. -/
theorem witness_SluiceLanes_steps (h : Obligations.SluiceLanes) :
    Runs (.transducerStep 2) (labX [aTable 0 1] [aRun .running 3] []) ∧ Runs (.transducerStep 2) (labX [aTable 2 1] [aRun .running 3] []) ∧
    Runs (.transducerStep 2) (labX [aTable 3 63] [aRun .running 3] []) ∧ Runs (.transducerStep 2) (labX [aTable 7 0] [aRun .running 3] []) := by
  refine ⟨runs ((h.2.2.1 (labX [aTable 0 1] [aRun .running 3] []) _ (aRun .running 3) (aTable 0 1) _ _ ?_ ?_ (Or.inl ?_) ?_ (okEq _ ?_) ?_ ?_ (someEq _ ?_) ?_ ?_ ?_).1 ?_),
    runs ((h.2.2.1 (labX [aTable 2 1] [aRun .running 3] []) _ (aRun .running 3) (aTable 2 1) _ _ ?_ ?_ (Or.inl ?_) ?_ (okEq _ ?_) ?_ ?_ (someEq _ ?_) ?_ ?_ ?_).2.2.1 ?_),
    runs ((h.2.2.1 (labX [aTable 3 63] [aRun .running 3] []) _ (aRun .running 3) (aTable 3 63) _ _ ?_ ?_ (Or.inl ?_) ?_ (okEq _ ?_) ?_ ?_ (someEq _ ?_) ?_ ?_ ?_).2.2.2.1 ?_ ?_),
    runs ((h.2.2.1 (labX [aTable 7 0] [aRun .running 3] []) _ (aRun .running 3) (aTable 7 0) _ _ ?_ ?_ (Or.inl ?_) ?_ (okEq _ ?_) ?_ ?_ (someEq _ ?_) ?_ ?_ ?_).2.2.2.2.2.2.2 ?_ ?_ ?_)⟩ <;>
  decide +kernel

/-- The runs that emit: with room, and without. -/
theorem witness_SluiceLanes_emits (h : Obligations.SluiceLanes) :
    Runs (.transducerStep 2) (labX [aTable 1 7] [aRun .running 3] []) ∧
    Runs (.transducerStep 2) (labX [aTable 1 7] [{ aRun .running 3 with n := 4 }] []) ∧
    Runs (.transducerStep 2) (labX [aTable 4 7] [aRun .running 3] []) ∧ Runs (.transducerStep 2) (labX [aTable 5 7] [aRun .running 3] []) ∧
    Runs (.transducerStep 2) (labX [aTable 6 7] [aRun .running 3] []) ∧ Runs (.runEnd 2) (labX [] [aRun .ending 3] []) := by
  refine ⟨runs (((h.2.2.1 (labX [aTable 1 7] [aRun .running 3] []) _ (aRun .running 3) (aTable 1 7) _ _ ?_ ?_ (Or.inl ?_) ?_ (okEq _ ?_) ?_ ?_ (someEq _ ?_) ?_ ?_ ?_).2.1 ?_).2 _ ?_ ?_ (noneEq _ ?_) ?_),
    runs (((h.2.2.1 (labX [aTable 1 7] [{ aRun .running 3 with n := 4 }] []) _ { aRun .running 3 with n := 4 } (aTable 1 7) _ _ ?_ ?_ (Or.inl ?_) ?_ (okEq _ ?_) ?_ ?_ (someEq _ ?_) ?_ ?_ ?_).2.1 ?_).1 ?_),
    runs (((h.2.2.1 (labX [aTable 4 7] [aRun .running 3] []) _ (aRun .running 3) (aTable 4 7) _ _ ?_ ?_ (Or.inl ?_) ?_ (okEq _ ?_) ?_ ?_ (someEq _ ?_) ?_ ?_ ?_).2.2.2.2.1 ?_).2 _ ?_ ?_ (noneEq _ ?_) ?_),
    runs (((h.2.2.1 (labX [aTable 5 7] [aRun .running 3] []) _ (aRun .running 3) (aTable 5 7) _ _ ?_ ?_ (Or.inl ?_) ?_ (okEq _ ?_) ?_ ?_ (someEq _ ?_) ?_ ?_ ?_).2.2.2.2.2.1 ?_).2 _ ?_ ?_ (noneEq _ ?_) ?_),
    runs (((h.2.2.1 (labX [aTable 6 7] [aRun .running 3] []) _ (aRun .running 3) (aTable 6 7) _ _ ?_ ?_ (Or.inl ?_) ?_ (okEq _ ?_) ?_ ?_ (someEq _ ?_) ?_ ?_ ?_).2.2.2.2.2.2.1 ?_).2 _ ?_ ?_ (noneEq _ ?_) ?_),
    runs (h.2.2.2 (labX [] [aRun .ending 3] []) _ (aRun .ending 3) ?_ ?_ ?_ (noneEq _ ?_) ?_ ?_)⟩ <;>
  decide +kernel

theorem pairEq {α β : Type _} (e : α × β) : e = (e.1, e.2) := rfl

/-- A skip entry of one block of two documents. -/
def skip : Nat := 5 + 9 * 2 ^ 32 + 2 * 2 ^ 64 + 4 * 2 ^ 80 + 4 * 2 ^ 88

/-- A query record: an operator, one term, K, where the results go. -/
def qrec (op k res : Nat) : Nat := op + 2 ^ 16 + k * 2 ^ 48 + 0x3F800000 * 2 ^ 64 + res * 2 ^ 160 * 2 ^ 160

/-- A query at an address. -/
def qry (qid : Nat) (st : QueryState) (addr : Nat) : Query :=
  { id := qid, cluster := 0, qid := qid, hart := 0, asid := 1, serial := lab.serialOf 0, addr := BitVec.ofNat 64 addr, lm := 3
    bit := 17, st := st, k := 0, res := 0, sup := false }

/-- A posting list of one term at 0x10100, its block at 0x10200, the record of a good query at 0x10040, of a bad one at 0x10000; s23 is 2. -/
def labQ (l : List Query) : State := regs [(22, 0x10040), (23, 2)] <|
  put 0x10100 (leBytes 16 (1 + 2 * 2 ^ 32 + 0x10200 * 2 ^ 64) ++ leBytes 16 skip) <|
  put 0x10200 (leBytes 16 (skip % 2 ^ 96 + 2 * 2 ^ 96) ++ leBytes 2 (3 + 256)) <|
  put 0x10080 (leBytes 16 (0x10100 + 0x40000000 * 2 ^ 64)) <|
  put 0x10040 (leBytes 64 (qrec 1 4 0x10300)) <| put 0x10000 (leBytes 64 (qrec 0 0 0x10300)) { lab with queries := l }

theorem witness_PostingQueries (h : Obligations.PostingQueries) :
    Runs (.pqry (fc 12 22 0 0 3 0)) (labQ [qry 0 .queued 0x10040]) ∧
    Runs (.pqry (fc 12 22 0 0 3 0)) (labQ ((List.range 32).map fun i => qry i .running 0x10040)) ∧
    Runs (.pstat (fc 12 23 0 0 0 0)) (labQ []) ∧ Runs (.pstat (fc 12 23 0 0 0 0)) (labQ [qry 2 .queued 0x10040]) ∧
    Runs (.queryStart 2) (labQ [qry 2 .queued 0x10040]) := by
  refine ⟨runs₂ ((h.1 (fc 12 22 0 0 3 0) _ _ _ _ ?_ (okEq₁ _ ?_) (okEq _ ?_) ?_ ?_).1 ⟨1, ?_⟩),
    runs ((h.1 (fc 12 22 0 0 3 0) _ _ _ _ ?_ (okEq₁ _ ?_) (okEq _ ?_) ?_ ?_).2 ?_), runs ((h.2.1 _ _ ?_).1 ?_),
    runs₂ ((h.2.1 _ _ ?_).2 (qry 2 .queued 0x10040) [] [] rfl ?_ ?_), runs ((h.2.2.1 _ (qry 2 .queued 0x10040) ?_).1 (Or.inl ?_) ?_)⟩ <;>
  decide +kernel

theorem qcode_of {e : Except QErr (List Nat)} {c t : Nat}
    (h : (match e with | .error (.code a b) => decide (a = c ∧ b = t) | _ => false) = true) : e = .error (.code c t) := by
  rcases e with ⟨_ | _⟩ | _ <;> simp_all

/-- The trap of an evaluation that has one. -/
def qTrap (e : Except QErr (List Nat)) : Trap :=
  match e with
  | .error (.stop (.trap t)) => t
  | _ => trapPage

theorem qtrap_of {e : Except QErr (List Nat)} (h : (match e with | .error (.stop (.trap _)) => true | _ => false) = true) :
    e = .error (.stop (.trap (qTrap e))) := by
  rcases e with (_ | ⟨_ | _⟩) | _ <;> simp_all [qTrap]

/-- A query that ends well, one whose record is refused, one that faults. -/
theorem witness_PostingQueries_ends (h : Obligations.PostingQueries) :
    Runs (.queryEnd 2) (labQ [qry 2 .running 0x10040]) ∧ Runs (.queryEnd 2) (labQ [qry 2 .running 0x10000]) ∧
    Runs (.queryFault 2) (labQ [qry 2 .running 0x9990000]) := by
  refine ⟨runs (((h.2.2.1 _ (qry 2 .running 0x10040) ?_).2 (Or.inl ?_) ?_ _ _ _ _ (pairEq _)).1 _ 0xFF 0 (.inl ⟨okEq₁ _ ?_, rfl, rfl⟩) (noneEq _ ?_) (noneEq _ ?_) ?_ ?_ ?_ ?_ ?_),
    runs (((h.2.2.1 _ (qry 2 .running 0x10000) ?_).2 (Or.inl ?_) ?_ _ _ _ _ (pairEq _)).1 [] 0xFF 1 (.inr ⟨rfl, qcode_of ?_⟩) (noneEq _ ?_) (noneEq _ ?_) ?_ ?_ ?_ ?_ ?_),
    runs (((h.2.2.1 _ (qry 2 .running 0x9990000) ?_).2 (Or.inl ?_) ?_ _ lab lab _ (pairEq _)).2 _ (qtrap_of ?_) ?_)⟩ <;>
  decide +kernel

/-- Documents with equal scores, among them one with a NaN. -/
theorem witness_PostingQueries_order (h : Obligations.PostingQueries) :
    (bestFirst [(5, 0x3F800000), (3, 0x3F800000), (9, 0xFF800000), (2, 0x7FC00000)]).length = 4 :=
  (h.2.2.2.1 _ (by decide)).1.length_eq

/-- A header whose normalisation constant is B. -/
def qhd (b : Nat) : QHead :=
  { op := 0, fuse := 1, nt := 1, nv := 0, k := 1, k1 := 0x3F800000, b := b, inv := 0x3C000000, wl := 0x3F800000, wv := 0x40000000
    kr := 0x42700000, dlen := 0x10000, res := 0, bad := false }

/-- A score that reads no length, and one that reads the length of document 1. -/
theorem witness_PostingQueries_scores (h : Obligations.PostingQueries) :
    (∃ x fl, (scoreDoc (qry 2 .running 0) (qhd 0) 0x3F800000 0x40000000 [] [] 1).run (lab, 0) = (.ok x, lab, fl)) ∧
    (scoreDoc (qry 2 .running 0) (qhd 0x3F000000) 0x3F000000 0x40000000 [] [] 1).run (lab, 0) ≠ (.error (.code 2 0), lab, 0) := by
  obtain ⟨fl, e⟩ := h.2.2.2.2.2.1 (qry 2 .running 0) (qhd 0) 0x3F800000 0x40000000 1 [] [] lab lab 0 [] (fun _ => rfl) (fun c => absurd rfl c)
  obtain ⟨_, e'⟩ := h.2.2.2.2.2.1 (qry 2 .running 0) (qhd 0x3F000000) 0x3F000000 0x40000000 1 [] [] lab
    (vread (queryWho lab (qry 2 .running 0)) .load 0x10004 4 lab).1 0
    (okVal (vread (queryWho lab (qry 2 .running 0)) .load 0x10004 4 lab).2 (by decide +kernel))
    (fun c => absurd c (by decide)) (fun _ => okEq _ _)
  refine ⟨⟨_, fl, e⟩, ?_⟩
  · rw [e']; exact fun c => by cases c

/-- A barrier record by its fields. -/
def brec (count target gen state cause : Nat) : Nat := count + target * 2 ^ 32 + gen * 2 ^ 64 + state * 2 ^ 96 + cause * 2 ^ 104 + 9 * 2 ^ 128

/-- Records at s21 (idle, for two), s22 (one of two), s24 (faulted), s25 (idle, for one); s26 is 5, s27 no multiple of 64, s28 is 64. -/
def labBar : State := regs [(21, 0x10000), (22, 0x10040), (24, 0x10080), (25, 0x100C0), (26, 5), (27, 0x10004), (28, 64)] <|
  put 0x10000 (leBytes 24 (brec 0 2 7 0 0)) <| put 0x10040 (leBytes 24 (brec 1 2 0xFFFFFFFF 1 3)) <|
  put 0x10080 (leBytes 24 (brec 1 2 7 3 8)) <| put 0x100C0 (leBytes 24 (brec 0 1 7 2 8)) lab

/-- Format Y. -/
def fy (sd sa sb sc imm : Nat) : FmtY := ⟨BitVec.ofNat 6 sd, BitVec.ofNat 6 sa, BitVec.ofNat 6 sb, BitVec.ofNat 3 sc, 0, BitVec.ofNat 12 imm⟩

/-- The hart waits at the record at s21, of generation 7. -/
def labBarWait : State := labBar.modMe fun h => { h with wait := some (.bar (fy 12 21 0 2 0) false 7) }

/-- CNT of the line of the record at s21 can rise no more. -/
def labBarFull : State := labBar.setLine 0x40400 { labBar.line 0x40400 with cnt := 0x7FFFFFFF }

/-- Two harts in the group. -/
def labPair : State := { lab with groups := lab.groups.map fun p => (p.1, { p.2 with slots := [0, 1] })
                                  harts := smPut lab.harts 1 { lab.me with exited := false } }

/-- A faulted record, an arrival that opens, one that waits; the latch of one hart and of two; a waiter whose generation has
passed and one whose has not; `BINIT`; the traps. -/
theorem witness_Barriers (h : Obligations.Barriers) :
    Runs (.bar (fy 12 24 0 2 0)) labBar ∧ Runs (.bar (fy 12 22 0 2 0)) labBar ∧ Runs (.bar (fy 12 21 0 2 0)) labBar ∧
    Runs (.bar (fy 12 0 0 2 0)) lab ∧ Runs (.bar (fy 12 0 0 2 0)) labPair ∧
    Runs (.barrierRecheck 0) (put 0x10000 (leBytes 24 (brec 0 2 8 2 0)) labBarWait) ∧ Runs (.barrierRecheck 0) labBarWait ∧
    Runs (.binitSet (fy 12 21 26 2 0)) labBar ∧ Runs (.binitFault (fy 12 21 26 2 0)) labBar ∧ Runs (.binitFault (fy 12 21 28 2 0)) labBar ∧
    Runs (.binitSet (fy 12 27 26 2 0)) labBar ∧ Runs (.bar (fy 12 21 0 2 0)) labBarFull ∧ Runs (.binitSet (fy 12 22 26 2 0)) labBar ∧
    Runs (.binitFault (fy 12 24 26 2 0)) labBar := by
  refine ⟨runs ((h.1.1 _ _ _ _ ?_ (noBar_of ?_) ⟨_, okEq _ ?_, okEq₁ _ ?_⟩ ?_).1 ?_), runs ((h.1.1 _ _ _ _ ?_ (noBar_of ?_) ⟨_, okEq _ ?_, okEq₁ _ ?_⟩ ?_).2.2.1 ?_ ?_ ?_),
    runs ((h.1.1 _ _ _ _ ?_ (noBar_of ?_) ⟨_, okEq _ ?_, okEq₁ _ ?_⟩ ?_).2.2.2 ?_ ?_ ?_ (noPreempt_of ?_)),
    runs₂ ((h.1.2.1 _ _ _ _ _ ?_ (noBar_of ?_) (okEq₁ _ ?_) (someEqP _ ?_) ?_).1 ?_), runs ((h.1.2.1 _ _ _ _ _ ?_ (noBar_of ?_) (okEq₁ _ ?_) (someEqP _ ?_) ?_).2 ?_ ?_),
    runs ((h.1.2.2.1 (fy 12 21 0 2 0) _ _ 0 7 _ ?_ (okEq _ ?_) ?_ ?_ (Or.inl ?_)).1 ?_),
    runs ((h.1.2.2.1 (fy 12 21 0 2 0) _ _ 0 7 _ ?_ (okEq _ ?_) ?_ ?_ (Or.inl ?_)).2 ?_ (noPreempt_of ?_)),
    runs ((h.1.2.2.2.1 _ _ _ _ ⟨_, okEq _ ?_, okEq₁ _ ?_⟩ ?_).1 (Or.inl ?_)), runs ((h.1.2.2.2.1 _ _ _ _ ⟨_, okEq _ ?_, okEq₁ _ ?_⟩ ?_).2 ?_ (Or.inl ?_)),
    runs₂ (h.1.2.2.2.2.1 _ _ _ _ (okEq _ ?_) ?_ ?_), runs (h.1.2.2.2.2.2 _ _ ?_ ?_ _ (List.mem_cons_self ..)),
    runs ((h.1.1 _ _ _ _ ?_ (noBar_of ?_) ⟨_, okEq _ ?_, okEq₁ _ ?_⟩ ?_).2.1 ?_ ?_ ?_),
    runs ((h.1.2.2.2.1 _ _ _ _ ⟨_, okEq _ ?_, okEq₁ _ ?_⟩ ?_).1 (Or.inr ?_)), runs ((h.1.2.2.2.1 _ _ _ _ ⟨_, okEq _ ?_, okEq₁ _ ?_⟩ ?_).2 ?_ (Or.inr ?_))⟩ <;>
  decide +kernel

/-- What arrivals, withdrawals and faults do, at the values where the clauses meet. -/
theorem witness_Barriers_records (h : Obligations.Barriers) :
    recArrive (brec 1 2 7 3 8) = brec 1 2 7 3 8 ∧ recArrive (brec 0 1 7 2 8) / 2 ^ 128 % 2 ^ 32 = 9 ∧ recArrive (brec 0 2 7 0 8) / 2 ^ 128 % 2 ^ 32 = 9 ∧
    recWithdraw (brec 1 2 7 1 8) / 2 ^ 128 % 2 ^ 32 = 9 ∧ recWithdraw (brec 0 2 7 1 8) = brec 0 2 7 1 8 ∧
    recFault 63 0xFFFF 2 (brec 0 2 7 1 8) / 2 ^ 128 % 2 ^ 32 = 0x2FFFF ∧ recSet 0xFFFFFFFF (brec 0 2 7 1 8) / 2 ^ 128 % 2 ^ 32 = 9 := by
  refine ⟨((h.2 (brec 1 2 7 3 8) ?_).1 ?_).1, (((h.2 (brec 0 1 7 2 8) ?_).2.1 ?_ ?_).2).trans ?_, (((h.2 (brec 0 2 7 0 8) ?_).2.2.1 ?_ ?_).2).trans ?_,
    (((h.2 (brec 1 2 7 1 8) ?_).2.2.2.1 ?_ ?_).2).trans ?_, (h.2 (brec 0 2 7 1 8) ?_).2.2.2.2.1 ?_,
    ((h.2 (brec 0 2 7 1 8) ?_).2.2.2.2.2.1 63 0xFFFF 2 ?_ ?_ ?_ ?_).2, (((h.2 (brec 0 2 7 1 8) ?_).2.2.2.2.2.2.2 0xFFFFFFFF ?_).2).trans ?_⟩ <;>
  decide +kernel

/-- A kernel of context 1. -/
def kern (st : KernelState) (decls : List (Nat × Nat)) (ng ret next : Nat) : Kernel :=
  { asid := 1, code := 0x10040, args := 0x55, ctr := 0, ngroups := ng, hpg := 1, lmin := 1, lmax := 8, spad := 1, affinity := 3
    notify := 0, vec := 0, decls := decls, st := st, queue := none, prio := 1, devMade := false, next := next
    lastCl := none, retired := ret, cores := [(0, (1, 1))], doneCores := [], doneClusters := [], doneDies := [], finished := false }

/-- Context 1 with buffers: 1 held to read by two, 2 held to write; s21 and s22 name launch records, s23 a counter. -/
def launchRec (ng lmax : Nat) : Nat :=
  0x10040 + 8 * 2 ^ 64 + 0x10200 * 2 ^ 128 + ng * 2 ^ 192 + 2 ^ 224 + 2 ^ 232 + lmax * 2 ^ 240 + 3 * 2 ^ 248 + 2 ^ 128 * 2 ^ 128

def labK (l : Sparse Kernel) : State := regs [(21, 0x10000), (22, 0x10080), (23, 0x10100), (26, 77), (27, 3)] <|
  put 0x10000 (leBytes 128 (launchRec 3 7)) <| put 0x10080 (leBytes 128 (launchRec 0 7)) <| put 0x10100 (leBytes 8 77)
  { lab with
    ctxs := smPut lab.ctxs 1 { lab.ctx 1 with nframe := 3, nbuf := 8, lq := 8, bufs := [(1, ⟨0, 1, 2, true⟩), (2, ⟨5, 2, 0, true⟩)] }
    kernels := lab.kernels ++ l }

/-- Context 1 is not RESIDENT. -/
def inSwitch (s : State) : State := { s with ctxs := smPut s.ctxs 1 { s.ctx 1 with st := .switchedOut } }

/-- A kernel takes its buffers, one cannot, one retires, one stays as it is while its context is switched out; a group is placed. -/
theorem witness_Kernels (h : Obligations.Kernels) :
    Runs (.kernelDispatch 11) (labK [(11, kern .queued [(1, 1), (2, 3)] 2 0 0)]) ∧
    Runs (.kernelDispatch 11) (labK [(11, kern .queued [(2, 1)] 2 0 0)]) ∧
    Runs (.kernelRetire 11) (labK [(11, kern .draining [(1, 1), (2, 2)] 1 1 1)]) ∧
    Runs (.kernelRetire 11) (inSwitch (labK [(11, kern .draining [(1, 1), (2, 2)] 1 1 1)])) ∧
    Runs .groupPlace (labK [(11, kern .dispatching [] 2 0 0)]) ∧ (kern .dispatching [] 2 0 0).st = .dispatching := by
  refine ⟨runs ((h.1.1 _ 11 _ (someEq _ ?_) ?_).1 ?_ ?_ ?_), runsEq ((h.1.1 _ 11 _ (someEq _ ?_) ?_).2.1 ?_ (.inr ?_)),
    runs ((h.1.1 _ 11 _ (someEq _ ?_) ?_).2.2.2 ?_ ?_ ?_),
    runsEq ((h.1.1 (inSwitch (labK [(11, kern .draining [(1, 1), (2, 2)] 1 1 1)])) 11 _ (someEq _ ?_) ?_).2.2.1 ?_ ?_), runs₃ (h.1.2.1 _ 11 0 4096 1 (kern .dispatching [] 2 0 0) ?_ ?_ ?_),
    (h.1.2.2 (labK [(11, kern .dispatching [] 2 0 0)]) 11 0 4096 1 (kern .dispatching [] 2 0 0) ?_).1⟩ <;>
  decide +kernel

/-- The declarations of an accepted record. -/
def RecCheck.decls : RecCheck → List (Nat × Nat)
  | .good l => l
  | _ => []

theorem goodEq (e : State × RecCheck) (h : e.2 = .good (RecCheck.decls e.2)) : e = (e.1, .good (RecCheck.decls e.2)) := Prod.ext rfl h

theorem badEq (k : Nat) (e : State × RecCheck) (h : e.2 = .bad k) : e = (e.1, .bad k) := Prod.ext rfl h

/-- Two harts in the group; the kernel has no group left to come. -/
def labDrain : State := { labPair with kernels := labPair.kernels.map fun p => (p.1, { p.2 with st := .draining }) }

/-- The hart waits for the counter at s23. -/
def labCwait (l : Nat) : State := (labK []).modMe fun h => { h with wait := some (.cwait (fy 12 23 l 0 2)) }

/-- A store to a lost device was dropped. -/
def labGone : State := lab.modMe fun h => { h with dropped := [{ dev := 7, va := 0x1230, vec := false, id := 0, gone := false }] }

/-- A launch and one that is refused; the end of one hart of two, of the last hart, and of the kernel; a counter that
meets its bound and one that does not, at first and at a recheck; the bounds of a record. -/
theorem witness_Kernels_instructions (h : Obligations.Kernels) :
    Runs (.launch (fy 12 21 0 0 0)) (labK []) ∧ Runs (.launch (fy 12 22 0 0 0)) (labK []) ∧
    Runs (.kexit (fy 0 0 0 0 0)) labPair ∧ Runs (.kexitAbort (fy 0 0 0 0 0)) labDrain ∧ Runs (.kexit (fy 0 0 0 0 0)) lab ∧
    Runs (.kexitAbort (fy 0 0 0 0 0)) labPair ∧
    Runs (.kexit (fy 0 0 0 0 0)) labGone ∧ Runs (.cwait (fy 12 23 26 0 2)) (labK []) ∧ Runs (.cwait (fy 12 23 27 0 2)) (labK []) ∧
    Runs (.cwait (fy 12 20 26 0 2)) (labK []) ∧
    Runs (.cwaitRecheck (labCwait 26).cur) (labCwait 26) ∧ Runs (.cwaitRecheck (labCwait 27).cur) (labCwait 27) ∧
    Runs (.kexit (fy 0 0 0 0 0)) (labUnacked false) := by
  refine ⟨runs₂ ((h.2.1 _ _ _ _ _ _ ?_ (okEq₁ _ ?_) (okEq _ ?_)).1 _ (goodEq _ ?_) ?_ ?_),
    runs ((h.2.1 _ _ _ _ _ _ ?_ (okEq₁ _ ?_) (okEq _ ?_)).2 1 (badEq _ _ ?_) ?_),
    runs ((h.2.2.1 _ _ _ _ (someEqP _ ?_) ?_ ?_ ?_ ?_ ?_ ?_ ?_ ?_).2.2 ?_ ?_ |>.1 ?_ ?_ ?_ _ (.head _) nofun),
    runs ((h.2.2.1 _ labDrain _ _ (someEqP _ ?_) ?_ ?_ ?_ ?_ ?_ ?_ ?_ ?_).2.2 ?_ ?_ |>.1 ?_ ?_ ?_ _ (.tail _ (.head _)) fun _ => someAll ?_),
    runs₂ ((h.2.2.1 _ _ _ _ (someEqP _ ?_) ?_ ?_ ?_ ?_ ?_ ?_ ?_ ?_).2.2 ?_ ?_ |>.2.1 _ ?_ (someEq _ ?_)),
    runs₂ ((h.2.2.1 _ _ _ _ (someEqP _ ?_) ?_ ?_ ?_ ?_ ?_ ?_ ?_ ?_).2.2 ?_ ?_ |>.2.2 _ (someEq _ ?_) ?_),
    runs ((h.2.2.1 _ labGone _ _ (someEqP _ ?_) ?_ ?_ ?_ ?_ ?_ ?_ ?_ ?_).1 { dev := 7, va := 0x1230, vec := false, id := 0, gone := false } [] ?_ ?_ _ (.head _)),
    runs (((h.2.2.2.1 (fy 12 23 26 0 2) (labK []) ?_ (plain_of ?_)).2 ?_ _ _ _ (okEq _ ?_) ?_ (noneEq _ ?_) _ (.inl rfl)).1 ?_),
    runs (((h.2.2.2.1 (fy 12 23 27 0 2) (labK []) ?_ (plain_of ?_)).2 ?_ _ _ _ (okEq _ ?_) ?_ (noneEq _ ?_) _ (.inl rfl)).2 ?_ (noPreempt_of ?_)),
    runs (((h.2.2.2.1 (fy 12 20 26 0 2) (labK []) ?_ (plain_of ?_)).1 ?_ (clean_of ?_) _ (.inl rfl)).2 ?_ (noPreempt_of ?_)),
    runs (((h.2.2.2.1 (fy 12 23 26 0 2) (labCwait 26) ?_ (plain_of ?_)).2 ?_ _ _ _ (okEq _ ?_) ?_ (noneEq _ ?_) _ (.inr ⟨?_, rfl⟩)).1 ?_),
    runs (((h.2.2.2.1 (fy 12 23 27 0 2) (labCwait 27) ?_ (plain_of ?_)).2 ?_ _ _ _ (okEq _ ?_) ?_ (noneEq _ ?_) _ (.inr ⟨?_, rfl⟩)).2 ?_
      (noPreempt_of ?_)),
    runsEq ((h.2.2.1 _ (labUnacked false) _ _ (someEqP _ ?_) ?_ ?_ ?_ ?_ ?_ ?_ ?_ ?_).2.1 ?_ ?_ _ (.head _))⟩ <;>
  first | decide +kernel | (unfold InDataWindow; decide +kernel) | (show _ = _; decide +kernel) | (show ¬ _ = _; decide +kernel)

theorem witness_Kernels_records (h : Obligations.Kernels) :
    checkRecord 1 0 (launchRec 0 8) lab = (lab, .bad 1) ∧ checkRecord 1 0 (launchRec 1 9) lab = (lab, .bad 2) ∧
    checkRecord 1 0 (launchRec 1 8 + 126 * 2 ^ 248) lab = (lab, .bad 3) ∧
    checkRecord 1 0 (launchRec 1 8 - 2 ^ 256 + 125 * 2 ^ 248) lab = (lab, .bad 4) := by
  refine ⟨(h.2.2.2.2 _ _ _ _).1 ?_, (h.2.2.2.2 _ _ _ _).2.1 ?_ ?_, ((h.2.2.2.2 _ _ _ _).2.2 ?_ ?_ ?_ ?_).1 ?_,
    ((h.2.2.2.2 _ _ _ _).2.2 ?_ ?_ ?_ ?_).2 ?_ ?_⟩ <;>
  decide +kernel

/-- A queue of context 1 with its ring at 0x10400: kind, depth, tail, progress, state. -/
def que (kind depth tail prog state : Nat) : Queue :=
  { asid := 1, ring := 0x10400, depth := depth, prio := 1, kind := kind, sqdb := 0, cq := 0x10800, cqdb := 0, cqdm1 := 3
    tail := BitVec.ofNat 64 tail, prog := BitVec.ofNat 64 prog, tails := 3, progs := 1, latch := none, state := state, was := 1, err := 0
    cqhead := 3, sqhead := 0, phase := true, boost := 0, taken := 0, cand := false, kernels := [], copies := [] }

/-- A record of the queue table: kind and depth, of context 1. -/
def queRec (kind depth : Nat) : Nat := 1 + kind * 2 ^ 32 + 3 * 2 ^ 34 + (depth - 1) * 2 ^ 48 + 1 * 2 ^ 69 + 0x10400 * 2 ^ 448

/-- Queues of `lab`; queues 10 and 12 have records, the second a bad one; the priority ceiling is 5. -/
def labQu (l : List (Nat × Queue)) : State := { lab with
  regs := { lab.regs with qtab := 0x2000000 }, queues := l, ctxs := smPut lab.ctxs 1 { lab.ctx 1 with prio := 5, evq := 0 }
  mem := bsWrite (bsWrite lab.mem (0x2000000 + 10 * 64) (leBytes 64 (queRec 0 4))) (0x2000000 + 12 * 64) (leBytes 64 (queRec 3 4)) }

/-- The queue table lies outside the device's memory. -/
def labQt : State := { labQu [] with regs := { lab.regs with qtab := 0x000FFFFFFFFF0000 } }

/-- `ATTACH` of a queue that is attached, of one that can be, of a bad record; `DETACH` and `RESET` of none; an operation
that is none; `DETACH` and `RESET` of a queue that is empty, and of one that has stopped. -/
theorem witness_QueueCommands (h : Obligations.QueueCommands) :
    Runs (.attach 1) (labQu [(1, que 0 4 2 1 1)]) ∧ Runs (.attach 10) (labQu []) ∧ Runs (.attach 12) labQt ∧ Runs (.detach 1) (labQu []) ∧
    Runs (.reset 1) (labQu []) ∧ Runs (.qcmdBadOp 0 1) (labQu []) ∧ Runs (.qcmdBadOp 7 1) (labQu []) ∧
    Runs (.detach 1) (labQu [(1, que 0 4 0 0 0)]) ∧ Runs (.detach 1) (labQu [(1, que 0 4 2 1 1)]) ∧
    Runs (.reset 65535) (labQu [(65535, que 0 4 2 1 5)]) ∧ Runs (.reset 1) (labQu [(1, que 0 4 2 1 1)]) := by
  refine ⟨runs ((h _ 1 ?_).2.1 _ (someEq _ ?_)), runs₂ ((h _ 10 ?_).2.2.1 _ ?_ (someEq _ ?_) ?_ ?_ ?_ ?_ ?_ ?_), runs ((h _ 12 ?_).2.2.2.1 ?_ ?_),
    runs ((h _ 1 ?_).2.2.2.2.1 ?_ (_, 2) (.head _)), runs ((h _ 1 ?_).2.2.2.2.1 ?_ (_, 3) (.tail _ (.head _))),
    runs ((h _ 1 ?_).2.2.2.2.2.1 0 ?_ ?_ ?_ ?_), runs ((h _ 1 ?_).2.2.2.2.2.1 7 ?_ ?_ ?_ ?_),
    runs ((h _ 1 ?_).2.2.2.2.2.2 _ (someEq _ ?_)).1, runs ((h _ 1 ?_).2.2.2.2.2.2 _ (someEq _ ?_)).1,
    runs ((h _ 65535 ?_).2.2.2.2.2.2 _ (someEq _ ?_)).2.1, runs ((h _ 1 ?_).2.2.2.2.2.2 _ (someEq _ ?_)).2.1⟩ <;>
  decide +kernel

/-- The doorbell: at the depth, past it, for a queue switched out; residence; aging. -/
theorem witness_QueueCommands_doorbell (h : Obligations.QueueCommands) :
    Runs (.tail 1 5) (labQu [(1, que 0 4 2 1 1)]) ∧ Runs (.tail 1 6) (labQu [(1, que 0 4 2 1 1)]) ∧ Runs (.tail 1 5) (labQu [(1, que 0 4 2 1 4)]) ∧
    Runs (.queueSwitchIn 1) (labQu [(1, { que 0 4 3 1 4 with cand := true })]) ∧ Runs (.queueAging 1) (labQu [(1, que 0 4 2 1 1)]) := by
  refine ⟨runs (((h _ 1 ?_).2.2.2.2.2.2 _ (someEq _ ?_)).2.2.1 5 ?_ ?_), runs (((h _ 1 ?_).2.2.2.2.2.2 _ (someEq _ ?_)).2.2.1 6 ?_ ?_),
    runs (((h _ 1 ?_).2.2.2.2.2.2 _ (someEq _ ?_)).2.2.2.1 5 ?_ ?_), runs (((h _ 1 ?_).2.2.2.2.2.2 _ (someEq _ ?_)).2.2.2.2.1 ?_ ?_ (.inl ?_) ?_ ?_),
    runs ((h _ 1 ?_).2.2.2.2.2.2 _ (someEq _ ?_)).2.2.2.2.2⟩ <;>
  decide +kernel

/-- A queue's record follows its counts. -/
theorem witness_QueueCommands_record (h : Obligations.QueueCommands) :
    QueueIs 10 (some (que 0 4 3 2 1)) (labQu []) ((labQu []).putQueue 10 (que 0 4 3 2 1)) := by
  refine ((h (labQu []) 10 ?_).1 (que 0 4 3 2 1) (.inl ?_) ?_ ?_ ?_ ?_ ?_ ?_ ?_).1 <;> decide +kernel

/-- An entry of a ring: its operation, and the counter that it waits for. -/
def qent (op wait a want at_ : Nat) : Nat := op + wait * 2 ^ 8 + a * 2 ^ 64 + want * 2 ^ 128 + at_ * 2 ^ 192

/-- Queues, with leaves of page 0x10000 in the cluster of a queue too; the third entry of the ring; other data at 0x10100. -/
def labE (e : Nat) (data : List Byte) (l : List (Nat × Queue)) : State :=
  { lab with
    queues := l, mem := bsWrite (bsWrite [] 0x1010480 (leBytes 64 e)) 0x1010100 data
    tlb := lab.tlb ++ lab.tlb.filterMap fun p => match p.1 with
      | .second _ => some (.second (queueWho 1 (que 0 4 3 2 1)).cluster, p.2)
      | _ => none }

/-- A bad entry, and a launch. -/
theorem witness_QueueEntries (h : Obligations.QueueEntries) :
    Runs .queueSchedule (labE 0 [] [(1, que 0 4 3 2 1)]) ∧ Runs .queueSchedule (labE (qent 1 0 0 0 0x10100) (leBytes 128 (launchRec 3 7)) [(1, que 0 4 3 2 1)]) := by
  refine ⟨runs ((h.1 _ _ (labE 0 [] []) 1 _ (que 0 4 3 2 1) ?_ (okEq _ ?_) _ (.inl ⟨rfl, ?_⟩)).1 ?_ ?_),
    runs₂ ((h.1 _ _ _ 1 _ (que 0 4 3 2 1) ?_ (okEq _ ?_) _ (.inl ⟨rfl, ?_⟩)).2.2.2.2 _ _ _ _ ⟨?_, .inl ⟨?_, rfl⟩⟩ ?_ ?_
      (okEq _ ?_) (goodEq _ ?_) ?_)⟩ <;>
  decide +kernel

/-- A counter that is short of the bound of the head entry, and one that meets it. -/
theorem witness_QueueEntries_counter (h : Obligations.QueueEntries) :
    Runs .queueSchedule (labE (qent 3 1 0x10100 51 0) (leBytes 8 50) [(1, que 0 4 3 2 1)]) ∧
    Runs .queueSchedule (labE (qent 3 1 0x10100 50 0) (leBytes 8 50) [(1, que 0 4 3 2 1)]) := by
  refine ⟨runsEq ((h.1 _ _ _ 1 _ (que 0 4 3 2 1) ?_ (okEq _ ?_) _ (.inl ⟨rfl, ?_⟩)).2.1 ?_ ?_ ?_ _ (okEq _ ?_) ?_),
    runsEq ((h.1 _ _ _ 1 _ (que 0 4 3 2 1) ?_ (okEq _ ?_) _ (.inl ⟨rfl, ?_⟩)).2.2.1 ⟨?_, .inr ⟨?_, ?_, _, okEq _ ?_, ?_⟩⟩ ?_ ?_)⟩ <;>
  decide +kernel

/-- The same at a recheck. -/
theorem witness_QueueEntries_recheck (h : Obligations.QueueEntries) :
    Runs (.counterWaitRecheck 1) (labE (qent 3 1 0x10100 51 0) (leBytes 8 50) [(1, que 0 4 3 2 3)]) ∧
    Runs (.counterWaitRecheck 1) (labE (qent 3 1 0x10100 50 0) (leBytes 8 50) [(1, que 0 4 3 2 3)]) := by
  refine ⟨runsEq ((h.1 _ _ _ 1 _ (que 0 4 3 2 3) ?_ (okEq _ ?_) _ (.inr ⟨rfl, ?_, ?_⟩)).2.1 ?_ ?_ ?_ _ (okEq _ ?_) ?_),
    runsEq ((h.1 _ _ _ 1 _ (que 0 4 3 2 3) ?_ (okEq _ ?_) _ (.inr ⟨rfl, ?_, ?_⟩)).2.2.1 ⟨?_, .inr ⟨?_, ?_, _, okEq _ ?_, ?_⟩⟩ ?_ ?_)⟩ <;>
  decide +kernel

/-- A signal entry for the counter at 0x10100: its value, whether it adds, and the vector that it raises. -/
def qsig (v add vec : Nat) : Nat := qent 4 0 0 0 0x10100 + v * 2 ^ 256 + add * 2 ^ 320 + 2 ^ 321 + vec * 2 ^ 328

/-- Signals that wait for a copy and for a kernel, one that stores and one that adds. -/
theorem witness_QueueEntries_signal (h : Obligations.QueueEntries) :
    Runs .queueSchedule (labE (qsig 5 0 7) [] [(1, { que 0 4 3 2 1 with copies := [7] })]) ∧
    Runs .queueSchedule { labE (qsig 5 0 7) [] [(1, { que 0 4 3 2 1 with kernels := [5] })] with kernels := [(5, kern .running [] 2 0 0)] } ∧
    Runs .queueSchedule (labE (qsig 5 0 7) [] [(1, que 0 4 3 2 1)]) ∧
    Runs .queueSchedule (labE (qsig 5 1 2047) [] [(1, que 0 4 3 2 1)]) := by
  refine ⟨runsEq (((h.1 _ _ _ 1 _ { que 0 4 3 2 1 with copies := [7] } ?_ (okEq _ ?_) _ (.inl ⟨rfl, ?_⟩)).2.2.2.1
      ⟨?_, .inl ⟨?_, rfl⟩⟩ ?_).1 (.inl ?_)),
    runsEq (((h.1 _ _ _ 1 _ { que 0 4 3 2 1 with kernels := [5] } ?_ (okEq _ ?_) _ (.inl ⟨rfl, ?_⟩)).2.2.2.1
      ⟨?_, .inl ⟨?_, rfl⟩⟩ ?_).1 (.inr ⟨5, .head _, fun c => absurd (c _ (someEq _ ?_)) ?_⟩)),
    runsEq (((h.1 _ _ _ 1 _ (que 0 4 3 2 1) ?_ (okEq _ ?_) _ (.inl ⟨rfl, ?_⟩)).2.2.2.1
      ⟨?_, .inl ⟨?_, rfl⟩⟩ ?_).2 ?_ (fun _ k => nomatch k) ?_ ?_ _ 0 ?_ (.inl ⟨?_, noneEq _ ?_⟩)),
    runsEq (((h.1 _ _ _ 1 _ (que 0 4 3 2 1) ?_ (okEq _ ?_) _ (.inl ⟨rfl, ?_⟩)).2.2.2.1
      ⟨?_, .inl ⟨?_, rfl⟩⟩ ?_).2 ?_ (fun _ k => nomatch k) ?_ ?_ _ _ ?_ (.inr ⟨?_, okEq _ ?_⟩))⟩ <;>
  decide +kernel

/-- Queue 3 is s22; an entry stands at s21; the completion of queue 3 stands at 0x10830. -/
def labPost (x : Queue) : State := regs [(21, 0x10000), (22, 3), (26, 9)] (put 0x10000 (leBytes 64 9)
  (put 0x10830 (leBytes 16 (5 * 2 ^ 64 + 0x1234 * 2 ^ 96 + 2 ^ 112 + 3 * 2 ^ 113)) { lab with queues := [(3, x)] }))

/-- A full queue and one with room; progress; a completion that is not there yet and one that is. -/
theorem witness_QueueEntries_post (h : Obligations.QueueEntries) :
    Runs (.qpost (fy 12 21 22 0 0)) (labPost (que 1 4 4 0 1)) ∧ Runs (.qpost (fy 12 21 22 0 0)) (labPost (que 1 4 3 0 1)) ∧
    Runs (.qpoll (fy 12 22 0 0 0)) (labPost (que 1 4 3 0 4)) ∧ Runs (.qpoll (fy 12 22 0 0 0)) (labPost { que 2 16 3 0 0 with phase := false }) ∧
    Runs (.qpoll (fy 12 22 0 0 0)) (labPost (que 2 16 3 0 0)) := by
  refine ⟨runs ((h.2.2.1 (fy 12 21 22 0 0) _ _ _ (labPost (que 1 4 3 0 1)) _ 3 _ ?_ ?_ (someEq _ ?_) ?_ ?_ ?_ ?_ ?_ (okEq₁ _ ?_) (okEq _ ?_) ?_).1 ?_),
    runs ((h.2.2.1 (fy 12 21 22 0 0) _ _ _ _ _ 3 _ ?_ ?_ (someEq _ ?_) ?_ ?_ ?_ ?_ ?_ (okEq₁ _ ?_) (okEq _ ?_) ?_).2 ?_ (noneEq _ ?_) ?_ ?_),
    runs ((h.2.2.2 (fy 12 22 0 0 0) _ 3 (que 1 4 3 0 4) ?_ ?_ ?_ ?_ ?_ ?_ ?_).1 ?_ ?_),
    runs (((h.2.2.2 (fy 12 22 0 0 0) _ 3 { que 2 16 3 0 0 with phase := false } ?_ ?_ ?_ ?_ ?_ ?_ ?_).2 _ _ ?_ ?_ ?_ (okEq _ ?_) ?_).1 ?_),
    runs₂ (((h.2.2.2 (fy 12 22 0 0 0) _ 3 (que 2 16 3 0 0) ?_ ?_ ?_ ?_ ?_ ?_ ?_).2 _ _ ?_ ?_ ?_ (okEq _ ?_) ?_).2 ?_)⟩ <;>
  decide +kernel

/-- Queue 3 is the submission queue of a drive that holds one entry less than its depth: full, and with its doorbell written. -/
theorem witness_QueueEntries_post_drive (h : Obligations.QueueEntries) :
    Runs (.qpost (fy 12 21 22 0 0)) (labPost (que 2 4 3 0 1)) ∧ Runs (.qpost (fy 12 21 22 0 1)) (labPost (que 2 16 3 0 1)) := by
  refine ⟨runs ((h.2.2.1 (fy 12 21 22 0 0) _ _ _ (labPost (que 2 4 3 0 1)) _ 3 _ ?_ ?_ (someEq _ ?_) ?_ ?_ ?_ ?_ ?_ (okEq₁ _ ?_) (okEq _ ?_) ?_).1 ?_),
    runs ((h.2.2.1 (fy 12 21 22 0 1) (labPost (que 2 16 3 0 1)) _ _ _ _ 3 (que 2 16 3 0 1) ?_ ?_ ?_ ?_ ?_ ?_ ?_ ?_ (okEq₁ _ ?_) (okEq _ ?_) ?_).2 ?_ (noneEq _ ?_) ?_ ?_)⟩ <;>
  decide +kernel

/-- A copy of queue 1 with its entry at 0x10100. -/
def qcopy : Copy :=
  { id := 7, hart := none, queue := some (1, 0x10100), asid := 1, cluster := 1, engine := 0, dirOut := true, main := 0x10000, core := 0
    off := 0, dst := 0x10603, len := 45, chunk := 64, next := 0, sup := false, stopped := false }

theorem witness_QueueEntries_copy (h : Obligations.QueueEntries) :
    Runs (.queueCopyDone 7) { labE 0 [] [(1, { que 0 4 3 2 1 with copies := [7, 8] })] with copies := [qcopy, { qcopy with id := 8 }] } := by
  refine runs (h.2.1 _ _ _ qcopy 1 0x10100 { que 0 4 3 2 1 with copies := [7, 8] } ?_ ?_ (noneEq _ ?_) (noneEq _ ?_) ?_ ?_) <;>
  decide +kernel

/-- Contexts: 1 RESIDENT, 2 and 3 SWITCHED_OUT, 2 with a held fault, 4 FAULTED, 5 TORN_DOWN; no groups; a context record
at the address of CTXCMD. -/
def labC : State := { lab with
  groups := [], regs := { lab.regs with ctxAddr := 0x2000000 }
  ctxs := [(1, { lab.ctx 1 with evq := 4 }), (2, { lab.ctx 1 with st := .switchedOut, held := true }), (3, { lab.ctx 1 with st := .switchedOut }),
    (4, { lab.ctx 1 with st := .faulted }), (5, { lab.ctx 1 with st := .tornDown })]
  mem := bsWrite [] 0x2000000 (leBytes 64 (0x3000000 + 0x3100000 * 2 ^ 64 + 0x3200000 * 2 ^ 128 + 0x8000 * 2 ^ 192 + 5 * 2 ^ 272 + 8 * 2 ^ 276 +
    3 * 2 ^ 280 + 4 * 2 ^ 292)) }

/-- A command runs with a STATUS. -/
def ctxGoes (op a st : Nat) (s : State) : State := { s with regs := { s.regs with
  ctxGo := true, ctxOp := BitVec.ofNat 3 op, ctxAsid := BitVec.ofNat 11 a, ctxStatus := BitVec.ofNat 8 st } }

/-- The address of CTXCMD lies outside the device's memory. -/
def labCt : State := { labC with regs := { labC.regs with ctxAddr := 0x000FFFFFFFFFFFC0 } }

/-- A command while one runs; each command in a state that takes it, and in one that does not. -/
theorem witness_ContextCommands (h : Obligations.ContextCommands) :
    exec (.create 0) (ctxGoes 1 1 2 labC) = .next (ctxGoes 1 1 2 labC) ∧
    Runs (.create 1) labC ∧ Runs (.create 2047) labCt ∧ Runs (.create 6) labC ∧
    Runs (.switchOut 2) labC ∧ Runs (.switchOut 1) labC ∧ Runs (.switchIn 1) labC ∧ Runs (.switchIn 2) labC ∧ Runs (.switchIn 3) labC ∧
    Runs (.teardown 5) labC ∧ Runs (.teardown 1) labC ∧ Runs (.resume 1) labC ∧ Runs (.resume 4) labC ∧ Runs (.badOp 6 1) labC ∧
    Runs .contextCommandComplete labC := by
  refine ⟨(h.1 _ 0 ?_).1 ?_ _ (.head _), runs (((h.1 _ 1 ?_).2.1 ?_).1 ?_), runs (((h.1 _ 2047 ?_).2.1 ?_).2.1 ?_ ?_),
    runs₃ (((h.1 _ 6 ?_).2.1 ?_).2.2.1 _ ?_ (someEq _ ?_) ?_), runs (((h.1 _ 2 ?_).2.1 ?_).2.2.2.1 ?_),
    runs (((h.1 _ 1 ?_).2.1 ?_).2.2.2.2.1 ?_ ?_ ?_), runs (((h.1 _ 1 ?_).2.1 ?_).2.2.2.2.2.1 ?_),
    runs (((h.1 _ 2 ?_).2.1 ?_).2.2.2.2.2.2.1 ?_ ?_), runs (((h.1 _ 3 ?_).2.1 ?_).2.2.2.2.2.2.1 ?_ ?_),
    runs (((h.1 _ 5 ?_).2.1 ?_).2.2.2.2.2.2.2.1 ?_), runs (((h.1 _ 1 ?_).2.1 ?_).2.2.2.2.2.2.2.2.1 ?_ ?_),
    runs (((h.1 _ 1 ?_).2.1 ?_).2.2.2.2.2.2.2.2.2.1 ?_), runs (((h.1 _ 4 ?_).2.1 ?_).2.2.2.2.2.2.2.2.2.2.1 ?_ ?_),
    runs (((h.1 _ 1 ?_).2.1 ?_).2.2.2.2.2.2.2.2.2.2.2.1 6 ?_), runs ((h.1 _ 1 ?_).2.1 ?_).2.2.2.2.2.2.2.2.2.2.2.2⟩ <;>
  decide +kernel

/-- Zeroisation; the end of a command, and of one that switches a context out. -/
theorem witness_ContextCommands_complete (h : Obligations.ContextCommands) :
    Runs (.zeroisationConfirmed 5) labC ∧ Runs .contextCommandComplete (ctxGoes 1 1 2 labC) ∧ Runs .contextCommandComplete (ctxGoes 2 1 0 labC) := by
  refine ⟨runs ((h.1 _ 5 ?_).2.2.1 ?_), runs (((h.1 _ 1 ?_).2.2.2 ?_ ?_).1 ?_ ?_), runs (((h.1 _ 1 ?_).2.2.2 ?_ ?_).2 ?_ ?_ ?_)⟩ <;>
  decide +kernel

/-- An event queue whose ring stands at an address. -/
def labRing (ring tail : Nat) : State :=
  let x : Queue := { que 1 4 0 0 0 with ring := BitVec.ofNat 64 ring }
  { labE 0 (leBytes 8 tail) [(4, x)] with
    groups := [], tlb := lab.tlb ++ lab.tlb.filterMap fun p => match p.1 with
      | .second _ => some (.second (queueWho 4 x).cluster, p.2)
      | _ => none
    ctxs := [(1, { lab.ctx 1 with evq := 4, events := [5, 6] })] }

/-- The host writes a debug register. -/
theorem witness_ContextCommands_debug (h : Obligations.ContextCommands) :
    Runs (.debugRegisterWrite 0 0 0xFF) lab ∧ Runs (.debugRegisterWrite 6143 8 0xFFFF) lab ∧ Runs (.debugRegisterWrite 1 16 0xFFFF) lab ∧
    Runs (.debugRegisterWrite 1 24 0xFFFF) lab := by
  refine ⟨runs (h.2.2 _ 0 0 _ ?_), runs (h.2.2 _ 6143 8 _ ?_), runs (h.2.2 _ 1 16 _ ?_), runs (h.2.2 _ 1 24 _ ?_)⟩ <;>
  decide +kernel

/-- The index of an event that is posted. -/
def Posted.index : Posted → Word
  | .at i => i
  | _ => 0

/-- The fault of a ring. -/
def Posted.trap : Posted → Trap
  | .fault t => t
  | _ => Trap.scalar .illegal 0

theorem postedAt (e : State × Posted) (h : e.2 = .at (Posted.index e.2)) : e = (e.1, .at (Posted.index e.2)) := Prod.ext rfl h
theorem postedFull (e : State × Posted) (h : e.2 = .full) : e = (e.1, .full) := Prod.ext rfl h
theorem postedFault (e : State × Posted) (h : e.2 = .fault (Posted.trap e.2)) : e = (e.1, .fault (Posted.trap e.2)) := Prod.ext rfl h

/-- A ring with room, a full one, and one that stands at no page. -/
theorem witness_ContextCommands_events (h : Obligations.ContextCommands) :
    Runs (.eventPost 1) (labRing 0x10000 1) ∧ Runs (.eventPost 1) (labRing 0x10000 4) ∧ Runs (.eventPost 1) (labRing 0x9990000 1) := by
  refine ⟨runs ((h.2.1 _ 1 5 [6] ?_ ?_ ?_ ?_).1 _ _ (postedAt _ ?_)), runsEq ((h.2.1 _ 1 5 [6] ?_ ?_ ?_ ?_).2.1 _ (postedFull _ ?_)),
    runs₂ ((h.2.1 _ 1 5 [6] ?_ ?_ ?_ ?_).2.2 _ _ (postedFault _ ?_) ?_ ?_ ?_ ?_)⟩ <;>
  decide +kernel

/-- The error of an answer that is one. -/
def errVal {ε α : Type _} (e : Except ε α) (h : e.isOk = false) : ε :=
  match e, h with
  | .error c, _ => c

theorem errEq {ε α : Type _} (e : Except ε α) (h : e.isOk = false) : e = .error (errVal e h) := by
  cases e with
  | ok a => cases h
  | error x => rfl

theorem errIs {ε α : Type _} [DecidableEq ε] {e : Except ε α} {c : ε} (h : (match e with | .error b => decide (b = c) | _ => false) = true) :
    e = .error c := by
  cases e with
  | ok a => cases h
  | error x => exact congrArg _ (of_decide_eq_true h)

/-- A leaf of context 1, a bolted range, and eight bytes of memory. -/
def lf (b pg : Nat) : Leaf := { asid := 1, base := b, pages := pg, leaf := BitVec.ofNat 64 (0x100 * 2 ^ 28 + 0x80F) }
def bt (k st n : Nat) (ls : List Leaf) : Bolt := { slot := k, start := st, len := n, entries := ls }
def w8 (a v : Nat) (m : ByteStore) : ByteStore := bsWrite m a (leBytes 8 v)

/-- Page tables of context 1: pages 3 and 4 are device memory, page 6 is migrating; s21 and s22 are an address and a length, s24
is 0, s26 no multiple of a page, s27 the page past the bolted ones, s28 reaches past it. -/
def labT (bs : List Bolt) : State := regs [(21, 0x30000), (22, 0x20000), (23, 0x10000), (24, 0), (26, 0x34000), (27, 0x40000), (28, 0x50000)] { lab with
  ctxs := smPut lab.ctxs 1 { lab.ctx 1 with root := 0x3000000 }
  groups := lab.groups.map fun p => (p.1, { p.2 with bolts := bs })
  mem := w8 (0x3020000 + 48) (0x205 * 2 ^ 28 + 0x880F) <| w8 (0x3020000 + 32) (0x204 * 2 ^ 28 + 0x80F) <| w8 (0x3020000 + 24) (0x203 * 2 ^ 28 + 0x80F) <|
    w8 0x3010000 (0x302 * 2 ^ 28 + 1) <| w8 0x3000000 (0x301 * 2 ^ 28 + 1) [] }

/-- Four ranges of one page, and one range of 15 entries. -/
def fourBolts : List Bolt := (List.range 4).map fun i => bt i (0x100000 * (i + 1)) 0x10000 [lf (16 * (i + 1)) 1]
def fullBolts : List Bolt := [bt 0 0x1000000 0x10000 ((List.range 15).map fun i => lf (i + 100) 1)]

/-- An address that is no page, a fifth range, a range that meets another, a page without a leaf, a
seventeenth entry, and a range that is taken. -/
theorem witness_TranslationEntries_bolt (h : Obligations.TranslationEntries) :
    Runs (.tlbb (fy 12 26 22 0 0)) (labT []) ∧ Runs (.tlbb (fy 12 21 22 0 0)) (labT fourBolts) ∧
    Runs (.tlbb (fy 12 21 22 0 0)) (labT [bt 0 0x40000 0x10000 [lf 4 1]]) ∧ Runs (.tlbb (fy 12 28 23 0 0)) (labT []) ∧
    Runs (.tlbb (fy 12 21 22 0 0)) (labT fullBolts) ∧
    Runs (.tlbb (fy 12 21 22 0 0)) (labT [bt 0 0x50000 0x10000 [lf 5 1]]) := by
  refine ⟨runs ((h.1 _ _ _ _ (someEqP _ ?_)).1 ?_ _ (someEq _ ?_) ?_), runs ((h.1 _ _ _ _ (someEqP _ ?_)).2.1 ?_ ?_ ?_),
    runs ((h.1 _ _ _ _ (someEqP _ ?_)).2.2.1 ?_ ?_ ?_ ?_), runs₂ ((h.1 _ _ _ _ (someEqP _ ?_)).2.2.2.1 ?_ ?_ ?_ .page 0x50000 (errIs ?_) ?_),
    runs₂ ((h.1 _ _ _ _ (someEqP _ ?_)).2.2.2.2.1 ?_ ?_ ?_ _ (okEq₁ _ ?_) ?_ ?_),
    runs₂ ((h.1 _ _ _ _ (someEqP _ ?_)).2.2.2.2.2 ?_ ?_ ?_ ?_ _ (okEq₁ _ ?_) ?_)⟩ <;>
  decide +kernel

/-- `TLBU` of a slot that holds no range, and of one that does. -/
theorem witness_TranslationEntries_unbolt (h : Obligations.TranslationEntries) :
    Runs (.tlbu (fy 12 24 0 0 0)) (labT []) ∧ Runs (.tlbu (fy 12 24 0 0 0)) (labT [bt 0 0x40000 0x10000 [lf 4 1]]) := by
  refine ⟨runs ((h.2.1 _ _ _ _ (someEqP _ ?_) ?_).1 ?_), runs ((h.2.1 _ _ _ _ (someEqP _ ?_) ?_).2 (bt 0 0x40000 0x10000 [lf 4 1]) ?_ ?_ ?_ ?_ ?_)⟩ <;>
  decide +kernel

/-- `TLBI` at level S; a walk that finds no leaf, one that does, and a page of a bolted range. -/
theorem witness_TranslationEntries (h : Obligations.TranslationEntries) :
    Runs (.tlbi (fy 12 21 22 3 0)) ((labT [bt 0 0x40000 0x10000 [lf 4 1]]).modMe fun h => { h with level := .s }) ∧
    Runs (.pageWalk 0 0x50000 .load) (labT []) ∧ Runs (.pageWalk 0 0x30008 .load) (labT []) ∧
    Runs (.pageWalk 0 0x40008 .load) (labT [bt 0 0x40000 0x10000 [lf 4 1]]) := by
  refine ⟨runs (h.2.2.1 _ _ ?_), runs (((h.2.2.2 0 0x50000 .load (labT []) ?_ ?_).2 ?_ ?_ ?_ (someAll ?_)).1 _ (errEq _ ?_)),
    runs (((h.2.2.2 0 0x30008 .load (labT []) ?_ ?_).2 ?_ ?_ ?_ (someAll ?_)).2 _ (okEq₁ _ ?_) ?_),
    runsEq ((h.2.2.2 0 0x40008 .load (labT [bt 0 0x40000 0x10000 [lf 4 1]]) ?_ ?_).1 _ _ _ (lf 4 1) (someEq _ ?_) (someEq _ ?_) rfl rfl ?_).1⟩ <;>
  decide +kernel

theorem okIs {ε α : Type _} [DecidableEq α] {e : Except ε α} {a : α} (h : (match e with | .ok b => decide (b = a) | _ => false) = true) :
    e = .ok a := by
  cases e with
  | ok b => exact congrArg _ (of_decide_eq_true h)
  | error x => cases h

/-- A migration of a page, which has read its leaf or none. -/
def mg (id va dest : Nat) (ls : List (Nat × Word)) : Mig :=
  { id := id, asid := 1, serial := 1, cluster := 0, record := 0x10100, chan := 0, va := va, dest := dest, size := 0, tier := 0, leaves := ls }

/-- The page tables of `labT`, and a leaf of page 2 with bit 12; no line has been written; level S. -/
def labMg (ms : List Mig) : State := (regs [(21, 0x10200)] { labT [] with
  mem := w8 (0x3020000 + 16) (0x202 * 2 ^ 28 + 0x180F) (labT []).mem, lines := [], migs := ms }).modMe fun h => { h with level := .s }

/-- A channel with all its migrations, and with room. -/
theorem witness_Migration_start (h : Obligations.Migration) :
    Runs (.pmig (fy 12 21 0 0 0)) (labMg ((List.range 16).map fun i => { mg i 0 0 [] with chan := channelOf 0x1010200 })) ∧
    Runs (.pmig (fy 12 21 0 0 0)) (labMg []) := by
  refine ⟨runs ((h.1 _ _ _ _ _ _ 0x1010200 ?_ ?_ (okEq _ ?_) (okEq _ ?_) ?_).1 ?_),
    runs₂ ((h.1 _ _ _ _ _ _ 0x1010200 ?_ ?_ (okEq _ ?_) (okEq _ ?_) ?_).2 ?_)⟩ <;>
  decide +kernel

theorem ownLeaf_of {m : Mig} {pa : Nat} {s : State} (h : pa % 8 = 0 ∧ cntFull s [] { asid := m.asid, buf := 0, mode := .rw } pa = false ∧ Memory.wf s.mem = true ∧
    (s.line (pa / 64)).key.all (fun k => decide (k = (s.ctx m.asid).key)) = true) : OwnLeaf m pa s :=
  ⟨h.1, h.2.1, h.2.2.1, someAll h.2.2.2⟩

/-- No leaf, a leaf that is another's, one that migrates, a bad destination, and a leaf that takes MIG. -/
theorem witness_Migration (h : Obligations.Migration) :
    Runs (.migration 1) (labMg [mg 1 0x70000 0x5000000 []]) ∧ Runs (.migration 1) (labMg [mg 1 0x20000 0x5000000 []]) ∧
    Runs (.migration 1) (labMg [mg 1 0x60000 0x5000000 []]) ∧ Runs (.migration 1) (labMg [mg 1 0x30000 0x5000100 []]) ∧
    Runs (.migration 1) (labMg [mg 1 0x30000 0x5000000 []]) := by
  refine ⟨runs₂ ((h.2.1 _ (mg 1 0x70000 0x5000000 []) ?_ ?_).1 _ (errEq _ ?_)),
    runs₂ (((h.2.1 _ (mg 1 0x20000 0x5000000 []) ?_ ?_).2 0x3020010 (0x202 * 2 ^ 28 + 0x180F) [] (okIs ?_)).1 ?_),
    runs₂ (((h.2.1 _ (mg 1 0x60000 0x5000000 []) ?_ ?_).2 0x3020030 (0x205 * 2 ^ 28 + 0x880F) [] (okIs ?_)).2.1 ?_ ?_),
    runs₂ (((h.2.1 _ (mg 1 0x30000 0x5000100 []) ?_ ?_).2 0x3020018 (0x203 * 2 ^ 28 + 0x80F) [] (okIs ?_)).2.2.1 ?_ ?_ ?_),
    runs (((h.2.1 _ (mg 1 0x30000 0x5000000 []) ?_ ?_).2 0x3020018 (0x203 * 2 ^ 28 + 0x80F) [] (okIs ?_)).2.2.2 ?_ ?_ ?_ ?_ ?_ ?_ (ownLeaf_of ?_))⟩ <;>
  decide +kernel

/-- The migrations of page 6, whose leaf holds MIG, and of page 4, whose leaf does not. -/
def mg6 : Mig := mg 1 0x60000 0x5000000 [(0x3020030, 0x205000080F)]
def mg4 : Mig := mg 1 0x40000 0x5000000 [(0x3020020, 0x204000080F)]

/-- A write that waits too long; the copy, and a leaf that has changed. -/
theorem witness_Migration_copy (h : Obligations.Migration) :
    Runs (.migrationTimeout 1) (labMg [mg6]) ∧ Runs (.migration 1) (labMg [mg6]) ∧ Runs (.migration 1) (labMg [mg4]) := by
  have out : ∀ a, a = 0x2050000 ∨ a = 0x2040000 ∨ a = 0x5000000 → ∀ p, p = 0x3020030 ∨ p = 0x3020020 → ∀ x, a ≤ x → x < a + 2 ^ 16 → x < p ∨ p + 8 ≤ x := by
    intro a _ p _ x; omega
  have none_ : ∀ (m : Mig) (n : Nat), ∀ q ∈ (labMg [m]).lines, q.1 / 2 ^ 10 = n → q.2.poison = false ∧ ∀ k, q.2.key = some k → k = ((labMg [m]).ctx m.asid).key :=
    fun m n q hq => nomatch hq
  refine ⟨runsUT ((h.2.2 _ mg6 _ _ ?_ rfl ?_ (ownLeaf_of ?_)).1 ?_),
    runsUT ((((h.2.2 _ mg6 _ _ ?_ rfl ?_ (ownLeaf_of ?_)).2 ?_ ?_ ?_ ?_ (out _ (.inl ?_) _ (.inl rfl)) (out _ (.inr (.inr rfl)) _ (.inl rfl)) (none_ _ _) ?_).2 ?_).1 ?_),
    runsUT ((((h.2.2 _ mg4 _ _ ?_ rfl ?_ (ownLeaf_of ?_)).2 ?_ ?_ ?_ ?_ (out _ (.inr (.inl ?_)) _ (.inr rfl)) (out _ (.inr (.inr rfl)) _ (.inr rfl)) (none_ _ _) ?_).2 ?_).2 ?_)⟩ <;>
  decide +kernel

/-- A write of the host that waited for the page of `mg4`. -/
def heldH : HostWrite := { cry := { asid := 1, buf := 0, mode := .rw }, pa := 0x2040008, data := [1, 2] }

/-- A write of a call that waited for it. -/
def heldC : HeldWrite :=
  { who := { asid := 1, serial := 1, group := none, sup := true, cluster := 0, slices := none }, va := 0x10300, data := [1, 2], call := none }

/-- A write that waited for the page, whose migration ends: the host's performs at the new frame, and one by a VA at its address. -/
theorem witness_MigEnds {t u v : State} (h : MigEnds mg4 0 0 { labMg [mg4] with heldHost := [heldH] } t)
    (k : MigEnds mg4 7 0 { labMg [mg4] with held := [heldC] } u) (j : MigEnds mg4 7 0 (labMg [mg4]) v) :
    (∃ a s, a = 0x5000008 ∧ LineWritten a [1, 2] s t) ∧ (∃ s, u = s) ∧ ∃ s, v = s := by
  refine ⟨⟨_, _, ?_, (h (vwrite _ _ _ _).1 _ (pairEq _)).2.2 heldH ?_ ?_ ?_ ?_ ?_ ?_ ?_ ?_ (someAll ?_)⟩,
    ⟨_, (k _ _ (pairEq _)).2.1 heldC _ ?_ ?_ ?_ ?_ (noneEq _ ?_)⟩, ⟨_, (j _ _ (pairEq _)).1 ?_ ?_ ?_⟩⟩ <;> decide +kernel

/-- A port in a state. -/
def po (st : PortState) (att : Nat) (un : List (List Byte)) (rx : Nat) : Port :=
  { peer := 2, peerPort := 3, replay := 254, lanes := 8, st := st, drain := false, en := true, attempt := att, txSeq := 4095
    rxSeq := BitVec.ofNat 12 rx, unacked := un.map fun f => { flit := f, store := none }, wire := [], got := [], wantSeq := some 3 }

/-- Port 23 is so, the others are as at reset. -/
def labP (x : Port) : State := { lab with ports := lab.ports.set! 23 x }

/-- A flit of a type, a number, and a CRC that holds or not. -/
def fl (ty seq bad : Nat) : List Byte :=
  let b := List.replicate 56 7 ++ [BitVec.ofNat 8 ty, 0] ++ leBytes 2 seq
  b ++ leBytes 4 ((crc32c b).toNat + bad)

/-- Each event in a state that takes it, and in one that does not. -/
theorem witness_Links_ports (h : Obligations.Links) :
    Runs (.linkEnable 23) (labP (po .down 0 [] 0)) ∧ Runs (.linkEnable 23) (labP (po .up 1 [] 0)) ∧ Runs (.linkDisable 23) (labP (po .up 1 [] 0)) ∧
    Runs (.linkDisable 23) (labP (po .down 0 [] 0)) ∧ Runs (.drain 23) (labP (po .up 1 [] 0)) ∧ Runs (.drain 23) (labP (po .failed 3 [] 0)) ∧
    Runs (.laneLost 23) (labP (po .degraded 1 [] 0)) ∧ Runs (.replayLimit 23) (labP (po .degraded 1 [] 0)) ∧
    Runs (.laneLost 23) (labP (po .down 0 [] 0)) ∧ Runs (.replayLimit 23) (labP (po .down 0 [] 0)) ∧
    Runs (.deadTime 23) (labP (po .draining 1 [] 0)) ∧ Runs (.deadTime 23) (labP (po .down 0 [] 0)) ∧
    Runs (.drainDone 23) (labP (po .draining 1 [] 0)) ∧ Runs (.drainDone 23) (labP (po .draining 1 [[]] 0)) := by
  refine ⟨runs ((h.1.1 _ 23 ?_ ?_ ?_ ?_).1 ?_), runs ((h.1.1 _ 23 ?_ ?_ ?_ ?_).2.1 ?_), runs ((h.1.1 _ 23 ?_ ?_ ?_ ?_).2.2.1 ?_), runs ((h.1.1 _ 23 ?_ ?_ ?_ ?_).2.2.2.1 ?_),
    runs ((h.1.1 _ 23 ?_ ?_ ?_ ?_).2.2.2.2.1 ?_), runs ((h.1.1 _ 23 ?_ ?_ ?_ ?_).2.2.2.2.2.1 ?_),
    runs ((h.1.1 _ 23 ?_ ?_ ?_ ?_).2.2.2.2.2.2.2.2.1 ?_).1, runs ((h.1.1 _ 23 ?_ ?_ ?_ ?_).2.2.2.2.2.2.2.2.1 ?_).2,
    runs ((h.1.1 _ 23 ?_ ?_ ?_ ?_).2.2.2.2.2.2.2.2.2.1 ?_).1, runs ((h.1.1 _ 23 ?_ ?_ ?_ ?_).2.2.2.2.2.2.2.2.2.1 ?_).2,
    runs ((h.1.1 _ 23 ?_ ?_ ?_ ?_).2.2.2.2.2.2.2.2.2.2.1 ?_), runs ((h.1.1 _ 23 ?_ ?_ ?_ ?_).2.2.2.2.2.2.2.2.2.2.2.1 ?_ ?_),
    runs ((h.1.1 _ 23 ?_ ?_ ?_ ?_).2.2.2.2.2.2.2.2.2.2.2.2.1 ?_ ?_), runs ((h.1.1 _ 23 ?_ ?_ ?_ ?_).2.2.2.2.2.2.2.2.2.2.2.2.2 (.inr ?_))⟩ <;>
  decide +kernel

/-- Training ends with eight lanes, with four, with fewer at the first attempt and at the third, and in no training. -/
theorem witness_Links_training (h : Obligations.Links) :
    Runs (.trainingEnd 23 8 5 6) (labP (po .training 1 [] 0)) ∧ Runs (.trainingEnd 23 4 5 6) (labP (po .training 1 [] 0)) ∧
    Runs (.trainingEnd 23 3 5 6) (labP (po .training 2 [] 0)) ∧ Runs (.trainingEnd 23 3 5 6) (labP (po .training 3 [] 0)) ∧
    Runs (.trainingEnd 23 8 5 6) (labP (po .up 1 [] 0)) := by
  refine ⟨runs (((h.1.1 _ 23 ?_ ?_ ?_ ?_).2.2.2.2.2.2.1 8 5 6 ?_ ?_ ?_).1 ?_), runs (((h.1.1 _ 23 ?_ ?_ ?_ ?_).2.2.2.2.2.2.1 4 5 6 ?_ ?_ ?_).2.1 ?_ ?_),
    runs (((h.1.1 _ 23 ?_ ?_ ?_ ?_).2.2.2.2.2.2.1 3 5 6 ?_ ?_ ?_).2.2.1 ?_ ?_), runs (((h.1.1 _ 23 ?_ ?_ ?_ ?_).2.2.2.2.2.2.1 3 5 6 ?_ ?_ ?_).2.2.2 ?_ ?_),
    runs ((h.1.1 _ 23 ?_ ?_ ?_ ?_).2.2.2.2.2.2.2.1 8 5 6 ?_)⟩ <;>
  decide +kernel

theorem flitOk_of {f : List Byte} (h : f.length = 64 ∧ leNat (f.drop 60) = (crc32c (f.take 60)).toNat ∧ (f[56]!).toNat ≤ 5) : FlitOk f := h

theorem not_flitOk_of {f : List Byte} (h : ¬ (f.length = 64 ∧ leNat (f.drop 60) = (crc32c (f.take 60)).toNat ∧ (f[56]!).toNat ≤ 5)) : ¬ FlitOk f := h

/-- A flit waits for port 23, which ends its training, or is DOWN. -/
def labWaits : State := { labP (po .training 1 [] 0) with
  outq := [{ port := some 23, dest := 0, ty := 3, slice := 1, payload := List.replicate 56 7, store := none }] }

theorem witness_Links_waiting (h : Obligations.Links) : Runs (.trainingEnd 23 8 5 6) labWaits ∧ Runs (.linkDisable 23) labWaits := by
  refine ⟨runs₂ ((h.1.2.1 labWaits 23 _ ?_ rfl ?_ ?_ ?_ ?_).1 8 5 6 ?_ ?_ ?_), runs ((h.1.2.1 labWaits 23 _ ?_ rfl ?_ ?_ ?_ ?_).2 ?_)⟩ <;>
  decide +kernel

/-- A flit at a port that takes none; a bad one; one too many ahead; a repeated one, 2048 behind; the one expected. -/
theorem witness_Links_flits (h : Obligations.Links) :
    Runs (.flitReceive 23 (fl 0 5 0)) (labP (po .down 0 [] 5)) ∧ Runs (.flitReceive 23 (fl 0 5 1)) (labP (po .up 1 [] 5)) ∧
    Runs (.flitReceive 23 (fl 0 2047 0)) (labP (po .draining 1 [] 0)) ∧ Runs (.flitReceive 23 (fl 5 2048 0)) (labP (po .up 1 [] 0)) ∧
    Runs (.flitReceive 23 (fl 0 5 0)) (labP (po .up 1 [] 5)) := by
  refine ⟨runsEq ((h.2.2.1 _ 23 _ ?_ ?_ ?_).1 ?_), runs ((h.2.2.1 _ 23 _ ?_ ?_ ?_).2.1 ?_ (not_flitOk_of ?_)),
    runs ((h.2.2.1 _ 23 _ ?_ ?_ ?_).2.2.1 ?_ (flitOk_of ?_) ?_), runsEq ((h.2.2.1 _ 23 _ ?_ ?_ ?_).2.2.2.1 ?_ (flitOk_of ?_) ?_ ?_),
    runs ((h.2.2.1 _ 23 _ ?_ ?_ ?_).2.2.2.2 ?_ (flitOk_of ?_) ?_ |>.1 (.inl ?_) ?_)⟩ <;>
  decide +kernel

/-- Port 23 and port 22 are UP, every device's route is by port 22, and this device has a number. -/
def labNo (no : BitVec 6) : State := { lab with
  regs := { lab.regs with linkCfg := BitVec.ofNat 64 no.toNat }, ports := (lab.ports.set! 23 (po .up 1 [] 5)).set! 22 (po .up 1 [] 5)
  routes := Vector.replicate 64 (2 ^ 16 + 22) }

theorem labNo_is : ∀ d : Fin 64, devNo (labNo (BitVec.ofFin d)) = d.val ∧ routePort (labNo (BitVec.ofFin d ^^^ 1)) d.val = some 22 ∧
    d.val ≠ devNo (labNo (BitVec.ofFin d ^^^ 1)) := by decide +kernel

theorem noUnacked_of {s : State} (c : s.harts.all (fun p => p.2.unacked.isEmpty) = true) (h : Nat) : (s.hart h).unacked = [] :=
  smGet_all (P := fun x : Hart => x.unacked = []) rfl (fun p hp => by simpa using List.all_eq_true.mp c p hp) h

/-- Device 5 is lost with accesses of the hart under way. -/
def labAway (cs : List Call) : State := { lab with
  calls := cs, harts := smPut lab.harts 0 { lab.me with unacked := [{ dev := 3, va := 0x10, vec := false, id := 1, gone := false }, { dev := 5, va := 0x20, vec := true, id := 2, gone := false }] } }

/-- The device that a flit is addressed to is free: here it is this device, and a neighbour of it. -/
theorem witness_Links_addressed (h : Obligations.Links) :
    Runs (.flitReceive 23 (fl 3 5 0)) (labNo (Config.flitDest (fl 3 5 0))) ∧
    Runs (.flitReceive 23 (fl 4 5 0)) (labNo (Config.flitDest (fl 4 5 0) ^^^ 1)) := by
  have here : (Config.flitDest (fl 3 5 0)).toNat = devNo (labNo (Config.flitDest (fl 3 5 0))) :=
    (labNo_is (Config.flitDest (fl 3 5 0)).toFin).1.symm
  have far := labNo_is (Config.flitDest (fl 4 5 0)).toFin
  have there : ¬ ((fl 4 5 0)[56]! = 0 ∨ (Config.flitDest (fl 4 5 0)).toNat = devNo (labNo (Config.flitDest (fl 4 5 0) ^^^ 1))) :=
    fun k => k.elim (by decide +kernel) far.2.2
  refine ⟨runs₃ ((h.2.2.1 _ 23 _ ?_ rfl rfl).2.2.2.2 ?_ (flitOk_of ?_) ?_ |>.2.2.1 (.inr here) ?_ (noUnacked_of ?_)),
    runs₂ ((h.2.2.1 _ 23 _ ?_ rfl rfl).2.2.2.2 ?_ (flitOk_of ?_) ?_ |>.2.2.2 22 there ?_ far.2.1 ?_ ?_)⟩ <;>
  decide +kernel

/-- A response at this device may acknowledge the remote stores of the hart. -/
theorem witness_Links_acks (h : Obligations.Links) :
    let s : BitVec 6 → State := fun d => { labNo d with harts := (labAway []).harts }
    Runs (.flitReceive 23 (fl 3 5 0)) (s (Config.flitDest (fl 3 5 0))) := by
  have here : (Config.flitDest (fl 3 5 0)).toNat = devNo (labNo (Config.flitDest (fl 3 5 0))) :=
    (labNo_is (Config.flitDest (fl 3 5 0)).toFin).1.symm
  refine runs ((h.2.2.1 { labNo _ with harts := (labAway []).harts } 23 _ ?_ rfl rfl).2.2.2.2 ?_ (flitOk_of ?_) ?_ |>.2.1 (.inr here) ?_) <;>
  decide +kernel

theorem noBars_of {s : State} (c : s.harts.all (fun p => p.2.wait.isNone) = true) : ∀ p ∈ s.harts, ∀ f l g, p.2.wait ≠ some (.bar f l g) := by
  intro p hp
  exact noBar_of (List.all_eq_true.mp c p hp)

/-- The route of device 1 is by port 23. -/
def labRoute (cs : List Call) : State := { labP (po .up 1 [] 5) with routes := lab.routes.set! 1 (2 ^ 16 + 23), calls := cs }

/-- Heartbeats, to the peers of a call too; a route; a device that can be reached, one that is lost, without a call and
with one, in SETUP, LOCAL and RUNNING. -/
theorem witness_Links (h : Obligations.Links) :
    Runs .heartbeat (labP (po .up 1 [] 5)) ∧ Runs .heartbeat (labRoute [call .setup [] []]) ∧ Runs (.routeEntryWrite 63 0xFFFFF) lab ∧
    Runs (.deviceLost 1) (labRoute []) ∧ Runs (.deviceLost 5) (labAway []) ∧ Runs (.deviceLost 1) (labAway [call .setup [] []]) ∧
    Runs (.deviceLost 1) (labAway [call .loc [] []]) ∧ Runs (.deviceLost 1) (labAway [call .running [] []]) := by
  refine ⟨runs (h.2.2.2.1 _ ?_ ?_), (h.2.2.2.2.1 (labRoute [call .setup [] []]) (call .setup [] []) 1 23 ?_ ?_ ?_ ?_ ?_ ?_ ?_).imp
      fun _ ⟨_, _, _, e, _⟩ => e,
    runs (h.2.2.2.2.2.1 _ 63 _ ?_ ?_ ?_), runsEq (h.2.2.2.2.2.2.1 (labRoute []) 1 ?_ (.inl ?_)),
    runs (h.2.2.2.2.2.2.2.1 _ 5 ?_ ?_ ?_ ?_ ?_ ?_ ?_ (noBars_of ?_)),
    runs ((h.2.2.2.2.2.2.2.2 _ 1 0 (call .setup [] []) ?_ ?_ ?_ ?_ ?_ ?_ (noBars_of ?_) ?_ ?_ ?_).1 ?_),
    runs ((h.2.2.2.2.2.2.2.2 _ 1 0 (call .loc [] []) ?_ ?_ ?_ ?_ ?_ ?_ (noBars_of ?_) ?_ ?_ ?_).2 (.inr ?_)),
    runs ((h.2.2.2.2.2.2.2.2 _ 1 0 (call .running [] []) ?_ ?_ ?_ ?_ ?_ ?_ (noBars_of ?_) ?_ ?_ ?_).2 (.inl ?_))⟩ <;>
  decide +kernel

/-- Routes: one that is not valid, by a port that is UP, by the alternate, and by ports that drain. -/
def labRoutes : State :=
  { lab with
    ports := ((lab.ports.set! 23 (po .up 1 [] 5)).set! 22 (po .draining 1 [] 5))
    routes := ((((lab.routes.set! 1 (2 ^ 16 + 23)).set! 2 (2 ^ 16 + 2 ^ 15 + 23 * 2 ^ 8)).set! 3 (2 ^ 16 + 22)).set! 4 (2 ^ 16 + 2 ^ 15 + 22 * 2 ^ 8)).set! 5
      (2 ^ 16 + 24) }

theorem witness_Links_routes (h : Obligations.Links) :
    routeFor labRoutes 5 1 = none ∧ routeFor labRoutes 1 2 = some 23 ∧ routeFor labRoutes 2 2 = some 23 ∧
    routeFor labRoutes 3 2 = none ∧ routeFor labRoutes 3 3 = some 22 ∧ routeFor labRoutes 4 1 = some 22 := by
  have r := h.2.1 labRoutes
  refine ⟨(r 5).1 ?_ 1, ((r 1).2 ?_).1 ?_ 2, ((r 2).2 ?_).2.1 ?_ ?_ ?_ 2, (((r 3).2 ?_).2.2 ?_ ?_).2.1 2 (.head _),
    (((r 3).2 ?_).2.2 ?_ ?_).2.2.1 ?_ 3 (.tail _ (.head _)), (((r 4).2 ?_).2.2 ?_ ?_).2.2.2 ?_ ?_ ?_ 1 (.head _)⟩ <;>
  decide +kernel

/-- A port that goes DOWN discards the flits of remote stores, which are then never acknowledged. -/
theorem witness_Links_discard (h : Obligations.Links) :
    Runs (.linkDisable 23) (labP { po .up 1 [] 5 with unacked := [{ flit := fl 2 4 0, store := some 1 }] }) ∧
    Runs (.deadTime 23) (labP { po .draining 1 [] 5 with unacked := [{ flit := fl 2 4 0, store := some 1 }] }) := by
  refine ⟨runs (h.1.2.2 _ 23 ?_ ?_ _ (.inl ⟨rfl, ?_⟩)), runs (h.1.2.2 _ 23 ?_ ?_ _ (.inr ⟨rfl, ?_⟩))⟩ <;> decide +kernel

/-- The rings of the hot regions and of the rake, a hot region, a poisoned line; context 1 or 2 (which is ABSENT) serves HDM accesses. -/
def labA (ctx : Nat) : State := { lab with
  migs := [], mem := bsWrite [] 0x1000000 [1, 2, 3], lines := [(0x40002, { Line.fresh with poison := true })], hot := [(3, 65536, some 0x30000, 1)]
  regs := { lab.regs with hdmCtx := BitVec.ofNat 64 ctx, hotRing := 0x4000000, slogRing := 0x4100000 } }

/-- The same without rings. -/
def labAr : State := { labA 2 with regs := { (labA 2).regs with hotRing := 0, slogRing := 0 } }

/-- A region that no access with a virtual address has named. -/
def labNoVa : State := { labA 1 with hot := [(3, 65536, none, 1)] }

theorem ringDev_of {slot : Nat} {s : State} (h : (inHbm slot || inLp slot) = true ∧ cntFull s [] Cry.ovune slot = false ∧ Memory.wf s.mem = true) :
    RingAt slot s := .inr h

theorem ringHost_of {slot : Nat} {s : State} (h : inHost slot = true ∧ Memory.wf s.hostMem = true) : RingAt slot s := .inl h

/-- Both rings in the memory of the host. -/
def labHostRing : State := { labA 1 with
  regs := { (labA 1).regs with hotRing := 0x8000000000000, slogRing := 0x8000000100000, hdmCtx := 1 } }

/-- A window that posts nothing, and one that posts a region that meets the threshold, with an address and without, and to a ring
of the host. -/
theorem witness_MemoryAgents_hot (h : Obligations.MemoryAgents) :
    (∃ t, exec .hotWindow labAr = .next t ∧ t.mem = labAr.mem) ∧
    (∃ t m a, exec .hotWindow (labA 1) = .next t ∧ bsNat m a 8 = 0x30000) ∧
    (∃ t m a, exec .hotWindow labNoVa = .next t ∧ bsNat m a 8 % 2 ^ 21 = 0) ∧
    ∃ t m a, exec .hotWindow labHostRing = .next t ∧ bsNat m a 8 = 0x30000 := by
  obtain ⟨t, e, -, a, -⟩ := h.1.1 labAr
  obtain ⟨u, f, -, -, b⟩ := h.1.1 (labA 1)
  obtain ⟨v, g, -, -, c⟩ := h.1.1 labNoVa
  obtain ⟨w, k, -, -, d⟩ := h.1.1 labHostRing
  refine ⟨⟨t, e, (congrArg State.mem (a ?_) :)⟩,
    ⟨u, _, _, f, (b 3 65536 (some 0x30000) 1 ?_ ?_ ?_ ?_ (someAll ?_) ?_ (ringDev_of ?_)).1 _ rfl⟩,
    ⟨v, _, _, g, (c 3 65536 none 1 ?_ ?_ ?_ ?_ nofun ?_ (ringDev_of ?_)).2.1 rfl⟩,
    ⟨w, _, _, k, (d 3 65536 (some 0x30000) 1 ?_ ?_ ?_ ?_ (someAll ?_) ?_ (ringHost_of ?_)).1 _ rfl⟩⟩ <;>
  decide +kernel

/-- The rake: a clean line, a corrected one and a poisoned one without a ring, a new fault without a ring, and both with one. -/
theorem witness_MemoryAgents_rake (h : Obligations.MemoryAgents) :
    Runs (.rakeScrub 0x1000000 .clean) labAr ∧ Runs (.rakeScrub 0x1000000 .corrected) labAr ∧ Runs (.rakeScrub 0x1000080 .uncorrectable) labAr ∧
    Runs (.rakeScrub 0x1000000 .uncorrectable) labAr ∧ Runs (.rakeScrub 0x1000000 .corrected) (labA 1) ∧
    Runs (.rakeScrub 0x1000000 .uncorrectable) (labA 1) ∧ Runs (.rakeScrub 0x1000000 .uncorrectable) labHostRing ∧ Runs (.bankRefresh 0) lab := by
  refine ⟨runsEq (h.1.2.1 _ _ ?_).1, runsEq ((h.1.2.1 _ _ ?_).2.1 ?_), runsEq ((h.1.2.1 _ _ ?_).2.2.1 ?_), runs ((h.1.2.1 _ _ ?_).2.2.2.1 ?_ ?_),
    runs ((h.1.2.1 _ _ ?_).2.2.2.2 ?_ (ringDev_of ?_) (_, 1) (.head _) ?_), runs ((h.1.2.1 _ _ ?_).2.2.2.2 ?_ (ringDev_of ?_) (_, 2) (.tail _ (.head _)) ?_),
    runs ((h.1.2.1 _ _ ?_).2.2.2.2 ?_ (ringHost_of ?_) (_, 2) (.tail _ (.head _)) ?_),
    runsEq (h.1.2.2.1 _ _)⟩ <;>
  decide +kernel

/-- Reads and writes of the host through an absent context, and through one that is there. -/
theorem witness_MemoryAgents_host (h : Obligations.MemoryAgents) :
    Runs (.hostMemoryAccess 0x1000000 (.read 8)) (labA 2) ∧ Runs (.hostMemoryAccess 0x1000000 (.read 8)) (labA 1) ∧
    Runs (.hostMemoryAccess 0x1000000 (.write [9])) (labA 2) ∧ Runs (.hostMemoryAccess 0x1000000 (.write [9])) (labA 1) ∧
    Runs (.hostMemoryAccess 0x2040000 (.write [9])) { labA 1 with migs := [mg4] } := by
  refine ⟨runs (((h.1.2.2.2 _ _ _).1 8 rfl ?_).1 ?_), runs (((h.1.2.2.2 _ _ _).1 8 rfl ?_).2 ?_ ?_),
    runsEq (((h.1.2.2.2 _ _ _).2 [9] rfl ?_).1 ?_), runs₂ (((h.1.2.2.2 _ _ _).2 [9] rfl ?_).2.2 ?_ ?_ ?_ ?_ ?_ (someAll ?_)),
    runs (((h.1.2.2.2 _ _ _).2 [9] rfl ?_).2.1 ?_ ?_)⟩ <;>
  decide +kernel

/-- A context that serves none; a load; a load from a poisoned line; a store that the mode forbids; a store; an atomic. -/
theorem witness_MemoryAgents_remote (h : Obligations.MemoryAgents) :
    Runs (.remoteAccess 5 2 0x1000000 0 3 (.load 8)) (labA 1) ∧ Runs (.remoteAccess 5 1 0x1000000 0 3 (.load 8)) (labA 1) ∧
    Runs (.remoteAccess 5 1 0x1000080 0 3 (.load 8)) (labA 1) ∧
    Runs (.remoteAccess 5 1 0x1000000 0 1 (.store [9])) (labA 1) ∧ Runs (.remoteAccess 5 1 0x1000000 0 2 (.store [9])) (labA 1) ∧
    Runs (.remoteAccess 5 1 0x1000000 0 3 (.amo 9 8 1 2)) (labA 1) := by
  refine ⟨runs ((h.2 _ 5 2 0x1000000 0 3 (.load 8)).1 (.inl ?_)), runs₂ (((h.2 _ 5 1 0x1000000 0 3 (.load 8)).2.2 ?_ ?_ ?_ ?_).2.1 rfl ?_),
    runs (((h.2 _ 5 1 0x1000080 0 3 (.load 8)).2.2 ?_ ?_ ?_ ?_).2.2.1 rfl ?_),
    runs (((h.2 _ 5 1 0x1000000 0 1 (.store [9])).2.2 ?_ ?_ ?_ ?_).2.2.2.1 ?_ nofun),
    runs₃ ((((h.2 _ 5 1 0x1000000 0 2 (.store [9])).2.2 ?_ ?_ ?_ ?_).2.2.2.2 ?_ ?_ ?_ ?_ (someAll ?_)).1 [9] rfl),
    runs₃ ((((h.2 _ 5 1 0x1000000 0 3 (.amo 9 8 1 2)).2.2 ?_ ?_ ?_ ?_).2.2.2.2 ?_ ?_ ?_ ?_ (someAll ?_)).2 9 8 1 2 rfl ?_ ?_ ?_)⟩ <;>
  decide +kernel

/-- A barrier record at 0x1000000. -/
def labAb (r : Nat) : State := { labA 1 with mem := bsWrite [] 0x1000000 (leBytes 24 r) }

/-- The updates of a record that a peer makes, refused where the record is misplaced or its line fails, and with no effect. -/
theorem witness_MemoryAgents_barrier (h : Obligations.MemoryAgents) :
    Runs (.remoteAccess 5 1 0x1000008 0 3 (.barrier .arrive)) (labAb (3 * 2 ^ 32)) ∧
    Runs (.remoteAccess 5 1 0x1000080 0 3 (.barrier .arrive)) (labAb (3 * 2 ^ 32)) ∧
    Runs (.remoteAccess 5 1 0x1000000 0 3 (.barrier .arrive)) (labAb (3 * 2 ^ 32)) ∧
    Runs (.remoteAccess 5 1 0x1000000 0 3 (.barrier .arrive)) (labAb (3 * 2 ^ 96)) ∧
    Runs (.remoteAccess 5 1 0x1000000 0 3 (.barrier (.withdraw 0))) (labAb (1 + 2 ^ 96)) ∧
    Runs (.remoteAccess 5 1 0x1000000 0 3 (.barrier (.withdraw 1))) (labAb (1 + 2 ^ 96)) ∧
    Runs (.remoteAccess 5 1 0x1000000 0 3 (.barrier (.fault 9 2 5))) (labAb 0) ∧
    Runs (.remoteAccess 5 1 0x1000000 0 3 (.barrier (.fault 9 2 5))) (labAb (3 * 2 ^ 96)) ∧
    Runs (.remoteAccess 5 1 0x1000000 0 3 (.barrier (.set 7))) (labAb 0) ∧
    Runs (.remoteAccess 5 1 0x1000000 0 3 (.barrier (.set 7))) (labAb (1 + 2 ^ 96)) := by
  have ok := fun (r : Nat) (u : BarUpdate) (a b c d e f g i) =>
    ((h.2 (labAb r) 5 1 0x1000000 0 3 (.barrier u)).2.2 a b c d).1 u rfl e f g |>.2 i
  refine ⟨runs ((h.2 _ 5 1 0x1000008 0 3 (.barrier .arrive)).2.1 _ rfl ?_),
    runs (((h.2 (labAb (3 * 2 ^ 32)) 5 1 0x1000080 0 3 (.barrier .arrive)).2.2 ?_ ?_ ?_ ?_).1 _ rfl ?_ ?_ ?_ |>.1 ?_),
    runs₃ ((ok (3 * 2 ^ 32) .arrive ?_ ?_ ?_ ?_ ?_ ?_ ?_ ?_).1 rfl |>.1 ?_ ?_ ?_ (someAll ?_) ?_),
    runs₂ ((ok (3 * 2 ^ 96) .arrive ?_ ?_ ?_ ?_ ?_ ?_ ?_ ?_).1 rfl |>.2 ?_),
    runs₃ ((ok (1 + 2 ^ 96) (.withdraw 0) ?_ ?_ ?_ ?_ ?_ ?_ ?_ ?_).2.1 0 rfl |>.1 ?_ ?_ ?_ (someAll ?_) ?_),
    runs₂ ((ok (1 + 2 ^ 96) (.withdraw 1) ?_ ?_ ?_ ?_ ?_ ?_ ?_ ?_).2.1 1 rfl |>.2 ?_),
    runs₃ ((ok 0 (.fault 9 2 5) ?_ ?_ ?_ ?_ ?_ ?_ ?_ ?_).2.2.1 9 2 5 rfl |>.1 ?_ ?_ ?_ (someAll ?_) ?_),
    runs₂ ((ok (3 * 2 ^ 96) (.fault 9 2 5) ?_ ?_ ?_ ?_ ?_ ?_ ?_ ?_).2.2.1 9 2 5 rfl |>.2 ?_),
    runs₃ ((ok 0 (.set 7) ?_ ?_ ?_ ?_ ?_ ?_ ?_ ?_).2.2.2 7 rfl |>.1 ?_ ?_ ?_ (someAll ?_) ?_),
    runs₂ ((ok (1 + 2 ^ 96) (.set 7) ?_ ?_ ?_ ?_ ?_ ?_ ?_ ?_).2.2.2 7 rfl |>.2 ?_)⟩ <;>
  decide +kernel

/-- At boot, capped, with an attestation report under way at an address. -/
def labPl : State := { lab with
  mem := bsWrite [] 0x5000050 [1, 2, 3], islands := [(3, ⟨700, 0, some 3, 50⟩), (97, ⟨800, 0, none, 0⟩)]
  regs := { lab.regs with boot := 0, ctxGo := false, attGo := true, attAddr := 0x5000000, capped := true } }

/-- The report is wanted in host memory. -/
def labPlHost : State := { labPl with regs := { labPl.regs with attAddr := 0x8000000000000 } }

/-- A FATAL error stands. -/
def labFatal : State := { labPl with fatal := true, regs := { labPl.regs with attGo := false } }

theorem witness_Platform (h : Obligations.Platform) :
    Runs (.islandDvfs 127 600) labPl ∧ Runs (.islandDvfs 0 1200) labPl ∧ Runs (.islandDvfs 0 1201) labPl ∧ Runs (.droopStretch 127) labPl ∧
    Runs (.powerCapTick 65535) labPl ∧ Runs .attcmd labFatal ∧ Runs .attcmd labPl ∧ Runs .attestationReport labFatal ∧
    Runs .attestationReport labPl ∧ Runs .attestationReport labPlHost ∧ Runs .devrst labPl ∧
    Runs (.fatalError 63 255 65535 0) labFatal ∧ Runs (.fatalError 0 0 0 0xFFFFFFFF) labPl := by
  refine ⟨((h.1 _ 127 600 ?_).1 ?_ ?_).elim fun _ => runs, ((h.1 _ 0 1200 ?_).1 ?_ ?_).elim fun _ => runs,
    runsEq ((h.1 _ 0 1201 ?_).2.1 (.inr ?_)), runs (h.1 _ 127 600 ?_).2.2, runs (h.2.1 _ 65535 ?_ fun j => smGet_all (P := fun x : Island => 600 ≤ x.mhz ∧ x.mhz ≤ 1200) ?_ ?_ j),
    runsEq ((h.2.2.2.1 _).1 ?_), runsEq ((h.2.2.2.1 _).2.1 ?_), runsEq ((h.2.2.2.1 _).2.2.1 ?_),
    runs ((h.2.2.2.1 _).2.2.2 ?_ ?_ .dev (.inl ⟨rfl, ?_, ?_, ?_, ?_⟩)), runs ((h.2.2.2.1 _).2.2.2 ?_ ?_ .host (.inr ⟨rfl, ?_, ?_, ?_⟩)),
    runs (h.2.2.2.2.1 _), runsEq ((h.2.2.2.2.2 _ 63 255 65535 0 ?_ ?_ ?_ ?_).1 ?_), runs ((h.2.2.2.2.2 _ 0 0 0 0xFFFFFFFF ?_ ?_ ?_ ?_).2 ?_ ?_)⟩ <;>
  decide +kernel

/-- Whether a signature verifies is free: an image boots by the one clause where its own does, and by the other where it
does not, or is no signature. -/
theorem witness_Platform_boot (h : Obligations.Platform) :
    Runs (.firmwareBoot [([1], List.replicate 29792 2)]) labPl ∧ Runs (.firmwareBoot [([1], [2])]) labPl := by
  have boot : labPl.regs.boot = 0 := by decide +kernel
  refine ⟨?_, runs ((h.2.2.1 labPl boot).2 [] ([1], [2]) [] nofun fun k => absurd k.1 (by decide))⟩
  cases v : Config.verifies [1] (List.replicate 29792 2) with
  | true => exact runs ((h.2.2.1 labPl boot).1 [([1], _)] nofun fun p hp => by
      cases List.mem_singleton.mp hp; exact ⟨List.length_replicate, v⟩)
  | false => exact runs ((h.2.2.1 labPl boot).2 [] ([1], _) [] nofun fun k => absurd (v.symm.trans k.2) nofun)

theorem witness_RegisterWrites (h : Obligations.RegisterWrites) :
    Runs (.registerWrite 0 0x1020 0) lab ∧ Runs (.registerWrite 0 0x1060 0x22380001) lab ∧
    exec (.registerWrite 0 0x0008 1) labPl = exec .devrst labPl ∧ exec (.registerWrite 0 0x10A8 3) labPl = exec .attcmd labPl ∧
    exec (.registerWrite 0 0x1008 0x9000000000000003) labPl = exec (.create 3) labPl ∧
    exec (.registerWrite 0 0x1008 0xA0000000000007FF) labPl = exec (.switchOut 2047) labPl ∧
    exec (.registerWrite 0 0x1008 0xB000000000000003) labPl = exec (.switchIn 3) labPl ∧
    exec (.registerWrite 0 0x1008 0xC000000000000003) labPl = exec (.teardown 3) labPl ∧
    exec (.registerWrite 0 0x1008 0xD000000000000003) labPl = exec (.resume 3) labPl ∧
    exec (.registerWrite 0 0x1008 0xF000000000000003) labPl = exec (.badOp 7 3) labPl ∧
    exec (.registerWrite 0 0x1018 0x9000000000000003) labPl = exec (.attach 3) labPl ∧
    exec (.registerWrite 0 0x1018 0xA00000000000FFFF) labPl = exec (.detach 65535) labPl ∧
    exec (.registerWrite 0 0x1018 0xB000000000000003) labPl = exec (.reset 3) labPl ∧
    exec (.registerWrite 0 0x1018 0x8000000000000003) labPl = exec (.qcmdBadOp 0 3) labPl := by
  refine ⟨runsEq ((h.1 _ 0).1 (0x1020, _) (.head _)), runsEq ((h.1 lab 0x22380001).2.1 ?_), ((h.1 labPl 1).2.2.1 ?_).1, ((h.1 labPl 3).2.2.1 ?_).2,
    ((h.1 labPl 0x9000000000000003).2.2.2.1 ?_ ?_).1 ?_, ((h.1 labPl 0xA0000000000007FF).2.2.2.1 ?_ ?_).2.1 ?_,
    ((h.1 labPl 0xB000000000000003).2.2.2.1 ?_ ?_).2.2.1 ?_, ((h.1 labPl 0xC000000000000003).2.2.2.1 ?_ ?_).2.2.2.1 ?_,
    ((h.1 labPl 0xD000000000000003).2.2.2.1 ?_ ?_).2.2.2.2.1 ?_, ((h.1 labPl 0xF000000000000003).2.2.2.1 ?_ ?_).2.2.2.2.2 ?_,
    ((h.1 labPl 0x9000000000000003).2.2.2.2.1 ?_).1 ?_, ((h.1 labPl 0xA00000000000FFFF).2.2.2.2.1 ?_).2.1 ?_,
    ((h.1 labPl 0xB000000000000003).2.2.2.2.1 ?_).2.2.1 ?_, ((h.1 labPl 0x8000000000000003).2.2.2.2.1 ?_).2.2.2 ?_⟩ <;>
  decide +kernel

theorem drainRuns {i j : Instr} {p : Nat} {s : State} (h : ∃ u, exec j s = .next u ∧ exec i s = exec (.drain p) u) : Runs i s :=
  let ⟨_, _, e⟩ := h
  ⟨_, e⟩

/-- Routes, ports, debug registers and doorbells, at the ends of their ranges; an offset that is no register. -/
theorem witness_RegisterWrites_blocks (h : Obligations.RegisterWrites) :
    exec (.registerWrite 0 (0x1200 + 8 * 63) 1) lab = exec (.routeEntryWrite 63 1) lab ∧
    exec (.registerWrite 0 (0x1100 + 8 * 23) 1) lab = exec (.linkEnable 23) lab ∧ exec (.registerWrite 0 (0x1100 + 8 * 23) 0) lab = exec (.linkDisable 23) lab ∧
    Runs (.registerWrite 0 (0x1100 + 8 * 23) 3) lab ∧ Runs (.registerWrite 0 (0x1100 + 8 * 23) 2) lab ∧
    exec (.registerWrite 0 (0x20000 + 32 * 6143 + 31) 1) lab = exec (.debugRegisterWrite 6143 31 1) lab ∧
    exec (.registerWrite 2 (16 * 65535) 1) lab = exec (.tail 65535 1) lab ∧ exec (.registerWrite 0 0x11C0 1) lab = .next lab ∧
    exec (.registerWrite 0 0x5FFFF 1) lab = .next lab := by
  refine ⟨(h.1 lab 1).2.2.2.2.2.1 63 ?_, (h.1 lab 1).2.2.2.2.2.2.1 23 ?_ ?_ ?_, (h.1 lab 0).2.2.2.2.2.2.2.1 23 ?_ ?_ ?_,
    drainRuns ((h.1 lab 3).2.2.2.2.2.2.2.2.1 23 ?_ ?_), drainRuns ((h.1 lab 2).2.2.2.2.2.2.2.2.1 23 ?_ ?_),
    (h.1 lab 1).2.2.2.2.2.2.2.2.2.1 6143 31 ?_ ?_, (h.1 lab 1).2.2.2.2.2.2.2.2.2.2 65535 ?_, (h.2.2 _ _ _ ?_ ?_ ?_ ?_ ?_).1, (h.2.2 _ _ _ ?_ ?_ ?_ ?_ ?_).1⟩ <;>
  decide +kernel

/-- TAIL and PROGRESS of a queue in use and of one switched out; writes of PROGRESS, and of TAIL of a kind-1 queue, have no effect. -/
theorem witness_RegisterWrites_queues (h : Obligations.RegisterWrites) :
    barRead 2 (16 * 65535) (labQu [(65535, que 0 4 3 2 1)]) = 3 ∧ barRead 2 24 (labQu [(1, que 0 4 3 2 4)]) = 0x8000000000000001 ∧
    exec (.registerWrite 2 24 9) (labQu [(1, que 1 4 3 2 1)]) = .next (labQu [(1, que 1 4 3 2 1)]) ∧
    exec (.registerWrite 2 16 9) (labQu [(1, que 1 4 3 2 1)]) = .next (labQu [(1, que 1 4 3 2 1)]) := by
  have r := fun s n x v a b => h.2.1 s n x v a b
  refine ⟨(r (labQu [(65535, que 0 4 3 2 1)]) 65535 (que 0 4 3 2 1) 0 ?_ ?_).1, (r (labQu [(1, que 0 4 3 2 4)]) 1 (que 0 4 3 2 4) 0 ?_ ?_).2.1,
    (r _ 1 (que 1 4 3 2 1) 9 ?_ ?_).2.2.1, (r _ 1 (que 1 4 3 2 1) 9 ?_ ?_).2.2.2 ?_⟩ <;>
  decide +kernel

/-- Programs, encodings and steps: the canonical form holds at reset; a well-formed instruction has a word. -/
theorem witness_CanonicalKept (h : Obligations.CanonicalKept) (c : Obligations.CanonicalAtReset) (t : State)
    (e : step State.reset = .next t) : t.canonical := h _ t c e

/-- What one step from reset answers. -/
theorem witness_CanonicalKept_step : ∃ t, step State.reset = .next t := ⟨_, rfl⟩

theorem witness_DecodeEncodeAgree (h : Obligations.DecodeEncodeAgree) :
    decodeWord 0x10145FFFFFFFFFF8 = .ok (.addi { sd := 5, sa := 5, imm := -8 }) ∧ encode (.addi { sd := 5, sa := 5, imm := -8 }) = some 0x10145FFFFFFFFFF8 :=
  ⟨h.1 _ _ (by decide) (by decide), (h.2 _ _ (by decide)).2⟩

/-- A machine that runs one word next. -/
def boot (w : Nat) : State := State.reset.withFetchWord 64 w

/-- A step runs the instruction that its word decodes to, the one at which the hart waits, or takes ILLEGAL. -/
theorem witness_StepRunsDecoded (h : Obligations.StepRunsDecoded) :
    Runs (.cwait (fy 12 23 26 0 2)) { labCwait 26 with clock := (labCwait 26).clock + 1 } ∧
    step (labCwait 26) = exec (.cwait (fy 12 23 26 0 2)) { labCwait 26 with clock := (labCwait 26).clock + 1 } ∧
    (∃ u, step (boot 0x10145FFFFFFFFFF8) = exec (.addi { sd := 5, sa := 5, imm := -8 }) u) ∧ ∃ t, step (boot 0) = .next t := by
  refine ⟨⟨_, rfl⟩, (h.1 _ lab lab ⟨0, 0, .dev 0, Cry.ovune, false, false, false⟩ ?_ ?_ ?_).1 (.cwait (fy 12 23 26 0 2)) ?_, ⟨_, (((h.1 (boot 0x10145FFFFFFFFFF8) _ _ _ ?_ ?_ ?_).2 ?_ ?_ (okEq _ ?_) ?_ (noneEq _ ?_)).1 _ (okIs ?_)).2⟩,
    (((h.1 (boot 0) _ _ _ ?_ ?_ ?_).2 ?_ ?_ (okEq _ ?_) ?_ (noneEq _ ?_)).2 _ (errEq _ ?_) ?_).imp fun _ h => h.1⟩ <;>
  decide +kernel

/-- After a rejected boot image. -/
def labHeldUp : State := { lab with regs := { lab.regs with boot := 2 } }

/-- Turns of the agenda: an event, a reset, a register write and a turned-away event after a FATAL error or a rejected image; a hart's turn,
before and after a FATAL error; a hart that cannot run; the stop. -/
theorem witness_StepRunsDecoded_turns (h : Obligations.StepRunsDecoded) :
    step { lab with agenda := [.event .heartbeat] } = exec .heartbeat { lab with clock := lab.clock + 1 } ∧
    step { lab with fatal := true, agenda := [.event .devrst] } = exec .devrst { lab with fatal := true, clock := lab.clock + 1 } ∧
    step { lab with fatal := true, agenda := [.event (.registerWrite 0 0x10A0 64)] } =
      exec (.registerWrite 0 0x10A0 64) { lab with fatal := true, clock := lab.clock + 1 } ∧
    step { labHeldUp with agenda := [.event .heartbeat] } = .next { labHeldUp with clock := lab.clock + 1 } ∧
    step { lab with agenda := [.back 1] } = stepHart { lab with cur := 1, clock := lab.clock + 1 } ∧
    step { lab with fatal := true, agenda := [.hart 1] } = .next { lab with fatal := true, clock := lab.clock + 1 } ∧
    stepHart labHeldUp = .next labHeldUp ∧ ∃ e, step { lab with fatal := true } = .fault e := by
  refine ⟨(h.2.1 _ .heartbeat [] rfl).1 (.inl ⟨?_, ?_⟩), (h.2.1 _ .devrst [] rfl).1 (.inr (.inl (.inl rfl))),
    (h.2.1 _ (.registerWrite 0 0x10A0 64) [] rfl).1 (.inr (.inr ⟨?_, _, _, rfl, ?_⟩)),
    (h.2.1 _ .heartbeat [] rfl).2 (.inr ?_) (fun k => k.elim nofun fun k => k.elim (fun ⟨_, k, _⟩ => nomatch k) fun ⟨_, _, k⟩ => nomatch k) (fun ⟨_, _, _, k, _⟩ => nomatch k),
    (h.2.2.1 _ 1 [] (.back 1) (.inr rfl) rfl).1 ?_, (h.2.2.1 _ 1 [] (.hart 1) (.inl rfl) rfl).2 rfl, h.2.2.2.1 _ ?_,
    (h.2.2.2.2.1 _).mpr ⟨rfl, ?_⟩⟩ <;> decide +kernel

/-! ## Ill-formed terms -/

/-- Instructions of one form accept a base, and each refuses the base with any one of the fields given. -/
def refuses {α : Type} (cs : List (α → Instr)) (base : α) (bad : List (α → α)) : Bool :=
  cs.all fun c => wf (c base) && bad.all fun b => !wf (c (b base))

def zS : FmtS := ⟨0, 0, 0, 0⟩
def zI : FmtI := ⟨0, 0, 0⟩
def zB : FmtB := ⟨0, 0, 0, 0⟩
def zJ : FmtJ := ⟨0, 0⟩
def zM : FmtM := ⟨0, 0, 0, 0, 0, 0⟩
def zV : FmtV := ⟨0, 0, 0, 0, 0, 0, 0, 0, 0, 0, 0⟩
def zVM : FmtVM := ⟨0, 0, 0, 0, 0, 0, 0, 0, 0, 0, 0⟩
def zA : FmtA := ⟨0, 0, 0, 0, 0, 0, 0, 0, 0⟩
def zX : FmtX := ⟨0, 0, 0, 0, 0, 0, 0, 0, 0, 0⟩
def zC : FmtC := ⟨0, 0, 0, 0, 0, 0⟩
def zY : FmtY := ⟨0, 0, 0, 0, 0, 0⟩

theorem test_wf_refuses_scalar_a :
    refuses [Instr.add, .sub, .andS, .orS, .xorS, .andn, .minS, .maxS, .minu, .maxu, .mul, .mulh, .mulhu, .div, .divu, .rem,
      .remu, .shl, .shr, .sra, .rol, .sext, .zext, .slt, .sltu, .seq, .sne] zS [({ · with sc := 1 })] = true ∧
    refuses [Instr.lea] zS [({ · with sc := 8 })] = true ∧
    refuses [Instr.clz, .ctz, .popc] zS [({ · with sb := 1 }), ({ · with sc := 1 })] = true ∧
    refuses [Instr.shli, .shri, .srai] zI [({ · with imm := 64 })] = true ∧
    refuses [Instr.li] zI [({ · with sa := 1 })] = true ∧
    refuses [Instr.lih] zI [({ · with imm := 1048576 })] = true ∧
    refuses [Instr.br] zB [({ · with cnd := 6 })] = true ∧
    refuses [Instr.jmp] zJ [({ · with sd := 1 })] = true ∧
    refuses [Instr.loop] { zB with sa := 2 } [({ · with cnd := 1 }), ({ · with sb := 1 }), ({ · with sa := 0 })] = true ∧
    refuses [Instr.ld] zM [({ · with sz := 7 }), ({ · with ord := 2 }), ({ · with scope := 6 })] = true ∧
    refuses [Instr.st] zM [({ · with sz := 4 }), ({ · with ord := 1 }), ({ · with scope := 6 })] = true ∧
    refuses [Instr.amo] { zM with sz := 2 } [({ · with sz := 1 }), ({ · with sz := 4 }), ({ · with ord := 4 }), ({ · with scope
      := 6 }), ({ · with imm := 21474836480 }), ({ · with imm := 524288 })] = true := by
  decide +kernel

theorem test_wf_refuses_scalar_b :
    refuses [Instr.fence] zM [({ · with sz := 1 }), ({ · with sd := 1 }), ({ · with sa := 1 }), ({ · with ord := 1 }), ({ · with
      scope := 6 }), ({ · with imm := 4 })] = true := by
  decide +kernel

theorem test_wf_refuses_vector_a :
    refuses [Instr.vadd, .vsub, .vmul, .vmulh, .vdiv, .vrem, .vmin, .vmax, .vabsd, .vavg, .vrcps, .vrsqs, .vand, .vor, .vxor,
      .vshl, .vshr, .vrol] zV [({ · with rm := 6 }), ({ · with mod := 15 }), ({ · with mod := 16 }), ({ · with vc := 1 })] = true ∧
    refuses [Instr.vabs, .vneg, .vsqrt, .vexp2, .vlog2, .vnot, .vpopc, .vclz] zV [({ · with rm := 6 }), ({ · with mod := 1 }), ({
      · with vb := 1 }), ({ · with vc := 1 })] = true ∧
    refuses [Instr.vfma, .vfms, .vfnma, .vclamp, .vsel] zV [({ · with rm := 6 }), ({ · with mod := 15 }), ({ · with mod := 16 })]
      = true ∧
    refuses [Instr.vrcpe, .vrsqe] zV [({ · with rm := 1 }), ({ · with mod := 1 }), ({ · with vb := 1 }), ({ · with vc := 1 })] =
      true ∧
    refuses [Instr.vcmp] zV [({ · with rm := 1 }), ({ · with sat := 1 }), ({ · with mod := 15 }), ({ · with mod := 16 }), ({ ·
      with vc := 8 })] = true ∧
    refuses [Instr.vclass, .vcompress, .vexpand, .vsplat] zV [({ · with rm := 1 }), ({ · with sat := 1 }), ({ · with mod := 1 }),
      ({ · with vb := 1 }), ({ · with vc := 1 })] = true ∧
    refuses [Instr.vcvt] zV [({ · with ovr := 1 }), ({ · with rm := 7 }), ({ · with mod := 1 }), ({ · with vb := 1 }), ({ · with
      vc := 1 })] = true ∧
    refuses [Instr.vqnt] zV [({ · with ovr := 1 }), ({ · with rm := 7 }), ({ · with mod := 1 }), ({ · with vc := 1 })] = true ∧
    refuses [Instr.vpxunp, .vpxpak] zV [({ · with ovr := 1 }), ({ · with rm := 1 }), ({ · with sat := 1 }), ({ · with mod := 1
      }), ({ · with vb := 1 }), ({ · with vc := 3 })] = true ∧
    refuses [Instr.vred] zV [({ · with rm := 6 }), ({ · with mod := 1 }), ({ · with vb := 1 }), ({ · with vc := 7 })] = true ∧
    refuses [Instr.vscan] zV [({ · with rm := 6 }), ({ · with mod := 1 }), ({ · with vb := 1 }), ({ · with vc := 16 }), ({ · with
      vc := 7 })] = true ∧
    refuses [Instr.vperm, .vslideup, .vslidedn, .vkey] zV [({ · with rm := 1 }), ({ · with sat := 1 }), ({ · with mod := 1 }), ({
      · with vc := 1 })] = true := by
  decide +kernel

theorem test_wf_refuses_vector_b :
    refuses [Instr.viota] zV [({ · with rm := 1 }), ({ · with mod := 1 }), ({ · with z := 1 }), ({ · with va := 1 }), ({ · with
      vb := 1 }), ({ · with vc := 1 })] = true ∧
    refuses [Instr.vid] zV [({ · with rm := 1 }), ({ · with mod := 1 }), ({ · with va := 1 }), ({ · with vb := 1 }), ({ · with vc
      := 1 })] = true ∧
    refuses [Instr.vmv] zV [({ · with rm := 1 }), ({ · with sat := 1 }), ({ · with mod := 15 }), ({ · with mod := 16 }), ({ ·
      with va := 1 }), ({ · with vc := 1 })] = true ∧
    refuses [Instr.vextr, .vins] zV [({ · with rm := 1 }), ({ · with sat := 1 }), ({ · with mod := 1 }), ({ · with msk := 1 }),
      ({ · with z := 1 }), ({ · with vc := 1 })] = true ∧
    refuses [Instr.vsortk] zV [({ · with rm := 1 }), ({ · with sat := 1 }), ({ · with z := 1 }), ({ · with mod := 1 }), ({ · with
      vb := 1 }), ({ · with vc := 1 })] = true ∧
    refuses [Instr.vmergek] zV [({ · with rm := 1 }), ({ · with sat := 1 }), ({ · with z := 1 }), ({ · with mod := 1 }), ({ ·
      with vc := 14 })] = true ∧
    refuses [Instr.vtopk] { zV with vc := 2 } [({ · with rm := 1 }), ({ · with sat := 1 }), ({ · with z := 1 }), ({ · with mod :=
      1 }), ({ · with vc := 0 })] = true ∧
    refuses [Instr.vunkey] zV [({ · with rm := 6 }), ({ · with mod := 1 }), ({ · with vb := 1 }), ({ · with vc := 3 })] = true ∧
    refuses [Instr.mand, .mor, .mxor, .mandn] zV [({ · with msk := 1 }), ({ · with ch := 1 }), ({ · with ovr := 1 }), ({ · with
      mod := 1 }), ({ · with rm := 1 }), ({ · with sat := 1 }), ({ · with z := 1 }), ({ · with vc := 1 }), ({ · with vd := 16 }),
      ({ · with va := 16 }), ({ · with vb := 16 })] = true ∧
    refuses [Instr.mnot] zV [({ · with msk := 1 }), ({ · with ch := 1 }), ({ · with ovr := 1 }), ({ · with mod := 1 }), ({ · with
      rm := 1 }), ({ · with sat := 1 }), ({ · with z := 1 }), ({ · with vc := 1 }), ({ · with vb := 1 }), ({ · with vd := 16 }), ({
      · with va := 16 })] = true ∧
    refuses [Instr.mpopc, .mfirst, .mget] zV [({ · with msk := 1 }), ({ · with ch := 1 }), ({ · with ovr := 1 }), ({ · with mod
      := 1 }), ({ · with rm := 1 }), ({ · with sat := 1 }), ({ · with z := 1 }), ({ · with vc := 1 }), ({ · with vb := 1 }), ({ ·
      with va := 16 })] = true ∧
    refuses [Instr.mset] zV [({ · with msk := 1 }), ({ · with ch := 1 }), ({ · with ovr := 1 }), ({ · with mod := 1 }), ({ · with
      rm := 1 }), ({ · with sat := 1 }), ({ · with z := 1 }), ({ · with vc := 1 }), ({ · with vb := 1 }), ({ · with vd := 16 })] =
      true := by
  decide +kernel

theorem test_wf_refuses_vector_c :
    refuses [Instr.mwait] zV [({ · with msk := 1 }), ({ · with ch := 1 }), ({ · with ovr := 1 }), ({ · with mod := 1 }), ({ ·
      with rm := 1 }), ({ · with sat := 1 }), ({ · with z := 1 }), ({ · with vc := 1 }), ({ · with vd := 16 })] = true ∧
    refuses [Instr.setvl] zV [({ · with msk := 1 }), ({ · with ch := 1 }), ({ · with mod := 1 }), ({ · with rm := 1 }), ({ · with
      sat := 1 }), ({ · with z := 1 }), ({ · with vc := 1 })] = true ∧
    refuses [Instr.settag] { zV with vd := 1 } [({ · with msk := 1 }), ({ · with ch := 1 }), ({ · with ovr := 1 }), ({ · with mod
      := 1 }), ({ · with rm := 1 }), ({ · with sat := 1 }), ({ · with z := 1 }), ({ · with va := 1 }), ({ · with vb := 16 }), ({ ·
      with vc := 63 })] = true := by
  decide +kernel

theorem test_wf_refuses_memory :
    refuses [Instr.vld] zVM [({ · with sb := 1 }), ({ · with sp := 6 })] = true ∧
    refuses [Instr.vlds, .vldx] zVM [({ · with sp := 3 })] = true ∧
    refuses [Instr.vldt, .vstt] zVM [({ · with sb := 1 }), ({ · with ff := 1 }), ({ · with vd := 1 }), ({ · with sp := 3 })] =
      true ∧
    refuses [Instr.vldl, .vstl] zVM [({ · with ff := 1 }), ({ · with sp := 1 })] = true ∧
    refuses [Instr.vldc] zVM [({ · with sp := 2 }), ({ · with msk := 1 }), ({ · with e := 1 }), ({ · with ff := 1 }), ({ · with
      ch := 1 })] = true ∧
    refuses [Instr.vst] zVM [({ · with sb := 1 }), ({ · with ff := 1 }), ({ · with sp := 6 })] = true ∧
    refuses [Instr.vsts, .vstx] zVM [({ · with ff := 1 }), ({ · with sp := 3 })] = true ∧
    refuses [Instr.vamo] zVM [({ · with ff := 1 }), ({ · with sp := 3 }), ({ · with imm := 81920 }), ({ · with imm := 16384 })] =
      true ∧
    refuses [Instr.vpf] zVM [({ · with vd := 1 }), ({ · with msk := 1 }), ({ · with e := 1 }), ({ · with o := 1 }), ({ · with ff
      := 1 }), ({ · with ch := 1 }), ({ · with sp := 1 }), ({ · with ovr := 1 })] = true ∧
    refuses [Instr.cpy] { zVM with vd := 1, sa := 2, sp := 1 } [({ · with vd := 0 }), ({ · with vd := 16 }), ({ · with sa := 1
      }), ({ · with sa := 0 }), ({ · with sp := 0 }), ({ · with msk := 1 }), ({ · with e := 1 }), ({ · with o := 1 }), ({ · with ff
      := 1 }), ({ · with ch := 1 }), ({ · with ovr := 1 }), ({ · with imm := 1 }), ({ · with imm := 49152 })] = true := by
  decide +kernel

theorem test_wf_refuses_array_a :
    refuses [Instr.dld, .afill] zA [({ · with da := 1 }), ({ · with db := 1 }), ({ · with ka := 1 }), ({ · with kb := 1 }), ({ ·
      with ax := 1 }), ({ · with wd := 1 }), ({ · with fl := 1 })] = true ∧
    refuses [Instr.dstr] zA [({ · with dd := 1 }), ({ · with db := 1 }), ({ · with ka := 1 }), ({ · with kb := 1 }), ({ · with ax
      := 1 }), ({ · with wd := 1 }), ({ · with fl := 1 })] = true ∧
    refuses [Instr.dget] zA [({ · with dd := 1 }), ({ · with ka := 1 }), ({ · with kb := 1 }), ({ · with wd := 1 }), ({ · with fl
      := 1 }), ({ · with db := 8 }), ({ · with ax := 8 })] = true ∧
    refuses [Instr.dsetx] zA [({ · with da := 1 }), ({ · with ka := 1 }), ({ · with kb := 1 }), ({ · with wd := 1 }), ({ · with
      fl := 1 }), ({ · with db := 7 }), ({ · with ax := 8 })] = true ∧
    refuses [Instr.dresh] zA [({ · with ka := 1 }), ({ · with kb := 1 }), ({ · with ax := 1 }), ({ · with wd := 1 }), ({ · with
      fl := 1 }), ({ · with sa := 1 })] = true ∧
    refuses [Instr.dtrans] zA [({ · with ka := 1 }), ({ · with kb := 1 }), ({ · with wd := 1 }), ({ · with fl := 1 }), ({ · with
      sa := 1 }), ({ · with db := 8 }), ({ · with ax := 8 })] = true ∧
    refuses [Instr.dtake] zA [({ · with db := 1 }), ({ · with ka := 1 }), ({ · with kb := 1 }), ({ · with wd := 1 }), ({ · with
      fl := 1 }), ({ · with ax := 8 })] = true ∧
    refuses [Instr.aadd, .asub, .amul, .adiv, .aand, .aor, .axor] zA [({ · with ax := 1 }), ({ · with wd := 1 }), ({ · with sa :=
      1 }), ({ · with fl := 6 })] = true ∧
    refuses [Instr.amin, .amax] zA [({ · with ax := 1 }), ({ · with sa := 1 }), ({ · with fl := 6 })] = true ∧
    refuses [Instr.afma, .asel] { zA with wd := 2 } [({ · with ax := 1 }), ({ · with sa := 1 }), ({ · with fl := 6 }), ({ · with
      wd := 0 })] = true ∧
    refuses [Instr.aclamp] { zA with sa := 2 } [({ · with db := 1 }), ({ · with ka := 1 }), ({ · with kb := 1 }), ({ · with ax :=
      1 }), ({ · with fl := 6 }), ({ · with sa := 1 }), ({ · with sa := 0 })] = true ∧
    refuses [Instr.acmp] zA [({ · with ax := 1 }), ({ · with wd := 1 }), ({ · with fl := 6 }), ({ · with sa := 8 })] = true := by
  decide +kernel

theorem test_wf_refuses_array_b :
    refuses [Instr.acvt] zA [({ · with db := 1 }), ({ · with ka := 1 }), ({ · with kb := 1 }), ({ · with ax := 1 }), ({ · with wd
      := 1 }), ({ · with sa := 1 }), ({ · with fl := 7 })] = true ∧
    refuses [Instr.anot, .aabs, .aneg, .asqrt, .aexp2, .alog2] zA [({ · with db := 1 }), ({ · with ka := 1 }), ({ · with kb := 1
      }), ({ · with ax := 1 }), ({ · with wd := 1 }), ({ · with sa := 1 }), ({ · with fl := 6 })] = true ∧
    refuses [Instr.aqnt] zA [({ · with ax := 1 }), ({ · with wd := 1 }), ({ · with sa := 1 }), ({ · with fl := 7 })] = true ∧
    refuses [Instr.aiota] zA [({ · with da := 1 }), ({ · with db := 1 }), ({ · with ka := 1 }), ({ · with kb := 1 }), ({ · with
      wd := 1 }), ({ · with ax := 8 }), ({ · with fl := 2 })] = true ∧
    refuses [Instr.acopy, .aresh] zA [({ · with db := 1 }), ({ · with ka := 1 }), ({ · with kb := 1 }), ({ · with ax := 1 }), ({
      · with wd := 1 }), ({ · with fl := 1 }), ({ · with sa := 1 })] = true ∧
    refuses [Instr.arot, .atake] zA [({ · with db := 1 }), ({ · with kb := 1 }), ({ · with wd := 1 }), ({ · with fl := 1 }), ({ ·
      with ax := 8 })] = true ∧
    refuses [Instr.arev] zA [({ · with db := 1 }), ({ · with kb := 1 }), ({ · with wd := 1 }), ({ · with fl := 1 }), ({ · with sa
      := 1 }), ({ · with ax := 8 })] = true ∧
    refuses [Instr.acat] zA [({ · with wd := 1 }), ({ · with fl := 1 }), ({ · with sa := 1 }), ({ · with ax := 8 })] = true ∧
    refuses [Instr.agath] zA [({ · with ka := 1 }), ({ · with kb := 1 }), ({ · with wd := 1 }), ({ · with fl := 1 }), ({ · with
      sa := 1 }), ({ · with ax := 8 })] = true ∧
    refuses [Instr.acomp] zA [({ · with ax := 1 }), ({ · with wd := 1 }), ({ · with fl := 1 })] = true ∧
    refuses [Instr.aexpd] zA [({ · with ka := 1 }), ({ · with kb := 1 }), ({ · with ax := 1 }), ({ · with wd := 1 }), ({ · with
      fl := 1 })] = true ∧
    refuses [Instr.agrade] zA [({ · with db := 1 }), ({ · with kb := 1 }), ({ · with wd := 1 }), ({ · with sa := 1 }), ({ · with
      ax := 8 }), ({ · with fl := 2 })] = true := by
  decide +kernel

theorem test_wf_refuses_array_c :
    refuses [Instr.aouter] zA [({ · with ka := 1 }), ({ · with kb := 1 }), ({ · with ax := 1 }), ({ · with wd := 1 }), ({ · with
      fl := 6 }), ({ · with sa := 6 }), ({ · with sa := 14 })] = true ∧
    refuses [Instr.ainner] zA [({ · with ka := 1 }), ({ · with kb := 1 }), ({ · with wd := 1 }), ({ · with fl := 6 }), ({ · with
      sa := 6 }), ({ · with sa := 14 }), ({ · with ax := 7 })] = true ∧
    refuses [Instr.atopk] zA [({ · with db := 1 }), ({ · with kb := 1 }), ({ · with fl := 1 }), ({ · with ax := 8 })] = true ∧
    refuses [Instr.ared] zA [({ · with kb := 1 }), ({ · with ax := 8 }), ({ · with fl := 6 }), ({ · with db := 10 }), ({ · with
      sa := 1 }), ({ · with db := 9 }), ({ · with wd := 1 })] = true ∧
    refuses [Instr.ascan] zA [({ · with kb := 1 }), ({ · with wd := 1 }), ({ · with sa := 1 }), ({ · with ax := 8 }), ({ · with
      fl := 6 }), ({ · with db := 7 })] = true ∧
    refuses [Instr.amed] zA [({ · with db := 1 }), ({ · with kb := 1 }), ({ · with sa := 1 }), ({ · with ax := 8 }), ({ · with fl
      := 6 })] = true ∧
    refuses [Instr.wadj] { zA with wd := 2 } [({ · with db := 1 }), ({ · with ka := 1 }), ({ · with kb := 1 }), ({ · with ax := 1
      }), ({ · with sa := 1 }), ({ · with wd := 0 }), ({ · with fl := 8 }), ({ · with fl := 3 })] = true ∧
    refuses [Instr.wchk] { zA with wd := 2 } [({ · with dd := 1 }), ({ · with da := 1 }), ({ · with db := 1 }), ({ · with ka := 1
      }), ({ · with kb := 1 }), ({ · with ax := 1 }), ({ · with fl := 1 }), ({ · with wd := 0 })] = true ∧
    refuses [Instr.wchkSeal] { zA with wd := 2, fl := 1 } [({ · with dd := 1 }), ({ · with db := 1 }), ({ · with ka := 1 }), ({ ·
      with kb := 1 }), ({ · with ax := 1 }), ({ · with wd := 0 }), ({ · with fl := 0 })] = true ∧
    refuses [Instr.wrel] { zA with wd := 2 } [({ · with dd := 1 }), ({ · with da := 1 }), ({ · with db := 1 }), ({ · with ka := 1
      }), ({ · with kb := 1 }), ({ · with ax := 1 }), ({ · with fl := 1 }), ({ · with sa := 1 }), ({ · with wd := 0 })] = true := by
  decide +kernel

theorem test_wf_refuses_matrix :
    refuses [Instr.mmodeOn] { zX with q := 1 } [({ · with xd := 1 }), ({ · with xa := 1 }), ({ · with xb := 1 }), ({ · with at_
      := 1 }), ({ · with ch := 1 }), ({ · with msk := 1 }), ({ · with ovr := 1 }), ({ · with rm := 1 }), ({ · with sat := 1 }), ({
      · with q := 0 })] = true ∧
    refuses [Instr.mmodeOff] zX [({ · with xd := 1 }), ({ · with xa := 1 }), ({ · with xb := 1 }), ({ · with at_ := 1 }), ({ ·
      with ch := 1 }), ({ · with msk := 1 }), ({ · with ovr := 1 }), ({ · with rm := 1 }), ({ · with sat := 1 }), ({ · with q := 1
      })] = true ∧
    refuses [Instr.mshape] zX [({ · with at_ := 1 }), ({ · with ch := 1 }), ({ · with msk := 1 }), ({ · with rm := 1 }), ({ ·
      with sat := 1 }), ({ · with q := 1 })] = true ∧
    refuses [Instr.mzero] zX [({ · with xd := 1 }), ({ · with xa := 1 }), ({ · with xb := 1 }), ({ · with ch := 1 }), ({ · with
      msk := 1 }), ({ · with ovr := 1 }), ({ · with rm := 1 }), ({ · with sat := 1 }), ({ · with q := 1 })] = true ∧
    refuses [Instr.mact, .macts] zX [({ · with xd := 1 }), ({ · with rm := 1 }), ({ · with sat := 1 }), ({ · with q := 1 }), ({ ·
      with xb := 1 })] = true ∧
    refuses [Instr.mmovn] zX [({ · with xb := 1 }), ({ · with ch := 1 }), ({ · with q := 1 }), ({ · with rm := 7 })] = true ∧
    refuses [Instr.mmovw] zX [({ · with xb := 1 }), ({ · with rm := 1 }), ({ · with sat := 1 }), ({ · with q := 1 })] = true ∧
    refuses [Instr.mvmac] zX [({ · with rm := 1 }), ({ · with sat := 1 }), ({ · with q := 1 })] = true := by
  decide +kernel

theorem test_wf_refuses_streamRunQuery :
    refuses [Instr.bind] zC [({ · with sd := 1 }), ({ · with sb := 1 }), ({ · with imm := 1 })] = true ∧
    refuses [Instr.unbind] zC [({ · with sa := 1 }), ({ · with sb := 1 }), ({ · with lm := 1 }), ({ · with imm := 1 })] = true ∧
    refuses [Instr.sstat] zC [({ · with sa := 1 }), ({ · with sb := 1 }), ({ · with lm := 1 }), ({ · with imm := 16 }), ({ · with
      imm := 7 })] = true ∧
    refuses [Instr.xtab] zC [({ · with vt := 1 }), ({ · with lm := 1 }), ({ · with imm := 416 }), ({ · with imm := 3584 })] =
      true ∧
    refuses [Instr.xrun] zC [({ · with sb := 1 }), ({ · with vt := 1 }), ({ · with imm := 416 })] = true ∧
    refuses [Instr.xstat, .pstat] zC [({ · with sb := 1 }), ({ · with vt := 1 }), ({ · with lm := 1 }), ({ · with imm := 1 })] =
      true ∧
    refuses [Instr.pqry] { zC with lm := 2 } [({ · with sb := 1 }), ({ · with vt := 1 }), ({ · with lm := 0 }), ({ · with imm :=
      16384 })] = true ∧
    refuses [Instr.cstat] zC [({ · with sa := 1 }), ({ · with sb := 1 }), ({ · with vt := 1 }), ({ · with lm := 1 }), ({ · with
      imm := 262144 })] = true ∧
    refuses [Instr.cabort] zC [({ · with sa := 1 }), ({ · with sb := 1 }), ({ · with vt := 1 }), ({ · with lm := 1 }), ({ · with
      imm := 65536 })] = true := by
  decide +kernel

theorem test_wf_refuses_system_a :
    refuses [Instr.bar] zY [({ · with sb := 1 }), ({ · with cn := 1 }), ({ · with imm := 1 }), ({ · with scope := 6 })] = true ∧
    refuses [Instr.binitSet] { zY with sa := 2 } [({ · with cn := 1 }), ({ · with imm := 1 }), ({ · with scope := 6 }), ({ · with
      sa := 0 })] = true ∧
    refuses [Instr.binitFault] { zY with sa := 2, imm := 1 } [({ · with cn := 1 }), ({ · with scope := 6 }), ({ · with sa := 0
      }), ({ · with imm := 0 })] = true ∧
    refuses [Instr.qpost, .qpoll] zY [({ · with scope := 1 }), ({ · with cn := 1 }), ({ · with imm := 2 })] = true ∧
    refuses [Instr.launch, .tlbu, .pmig] zY [({ · with sb := 1 }), ({ · with scope := 1 }), ({ · with cn := 1 }), ({ · with imm
      := 1 })] = true ∧
    refuses [Instr.kexit, .yield, .tret, .nop] zY [({ · with sd := 1 }), ({ · with sa := 1 }), ({ · with sb := 1 }), ({ · with
      scope := 1 }), ({ · with cn := 1 }), ({ · with imm := 1 })] = true ∧
    refuses [Instr.kexitAbort] { zY with imm := 1 } [({ · with sd := 1 }), ({ · with sa := 1 }), ({ · with sb := 1 }), ({ · with
      scope := 1 }), ({ · with cn := 1 }), ({ · with imm := 0 })] = true ∧
    refuses [Instr.cwait] zY [({ · with scope := 1 }), ({ · with cn := 1 }), ({ · with imm := 3 })] = true ∧
    refuses [Instr.evwait, .sysc] zY [({ · with sb := 1 }), ({ · with scope := 1 }), ({ · with cn := 1 })] = true ∧
    refuses [Instr.getc] zY [({ · with sa := 1 }), ({ · with sb := 1 }), ({ · with scope := 1 }), ({ · with imm := 1 })] = true ∧
    refuses [Instr.setc] zY [({ · with sd := 1 }), ({ · with sb := 1 }), ({ · with scope := 1 }), ({ · with imm := 1 })] = true ∧
    refuses [Instr.brk] zY [({ · with sd := 1 }), ({ · with sa := 1 }), ({ · with sb := 1 }), ({ · with scope := 1 }), ({ · with
      cn := 1 })] = true := by
  decide +kernel

theorem test_wf_refuses_system_b :
    refuses [Instr.tlbb] zY [({ · with scope := 1 }), ({ · with cn := 1 }), ({ · with imm := 1 })] = true ∧
    refuses [Instr.tlbi] { zY with scope := 3 } [({ · with sd := 1 }), ({ · with cn := 1 }), ({ · with scope := 2 }), ({ · with
      scope := 6 }), ({ · with imm := 2 })] = true := by
  decide +kernel

/-! ## Words that the spec writes out (R35, and the worked encodings and worked cases of its chapters) -/

theorem test_words_scalar :
    decodeWord 0x10145FFFFFFFFFF8 = .ok (.addi { sd := 5, sa := 5, imm := 0xFFFFFFFFFF8 }) ∧
    decodeWord 0x010B0C1083000000 = .ok (.lea { sd := 3, sa := 1, sb := 2, sc := 3 }) ∧
    decodeWord 0x1804100000000010 = .ok (.lih { sd := 1, sa := 1, imm := 0x10 }) := by
  decide +kernel

theorem test_words_control :
    decodeWord 0x201040FFFFFFFFFD = .ok (.br { cnd := 1, sa := 1, sb := 0, off := 0xFFFFFFFFFD }) ∧
    decodeWord 0x2401C0FFFFFFFFFE = .ok (.loop { cnd := 0, sa := 7, sb := 0, off := 0xFFFFFFFFFE }) ∧
    decodeWord 0x240340FFFFFFFFF5 = .ok (.loop { cnd := 0, sa := 13, sb := 0, off := -11 }) := by
  decide +kernel

theorem test_words_scalar_memory :
    decodeWord 0x30C2046000000010 = .ok (.ld { sz := 6, sd := 4, sa := 2, ord := 1, scope := 4, imm := 16 }) ∧
    decodeWord 0x3063866000000000 = .ok (.ld { sz := 3, sd := 7, sa := 3, ord := 1, scope := 4, imm := 0 }) ∧
    decodeWord 0x316306A000000000 = .ok (.st { sz := 3, sd := 6, sa := 3, ord := 2, scope := 4, imm := 0 }) ∧
    decodeWord 0x324204210A300000 = .ok (.amo { sz := 2, sd := 4, sa := 2, ord := 0, scope := 4, imm := 2 * 2 ^ 31 + 5 * 2 ^ 25 + 6 * 2 ^ 19 }) ∧
    decodeWord 0x326204E00A000000 = .ok (.amo { sz := 3, sd := 4, sa := 2, ord := 3, scope := 4, imm := 5 * 2 ^ 25 }) ∧
    decodeWord 0x3300002000000003 = .ok (.fence { zM with scope := 4, imm := 3 }) ∧
    decodeWord 0x3300001800000000 = .ok (.fence { zM with scope := 3 }) := by
  decide +kernel

theorem test_words_vector :
    decodeWord 0x40001010800E0000 = .ok (.vadd { zV with vd := 4, va := 1, vb := 2, ch := 7 }) ∧
    decodeWord 0x40001010803A0018 = .ok (.vadd { zV with vd := 4, va := 1, vb := 2, ch := 5, msk := 3, sat := 1, z := 1 }) ∧
    decodeWord 0x40001010800E0090 = .ok (.vadd { zV with vd := 4, va := 1, vb := 2, ch := 7, rm := 4, sat := 1 }) ∧
    decodeWord 0x40130810000E0000 = .ok (.vrcpe { zV with vd := 2, va := 1, ch := 7 }) ∧
    decodeWord 0x40000C10402E1A00 = .ok (.vadd { zV with vd := 3, va := 1, vb := 1, ch := 7, msk := 2, mod := 0x1A }) ∧
    decodeWord 0x400C0C40420E0000 = .ok (.vfma { zV with vd := 3, va := 4, vb := 1, vc := 2, ch := 7 }) ∧
    decodeWord 0x40071441000E0100 = .ok (.vmax { zV with vd := 5, va := 4, vb := 4, ch := 7, mod := 1 }) := by
  decide +kernel

theorem test_words_crosslane_and_length :
    decodeWord 0x440A1000800E0000 = .ok (.vmv { zV with vd := 4, vb := 2, ch := 7 }) ∧
    decodeWord 0x4700042100000000 = .ok (.setvl { zV with vd := 1, va := 2, vb := 4 }) ∧
    decodeWord 0x470100021F000000 = .ok (.settag { zV with vd := 0, vb := 8, vc := 31 }) := by
  decide +kernel

theorem test_words_vector_memory :
    decodeWord 0x6000814007200040 = .ok (.vld { zVM with vd := 8, sa := 5, o := 1, ff := 1, ch := 1, sp := 1, imm := 64 }) ∧
    decodeWord 0x6004140605200000 = .ok (.vlds { zVM with vd := 1, sa := 16, sb := 6, o := 1, ch := 1, sp := 1 }) ∧
    decodeWord 0x600C808005000000 = .ok (.vldt { zVM with vd := 8, sa := 2, o := 1, ch := 1 }) ∧
    decodeWord 0x6014508304000000 = .ok (.vldc { zVM with vd := 5, sa := 2, sb := 3, o := 1 }) ∧
    decodeWord 0x6104D05905060304 = .ok (.vsts { zVM with vd := 13, sa := 1, sb := 25, o := 1, ch := 1, ovr := 3, imm := 0x304 }) ∧
    decodeWord 0x620040850D000000 = .ok (.vamo { zVM with vd := 4, sa := 2, sb := 5, e := 1, o := 1, ch := 1 }) ∧
    decodeWord 0x6200D04E4D0004E0 = .ok (.vamo { zVM with vd := 13, sa := 1, sb := 14, msk := 4, e := 1, o := 1, ch := 1, imm := 0x4E0 }) := by
  decide +kernel

theorem test_words_arrays :
    decodeWord 0x70000800000002C0 = .ok (.dld { zA with dd := 1, sa := 11 }) ∧
    decodeWord 0x7003200200000300 = .ok (.dsetx { zA with dd := 4, db := 1, sa := 12 }) ∧
    decodeWord 0x7100184402000000 = .ok (.aadd { zA with dd := 3, da := 1, db := 2, kb := 1 }) ∧
    decodeWord 0x7100404C22000000 = .ok (.aadd { zA with dd := 8, da := 1, db := 6, ka := 1, kb := 1 }) ∧
    decodeWord 0x7107188000050380 = .ok (.aclamp { zA with dd := 3, da := 2, wd := 5, sa := 14 }) ∧
    decodeWord 0x720B104000200000 = .ok (.agrade { zA with dd := 2, da := 1, ax := 1 }) ∧
    decodeWord 0x7209284800000580 = .ok (.acomp { zA with dd := 5, da := 1, db := 4, sa := 22 }) ∧
    decodeWord 0x720D184400000080 = .ok (.ainner { zA with dd := 3, da := 1, db := 2, sa := 2 }) ∧
    decodeWord 0x7300104600240000 = .ok (.ared { zA with dd := 2, da := 1, db := 3, ax := 1, wd := 4 }) ∧
    decodeWord 0x7301528000000000 = .ok (.ascan { zA with dd := 10, da := 10 }) := by
  decide +kernel

theorem test_words_witness_and_matrix :
    decodeWord 0x7500398000050000 = .ok (.wadj { zA with dd := 7, da := 6, wd := 5 }) ∧
    decodeWord 0x7501008000011180 = .ok (.wchkSeal { zA with da := 2, wd := 1, fl := 1, sa := 6 }) ∧
    decodeWord 0x8000000000001000 = .ok (.mmodeOn { zX with q := 1 }) ∧ decodeWord 0x8000000000000000 = .ok (.mmodeOff zX) ∧
    decodeWord 0x8001144080000000 = .ok (.mshape { zX with xd := 5, xa := 4, xb := 2 }) ∧
    decodeWord 0x8003002238000000 = .ok (.mact { zX with xa := 2, xb := 8, at_ := 1, ch := 3 }) ∧
    decodeWord 0x8005506000000000 = .ok (.mmovn { zX with xd := 20, xa := 6 }) := by
  decide +kernel

theorem test_words_streams_and_engines :
    decodeWord 0x8800006005300000 = .ok (.bind { zC with sa := 6, vt := 5, lm := 3 }) ∧
    decodeWord 0x88012C0005000000 = .ok (.unbind { zC with sd := 11, vt := 5 }) ∧
    decodeWord 0x8802300005000003 = .ok (.sstat { zC with sd := 12, vt := 5, imm := 3 }) ∧
    decodeWord 0x90001020C0000207 = .ok (.xtab { zC with sd := 4, sa := 2, sb := 3, imm := 0x207 }) ∧
    decodeWord 0x9002105000000000 = .ok (.xstat { zC with sd := 4, sa := 5 }) ∧
    decodeWord 0x900354E000200000 = .ok (.pqry { zC with sd := 21, sa := 14, lm := 2 }) ∧
    decodeWord 0x9004105000000000 = .ok (.pstat { zC with sd := 4, sa := 5 }) ∧
    decodeWord 0x9005300000010051 = .ok (.cstat { zC with sd := 12, imm := 0x10051 }) ∧
    decodeWord 0x9006100000000051 = .ok (.cabort { zC with sd := 4, imm := 0x51 }) := by
  decide +kernel

theorem test_words_groups :
    decodeWord 0xA000102020000000 = .ok (.bar { zY with sd := 4, sa := 2, scope := 4 }) ∧
    decodeWord 0xA000000018000000 = .ok (.bar { zY with scope := 3 }) ∧
    decodeWord 0xA0011020E0000000 = .ok (.binitSet { zY with sd := 4, sa := 2, sb := 3, scope := 4 }) ∧
    decodeWord 0xA0011020E0000001 = .ok (.binitFault { zY with sd := 4, sa := 2, sb := 3, scope := 4, imm := 1 }) ∧
    decodeWord 0xA0021020C0000001 = .ok (.qpost { zY with sd := 4, sa := 2, sb := 3, imm := 1 }) ∧
    decodeWord 0xA0031461C0000001 = .ok (.qpoll { zY with sd := 5, sa := 6, sb := 7, imm := 1 }) ∧
    decodeWord 0xA004102000000000 = .ok (.launch { zY with sd := 4, sa := 2 }) ∧
    decodeWord 0xA0061020C0000002 = .ok (.cwait { zY with sd := 4, sa := 2, sb := 3, imm := 2 }) ∧
    decodeWord 0xA007280000000002 = .ok (.evwait { zY with sd := 10, imm := 2 }) := by
  decide +kernel

theorem test_words_system :
    decodeWord 0xF000100000002000 = .ok (.getc { zY with sd := 4, cn := 2 }) ∧
    decodeWord 0xF001000000011000 = .ok (.setc { zY with cn := 0x11 }) ∧
    decodeWord 0xF002105000000001 = .ok (.sysc { zY with sd := 4, sa := 5, imm := 1 }) ∧
    decodeWord 0xF003000000000000 = .ok (.tret zY) ∧ decodeWord 0xF004000000000007 = .ok (.brk { zY with imm := 7 }) ∧
    decodeWord 0xF0051020C0000000 = .ok (.tlbb { zY with sd := 4, sa := 2, sb := 3 }) ∧
    decodeWord 0xF006102000000000 = .ok (.tlbu { zY with sd := 4, sa := 2 }) ∧
    decodeWord 0xF009000000000000 = .ok (.nop zY) := by
  decide +kernel

/-- The borderline words of R87: a reserved bit, MOD 0x10; the word of zeros, a reserved major, a function that is none. -/
theorem test_words_refused :
    decodeWord 0x40001010800E0001 = .error .reserved ∧ decodeWord 0x40001010800E1000 = .error .field ∧
    decodeWord 0 = .error .allZero ∧ decodeWord 0x99FF000000000000 = .error .major ∧ decodeWord 0xF00A000000000000 = .error .function := by
  decide +kernel

/-! ## Single steps with the results of the spec's worked cases -/

/-- The state after an instruction. -/
def out (i : Instr) (s : State) : State :=
  match exec i s with
  | .next t => t
  | _ => s

/-- `lab` with VL, vector registers, and changes to its hart. -/
def labV (vl : Nat) (l : List (Nat × ByteStore)) (f : Hart → Hart := id) : State :=
  lab.modMe fun h => f { h with vl := BitVec.ofNat 15 vl, vreg := l.foldl (fun v p => v.set! p.1 p.2) h.vreg }

/-- The first step of a program: 0 − 8 (R92, the worked encoding of 04_encoding.md). -/
theorem test_step_addi : (match step (boot 0x10145FFFFFFFFFF8) with
    | .next t => (t.me.get 5, t.me.pc)
    | _ => (0, 0)) = (0xFFFFFFFFFFFFFFF8, (boot 0).me.pc + 8) := by decide +kernel

/-- R99: the sign bits of a loaded byte; R34: little-endian bytes. -/
theorem test_ld_byte : (out (.ld { zM with sd := 9, sa := 21, scope := 4 }) (regs [(21, 0x10000)] (put 0x10000 [0x34, 0x92] lab))).me.get 9 = 0x34 ∧
    (out (.ld { zM with sz := 1, sd := 9, sa := 21, scope := 4 }) (regs [(21, 0x10000)] (put 0x10000 [0x34, 0x92] lab))).me.get 9 = 0x9234 := by
  decide +kernel

/-- R121's worked case: an estimate of 1/3, its step, and their product. -/
theorem test_vrcpe : (out (.vrcpe { zV with vd := 4, va := 5, ch := 7 }) (labV 1 [(5, vec .f32 [0x40400000])])).me.elem 4 .f32 0 = 0x3EAAA800 := by
  decide +kernel
theorem test_vrcps : (out (.vrcps { zV with vd := 4, va := 5, vb := 6, ch := 7 })
    (labV 1 [(5, vec .f32 [0x40400000]), (6, vec .f32 [0x3EAAA800])])).me.elem 4 .f32 0 = 0x3F800200 := by decide +kernel
theorem test_vmul : let t := out (.vmul { zV with vd := 4, va := 5, vb := 6, ch := 7 }) (labV 1 [(5, vec .f32 [0x3EAAA800]), (6, vec .f32 [0x3F800200])])
    t.me.elem 4 .f32 0 = 0x3EAAAAAB ∧ t.me.fflags = 1 := by decide +kernel

/-- R130's worked case: a neighbour by `dn4`, with fill 0 and with fill of VB's own element, under a mask. -/
def labDn : State := (labV 6 [(9, vec .i32 [1, 2, 3, 4, 5, 6, 7, 8])]).modMe fun h => { h with mreg := h.mreg.set! 2 0b111101 }

theorem test_vadd_dn4 : (List.range 6).map ((out (.vadd { zV with vd := 10, va := 9, vb := 9, ch := 7, msk := 2, mod := 10 })
    (labDn.modMe fun h => { h with vreg := h.vreg.set! 10 [] })).me.elem 10 .i32) = [3, 0, 7, 4, 11, 6] := by decide +kernel
theorem test_vadd_dn4o : (List.range 6).map ((out (.vadd { zV with vd := 10, va := 9, vb := 9, ch := 7, msk := 2, mod := 0x1A })
    (labDn.modMe fun h => { h with vreg := h.vreg.set! 10 [] })).me.elem 10 .i32) = [3, 0, 7, 8, 11, 12] := by decide +kernel

/-- The worked case of R64: 2^24 and four ones, in the order of `VRED` and in that of `VSCAN`. -/
def labOnes : State := labV 5 [(5, vec .f32 [0x4B800000, 0x3F800000, 0x3F800000, 0x3F800000, 0x3F800000])]

theorem test_vred : (out (.vred { zV with vd := 4, va := 5, ch := 7 }) labOnes).me.elem 4 .f32 0 = 0x4B800002 := by decide +kernel
theorem test_vscan : (out (.vscan { zV with vd := 4, va := 5, ch := 7 }) labOnes).me.elem 4 .f32 4 = 0x4B800000 := by decide +kernel

/-- The worked case of R139: keys in groups of four, and the two highest of each. -/
theorem test_vkey : (List.range 8).map ((out (.vkey { zV with vd := 25, va := 5, vb := 23, ch := 7 }) (regs [(23, 4)]
    (labV 8 [(5, vec .f32 [0x3F000000, 0x7FC00000, 0x3F000000, 0xBF800000, 0x40000000, 0xFF800000, 0x3E800000, 0x40000000])]))).me.elem 25 .kx) =
    [0xBF00000000000000, 1, 0xBF00000000000002, 0x407FFFFF00000003, 0xC000000000000000, 0x007FFFFF00000001, 0xBE80000000000002,
      0xC000000000000003] := by decide +kernel
theorem test_vtopk : (List.range 4).map ((out (.vtopk { zV with vd := 26, va := 25, vb := 23, vc := 2, ch := 7 }) (regs [(23, 4)]
    (labV 8 [(25, vec .kx [0xBF00000000000000, 1, 0xBF00000000000002, 0x407FFFFF00000003, 0xC000000000000000, 0x007FFFFF00000001, 0xBE80000000000002,
      0xC000000000000003])]))).me.elem 26 .kx) = [0xBF00000000000000, 0xBF00000000000002, 0xC000000000000000, 0xC000000000000003] := by
  decide +kernel

/-- R160's worked case, where its third token claims its slot: each of the two before it has claimed one. -/
def tokens : State := out (.vamo { zVM with vd := 9, sa := 21, sb := 10, e := 1, o := 1, ch := 1, msk := 2 })
  (put 0x10040 (leBytes 16 (1 + 2 ^ 64)) ((labV 6 [(9, vec .i32 [1, 1, 1, 1, 1, 1]), (10, vec .i32 [8, 0, 8, 4, 8, 0])]).modMe fun h =>
    { h with sreg := h.sreg.set! 21 0x10040, mreg := h.mreg.set! 2 4 }))

theorem test_vamo : tokens.me.elem 9 .i32 2 = 1 ∧ (List.range 4).map (fun i => bsNat tokens.mem (0x1010040 + 4 * i) 4) = [1, 0, 2, 0] := by
  decide +kernel

/-- R229's worked case: element 9 lies in a page without a translation. -/
def labVld : State := out (.vld { zVM with vd := 5, sa := 21, o := 1, ch := 1 })
  (regs [(21, 0x1FFDC)] (labV 16 []))

theorem test_vld_fault : labVld.me.tval = 0x20000 ∧ labVld.me.epr = 9 ∧ labVld.me.epc = lab.me.pc ∧ labVld.me.cause.toNat % 2 ^ 12 = 5 := by
  decide +kernel

/-- The worked step of 15_matrix.md: an outer product of eight slices, and a row narrowed to f16. -/
def labWorked : State := (labMx.modMe fun h => { h with
  mshape := 0xA00080302, sreg := h.sreg.set! 6 1
  vreg := (List.range 8).foldl (fun v k => v.set! (40 + k) (vec .f32 [0x3F800000, 0x3F000000, 0x42968000]))
    (h.vreg.set! 5 (vec .f32 (([0, 1, 2, 3, 4, 5, 6, 7] : List Nat).flatMap fun k => [0x3F800000, [0, 0x3F800000, 0x40000000, 0x40400000,
      0x40800000, 0x40A00000, 0x40C00000, 0x40E00000][k]!]))) }).modMe fun h => { h with tagtab := Vector.replicate 4 0xAAAAAAAAAAAAAAAA }

/-- Barriers: R352's counts. -/
theorem test_recArrive : recArrive (brec 0 2 7 0 0) = brec 1 2 7 1 0 := by decide +kernel

/-- The worked case of R189: a queue switched out keeps its tail in a latch, and its range is checked at the switch-in. -/
theorem test_tail_latch : ((out (.tail 5 15) (labQu [(5, { que 0 8 12 9 4 with tails := 12, progs := 9 })])).queue? 5).map Queue.latch = some (some 15) := by
  decide +kernel
theorem test_tail_range : ((out (.queueSwitchIn 5) (labQu [(5, { que 0 8 12 9 4 with tails := 12, progs := 9, latch := some 18, cand := true })])).queue? 5).map
    (fun x => (x.state, x.err, x.tail)) = some (5, 1, 12) := by decide +kernel

/-- R175's worked case: a WO kernel retires. -/
theorem test_leaveHold : leaveHold 2 ⟨41, 2, 0, true⟩ = ⟨42, 0, 0, false⟩ := by decide +kernel

/-- R417: CRC-32C of the check string. -/
theorem test_crc : crc32c ([0x31, 0x32, 0x33, 0x34, 0x35, 0x36, 0x37, 0x38, 0x39] : List Byte) = 0xE3069283 := by decide +kernel

theorem test_mact_mmovn : let t := out (.mmovn { zX with xd := 20, xa := 6 }) (out (.mact { zX with xa := 5, xb := 40, ch := 3 })
      (labWorked.modMe fun h => { h with tagtab := #v[0xAAAAAAAAAAAAAAAA, 0xAAAAAAAAAAA8AAAA, 0xAAAAAAAAAAAAAAAA, 0xAAAAAAAAAAAAAAAA] }))
    [t.me.elem 20 .f16 0, t.me.elem 20 .f16 1, t.me.elem 20 .f16 2] = [0x4F00, 0x4B00, 0x681E] ∧ t.me.fflags = 1 := by decide +kernel

/-- R48's worked case: a block of sx4. -/
theorem test_sxQuantise : sxQuantise .sx4 .rne ((([.num false 3 0 false, .num true 5 (-2) false, .num false 3 (-3) false, .num false 1 (-4) false] : List FVal) ++
    List.replicate 12 (FVal.zero false)).map fun v => (v, 0)) = (0x0AACFC80, fNX ||| fUF) := by decide +kernel

/-- R44's worked keys. -/
theorem test_keyOf : [0x80000000, 0, 0xFF800000, 0x3F800000, 0xBF800000].map (keyOf .f32) =
    [0x7FFFFFFF, 0x80000000, 0x007FFFFF, 0xBF800000, 0x407FFFFF].map some := by decide +kernel

/-! ## A word for every instruction, laid out from the tables of R68 to R80 and R85 -/

theorem test_decode_scalar_a :
    decodeWord 0x0100D6A6C0000000 = .ok (.add ⟨53, 42, 27, 0⟩) ∧
    decodeWord 0x0101D6A6C0000000 = .ok (.sub ⟨53, 42, 27, 0⟩) ∧
    decodeWord 0x0102D6A6C0000000 = .ok (.andS ⟨53, 42, 27, 0⟩) ∧
    decodeWord 0x0103D6A6C0000000 = .ok (.orS ⟨53, 42, 27, 0⟩) ∧
    decodeWord 0x0104D6A6C0000000 = .ok (.xorS ⟨53, 42, 27, 0⟩) ∧
    decodeWord 0x0105D6A6C0000000 = .ok (.andn ⟨53, 42, 27, 0⟩) ∧
    decodeWord 0x0106D6A6C0000000 = .ok (.minS ⟨53, 42, 27, 0⟩) ∧
    decodeWord 0x0107D6A6C0000000 = .ok (.maxS ⟨53, 42, 27, 0⟩) ∧
    decodeWord 0x0108D6A6C0000000 = .ok (.minu ⟨53, 42, 27, 0⟩) ∧
    decodeWord 0x0109D6A6C0000000 = .ok (.maxu ⟨53, 42, 27, 0⟩) ∧
    decodeWord 0x010AD6A6CE000000 = .ok (.sel ⟨53, 42, 27, 14⟩) ∧
    decodeWord 0x010BD6A6C7000000 = .ok (.lea ⟨53, 42, 27, 7⟩) ∧
    decodeWord 0x0200D6A6C0000000 = .ok (.mul ⟨53, 42, 27, 0⟩) ∧
    decodeWord 0x0201D6A6C0000000 = .ok (.mulh ⟨53, 42, 27, 0⟩) ∧
    decodeWord 0x0202D6A6C0000000 = .ok (.mulhu ⟨53, 42, 27, 0⟩) ∧
    decodeWord 0x0203D6A6C0000000 = .ok (.div ⟨53, 42, 27, 0⟩) ∧
    decodeWord 0x0204D6A6C0000000 = .ok (.divu ⟨53, 42, 27, 0⟩) ∧
    decodeWord 0x0205D6A6C0000000 = .ok (.rem ⟨53, 42, 27, 0⟩) ∧
    decodeWord 0x0206D6A6C0000000 = .ok (.remu ⟨53, 42, 27, 0⟩) ∧
    decodeWord 0x0207D6A6CE000000 = .ok (.madd ⟨53, 42, 27, 14⟩) ∧
    decodeWord 0x0300D6A6C0000000 = .ok (.shl ⟨53, 42, 27, 0⟩) ∧
    decodeWord 0x0301D6A6C0000000 = .ok (.shr ⟨53, 42, 27, 0⟩) ∧
    decodeWord 0x0302D6A6C0000000 = .ok (.sra ⟨53, 42, 27, 0⟩) ∧
    decodeWord 0x0303D6A6C0000000 = .ok (.rol ⟨53, 42, 27, 0⟩) := by
  decide +kernel

theorem test_decode_scalar_b :
    decodeWord 0x0304D6A000000000 = .ok (.clz ⟨53, 42, 0, 0⟩) ∧
    decodeWord 0x0305D6A000000000 = .ok (.ctz ⟨53, 42, 0, 0⟩) ∧
    decodeWord 0x0306D6A000000000 = .ok (.popc ⟨53, 42, 0, 0⟩) ∧
    decodeWord 0x0307D6A6C0000000 = .ok (.sext ⟨53, 42, 27, 0⟩) ∧
    decodeWord 0x0308D6A6C0000000 = .ok (.zext ⟨53, 42, 27, 0⟩) ∧
    decodeWord 0x0400D6A6C0000000 = .ok (.slt ⟨53, 42, 27, 0⟩) ∧
    decodeWord 0x0401D6A6C0000000 = .ok (.sltu ⟨53, 42, 27, 0⟩) ∧
    decodeWord 0x0402D6A6C0000000 = .ok (.seq ⟨53, 42, 27, 0⟩) ∧
    decodeWord 0x0403D6A6C0000000 = .ok (.sne ⟨53, 42, 27, 0⟩) ∧
    decodeWord 0x10D6A812345678AB = .ok (.addi ⟨53, 42, 0x812345678ab⟩) ∧
    decodeWord 0x11D6A812345678AB = .ok (.andi ⟨53, 42, 0x812345678ab⟩) ∧
    decodeWord 0x12D6A812345678AB = .ok (.ori ⟨53, 42, 0x812345678ab⟩) ∧
    decodeWord 0x13D6A812345678AB = .ok (.xori ⟨53, 42, 0x812345678ab⟩) ∧
    decodeWord 0x14D6A0000000003F = .ok (.shli ⟨53, 42, 63⟩) ∧
    decodeWord 0x15D6A0000000003F = .ok (.shri ⟨53, 42, 63⟩) ∧
    decodeWord 0x16D6A0000000003F = .ok (.srai ⟨53, 42, 63⟩) ∧
    decodeWord 0x17D40812345678AB = .ok (.li ⟨53, 0, 0x812345678ab⟩) ∧
    decodeWord 0x18D6A000000FFFFF = .ok (.lih ⟨53, 42, 0xfffff⟩) ∧
    decodeWord 0x19D6A812345678AB = .ok (.slti ⟨53, 42, 0x812345678ab⟩) ∧
    decodeWord 0x1AD6A812345678AB = .ok (.sltiu ⟨53, 42, 0x812345678ab⟩) ∧
    decodeWord 0x23D6A812345678AB = .ok (.jr ⟨53, 42, 0x812345678ab⟩) := by
  decide +kernel

theorem test_decode_control :
    decodeWord 0x205D6A8123456789 = .ok (.br ⟨5, 53, 42, 0x8123456789⟩) ∧
    decodeWord 0x240D408123456789 = .ok (.loop ⟨0, 53, 0, 0x8123456789⟩) ∧
    decodeWord 0x2102123456789ABC = .ok (.jmp ⟨0, 0x2123456789abc⟩) ∧
    decodeWord 0x22D6123456789ABC = .ok (.call ⟨53, 0x2123456789abc⟩) := by
  decide +kernel

theorem test_decode_scalar_memory :
    decodeWord 0x30DAD46C12345678 = .ok (.ld ⟨6, 53, 42, 1, 5, 0x412345678⟩) ∧
    decodeWord 0x317AD4AC12345678 = .ok (.st ⟨3, 53, 42, 2, 5, 0x412345678⟩) ∧
    decodeWord 0x325AD4E96B57ABCD = .ok (.amo ⟨2, 53, 42, 3, 5, 0x16b57abcd⟩) ∧
    decodeWord 0x3300002800000003 = .ok (.fence ⟨0, 0, 0, 0, 5, 3⟩) := by
  decide +kernel

theorem test_decode_vector_a :
    decodeWord 0x4000D6A6C09ADAB8 = .ok (.vadd ⟨53, 42, 27, 0, 9, 5, 6, 26, 5, 1, 1⟩) ∧
    decodeWord 0x4001D6A6C09ADAB8 = .ok (.vsub ⟨53, 42, 27, 0, 9, 5, 6, 26, 5, 1, 1⟩) ∧
    decodeWord 0x4002D6A6C09ADAB8 = .ok (.vmul ⟨53, 42, 27, 0, 9, 5, 6, 26, 5, 1, 1⟩) ∧
    decodeWord 0x4003D6A6C09ADAB8 = .ok (.vmulh ⟨53, 42, 27, 0, 9, 5, 6, 26, 5, 1, 1⟩) ∧
    decodeWord 0x4004D6A6C09ADAB8 = .ok (.vdiv ⟨53, 42, 27, 0, 9, 5, 6, 26, 5, 1, 1⟩) ∧
    decodeWord 0x4005D6A6C09ADAB8 = .ok (.vrem ⟨53, 42, 27, 0, 9, 5, 6, 26, 5, 1, 1⟩) ∧
    decodeWord 0x4006D6A6C09ADAB8 = .ok (.vmin ⟨53, 42, 27, 0, 9, 5, 6, 26, 5, 1, 1⟩) ∧
    decodeWord 0x4007D6A6C09ADAB8 = .ok (.vmax ⟨53, 42, 27, 0, 9, 5, 6, 26, 5, 1, 1⟩) ∧
    decodeWord 0x4008D6A0009AC0B8 = .ok (.vabs ⟨53, 42, 0, 0, 9, 5, 6, 0, 5, 1, 1⟩) ∧
    decodeWord 0x4009D6A0009AC0B8 = .ok (.vneg ⟨53, 42, 0, 0, 9, 5, 6, 0, 5, 1, 1⟩) ∧
    decodeWord 0x400AD6A6C09ADAB8 = .ok (.vabsd ⟨53, 42, 27, 0, 9, 5, 6, 26, 5, 1, 1⟩) ∧
    decodeWord 0x400BD6A6C09ADAB8 = .ok (.vavg ⟨53, 42, 27, 0, 9, 5, 6, 26, 5, 1, 1⟩) ∧
    decodeWord 0x400CD6A6CE9ADAB8 = .ok (.vfma ⟨53, 42, 27, 14, 9, 5, 6, 26, 5, 1, 1⟩) ∧
    decodeWord 0x400DD6A6CE9ADAB8 = .ok (.vfms ⟨53, 42, 27, 14, 9, 5, 6, 26, 5, 1, 1⟩) ∧
    decodeWord 0x400ED6A6CE9ADAB8 = .ok (.vfnma ⟨53, 42, 27, 14, 9, 5, 6, 26, 5, 1, 1⟩) ∧
    decodeWord 0x400FD6A6CE9ADAB8 = .ok (.vclamp ⟨53, 42, 27, 14, 9, 5, 6, 26, 5, 1, 1⟩) ∧
    decodeWord 0x4010D6A0009AC0B8 = .ok (.vsqrt ⟨53, 42, 0, 0, 9, 5, 6, 0, 5, 1, 1⟩) ∧
    decodeWord 0x4011D6A0009AC0B8 = .ok (.vexp2 ⟨53, 42, 0, 0, 9, 5, 6, 0, 5, 1, 1⟩) ∧
    decodeWord 0x4012D6A0009AC0B8 = .ok (.vlog2 ⟨53, 42, 0, 0, 9, 5, 6, 0, 5, 1, 1⟩) ∧
    decodeWord 0x4013D6A0009AC018 = .ok (.vrcpe ⟨53, 42, 0, 0, 9, 5, 6, 0, 0, 1, 1⟩) ∧
    decodeWord 0x4014D6A6C09ADAB8 = .ok (.vrcps ⟨53, 42, 27, 0, 9, 5, 6, 26, 5, 1, 1⟩) ∧
    decodeWord 0x4015D6A0009AC018 = .ok (.vrsqe ⟨53, 42, 0, 0, 9, 5, 6, 0, 0, 1, 1⟩) ∧
    decodeWord 0x4016D6A6C09ADAB8 = .ok (.vrsqs ⟨53, 42, 27, 0, 9, 5, 6, 26, 5, 1, 1⟩) ∧
    decodeWord 0x4100D6A6C09ADAB8 = .ok (.vand ⟨53, 42, 27, 0, 9, 5, 6, 26, 5, 1, 1⟩) := by
  decide +kernel

theorem test_decode_vector_b :
    decodeWord 0x4101D6A6C09ADAB8 = .ok (.vor ⟨53, 42, 27, 0, 9, 5, 6, 26, 5, 1, 1⟩) ∧
    decodeWord 0x4102D6A6C09ADAB8 = .ok (.vxor ⟨53, 42, 27, 0, 9, 5, 6, 26, 5, 1, 1⟩) ∧
    decodeWord 0x4103D6A0009AC0B8 = .ok (.vnot ⟨53, 42, 0, 0, 9, 5, 6, 0, 5, 1, 1⟩) ∧
    decodeWord 0x4104D6A6C09ADAB8 = .ok (.vshl ⟨53, 42, 27, 0, 9, 5, 6, 26, 5, 1, 1⟩) ∧
    decodeWord 0x4105D6A6C09ADAB8 = .ok (.vshr ⟨53, 42, 27, 0, 9, 5, 6, 26, 5, 1, 1⟩) ∧
    decodeWord 0x4106D6A6C09ADAB8 = .ok (.vrol ⟨53, 42, 27, 0, 9, 5, 6, 26, 5, 1, 1⟩) ∧
    decodeWord 0x4107D6A0009AC0B8 = .ok (.vpopc ⟨53, 42, 0, 0, 9, 5, 6, 0, 5, 1, 1⟩) ∧
    decodeWord 0x4108D6A0009AC0B8 = .ok (.vclz ⟨53, 42, 0, 0, 9, 5, 6, 0, 5, 1, 1⟩) ∧
    decodeWord 0x4200D6A6C79ADA08 = .ok (.vcmp ⟨53, 42, 27, 7, 9, 5, 6, 26, 0, 0, 1⟩) ∧
    decodeWord 0x4201D6A6CE9ADAB8 = .ok (.vsel ⟨53, 42, 27, 14, 9, 5, 6, 26, 5, 1, 1⟩) ∧
    decodeWord 0x4202D6A0009AC008 = .ok (.vclass ⟨53, 42, 0, 0, 9, 5, 6, 0, 0, 0, 1⟩) ∧
    decodeWord 0x4300D6A0009A00B8 = .ok (.vcvt ⟨53, 42, 0, 0, 9, 5, 0, 0, 5, 1, 1⟩) ∧
    decodeWord 0x4301D6A6C09A00B8 = .ok (.vqnt ⟨53, 42, 27, 0, 9, 5, 0, 0, 5, 1, 1⟩) ∧
    decodeWord 0x4302D6A0029A0008 = .ok (.vpxunp ⟨53, 42, 0, 2, 9, 5, 0, 0, 0, 0, 1⟩) ∧
    decodeWord 0x4303D6A0029A0008 = .ok (.vpxpak ⟨53, 42, 0, 2, 9, 5, 0, 0, 0, 0, 1⟩) ∧
    decodeWord 0x4400D6A0069AC0B8 = .ok (.vred ⟨53, 42, 0, 6, 9, 5, 6, 0, 5, 1, 1⟩) ∧
    decodeWord 0x4401D6A00E9AC0B8 = .ok (.vscan ⟨53, 42, 0, 14, 9, 5, 6, 0, 5, 1, 1⟩) ∧
    decodeWord 0x4402D6A6C09AC008 = .ok (.vperm ⟨53, 42, 27, 0, 9, 5, 6, 0, 0, 0, 1⟩) ∧
    decodeWord 0x4403D6A6C09AC008 = .ok (.vslideup ⟨53, 42, 27, 0, 9, 5, 6, 0, 0, 0, 1⟩) ∧
    decodeWord 0x4404D6A6C09AC008 = .ok (.vslidedn ⟨53, 42, 27, 0, 9, 5, 6, 0, 0, 0, 1⟩) ∧
    decodeWord 0x4405D6A0009AC008 = .ok (.vcompress ⟨53, 42, 0, 0, 9, 5, 6, 0, 0, 0, 1⟩) ∧
    decodeWord 0x4406D6A0009AC008 = .ok (.vexpand ⟨53, 42, 0, 0, 9, 5, 6, 0, 0, 0, 1⟩) ∧
    decodeWord 0x4407D400009AC010 = .ok (.viota ⟨53, 0, 0, 0, 9, 5, 6, 0, 0, 1, 0⟩) ∧
    decodeWord 0x4408D400009AC018 = .ok (.vid ⟨53, 0, 0, 0, 9, 5, 6, 0, 0, 1, 1⟩) := by
  decide +kernel

theorem test_decode_vector_c :
    decodeWord 0x4409D6A0009AC008 = .ok (.vsplat ⟨53, 42, 0, 0, 9, 5, 6, 0, 0, 0, 1⟩) ∧
    decodeWord 0x440AD406C09ADA08 = .ok (.vmv ⟨53, 0, 27, 0, 9, 5, 6, 26, 0, 0, 1⟩) ∧
    decodeWord 0x440BD6A6C00AC000 = .ok (.vextr ⟨53, 42, 27, 0, 0, 5, 6, 0, 0, 0, 0⟩) ∧
    decodeWord 0x440CD6A6C00AC000 = .ok (.vins ⟨53, 42, 27, 0, 0, 5, 6, 0, 0, 0, 0⟩) ∧
    decodeWord 0x4500D6A6C09AC008 = .ok (.vkey ⟨53, 42, 27, 0, 9, 5, 6, 0, 0, 0, 1⟩) ∧
    decodeWord 0x4501D6A0009AC000 = .ok (.vsortk ⟨53, 42, 0, 0, 9, 5, 6, 0, 0, 0, 0⟩) ∧
    decodeWord 0x4502D6A6CD9AC000 = .ok (.vmergek ⟨53, 42, 27, 13, 9, 5, 6, 0, 0, 0, 0⟩) ∧
    decodeWord 0x4503D6A6CE9AC000 = .ok (.vtopk ⟨53, 42, 27, 14, 9, 5, 6, 0, 0, 0, 0⟩) ∧
    decodeWord 0x4504D6A0029AC0B8 = .ok (.vunkey ⟨53, 42, 0, 2, 9, 5, 6, 0, 5, 1, 1⟩) ∧
    decodeWord 0x46003CF3C0000000 = .ok (.mand ⟨15, 15, 15, 0, 0, 0, 0, 0, 0, 0, 0⟩) ∧
    decodeWord 0x46013CF3C0000000 = .ok (.mor ⟨15, 15, 15, 0, 0, 0, 0, 0, 0, 0, 0⟩) ∧
    decodeWord 0x46023CF3C0000000 = .ok (.mxor ⟨15, 15, 15, 0, 0, 0, 0, 0, 0, 0, 0⟩) ∧
    decodeWord 0x46033CF3C0000000 = .ok (.mandn ⟨15, 15, 15, 0, 0, 0, 0, 0, 0, 0, 0⟩) ∧
    decodeWord 0x46043CF000000000 = .ok (.mnot ⟨15, 15, 0, 0, 0, 0, 0, 0, 0, 0, 0⟩) ∧
    decodeWord 0x4605D4F000000000 = .ok (.mpopc ⟨53, 15, 0, 0, 0, 0, 0, 0, 0, 0, 0⟩) ∧
    decodeWord 0x4606D4F000000000 = .ok (.mfirst ⟨53, 15, 0, 0, 0, 0, 0, 0, 0, 0, 0⟩) ∧
    decodeWord 0x46073EA000000000 = .ok (.mset ⟨15, 42, 0, 0, 0, 0, 0, 0, 0, 0, 0⟩) ∧
    decodeWord 0x4608D4F000000000 = .ok (.mget ⟨53, 15, 0, 0, 0, 0, 0, 0, 0, 0, 0⟩) ∧
    decodeWord 0x46093EA6C0000000 = .ok (.mwait ⟨15, 42, 27, 0, 0, 0, 0, 0, 0, 0, 0⟩) ∧
    decodeWord 0x4700D6A6C000C000 = .ok (.setvl ⟨53, 42, 27, 0, 0, 0, 6, 0, 0, 0, 0⟩) ∧
    decodeWord 0x47015403EA000000 = .ok (.settag ⟨21, 0, 15, 42, 0, 0, 0, 0, 0, 0, 0⟩) := by
  decide +kernel

theorem test_decode_vector_memory :
    decodeWord 0x60035A809F4DABCD = .ok (.vld ⟨53, 42, 0, 9, 1, 1, 1, 1, 2, 6, 0x1abcd⟩) ∧
    decodeWord 0x60075A9B9F4DABCD = .ok (.vlds ⟨53, 42, 27, 9, 1, 1, 1, 1, 2, 6, 0x1abcd⟩) ∧
    decodeWord 0x600B5A9B9F4DABCD = .ok (.vldx ⟨53, 42, 27, 9, 1, 1, 1, 1, 2, 6, 0x1abcd⟩) ∧
    decodeWord 0x600F0A809D4DABCD = .ok (.vldt ⟨48, 42, 0, 9, 1, 1, 0, 1, 2, 6, 0x1abcd⟩) ∧
    decodeWord 0x60135A9B9D0DABCD = .ok (.vldl ⟨53, 42, 27, 9, 1, 1, 0, 1, 0, 6, 0x1abcd⟩) ∧
    decodeWord 0x60175A9B042DABCD = .ok (.vldc ⟨53, 42, 27, 0, 0, 1, 0, 0, 1, 6, 0x1abcd⟩) ∧
    decodeWord 0x61035A809D4DABCD = .ok (.vst ⟨53, 42, 0, 9, 1, 1, 0, 1, 2, 6, 0x1abcd⟩) ∧
    decodeWord 0x61075A9B9D4DABCD = .ok (.vsts ⟨53, 42, 27, 9, 1, 1, 0, 1, 2, 6, 0x1abcd⟩) ∧
    decodeWord 0x610B5A9B9D4DABCD = .ok (.vstx ⟨53, 42, 27, 9, 1, 1, 0, 1, 2, 6, 0x1abcd⟩) ∧
    decodeWord 0x610F0A809D4DABCD = .ok (.vstt ⟨48, 42, 0, 9, 1, 1, 0, 1, 2, 6, 0x1abcd⟩) ∧
    decodeWord 0x61135A9B9D0DABCD = .ok (.vstl ⟨53, 42, 27, 9, 1, 1, 0, 1, 0, 6, 0x1abcd⟩) ∧
    decodeWord 0x62035A9B9D4D3ABC = .ok (.vamo ⟨53, 42, 27, 9, 1, 1, 0, 1, 2, 6, 0x13abc⟩) ∧
    decodeWord 0x62040A9B0001ABCD = .ok (.vpf ⟨0, 42, 27, 0, 0, 0, 0, 0, 0, 0, 0x1abcd⟩) ∧
    decodeWord 0x63009A9B0041B000 = .ok (.cpy ⟨9, 42, 27, 0, 0, 0, 0, 0, 2, 0, 0x1b000⟩) := by
  decide +kernel

theorem test_decode_arrays_a :
    decodeWord 0x7000A80000000A80 = .ok (.dld ⟨21, 0, 0, 0, 0, 0, 0, 0, 42⟩) ∧
    decodeWord 0x7001028000000A80 = .ok (.dstr ⟨0, 10, 0, 0, 0, 0, 0, 0, 42⟩) ∧
    decodeWord 0x7002028E00A00A80 = .ok (.dget ⟨0, 10, 7, 0, 0, 5, 0, 0, 42⟩) ∧
    decodeWord 0x7003A80C00A00A80 = .ok (.dsetx ⟨21, 0, 6, 0, 0, 5, 0, 0, 42⟩) ∧
    decodeWord 0x7004AAB600000000 = .ok (.dresh ⟨21, 10, 27, 0, 0, 0, 0, 0, 0⟩) ∧
    decodeWord 0x7005AA8E00A00000 = .ok (.dtrans ⟨21, 10, 7, 0, 0, 5, 0, 0, 0⟩) ∧
    decodeWord 0x7006AA8000A00A80 = .ok (.dtake ⟨21, 10, 0, 0, 0, 5, 0, 0, 42⟩) ∧
    decodeWord 0x7100AAB72C00D000 = .ok (.aadd ⟨21, 10, 27, 9, 6, 0, 0, 13, 0⟩) ∧
    decodeWord 0x7101AAB72C00D000 = .ok (.asub ⟨21, 10, 27, 9, 6, 0, 0, 13, 0⟩) ∧
    decodeWord 0x7102AAB72C00D000 = .ok (.amul ⟨21, 10, 27, 9, 6, 0, 0, 13, 0⟩) ∧
    decodeWord 0x7103AAB72C00D000 = .ok (.adiv ⟨21, 10, 27, 9, 6, 0, 0, 13, 0⟩) ∧
    decodeWord 0x7104AAB72C0DD000 = .ok (.amin ⟨21, 10, 27, 9, 6, 0, 13, 13, 0⟩) ∧
    decodeWord 0x7105AAB72C0DD000 = .ok (.amax ⟨21, 10, 27, 9, 6, 0, 13, 13, 0⟩) ∧
    decodeWord 0x7106AAB72C0DD000 = .ok (.afma ⟨21, 10, 27, 9, 6, 0, 13, 13, 0⟩) ∧
    decodeWord 0x7107AA80000DDA80 = .ok (.aclamp ⟨21, 10, 0, 0, 0, 0, 13, 13, 42⟩) ∧
    decodeWord 0x7108AAB72C00D1C0 = .ok (.acmp ⟨21, 10, 27, 9, 6, 0, 0, 13, 7⟩) ∧
    decodeWord 0x7109AAB72C0DD000 = .ok (.asel ⟨21, 10, 27, 9, 6, 0, 13, 13, 0⟩) ∧
    decodeWord 0x710AAA800000D000 = .ok (.acvt ⟨21, 10, 0, 0, 0, 0, 0, 13, 0⟩) ∧
    decodeWord 0x710BAAB72C00D000 = .ok (.aand ⟨21, 10, 27, 9, 6, 0, 0, 13, 0⟩) ∧
    decodeWord 0x710CAAB72C00D000 = .ok (.aor ⟨21, 10, 27, 9, 6, 0, 0, 13, 0⟩) ∧
    decodeWord 0x710DAAB72C00D000 = .ok (.axor ⟨21, 10, 27, 9, 6, 0, 0, 13, 0⟩) ∧
    decodeWord 0x710EAA800000D000 = .ok (.anot ⟨21, 10, 0, 0, 0, 0, 0, 13, 0⟩) ∧
    decodeWord 0x710FAA800000D000 = .ok (.aabs ⟨21, 10, 0, 0, 0, 0, 0, 13, 0⟩) ∧
    decodeWord 0x7110AA800000D000 = .ok (.aneg ⟨21, 10, 0, 0, 0, 0, 0, 13, 0⟩) := by
  decide +kernel

theorem test_decode_arrays_b :
    decodeWord 0x7111AA800000D000 = .ok (.asqrt ⟨21, 10, 0, 0, 0, 0, 0, 13, 0⟩) ∧
    decodeWord 0x7112AA800000D000 = .ok (.aexp2 ⟨21, 10, 0, 0, 0, 0, 0, 13, 0⟩) ∧
    decodeWord 0x7113AA800000D000 = .ok (.alog2 ⟨21, 10, 0, 0, 0, 0, 0, 13, 0⟩) ∧
    decodeWord 0x7114AAB72C00D000 = .ok (.aqnt ⟨21, 10, 27, 9, 6, 0, 0, 13, 0⟩) ∧
    decodeWord 0x7200A80000A01A80 = .ok (.aiota ⟨21, 0, 0, 0, 0, 5, 0, 1, 42⟩) ∧
    decodeWord 0x7201A80000000A80 = .ok (.afill ⟨21, 0, 0, 0, 0, 0, 0, 0, 42⟩) ∧
    decodeWord 0x7202AA8000000000 = .ok (.acopy ⟨21, 10, 0, 0, 0, 0, 0, 0, 0⟩) ∧
    decodeWord 0x7203AA8120A00A80 = .ok (.arot ⟨21, 10, 0, 9, 0, 5, 0, 0, 42⟩) ∧
    decodeWord 0x7204AA8120A00000 = .ok (.arev ⟨21, 10, 0, 9, 0, 5, 0, 0, 0⟩) ∧
    decodeWord 0x7205AA8120A00A80 = .ok (.atake ⟨21, 10, 0, 9, 0, 5, 0, 0, 42⟩) ∧
    decodeWord 0x7206AA8000000000 = .ok (.aresh ⟨21, 10, 0, 0, 0, 0, 0, 0, 0⟩) ∧
    decodeWord 0x7207AAB72CA00000 = .ok (.acat ⟨21, 10, 27, 9, 6, 5, 0, 0, 0⟩) ∧
    decodeWord 0x7208AAB600A00000 = .ok (.agath ⟨21, 10, 27, 0, 0, 5, 0, 0, 0⟩) ∧
    decodeWord 0x7209AAB72C000A80 = .ok (.acomp ⟨21, 10, 27, 9, 6, 0, 0, 0, 42⟩) ∧
    decodeWord 0x720AAAB600000A80 = .ok (.aexpd ⟨21, 10, 27, 0, 0, 0, 0, 0, 42⟩) ∧
    decodeWord 0x720BAA8120A01000 = .ok (.agrade ⟨21, 10, 0, 9, 0, 5, 0, 1, 0⟩) ∧
    decodeWord 0x720CAAB60000D340 = .ok (.aouter ⟨21, 10, 27, 0, 0, 0, 0, 13, 13⟩) ∧
    decodeWord 0x720DAAB600A0D300 = .ok (.ainner ⟨21, 10, 27, 0, 0, 5, 0, 13, 12⟩) ∧
    decodeWord 0x720EAA8120AD0A80 = .ok (.atopk ⟨21, 10, 0, 9, 0, 5, 13, 0, 42⟩) ∧
    decodeWord 0x7300AA8520ADD000 = .ok (.ared ⟨21, 10, 2, 9, 0, 5, 13, 13, 0⟩) ∧
    decodeWord 0x7301AA8D20A0D000 = .ok (.ascan ⟨21, 10, 6, 9, 0, 5, 0, 13, 0⟩) ∧
    decodeWord 0x7302AA8120ADD000 = .ok (.amed ⟨21, 10, 0, 9, 0, 5, 13, 13, 0⟩) ∧
    decodeWord 0x7500AA80000D6000 = .ok (.wadj ⟨21, 10, 0, 0, 0, 0, 13, 6, 0⟩) ∧
    decodeWord 0x75010000000D0A80 = .ok (.wchk ⟨0, 0, 0, 0, 0, 0, 13, 0, 42⟩) := by
  decide +kernel

theorem test_decode_arrays_c :
    decodeWord 0x75010280000D1A80 = .ok (.wchkSeal ⟨0, 10, 0, 0, 0, 0, 13, 1, 42⟩) ∧
    decodeWord 0x75020000000D0000 = .ok (.wrel ⟨0, 0, 0, 0, 0, 0, 13, 0, 0⟩) := by
  decide +kernel

theorem test_decode_matrix :
    decodeWord 0x8000000000001000 = .ok (.mmodeOn ⟨0, 0, 0, 0, 0, 0, 0, 0, 0, 1⟩) ∧
    decodeWord 0x8000000000000000 = .ok (.mmodeOff ⟨0, 0, 0, 0, 0, 0, 0, 0, 0, 0⟩) ∧
    decodeWord 0x8001D6A600300000 = .ok (.mshape ⟨53, 42, 24, 0, 0, 0, 6, 0, 0, 0⟩) ∧
    decodeWord 0x8002000020000000 = .ok (.mzero ⟨0, 0, 0, 1, 0, 0, 0, 0, 0, 0⟩) ∧
    decodeWord 0x800302A634B00000 = .ok (.mact ⟨0, 42, 24, 1, 2, 9, 6, 0, 0, 0⟩) ∧
    decodeWord 0x800402A634B00000 = .ok (.macts ⟨0, 42, 24, 1, 2, 9, 6, 0, 0, 0⟩) ∧
    decodeWord 0x8005D6A024B58000 = .ok (.mmovn ⟨53, 42, 0, 1, 0, 9, 6, 5, 1, 0⟩) ∧
    decodeWord 0x8006D6A034B00000 = .ok (.mmovw ⟨53, 42, 0, 1, 2, 9, 6, 0, 0, 0⟩) ∧
    decodeWord 0x8007D6A634B00000 = .ok (.mvmac ⟨53, 42, 24, 1, 2, 9, 6, 0, 0, 0⟩) := by
  decide +kernel

theorem test_decode_streams_and_engines :
    decodeWord 0x880002A02E900000 = .ok (.bind ⟨0, 42, 0, 46, 9, 0⟩) ∧
    decodeWord 0x8801D4002E000000 = .ok (.unbind ⟨53, 0, 0, 46, 0, 0⟩) ∧
    decodeWord 0x8802D4002E00000F = .ok (.sstat ⟨53, 0, 0, 46, 0, 15⟩) ∧
    decodeWord 0x9000D6A6C0000D9F = .ok (.xtab ⟨53, 42, 27, 0, 0, 3487⟩) ∧
    decodeWord 0x9001D6A00090019F = .ok (.xrun ⟨53, 42, 0, 0, 9, 415⟩) ∧
    decodeWord 0x9002D6A000000000 = .ok (.xstat ⟨53, 42, 0, 0, 0, 0⟩) ∧
    decodeWord 0x9003D6A000903FFF = .ok (.pqry ⟨53, 42, 0, 0, 9, 0x3fff⟩) ∧
    decodeWord 0x9004D6A000000000 = .ok (.pstat ⟨53, 42, 0, 0, 0, 0⟩) ∧
    decodeWord 0x9005D4000003FFFF = .ok (.cstat ⟨53, 0, 0, 0, 0, 0x3ffff⟩) ∧
    decodeWord 0x9006D4000000FFFF = .ok (.cabort ⟨53, 0, 0, 0, 0, 0xffff⟩) := by
  decide +kernel

theorem test_decode_groups_and_system :
    decodeWord 0xA000D6A028000000 = .ok (.bar ⟨53, 42, 0, 5, 0, 0⟩) ∧
    decodeWord 0xA001D6A6E8000000 = .ok (.binitSet ⟨53, 42, 27, 5, 0, 0⟩) ∧
    decodeWord 0xA001D6A6E8000001 = .ok (.binitFault ⟨53, 42, 27, 5, 0, 1⟩) ∧
    decodeWord 0xA002D6A6C0000001 = .ok (.qpost ⟨53, 42, 27, 0, 0, 1⟩) ∧
    decodeWord 0xA003D6A6C0000001 = .ok (.qpoll ⟨53, 42, 27, 0, 0, 1⟩) ∧
    decodeWord 0xA004D6A000000000 = .ok (.launch ⟨53, 42, 0, 0, 0, 0⟩) ∧
    decodeWord 0xA005000000000000 = .ok (.kexit ⟨0, 0, 0, 0, 0, 0⟩) ∧
    decodeWord 0xA005000000000001 = .ok (.kexitAbort ⟨0, 0, 0, 0, 0, 1⟩) ∧
    decodeWord 0xA006D6A6C0000002 = .ok (.cwait ⟨53, 42, 27, 0, 0, 2⟩) ∧
    decodeWord 0xA007D6A000000ABC = .ok (.evwait ⟨53, 42, 0, 0, 0, 2748⟩) ∧
    decodeWord 0xA008000000000000 = .ok (.yield ⟨0, 0, 0, 0, 0, 0⟩) ∧
    decodeWord 0xF000D40000456000 = .ok (.getc ⟨53, 0, 0, 0, 1110, 0⟩) ∧
    decodeWord 0xF00102A000456000 = .ok (.setc ⟨0, 42, 0, 0, 1110, 0⟩) ∧
    decodeWord 0xF002D6A000000ABC = .ok (.sysc ⟨53, 42, 0, 0, 0, 2748⟩) ∧
    decodeWord 0xF004000000000ABC = .ok (.brk ⟨0, 0, 0, 0, 0, 2748⟩) ∧
    decodeWord 0xF003000000000000 = .ok (.tret ⟨0, 0, 0, 0, 0, 0⟩) ∧
    decodeWord 0xF005D6A6C0000000 = .ok (.tlbb ⟨53, 42, 27, 0, 0, 0⟩) ∧
    decodeWord 0xF006D6A000000000 = .ok (.tlbu ⟨53, 42, 0, 0, 0, 0⟩) ∧
    decodeWord 0xF00702A6E8000001 = .ok (.tlbi ⟨0, 42, 27, 5, 0, 1⟩) ∧
    decodeWord 0xF008D6A000000000 = .ok (.pmig ⟨53, 42, 0, 0, 0, 0⟩) ∧
    decodeWord 0xF009000000000000 = .ok (.nop ⟨0, 0, 0, 0, 0, 0⟩) := by
  decide +kernel

/-- R87: every word of major 0xFE is a no-op. -/
theorem test_decode_hint : decodeWord 0xFE00000000000001 = .ok (.hintNop 1) ∧ decodeWord 0xFEFFFFFFFFFFFFFF = .ok (.hintNop (-1)) := by
  decide +kernel

end Sys2Proof.Tests
end

section
/-!
PROOFS. Host writes of the registers of BAR0 and BAR2 (R435): which part of the model each offset reaches, what the
configuration registers store, the commands that a write gives, and what ignores it.
-/
namespace Sys2Proof.Machine

open Sys2Proof

/-! ## Fields of a written word -/

theorem fld_from_zero (v : Word) (n : Nat) : fld v 0 n = v.toNat % 2 ^ n := by
  simp [fld, nbits]

/-- A one-bit field is the bit. -/
theorem fld_one_eq_one (v : Word) (i : Nat) : fld v i 1 = 1 ↔ v.getLsbD i = true := by
  simp [fld, nbits, BitVec.getLsbD, Nat.testBit_eq_decide_div_mod_eq]

/-- A field that is stored where it stood is the word under the mask of the field (R4). -/
theorem wd_fld_mul (v : Word) (lo n : Nat) : wd (fld v lo n * 2 ^ lo) = v &&& wd ((2 ^ n - 1) * 2 ^ lo) := by
  refine BitVec.eq_of_getLsbD_eq fun i hi => ?_
  simp only [wd, fld, nbits, BitVec.getLsbD_and, BitVec.getLsbD_ofNat, Nat.testBit_mul_two_pow, Nat.testBit_mod_two_pow,
    Nat.testBit_two_pow_sub_one, Nat.testBit_div_two_pow]
  by_cases h : lo ≤ i
  · simp [h, hi, BitVec.getLsbD, Bool.and_comm]
  · simp [h]

/-! ## Ports under a change -/

/-- The ports in order are the ports by their numbers. -/
theorem State.ports_toList (s : State) : s.ports.toList = (List.range 24).map s.port := by
  refine List.ext_getElem (by simp) fun i h _ => ?_
  have hi : i < 24 := by simpa using h
  simp [State.port, hi]

/-- A port after a change of one port; there are 24 (R415). -/
theorem State.port_modPort (s : State) (p : Nat) (f : Port → Port) (q : Nat) :
    (s.modPort p f).port q = if q = p ∧ p < 24 then f (s.port p) else s.port q := by
  by_cases h : q = p
  · subst h
    by_cases hq : q < 24 <;> simp [State.port, State.modPort, hq]
  · simp [State.port, State.modPort, h, Ne.symm h]

/-- A port set to what it is leaves the state as it is. -/
theorem State.modPort_eq_self {s : State} {p : Nat} {f : Port → Port} (h : f (s.port p) = s.port p) :
    s.modPort p f = s := by
  have hports : s.ports.set! p (s.port p) = s.ports := by
    refine Vector.ext fun i hi => ?_
    by_cases hip : p = i
    · subst hip; simp [State.port, hi]
    · simp [hip]
  rw [State.modPort, h, hports]

/-- A change that keeps DRAIN of a port keeps it of every port. -/
theorem State.port_modPort_drain (s : State) (p : Nat) {f : Port → Port} (hf : ∀ x, (f x).drain = x.drain) (q : Nat) :
    ((s.modPort p f).port q).drain = (s.port q).drain := by
  rw [State.port_modPort]
  split
  next h => rw [hf, h.1]
  next => rfl

@[simp] theorem Port.send_drain (f : OutFlit) (x : Port) : (x.send f).drain = x.drain := rfl

/-- Flits that leave change DRAIN of no port. -/
theorem pumpAll_port_drain (l : List OutFlit) (s : State) (q : Nat) :
    ((pumpAll l s).1.port q).drain = (s.port q).drain := by
  induction l generalizing s with
  | nil => rfl
  | cons f l ih =>
    simp only [pumpAll]
    split
    case h_1 => rw [ih, State.port_modPort_drain s _ (Port.send_drain f) q]
    case h_2 => exact ih s

theorem pump_port_drain (s : State) (q : Nat) : ((pump s).port q).drain = (s.port q).drain :=
  pumpAll_port_drain s.outq s q

/-- Stores that count as never acknowledged are the harts'. -/
theorem discarded_ports (before after : Port) (s : State) : (discarded before after s).ports = s.ports := by
  unfold discarded
  split
  · rfl
  · exact foldl_keeps (P := fun t : State => t.ports = s.ports)
      (fun t h ht => (t.modHart_ports h (Hart.neverAcked fun i => before.holds i && !(after.holds i))).trans ht) _ rfl

/-- An event of a port that keeps its DRAIN. -/
theorem changePort_port_drain (p : Nat) {f : Port → Port} (hf : ∀ x, (f x).drain = x.drain) (s : State) (q : Nat) :
    ((changePort p f s).port q).drain = (s.port q).drain := by
  unfold changePort
  split
  · rfl
  · refine (pump_port_drain _ q).trans ?_
    have hd := discarded_ports (s.port p) (f (s.port p)) (s.modPort p f)
    exact (congrArg (fun v => (v.toList.getD q Port.reset).drain) hd).trans (s.port_modPort_drain p hf q)

/-! ## The offset of a write (R435) -/

theorem exec_registerWrite_bar0 (off : Nat) (v : Word) (s : State) :
    exec (.registerWrite 0 off v) s = .next (writeBar0 off v s) := rfl

/-- An offset of BAR0 of no command, port, route or debug register is one of the configuration registers, or none. -/
theorem writeBar0_config {off : Nat} (v : Word) (s : State)
    (hcmd : off ≠ 0x0008 ∧ off ≠ 0x1008 ∧ off ≠ 0x1018 ∧ off ≠ 0x10A8) (hport : ¬ (0x1100 ≤ off ∧ off < 0x11C0))
    (hroute : ¬ (0x1200 ≤ off ∧ off < 0x1400)) (hdbg : ¬ (0x20000 ≤ off ∧ off < 0x50000)) :
    writeBar0 off v s = writeConfig off v s := by
  obtain ⟨h1, h2, h3, h4⟩ := hcmd
  rw [writeBar0, if_neg h1, if_neg h2, if_neg h3, if_neg h4, if_neg hport, if_neg hroute, if_neg hdbg]

/-- A configuration register takes no command: a write of it stores alone. -/
theorem exec_registerWrite_config {off : Nat} (h : storesOnly off = true) (v : Word) (s : State) :
    exec (.registerWrite 0 off v) s = .next (writeConfig off v s) := by
  have hoff : 0x1000 ≤ off ∧ off < 0x1100 ∧ off ≠ 0x1008 ∧ off ≠ 0x1018 ∧ off ≠ 0x10A8 := by
    simp only [storesOnly, List.contains_iff_mem, List.mem_cons, List.not_mem_nil, or_false] at h
    omega
  rw [exec_registerWrite_bar0, writeBar0_config v s] <;> omega

/-- An offset that no configuration register has is ignored. -/
theorem writeConfig_of_not_storesOnly {off : Nat} (h : storesOnly off = false) (v : Word) (s : State) :
    writeConfig off v s = s := by
  unfold writeConfig
  split
  case h_13 => rfl
  all_goals exact absurd h (by decide)

theorem writeBar0_port {p : Nat} (hp : p < 24) (v : Word) (s : State) :
    writeBar0 (0x1100 + 8 * p) v s = writePort p v s := by
  unfold writeBar0
  rw [if_neg (by omega), if_neg (by omega), if_neg (by omega), if_neg (by omega), if_pos (by omega), if_pos (by omega),
    show (0x1100 + 8 * p - 0x1100) / 8 = p by omega]

theorem exec_registerWrite_route {d : Nat} (hd : d < 64) (v : Word) (s : State) :
    exec (.registerWrite 0 (0x1200 + 8 * d) v) s = exec (.routeEntryWrite d v) s := by
  have hwrite : writeBar0 (0x1200 + 8 * d) v s = goesOn s (execRouteEntryWrite d v s) := by
    unfold writeBar0
    rw [if_neg (by omega), if_neg (by omega), if_neg (by omega), if_neg (by omega), if_neg (by omega), if_pos (by omega),
      if_pos (by omega), show (0x1200 + 8 * d - 0x1200) / 8 = d by omega]
  rw [exec_registerWrite_bar0, hwrite]
  rfl

theorem exec_registerWrite_debug {h k : Nat} (hh : h < 6144) (hk : k < 32) (v : Word) (s : State) :
    exec (.registerWrite 0 (0x20000 + 32 * h + k) v) s = exec (.debugRegisterWrite h k v) s := by
  have hwrite : writeBar0 (0x20000 + 32 * h + k) v s = goesOn s (execDebugRegisterWrite h k v s) := by
    unfold writeBar0
    rw [if_neg (by omega), if_neg (by omega), if_neg (by omega), if_neg (by omega), if_neg (by omega), if_neg (by omega),
      if_pos (by omega), show (0x20000 + 32 * h + k - 0x20000) / 0x20 = h by omega,
      show (0x20000 + 32 * h + k) % 0x20 = k by omega]
  rw [exec_registerWrite_bar0, hwrite]
  rfl

theorem exec_registerWrite_devrst {v : Word} (h : v.toNat % 2 = 1) (s : State) :
    exec (.registerWrite 0 0x0008 v) s = exec .devrst s := by
  have hwrite : writeBar0 0x0008 v s = goesOn s (execDevrst s) := if_pos ((fld_from_zero v 1).trans h)
  rw [exec_registerWrite_bar0, hwrite]
  rfl

theorem exec_registerWrite_attcmd {v : Word} (h : v.toNat % 2 = 1) (s : State) :
    exec (.registerWrite 0 0x10A8 v) s = exec .attcmd s := by
  have hwrite : writeBar0 0x10A8 v s = goesOn s (execAttcmd s) := if_pos ((fld_from_zero v 1).trans h)
  rw [exec_registerWrite_bar0, hwrite]
  rfl

/-! ## Commands (R168, R181) -/

/-- What CTXCMD does with GO set and no command in progress, by its OP. -/
def ctxCommand (op asid : Nat) (s : State) : Host.Outcome State Fault Refusal :=
  match op with
  | 1 => execCreate asid s
  | 2 => execSwitchOut asid s
  | 3 => execSwitchIn asid s
  | 4 => execTeardown asid s
  | 5 => execResume asid s
  | op => execBadOp op asid s

theorem ctxCommand_of_bad {op : Nat} (h : op = 0 ∨ 5 < op) (asid : Nat) (s : State) :
    ctxCommand op asid s = exec (.badOp op asid) s := by
  unfold ctxCommand
  split
  case h_6 => rfl
  all_goals omega

/-- Every context command goes on. -/
theorem next_goesOn_ctxCommand (op asid : Nat) (s : State) :
    .next (goesOn s (ctxCommand op asid s)) = ctxCommand op asid s := by
  unfold ctxCommand
  split <;> rfl

theorem exec_registerWrite_ctxCmd {v : Word} {s : State} {op : Nat} (hgo : v.getLsbD 63 = true)
    (hidle : s.regs.ctxGo = false) (hop : v.toNat / 2 ^ 60 % 2 ^ 3 = op) :
    exec (.registerWrite 0 0x1008 v) s = ctxCommand op (v.toNat % 2 ^ 11) s := by
  subst hop
  have hfld : ¬ fld v 63 1 = 0 := by rw [(fld_one_eq_one v 63).2 hgo]; decide
  have hwrite : writeCtxCmd v s = goesOn s (ctxCommand (fld v 60 3) (fld v 0 11) s) := by
    rw [writeCtxCmd, hidle, if_neg Bool.false_ne_true, if_neg hfld]
    rfl
  have hcmd : writeBar0 0x1008 v s = writeCtxCmd v s := rfl
  rw [exec_registerWrite_bar0, hcmd, hwrite, next_goesOn_ctxCommand, fld_from_zero]
  rfl

/-- What QCMD does with GO set, by its OP. -/
def queueCommand (op q : Nat) (s : State) : Host.Outcome State Fault Refusal :=
  match op with
  | 1 => execAttach q s
  | 2 => execDetach q s
  | 3 => execReset q s
  | op => execQcmdBadOp op q s

theorem queueCommand_of_bad {op : Nat} (h : op = 0 ∨ 3 < op) (q : Nat) (s : State) :
    queueCommand op q s = exec (.qcmdBadOp op q) s := by
  unfold queueCommand
  split
  case h_4 => rfl
  all_goals omega

/-- Every queue command goes on. -/
theorem next_goesOn_queueCommand (op q : Nat) (s : State) :
    .next (goesOn s (queueCommand op q s)) = queueCommand op q s := by
  unfold queueCommand
  split <;> rfl

theorem exec_registerWrite_qcmd {v : Word} {op : Nat} (hgo : v.getLsbD 63 = true) (hop : v.toNat / 2 ^ 60 % 2 ^ 3 = op)
    (s : State) : exec (.registerWrite 0 0x1018 v) s = queueCommand op (v.toNat % 2 ^ 16) s := by
  subst hop
  have hfld : ¬ fld v 63 1 = 0 := by rw [(fld_one_eq_one v 63).2 hgo]; decide
  have hwrite : writeQcmd v s = goesOn s (queueCommand (fld v 60 3) (fld v 0 16) s) := by
    rw [writeQcmd, if_neg hfld]
    rfl
  have hcmd : writeBar0 0x1018 v s = writeQcmd v s := rfl
  rw [exec_registerWrite_bar0, hcmd, hwrite, next_goesOn_queueCommand, fld_from_zero]
  rfl

/-! ## Ports (R415, R416) -/

/-- A write of EN goes on, and keeps DRAIN as it is. -/
theorem exec_linkEn (en : Prop) [Decidable en] (p : Nat) (s : State) :
    ∃ u, exec (if en then .linkEnable p else .linkDisable p) s = .next u ∧ (u.port p).drain = (s.port p).drain := by
  split <;> exact ⟨_, rfl, changePort_port_drain p (fun x => by dsimp only; split <;> rfl) s p⟩

/-- A write of a port's register is a write of EN, then one of DRAIN. -/
theorem writePort_after_en {p : Nat} {v : Word} {s u : State}
    (hu : exec (if v.toNat % 2 = 1 then .linkEnable p else .linkDisable p) s = .next u) :
    writePort p v s = if v.toNat / 2 % 2 = 1 then goesOn u (execDrain p u)
      else u.modPort p fun x => { x with drain := false } := by
  have hen : goesOn s (if fld v 0 1 = 1 then execLinkEnable p s else execLinkDisable p s) = u := by
    rw [fld_from_zero, Nat.pow_one]
    by_cases h : v.toNat % 2 = 1
    · rw [if_pos h] at hu ⊢
      exact congrArg (goesOn s) hu
    · rw [if_neg h] at hu ⊢
      exact congrArg (goesOn s) hu
  rw [writePort, hen]
  rfl

/-- A write of DRAIN = 1 gives DRAIN after the command of EN. -/
theorem exec_registerWrite_drain {p : Nat} {v : Word} (hp : p < 24) (hd : v.toNat / 2 % 2 = 1) (s : State) :
    ∃ u, exec (if v.toNat % 2 = 1 then .linkEnable p else .linkDisable p) s = .next u ∧
      exec (.registerWrite 0 (0x1100 + 8 * p) v) s = exec (.drain p) u := by
  obtain ⟨u, hu, -⟩ := exec_linkEn (v.toNat % 2 = 1) p s
  refine ⟨u, hu, ?_⟩
  rw [exec_registerWrite_bar0, writeBar0_port hp, writePort_after_en hu, if_pos hd]
  rfl

/-- A write of DRAIN = 0 to a port that does not drain is the command of EN alone. -/
theorem exec_registerWrite_en {p : Nat} {v : Word} {s : State} (hp : p < 24) (hs : (s.port p).drain = false)
    (hd : ¬ v.toNat / 2 % 2 = 1) :
    exec (.registerWrite 0 (0x1100 + 8 * p) v) s = exec (if v.toNat % 2 = 1 then .linkEnable p else .linkDisable p) s := by
  obtain ⟨u, hu, hdrain⟩ := exec_linkEn (v.toNat % 2 = 1) p s
  have hsame : ({ u.port p with drain := false } : Port) = u.port p := by rw [← hdrain.trans hs]
  rw [exec_registerWrite_bar0, writeBar0_port hp, writePort_after_en hu, if_neg hd, State.modPort_eq_self hsame, hu]

/-! ## Configuration registers -/

/-- HOURS as written: 0 counts as 1 (R377). -/
theorem hoursOf_eq_max {n : Nat} (h : n ≤ 8760) (fresh : Nat) : hoursOf n fresh = max 1 n := by
  unfold hoursOf
  rw [if_neg (Nat.not_lt.2 h)]
  split <;> omega

theorem exec_registerWrite_ctxAddr (v : Word) (s : State) : exec (.registerWrite 0 0x1000 v) s = .next { s with regs :=
    if s.regs.ctxGo then s.regs else { s.regs with ctxAddr := v &&& 0x000FFFFFFFFFFFC0 } } := by
  have h : wd (fld v 6 46 * 64) = v &&& 0x000FFFFFFFFFFFC0 := wd_fld_mul v 6 46
  rw [exec_registerWrite_config rfl, ← h]
  show Host.Outcome.next (if s.regs.ctxGo then s else _) = _
  split <;> rfl

theorem exec_registerWrite_qtab (v : Word) (s : State) : exec (.registerWrite 0 0x1010 v) s = .next { s with regs :=
    if s.queues = [] then { s.regs with qtab := v &&& 0x000FFFFFFFFF0000 } else s.regs } := by
  have h : wd (fld v 16 36 * 2 ^ 16) = v &&& 0x000FFFFFFFFF0000 := wd_fld_mul v 16 36
  rw [exec_registerWrite_config rfl, ← h]
  show Host.Outcome.next (if s.queues = [] then _ else s) = _
  split <;> rfl

theorem exec_registerWrite_attAddr (v : Word) (s : State) : exec (.registerWrite 0 0x10A0 v) s = .next { s with regs :=
    if s.regs.attGo then s.regs else { s.regs with attAddr := v } } := by
  rw [exec_registerWrite_config rfl]
  show Host.Outcome.next (if s.regs.attGo then s else _) = _
  split <;> rfl

theorem exec_registerWrite_linkCfg (v : Word) (s : State) : exec (.registerWrite 0 0x1080 v) s = .next { s with regs :=
    if ((List.range 24).all fun p => decide ((s.port p).st = .down)) = true then
      { s.regs with linkCfg := BitVec.ofNat 64 (max 100 (min 1000000 (v.toNat / 2 ^ 12 % 2 ^ 20)) * 2 ^ 12 + v.toNat % 2 ^ 6) }
    else s.regs } := by
  have hall : (s.ports.toList.all fun x => decide (x.st = .down)) =
      (List.range 24).all fun p => decide ((s.port p).st = .down) := by
    rw [State.ports_toList, List.all_map]
    rfl
  rw [exec_registerWrite_config rfl, ← hall, ← fld_from_zero]
  show Host.Outcome.next (writeLinkCfg v s) = _
  unfold writeLinkCfg
  split <;> rfl

theorem exec_registerWrite_hotRing (v : Word) (s : State) : exec (.registerWrite 0 0x1040 v) s = .next { s with regs :=
    { s.regs with hotRing := v &&& 0x000FFFFFFFFFFF00 } } := by
  have h : wd (fld v 8 44 * 256) = v &&& 0x000FFFFFFFFFFF00 := wd_fld_mul v 8 44
  rw [exec_registerWrite_config rfl, ← h]
  rfl

theorem exec_registerWrite_slogRing (v : Word) (s : State) : exec (.registerWrite 0 0x1068 v) s = .next { s with regs :=
    { s.regs with slogRing := v &&& 0x000FFFFFFFFFFF00 } } := by
  have h : wd (fld v 8 44 * 256) = v &&& 0x000FFFFFFFFFFF00 := wd_fld_mul v 8 44
  rw [exec_registerWrite_config rfl, ← h]
  rfl

theorem exec_registerWrite_hdmCtx (v : Word) (s : State) : exec (.registerWrite 0 0x1090 v) s = .next { s with regs :=
    { s.regs with hdmCtx := v &&& 0xFFF } } := by
  have h : wd (fld v 0 12) = v &&& 0xFFF := (congrArg wd (Nat.mul_one _)).symm.trans (wd_fld_mul v 0 12)
  rw [exec_registerWrite_config rfl, ← h]
  rfl

theorem exec_registerWrite_rcldl (v : Word) (s : State) : exec (.registerWrite 0 0x1020 v) s = .next { s with regs :=
    { s.regs with rcldl := BitVec.ofNat 14 (max 1 (min 10000 (v.toNat % 2 ^ 14))) } } := by
  rw [exec_registerWrite_config rfl, ← fld_from_zero]
  rfl

theorem exec_registerWrite_pwrLimit (v : Word) (s : State) : exec (.registerWrite 0 0x1098 v) s = .next { s with regs :=
    { s.regs with pwrLimit := BitVec.ofNat 16 (max 1500 (min 4500 (v.toNat % 2 ^ 16))) } } := by
  rw [exec_registerWrite_config rfl, ← fld_from_zero]
  rfl

theorem exec_registerWrite_hotTh (v : Word) (s : State) : exec (.registerWrite 0 0x1048 v) s = .next { s with regs :=
    { s.regs with hotTh := v.setWidth 32 } } := exec_registerWrite_config rfl v s

theorem exec_registerWrite_hotHead (v : Word) (s : State) : exec (.registerWrite 0 0x1058 v) s = .next { s with regs :=
    { s.regs with hotHead := v } } := exec_registerWrite_config rfl v s

theorem exec_registerWrite_rakeCtl {v : Word} (h : v.toNat / 2 ^ 16 % 2 ^ 16 ≤ 8760) (s : State) :
    exec (.registerWrite 0 0x1060 v) s = .next { s with fresh := s.fresh + 1, regs := { s.regs with
      rakeCtl := BitVec.ofNat 64 (max 1 (v.toNat / 2 ^ 16 % 2 ^ 16) * 2 ^ 16 + v.toNat % 2) } } := by
  have hbit : fld v 0 1 = v.toNat % 2 := fld_from_zero v 1
  rw [exec_registerWrite_config rfl, ← hoursOf_eq_max h s.fresh, ← hbit]
  rfl

/-! ## Doorbells of BAR2, and offsets outside every register -/

theorem exec_registerWrite_tail {n : Nat} (hn : n < 65536) (v : Word) (s : State) :
    exec (.registerWrite 2 (16 * n) v) s = exec (.tail n v) s := by
  show Host.Outcome.next (if (2 : Nat) = 0 then _ else if _ then goesOn s (execTail (16 * n / 16) v s) else s) = _
  rw [if_neg (by decide), if_pos (by omega), show 16 * n / 16 = n by omega]
  rfl

/-- A write of PROGRESS is ignored (R182). -/
theorem exec_registerWrite_progress (n : Nat) (v : Word) (s : State) :
    exec (.registerWrite 2 (16 * n + 8) v) s = .next s := by
  show Host.Outcome.next (if (2 : Nat) = 0 then _ else if _ then _ else s) = _
  rw [if_neg (by decide), if_neg (by omega)]

/-- A queue that is not the host's ignores a write of TAIL (R182). -/
theorem exec_tail_of_kind {s : State} {n : Nat} {x : Queue} (hx : s.queue? n = some x) (hk : x.kind ≠ 0) (v : Word) :
    exec (.tail n v) s = .next s := by
  show execTail n v s = _
  simp [execTail, hx, hk]

theorem barRead_tail {s : State} {n : Nat} {x : Queue} (hx : s.queue? n = some x) : barRead 2 (16 * n) s = x.tailNow := by
  rw [barRead, if_pos rfl, show 16 * n / 16 = n by omega, hx]
  exact if_pos (by omega)

theorem barRead_progress {s : State} {n : Nat} {x : Queue} (hx : s.queue? n = some x) :
    barRead 2 (16 * n + 8) s = x.progNow := by
  rw [barRead, if_pos rfl, show (16 * n + 8) / 16 = n by omega, hx]
  exact (if_neg (by omega)).trans (if_pos (by omega))

/-- The registers of BAR0 that stand alone, by their offsets (R435). -/
def singleRegisters : List Nat :=
  [0, 8, 0x1000, 0x1008, 0x1010, 0x1018, 0x1020, 0x1030, 0x1040, 0x1048, 0x1050, 0x1058, 0x1060, 0x1068, 0x1070,
    0x1080, 0x1090, 0x1098, 0x10A0, 0x10A8, 0x10B0, 0x10B8, 0x10C0, 0x10C8]

/-- An offset in none of the registers of BAR0, the blocks of ports, routes and debug registers among them (R435). -/
def noRegister (off : Nat) : Prop :=
  (∀ r ∈ singleRegisters, ¬ (r ≤ off ∧ off < r + 8)) ∧
  ¬ (0x1100 ≤ off ∧ off < 0x11C0) ∧ ¬ (0x1200 ≤ off ∧ off < 0x1400) ∧ ¬ (0x20000 ≤ off ∧ off < 0x50000)

/-- No register starts at such an offset. -/
theorem noRegister.ne {off r : Nat} (h : noRegister off) (hr : r ∈ singleRegisters) : off ≠ r := by
  rintro rfl
  exact h.1 off hr ⟨le_rfl, by omega⟩

theorem exec_registerWrite_of_noRegister {off : Nat} (h : noRegister off) (v : Word) (s : State) :
    exec (.registerWrite 0 off v) s = .next s := by
  have hstores : storesOnly off = false := by
    rw [storesOnly, ← Bool.not_eq_true, List.contains_iff_mem]
    have hsub : [0x1000, 0x1010, 0x1020, 0x1040, 0x1048, 0x1058, 0x1060, 0x1068, 0x1080, 0x1090, 0x1098, 0x10A0] ⊆
        singleRegisters := by decide
    exact fun hmem => h.ne (hsub hmem) rfl
  have hcmd : off ≠ 0x0008 ∧ off ≠ 0x1008 ∧ off ≠ 0x1018 ∧ off ≠ 0x10A8 :=
    ⟨h.ne (by decide), h.ne (by decide), h.ne (by decide), h.ne (by decide)⟩
  obtain ⟨-, hport, hroute, hdbg⟩ := h
  rw [exec_registerWrite_bar0, writeBar0_config v s hcmd hport hroute hdbg, writeConfig_of_not_storesOnly hstores]

theorem barRead_of_noRegister {off : Nat} (h : noRegister off) (s : State) : barRead 0 off s = 0 := by
  have hconfig : readConfig off s = 0 := by
    unfold readConfig
    split
    case h_24 => rfl
    all_goals exact absurd rfl (h.ne (by decide))
  obtain ⟨-, hport, hroute, hdbg⟩ := h
  rw [barRead, if_neg (by decide), if_neg hport, if_neg hroute, if_neg hdbg, hconfig, ite_self]

/-! ## The obligation -/

/-- Settles O54: each register by the lemma on its offset; a port's EN keeps DRAIN through every flit that leaves. -/
theorem registerWrites : Obligations.RegisterWrites := by
  unfold Obligations.RegisterWrites
  refine ⟨fun s v => ⟨?stores, fun h => exec_registerWrite_rakeCtl h s, ?single, ?ctx, ?queue, ?route, ?enable, ?disable,
    ?drain, ?debug, fun n hn => exec_registerWrite_tail hn v s⟩, fun s n x v hn hx => ⟨?tail, ?progress, ?ignored, ?kind⟩,
    fun s off v h hport hroute hdbg _ => ?none⟩
  case stores =>
    simp only [List.forall_mem_cons]
    exact ⟨exec_registerWrite_rcldl v s, exec_registerWrite_hotRing v s, exec_registerWrite_hotTh v s,
      exec_registerWrite_hotHead v s, exec_registerWrite_slogRing v s, exec_registerWrite_hdmCtx v s,
      exec_registerWrite_pwrLimit v s, exec_registerWrite_ctxAddr v s, exec_registerWrite_qtab v s,
      exec_registerWrite_attAddr v s, exec_registerWrite_linkCfg v s, nofun⟩
  case single => exact fun h => ⟨exec_registerWrite_devrst h s, exec_registerWrite_attcmd h s⟩
  case ctx =>
    intro hgo hidle
    have hcmd {op : Nat} := exec_registerWrite_ctxCmd (op := op) hgo hidle
    exact ⟨hcmd, hcmd, hcmd, hcmd, hcmd, fun h => (hcmd rfl).trans (ctxCommand_of_bad h _ s)⟩
  case queue =>
    intro hgo
    have hcmd {op : Nat} (h : v.toNat / 2 ^ 60 % 2 ^ 3 = op) := exec_registerWrite_qcmd hgo h s
    exact ⟨hcmd, hcmd, hcmd, fun h => (hcmd rfl).trans (queueCommand_of_bad h _ s)⟩
  case route => exact fun d hd => exec_registerWrite_route hd v s
  case enable =>
    intro p hp hs h
    rw [exec_registerWrite_en hp hs (by omega), if_pos (by omega)]
  case disable =>
    intro p hp hs h
    rw [exec_registerWrite_en hp hs (by omega), if_neg (by omega)]
  case drain => exact fun p hp hd => exec_registerWrite_drain hp hd s
  case debug => exact fun h k hh hk => exec_registerWrite_debug hh hk v s
  case tail => exact barRead_tail hx
  case progress => exact barRead_progress hx
  case ignored => exact exec_registerWrite_progress n v s
  case kind => exact fun hk => (exec_registerWrite_tail hn v s).trans (exec_tail_of_kind hx hk v)
  case none =>
    have hno : noRegister off := ⟨h, hport, hroute, hdbg⟩
    exact ⟨exec_registerWrite_of_noRegister hno v s, barRead_of_noRegister hno s⟩

end Sys2Proof.Machine
end

section
/-!
PROOFS. The canonical form of the memories (log 4), part by part, and that the operations on lines, ports, pages,
barriers, frames and traps keep it. One lemma for each function of the model: it keeps the form where its state has
it. The `grind_pattern`s offer a lemma where a term of its function meets a canonical state, so that `grind` closes
the routine branches; the branches that turn on more are written out.
-/
namespace Sys2Proof.Machine
open Sys2Proof

/-! ## The canonical form by parts

A record update that leaves the parts alone leaves the form alone: with the form stated over the parts, `grind` sees
this through the projections of the updated record. -/

/-- The memories of the state in canonical form: the device's, the host's, the peers', and those of the units. -/
def PartsCanonical (harts : Sparse Hart) (cores : Sparse Core) (groups : Sparse Group) (mem hostMem : ByteStore)
    (peerMem : Sparse ByteStore) : Prop :=
  Memory.wf mem = true ∧ Memory.wf hostMem = true ∧ (∀ p ∈ peerMem, Memory.wf p.2 = true) ∧
  (∀ p ∈ cores, p.2.canonical) ∧ (∀ p ∈ harts, p.2.vecWf) ∧ ∀ p ∈ groups, p.2.canonical

theorem State.canonical_iff (s : State) :
    s.canonical ↔ PartsCanonical s.harts s.cores s.groups s.mem s.hostMem s.peerMem := Iff.rfl
grind_pattern State.canonical_iff => s.canonical

/-- The vector registers in canonical form. -/
def RegsWf (v : Vector ByteStore 64) : Prop := ∀ i : Nat, Memory.wf (v[i]!) = true

theorem Hart.vecWf_iff (h : Hart) : h.vecWf ↔ RegsWf h.vreg := Iff.rfl
grind_pattern Hart.vecWf_iff => h.vecWf

/-- What a save of a group holds of its core, in canonical form. -/
def SavesWf (lp : Sparse ByteStore) (acc : Option (Vector ByteStore 2)) : Prop :=
  (∀ p ∈ lp, Memory.wf p.2 = true) ∧ ∀ a, acc = some a → ∀ i : Nat, Memory.wf (a[i]!) = true

theorem Group.canonical_iff (x : Group) : x.canonical ↔ SavesWf x.saveLp x.saveAcc := Iff.rfl
grind_pattern Group.canonical_iff => x.canonical

/-- The SRAMs and the tiles of a core in canonical form. -/
def SramsWf (spad sdata : ByteStore) (lpriv : Vector ByteStore 32) (acc : Vector ByteStore 2) : Prop :=
  Memory.wf spad = true ∧ Memory.wf sdata = true ∧ (∀ l : Nat, Memory.wf (lpriv[l]!) = true) ∧
  ∀ a : Nat, Memory.wf (acc[a]!) = true

theorem Core.canonical_iff (c : Core) : c.canonical ↔ SramsWf c.spad c.sdata c.lpriv c.acc := Iff.rfl
grind_pattern Core.canonical_iff => c.canonical

/-- A state whose parts are those of `s`, whatever else changed. -/
theorem State.canonical_mk {s : State} {kernels ctxs queues lines outMarks tlb migs copies tables chq chseq runs
    queries calls regs routes lostDevs ports outq mail held heldHost islands hot msix pcie reply fatal serial nextId
    keyGen qturn cur agenda clock fresh} (h : s.canonical) :
    (State.mk s.harts s.cores s.groups kernels ctxs queues s.mem lines s.hostMem s.peerMem outMarks tlb migs copies
      tables chq chseq runs queries calls regs routes lostDevs ports outq mail held heldHost islands hot msix pcie
      reply fatal serial nextId keyGen qturn cur agenda clock fresh).canonical := h
grind_pattern State.canonical_mk => State.mk s.harts s.cores s.groups kernels ctxs queues s.mem lines s.hostMem
  s.peerMem outMarks tlb migs copies tables chq chseq runs queries calls regs routes lostDevs ports outq mail held
  heldHost islands hot msix pcie reply fatal serial nextId keyGen qturn cur agenda clock fresh, s.canonical

theorem State.canonical_withGroups {s : State} {gs : Sparse Group} (hs : s.canonical)
    (hg : ∀ p ∈ gs, p.2.canonical) : ({ s with groups := gs } : State).canonical := by
  obtain ⟨hm, hh, hp, hc, ht, -⟩ := hs
  exact ⟨hm, hh, hp, hc, ht, hg⟩

theorem State.canonical_withMem {s : State} {m : ByteStore} {l : Sparse Line} (hs : s.canonical)
    (hm : Memory.wf m = true) : ({ s with mem := m, lines := l } : State).canonical := ⟨hm, hs.2⟩

/-- A state without units is in canonical form where the memories outside the cores are. -/
theorem State.canonical_of_noUnits {s : State} (hm : Memory.wf s.mem = true) (hh : Memory.wf s.hostMem = true)
    (hp : ∀ p ∈ s.peerMem, Memory.wf p.2 = true) (hc : s.cores = []) (ht : s.harts = []) (hg : s.groups = []) :
    s.canonical :=
  ⟨hm, hh, hp, hc ▸ List.forall_mem_nil _, ht ▸ List.forall_mem_nil _, hg ▸ List.forall_mem_nil _⟩

/-- Where every element of a vector has a property, so it has with one replaced by another that has it. -/
theorem forall_set {α : Type} [Inhabited α] {P : α → Prop} {n : Nat} {v : Vector α n} {x : α} (k : Nat) (hx : P x)
    (hv : ∀ i : Nat, P (v[i]!)) (i : Nat) : P ((v.set! k x)[i]!) := by
  by_cases hk : k < n
  · rw [vector_get_set _ _ _ _ hk]
    split
    · exact hx
    · exact hv i
  · rw [show v.set! k x = v from by simp [Vector.set!, Array.setIfInBounds, hk]]
    exact hv i

theorem lanes_wf {c : Core} (hc : c.canonical) (l : List Nat) :
    ∀ p ∈ l.map fun i => (i, c.lpriv[i]!), Memory.wf p.2 = true := by
  obtain ⟨-, -, hl, -⟩ := hc
  simp only [List.mem_map]
  rintro _ ⟨i, -, rfl⟩
  exact hl i

theorem noTiles_wf (i : Nat) : Memory.wf ((Vector.replicate 2 ([] : ByteStore))[i]!) = true := by
  obtain ⟨-, -, -, ha⟩ := Core.reset_canonical
  exact ha i

/-! ## The units of a state, and a state with one of them changed -/

theorem smDel_all {α : Type} {P : α → Prop} {m : Sparse α} {k : Nat} (h : ∀ p ∈ m, P p.2) :
    ∀ p ∈ smDel m k, P p.2 := fun p hp => h p (List.mem_of_mem_filter hp)

theorem State.canonical_groupOf {s : State} {j : Nat} {p : Nat × Group} (hs : s.canonical)
    (e : s.groupOf j = some p) : p.2.canonical := by
  unfold State.groupOf at e
  split at e
  · obtain ⟨x, hx, rfl⟩ := Option.map_eq_some_iff.1 e
    exact State.canonical_group hs hx
  · cases e
grind_pattern State.canonical_groupOf => s.groupOf j, some p, s.canonical

theorem State.canonical_myGroup {s : State} {p : Nat × Group} (hs : s.canonical) (e : s.myGroup = some p) :
    p.2.canonical := State.canonical_groupOf hs e
grind_pattern State.canonical_myGroup => s.myGroup, some p, s.canonical

theorem State.canonical_groups {s : State} (hs : s.canonical) : ∀ p ∈ s.groups, p.2.canonical := by
  obtain ⟨-, -, -, -, -, hg⟩ := hs
  exact hg

theorem coreGroups_canonical {s : State} {c : Nat} {p : Nat × Group} (hs : s.canonical) (hp : p ∈ coreGroups s c) :
    p.2.canonical := State.canonical_groups hs p (List.mem_of_mem_filter hp)
grind_pattern coreGroups_canonical => p ∈ coreGroups s c, s.canonical

theorem State.canonical_setMe {s : State} {x : Hart} (h : s.canonical) (hx : x.vecWf) : (s.setMe x).canonical :=
  State.canonical_setHart h hx

/-- `State.canonical_modHart` where what the change does to the hart itself is known. -/
theorem State.canonical_modHart_at {s : State} {j : Nat} {f : Hart → Hart} (h : s.canonical)
    (hf : (f (s.hart j)).vecWf) : (s.modHart j f).canonical := State.canonical_setHart h hf

theorem State.canonical_modMe {s : State} {f : Hart → Hart} (h : s.canonical) (hf : (f s.me).vecWf) :
    (s.modMe f).canonical := State.canonical_setHart h hf

theorem State.canonical_modMe_of {s : State} {f : Hart → Hart} (hs : s.canonical)
    (hf : ∀ x : Hart, x.vecWf → (f x).vecWf) : (s.modMe f).canonical := State.canonical_modHart hs hf

theorem State.canonical_modGroup {s : State} {g : Nat} {f : Group → Group} (h : s.canonical)
    (hf : ∀ x : Group, x.canonical → (f x).canonical) : (s.modGroup g f).canonical := by
  unfold State.modGroup
  split
  · next e => exact State.canonical_setGroup h (hf _ (State.canonical_group h e))
  · exact h

grind_pattern State.canonical_hart => s.hart j, s.canonical
grind_pattern State.canonical_me => s.me, s.canonical
grind_pattern State.canonical_core => s.core c, s.canonical
grind_pattern State.canonical_group => s.group? g, some x, s.canonical
grind_pattern State.canonical_setHart => s.setHart j x, s.canonical
grind_pattern State.canonical_setMe => s.setMe x, s.canonical
grind_pattern State.canonical_setCore => s.setCore c x, s.canonical
grind_pattern State.canonical_setGroup => s.setGroup g x, s.canonical
grind_pattern State.canonical_modHart_at => s.modHart j f, s.canonical
grind_pattern State.canonical_modMe => s.modMe f, s.canonical
grind_pattern State.canonical_modGroup => s.modGroup g f, s.canonical
grind_pattern State.canonical_modCtx => s.modCtx a f, s.canonical
grind_pattern bump_canonical => s.bump, s.canonical
grind_pattern writeLoc_canonical => writeLoc l c d s, s.canonical
grind_pattern performAll_canonical => performAll l s, s.canonical
grind_pattern settleAll_canonical => settleAll j s, s.canonical
grind_pattern settleSome_canonical => settleSome j s, s.canonical
grind_pattern ovuneWrite_canonical => ovuneWrite pa d s, s.canonical
grind_pattern countHots_canonical => countHots w ps s, s.canonical
grind_pattern countPlaces_canonical => countPlaces w ps s, s.canonical

/-! ## What an operation answers -/

/-- The next state, where a step answers one, is in canonical form. -/
def NextCanonical (o : Host.Outcome State Fault Refusal) : Prop := ∀ t, o = .next t → t.canonical

theorem NextCanonical.next {t : State} (h : t.canonical) : NextCanonical (.next t) := by
  rintro _ ⟨⟩
  exact h
grind_pattern NextCanonical.next => NextCanonical (.next t)

/-- A state with what came of it is in canonical form where the state is. -/
theorem fst_canonical {α : Type} {r : State × α} {t : State} {x : α} (e : r = (t, x)) (h : r.1.canonical) :
    t.canonical := by
  subst e
  exact h

theorem ite_canonical {c : Prop} [Decidable c] {s t : State} (hs : s.canonical) (ht : t.canonical) :
    (if c then s else t).canonical := by
  split
  · exact hs
  · exact ht

/-! ## Folds and loops -/

/-- `foldl_keeps` for a step that keeps the property at the elements of the list. -/
theorem foldl_keeps_mem {α β : Type} {P : α → Prop} {f : α → β → α} {l : List β} {a : α} (h : P a)
    (hf : ∀ a, ∀ b ∈ l, P a → P (f a b)) : P (l.foldl f a) := by
  induction l generalizing a with
  | nil => exact h
  | cons b l ih => exact ih (hf a b (by simp) h) fun a c hc => hf a c (by simp [hc])

theorem foldl_canonical {β : Type} {f : State → β → State} {l : List β} {s : State} (hs : s.canonical)
    (hf : ∀ t : State, ∀ b ∈ l, t.canonical → (f t b).canonical) : (l.foldl f s).canonical :=
  foldl_keeps_mem (P := State.canonical) hs hf
grind_pattern foldl_canonical => l.foldl f s, s.canonical

theorem loopFrom_canonical {τ : Type} {f : Nat → State → State × Option τ} {n i : Nat} {s : State}
    (hs : s.canonical) (hf : ∀ (k : Nat) (t : State), t.canonical → (f k t).1.canonical) :
    (loopFrom f n i s).1.canonical := by
  induction n generalizing i s with
  | zero => exact hs
  | succ n ih =>
    unfold loopFrom
    split
    · next e => exact ih (fst_canonical e (hf i s hs))
    · next e => exact fst_canonical e (hf i s hs)
grind_pattern loopFrom_canonical => loopFrom f n i s, s.canonical

/-! ## Operations on the device's parts, and the traps -/

theorem State.setCtx_canonical {s : State} {a : Nat} {x : Ctx} (hs : s.canonical) :
    (State.setCtx s a x).canonical := hs

theorem State.setKernel_canonical {s : State} {k : Nat} {x : Kernel} (hs : s.canonical) :
    (State.setKernel s k x).canonical := hs

theorem Hart.vecWf_set {h : Hart} {r : BitVec 6} {v : Word} (hx : h.vecWf) : (h.set r v).vecWf := by
  simpa [Hart.vecWf_iff] using hx
grind_pattern Hart.vecWf_set => h.set r v, h.vecWf

theorem State.setSr_canonical {s : State} {r : BitVec 6} {v : Word} (hs : s.canonical) :
    (State.setSr s r v).canonical :=
  canonical_modMe_of hs fun _ h => Hart.vecWf_set h
grind_pattern State.setSr_canonical => State.setSr s r v, s.canonical

theorem Hart.setMask_vecWf {h : Hart} {m : Nat} {v : BitVec 16384} (hx : h.vecWf) : (Hart.setMask h m v).vecWf := by
  unfold Hart.setMask
  split
  · exact hx
  · exact hx

theorem State.setLine_canonical {s : State} {i : Nat} {l : Line} (hs : s.canonical) :
    (State.setLine s i l).canonical := hs

theorem countHotBy_canonical {k asid : Nat} {va : Option Nat} {pa : Nat} {s : State} (hs : s.canonical) :
    (countHotBy k asid va pa s).canonical := by
  unfold countHotBy
  split
  · exact hs
  · exact hs

theorem countHot_canonical {asid : Nat} {va : Option Nat} {pa : Nat} {s : State} (hs : s.canonical) :
    (countHot asid va pa s).canonical :=
  countHotBy_canonical hs
grind_pattern countHot_canonical => countHot asid va pa s, s.canonical

theorem State.modPort_canonical {s : State} {p : Nat} {f : Port → Port} (hs : s.canonical) :
    (State.modPort s p f).canonical := hs
grind_pattern State.modPort_canonical => State.modPort s p f, s.canonical

theorem pumpAll_canonical {l : List OutFlit} {s : State} (hs : s.canonical) : (pumpAll l s).1.canonical := by
  fun_induction pumpAll l s <;> grind
grind_pattern pumpAll_canonical => pumpAll l s, s.canonical

theorem pump_canonical {s : State} (hs : s.canonical) : (pump s).canonical := by
  unfold pump
  grind
grind_pattern pump_canonical => pump s, s.canonical

theorem queueFlit_canonical {f : OutFlit} {s : State} (hs : s.canonical) : (queueFlit f s).canonical :=
  pump_canonical hs

theorem sendFlit_canonical {p ty : Nat} {s : State} (hs : s.canonical) : (sendFlit p ty s).canonical :=
  queueFlit_canonical (bump_canonical hs)

theorem sendFor_canonical {store : Option Nat} {d ty : Nat} {s : State} (hs : s.canonical) :
    (sendFor store d ty s).canonical :=
  queueFlit_canonical (bump_canonical hs)

theorem sendTo_canonical {d ty : Nat} {s : State} (hs : s.canonical) : (sendTo d ty s).canonical :=
  sendFor_canonical hs

theorem sendGroup_canonical {d g : Nat} {s : State} (hs : s.canonical) : (sendGroup d g s).canonical :=
  queueFlit_canonical (bump_canonical hs)

theorem countWalk_canonical {asid va : Nat} {s : State} (hs : s.canonical) : (countWalk asid va s).canonical :=
  foldl_canonical hs fun _ _ _ h => countHot_canonical h
grind_pattern countWalk_canonical => countWalk asid va s, s.canonical

theorem tlbFill_canonical {t : TlbAt} {l : Leaf} {s : State} (hs : s.canonical) : (tlbFill t l s).canonical := hs
grind_pattern tlbFill_canonical => tlbFill t l s, s.canonical

theorem placeOf_canonical {w : Who} {acc : Access} {va n : Nat} {l : Leaf} {s : State} (hs : s.canonical) :
    (placeOf w acc va n l s).1.canonical := by
  unfold placeOf
  split
  · dsimp only
    split
    · exact hs
    · grind
  · dsimp only
    split
    · exact hs
    · grind
grind_pattern placeOf_canonical => placeOf w acc va n l s, s.canonical

theorem leafOf_canonical {w : Who} {acc : Access} {va : Nat} {s : State} (hs : s.canonical) :
    (leafOf w acc va s).1.canonical := by
  have hw := countWalk_canonical (asid := w.asid) (va := va) hs
  unfold leafOf
  split
  · exact hs
  · grind
grind_pattern leafOf_canonical => leafOf w acc va s, s.canonical

theorem lookUp_canonical {w : Who} {acc : Access} {va : Nat} {s : State} (hs : s.canonical) :
    (lookUp w acc va s).1.canonical := by
  unfold lookUp
  split
  · exact hs
  · exact leafOf_canonical hs
grind_pattern lookUp_canonical => lookUp w acc va s, s.canonical

theorem granted_canonical {w : Who} {acc : Access} {va n : Nat} {l : Leaf} {s : State} (hs : s.canonical) :
    (granted w acc va n l s).1.canonical := by
  unfold granted
  split
  · exact placeOf_canonical hs
  · exact hs
grind_pattern granted_canonical => granted w acc va n l s, s.canonical

theorem translate_canonical {w : Who} {acc : Access} {va n : Nat} {s : State} (hs : s.canonical) :
    (translate w acc va n s).1.canonical := by
  unfold translate
  split
  · next e1 => exact fst_canonical e1 (lookUp_canonical hs)
  · next e1 => exact granted_canonical (fst_canonical e1 (lookUp_canonical hs))
grind_pattern translate_canonical => translate w acc va n s, s.canonical

theorem lookUpAll_canonical {w : Who} {acc : Access} {l : List (Nat × Nat)} {s : State} (hs : s.canonical) :
    (lookUpAll w acc l s).1.canonical := by
  fun_induction lookUpAll w acc l s <;> grind
grind_pattern lookUpAll_canonical => lookUpAll w acc l s, s.canonical

theorem grantedAll_canonical {w : Who} {acc : Access} {l : List ((Nat × Nat) × Leaf)} {s : State}
    (hs : s.canonical) :
    (grantedAll w acc l s).1.canonical := by
  fun_induction grantedAll w acc l s <;> grind
grind_pattern grantedAll_canonical => grantedAll w acc l s, s.canonical

theorem translateAll_canonical {w : Who} {acc : Access} {ps : List (Nat × Nat)} {s : State} (hs : s.canonical) :
    (translateAll w acc ps s).1.canonical := by
  unfold translateAll
  split
  · next e1 => exact fst_canonical e1 (lookUpAll_canonical hs)
  · next e1 => exact grantedAll_canonical (fst_canonical e1 (lookUpAll_canonical hs))
grind_pattern translateAll_canonical => translateAll w acc ps s, s.canonical

theorem placeFault_canonical {p : Place} {s : State} (hs : s.canonical) : (placeFault p s).1.canonical := by
  unfold placeFault
  split
  · split
    · exact hs
    · exact hs
    · exact hs
  · split
    · grind
    · grind
  · exact hs
  · exact hs
  · exact hs
  · exact hs
grind_pattern placeFault_canonical => placeFault p s, s.canonical

theorem placesFault_canonical {l : List Place} {s : State} (hs : s.canonical) : (placesFault l s).1.canonical := by
  fun_induction placesFault l s <;> grind
grind_pattern placesFault_canonical => placesFault l s, s.canonical

theorem vread_canonical {w : Who} {acc : Access} {va n : Nat} {s : State} (hs : s.canonical) :
    (vread w acc va n s).1.canonical := by
  unfold vread
  split
  · next e1 => exact fst_canonical e1 (translateAll_canonical hs)
  · next _ s1 _ e1 =>
    have h1 : s1.canonical := fst_canonical e1 (translateAll_canonical hs)
    split
    · exact h1
    · split
      · next e2 => exact fst_canonical e2 (placesFault_canonical h1)
      · grind
grind_pattern vread_canonical => vread w acc va n s, s.canonical

theorem vwriteCheck_canonical {w : Who} {va n : Nat} {s : State} (hs : s.canonical) :
    (vwriteCheck w va n s).1.canonical := by
  unfold vwriteCheck
  split
  · next e1 => exact fst_canonical e1 (translateAll_canonical hs)
  · next _ s1 _ e1 =>
    have h1 : s1.canonical := fst_canonical e1 (translateAll_canonical hs)
    split
    · exact h1
    · split
      · exact h1
      · exact h1
grind_pattern vwriteCheck_canonical => vwriteCheck w va n s, s.canonical

theorem vwrite_canonical {w : Who} {va : Nat} {data : List Byte} {s : State} (hs : s.canonical) :
    (vwrite w va data s).1.canonical := by
  unfold vwrite
  split
  · next e1 => exact fst_canonical e1 (vwriteCheck_canonical hs)
  · grind
grind_pattern vwrite_canonical => vwrite w va data s, s.canonical

theorem vamoAt_canonical {w : Who} {aop va n v e : Nat} {s : State} (hs : s.canonical) :
    (vamoAt w aop va n v e s).1.canonical := by
  unfold vamoAt
  split
  · next e1 => exact fst_canonical e1 (translate_canonical hs)
  · next _ s1 _ e1 =>
    have h1 : s1.canonical := fst_canonical e1 (translate_canonical hs)
    split
    · grind
    · grind
grind_pattern vamoAt_canonical => vamoAt w aop va n v e s, s.canonical

theorem vreadNat_canonical {w : Who} {va n : Nat} {s : State} (hs : s.canonical) :
    (vreadNat w va n s).1.canonical := by
  unfold vreadNat
  split
  · next e1 => exact fst_canonical e1 (vread_canonical hs)
  · next e1 => exact fst_canonical e1 (vread_canonical hs)
grind_pattern vreadNat_canonical => vreadNat w va n s, s.canonical

theorem sendStore_canonical {j : Nat} {vec : Bool} {va d : Nat} {s : State} (hs : s.canonical) :
    (sendStore j vec va d s).canonical :=
  sendFor_canonical (State.canonical_modHart hs fun _ h => h)
grind_pattern sendStore_canonical => sendStore j vec va d s, s.canonical

theorem noteRemote_canonical {j : Nat} {vec : Bool} {l : List PStore} {va : Nat} {s : State} (hs : s.canonical) :
    (noteRemote j vec l va s).canonical := by
  unfold noteRemote
  grind
grind_pattern noteRemote_canonical => noteRemote j vec l va s, s.canonical

theorem releaseGate_canonical {j : Nat} {s : State} {t : State} (hs : s.canonical) (e : releaseGate j s = .ok t) :
    t.canonical := by
  unfold releaseGate at e
  grind
grind_pattern releaseGate_canonical => releaseGate j s, Except.ok (ε := Stop) t, s.canonical

theorem fetch_canonical {s : State} (hs : s.canonical) : (fetch s).1.canonical := by
  unfold fetch
  split
  · next e1 => exact fst_canonical e1 (vread_canonical hs)
  · next e1 => exact fst_canonical e1 (vread_canonical hs)
  · next e1 => exact fst_canonical e1 (vread_canonical hs)

theorem linePlace_canonical {w : Who} {a n : Nat} {s : State} (hs : s.canonical) :
    (linePlace w a n s).1.canonical := by
  unfold linePlace
  split
  · next e1 => exact fst_canonical e1 (translate_canonical hs)
  · next _ s1 _ e1 =>
    have h1 : s1.canonical := fst_canonical e1 (translate_canonical hs)
    split
    · next e2 => exact fst_canonical e2 (placeFault_canonical h1)
    · next _ s2 e2 =>
      have h2 : s2.canonical := fst_canonical e2 (placeFault_canonical h1)
      split
      · exact h2
      · split
        · exact h2
        · grind
grind_pattern linePlace_canonical => linePlace w a n s, s.canonical

theorem recordPlace_canonical {w : Who} {a n : Nat} {s : State} (hs : s.canonical) :
    (recordPlace w a n s).1.canonical := by
  unfold recordPlace
  split
  · next e1 => exact fst_canonical e1 (linePlace_canonical hs)
  · next e1 => exact fst_canonical e1 (linePlace_canonical hs)
grind_pattern recordPlace_canonical => recordPlace w a n s, s.canonical

theorem recordPut_canonical {p : Place} {x : Nat} {s : State} (hs : s.canonical) : (recordPut p x s).canonical :=
  writeLoc_canonical hs
grind_pattern recordPut_canonical => recordPut p x s, s.canonical

theorem recordWrite_canonical {p : Place} {x : Nat} {s : State} {t : State} (hs : s.canonical)
    (e : recordWrite p x s = .ok t) :
    t.canonical := by
  unfold recordWrite at e
  grind
grind_pattern recordWrite_canonical => recordWrite p x s, Except.ok (ε := Stop) t, s.canonical

theorem recordUpdate_canonical {p : Place} {x y : Nat} {s : State} {t : State} (hs : s.canonical)
    (e : recordUpdate p x y s = .ok t) :
    t.canonical := by
  unfold recordUpdate at e
  grind
grind_pattern recordUpdate_canonical => recordUpdate p x y s, Except.ok (ε := Stop) t, s.canonical

theorem latchArrive_canonical {target : Nat} {x : Group} (hx : x.canonical) : (latchArrive target x).canonical := by
  unfold latchArrive
  split
  · exact hx
  · exact hx
grind_pattern latchArrive_canonical => latchArrive target x, x.canonical

theorem latchWithdraw_canonical {x : Group} (hx : x.canonical) : (latchWithdraw x).canonical := by
  unfold latchWithdraw
  split
  · exact hx
  · exact hx
grind_pattern latchWithdraw_canonical => latchWithdraw x, x.canonical

theorem latchLower_canonical {target : Nat} {x : Group} (hx : x.canonical) : (latchLower target x).canonical := by
  unfold latchLower
  split
  · exact hx
  · exact hx
grind_pattern latchLower_canonical => latchLower target x, x.canonical

theorem writeFrame_canonical {x : Group} {full : Bool} {s : State} (hs : s.canonical) :
    (writeFrame x full s).canonical := by
  unfold writeFrame
  grind
grind_pattern writeFrame_canonical => writeFrame x full s, s.canonical

theorem queueEvent_canonical {a : Nat} {e : BitVec 512} {s : State} (hs : s.canonical) :
    (queueEvent a e s).canonical :=
  State.canonical_modCtx hs
grind_pattern queueEvent_canonical => queueEvent a e s, s.canonical

theorem raiseMsix_canonical {v : Nat} {s : State} (hs : s.canonical) : (raiseMsix v s).canonical := hs
grind_pattern raiseMsix_canonical => raiseMsix v s, s.canonical

theorem Hart.goTo_vecWf {h : Hart} {target : Word} (hx : h.vecWf) : (Hart.goTo h target).vecWf := hx
grind_pattern Hart.goTo_vecWf => Hart.goTo h target, h.vecWf

theorem enterHandler_canonical {j : Nat} {t : Trap} {s : State} (hs : s.canonical) :
    (enterHandler j t s).canonical :=
  State.canonical_modHart hs fun _ h => h
grind_pattern enterHandler_canonical => enterHandler j t s, s.canonical

theorem endWaitOf_canonical {j : Nat} {s : State} (hs : s.canonical) : (endWaitOf j s).canonical := by
  unfold endWaitOf
  split
  · split
    · grind
    · exact hs
  · exact hs
grind_pattern endWaitOf_canonical => endWaitOf j s, s.canonical

theorem takeStep_canonical {j : Nat} {vec arr : Bool} {s : State} (hs : s.canonical) :
    (takeStep j vec arr s).canonical :=
  enterHandler_canonical (bump_canonical hs)
grind_pattern takeStep_canonical => takeStep j vec arr s, s.canonical

theorem lostRegister_wf (k : Nat) (r : ByteStore) : Memory.wf (lostRegister k r) = true := by
  unfold lostRegister
  split
  · rfl
  · exact bsWrite_wf _ _ _ rfl

theorem Hart.loseVectors_vecWf {k : Nat} {h : Hart} : (h.loseVectors k).vecWf := by
  intro i
  by_cases hi : i < 64
  · rw [getElem!_pos _ i hi]
    simp only [Hart.loseVectors, Vector.getElem_ofFn]
    exact lostRegister_wf _ _
  · rw [getElem!_neg _ i hi]
    rfl

theorem loseLanes_canonical {x : Group} {s : State} (hs : s.canonical) : (loseLanes x s).canonical :=
  foldl_canonical hs fun _ _ _ h => bump_canonical (State.canonical_modHart h fun _ _ => Hart.loseVectors_vecWf)
grind_pattern loseLanes_canonical => loseLanes x s, s.canonical

theorem countRange_canonical {asid : Nat} {on : Except Cause Leaf → Bool} {va n : Nat} {s : State}
    (hs : s.canonical) :
    (countRange asid on va n s).canonical :=
  foldl_canonical hs fun _ _ _ h => countWalk_canonical h

theorem countRefill_canonical {g : Nat} {s : State} (hs : s.canonical) : (countRefill g s).canonical := by
  unfold countRefill
  split
  · exact hs
  · exact foldl_canonical hs fun _ _ _ h => countRange_canonical h

theorem refillBolts_canonical {g : Nat} {s : State} (hs : s.canonical) : (refillBolts g s).canonical :=
  State.canonical_modGroup (countRefill_canonical hs) fun _ h => h

theorem Core.zeroLane_canonical {c : Core} {l : Nat} (hc : c.canonical) : (c.zeroLane l).canonical := by
  obtain ⟨hp, hd, hl, ha⟩ := hc
  exact ⟨hp, hd, forall_set (P := fun m => Memory.wf m = true) l rfl hl, ha⟩

theorem takeQuads_canonical {g : Nat} {q : BitVec 8} {s : State} (hs : s.canonical) :
    (takeQuads g q s).canonical := by
  unfold takeQuads
  split
  · exact hs
  · next x hx =>
    have hg : x.canonical := State.canonical_group hs hx
    refine refillBolts_canonical (State.canonical_setGroup (State.canonical_setCore hs ?_) hg)
    refine foldl_keeps (P := Core.canonical) (fun c i hc => ?_) _ (State.canonical_core hs x.core)
    show Core.canonical (if _ then c else _)
    split
    · exact hc
    · exact foldl_keeps (P := Core.canonical) (fun c l hc => Core.zeroLane_canonical hc) _ hc
grind_pattern takeQuads_canonical => takeQuads g q s, s.canonical

theorem releaseLanes_canonical {g : Nat} {s : State} (hs : s.canonical) : (releaseLanes g s).canonical := by
  unfold releaseLanes
  split
  · exact hs
  · dsimp only
    split
    · grind
    · grind
grind_pattern releaseLanes_canonical => releaseLanes g s, s.canonical

theorem leftAt_canonical {j : Nat} {sd : BitVec 6} {v : Word} {s : State} (hs : s.canonical) :
    (leftAt j sd v s).1.canonical := by
  unfold leftAt
  grind
grind_pattern leftAt_canonical => leftAt j sd v s, s.canonical

theorem leaveBar_canonical {j : Nat} {s : State} (hs : s.canonical) : (leaveBar j s).1.canonical := by
  unfold leaveBar
  split
  · split
    · grind
    · grind
  · exact hs
grind_pattern leaveBar_canonical => leaveBar j s, s.canonical

theorem leaveAll_canonical {l : List Nat} {r s : State} (hr : r.canonical) (hs : s.canonical) :
    (leaveAll l r s).1.canonical := by
  fun_induction leaveAll l r s <;> grind
grind_pattern leaveAll_canonical => leaveAll l r s, r.canonical, s.canonical

theorem Hart.dropAhead_vecWf {h : Hart} (hx : h.vecWf) : (Hart.dropAhead h).vecWf := hx
grind_pattern Hart.dropAhead_vecWf => Hart.dropAhead h, h.vecWf

theorem saveHart_canonical {j : Nat} {s : State} (hs : s.canonical) : (saveHart j s).canonical :=
  State.canonical_modHart (settleAll_canonical hs) fun _ h => h

theorem Hart.dropMasks_vecWf {h : Hart} (hx : h.vecWf) : (Hart.dropMasks h).vecWf := by
  unfold Hart.dropMasks
  split
  · exact hx
  · exact hx

/-- What a save of a group holds of its core. -/
theorem savesWf_of_core {c : Core} {p q : Prop} [Decidable p] [Decidable q] (hc : c.canonical) (l : List Nat) :
    SavesWf (if p then l.map fun i => (i, c.lpriv[i]!) else []) (if q then some c.acc else none) := by
  have ⟨_, _, _, htiles⟩ := hc
  constructor
  · split
    · exact lanes_wf hc l
    · nofun
  · intro a ha i
    split at ha
    · cases ha
      exact htiles i
    · cases ha

theorem finishSave_canonical {g : Nat} {s : State} (hs : s.canonical) : (finishSave g s).canonical := by
  unfold finishSave
  split
  · exact hs
  · next x hx =>
    split
    · refine releaseLanes_canonical (State.canonical_setGroup ?_ (savesWf_of_core (State.canonical_core hs x.core) _))
      grind
    · exact hs
grind_pattern finishSave_canonical => finishSave g s, s.canonical

theorem forceHart_canonical {j : Nat} {s : State} (hs : s.canonical) : (forceHart j s).canonical := by
  unfold forceHart
  split
  · exact hs
  · split
    · exact State.canonical_modHart hs fun _ h => h
    · split
      · next e1 => exact saveHart_canonical (fst_canonical e1 (leaveBar_canonical hs))
      · next e1 => exact State.canonical_modHart (fst_canonical e1 (leaveBar_canonical hs)) fun _ h => h
grind_pattern forceHart_canonical => forceHart j s, s.canonical

theorem forceSave_canonical {g : Nat} {s : State} (hs : s.canonical) : (forceSave g s).canonical := by
  unfold forceSave
  split
  · exact hs
  · split
    · exact hs
    · grind
grind_pattern forceSave_canonical => forceSave g s, s.canonical

theorem meetPreempt_canonical {g : Nat} {s : State} (hs : s.canonical) : (meetPreempt g s).canonical := by
  unfold meetPreempt
  split
  · exact hs
  · split
    · dsimp only
      split
      · next e1 => exact fst_canonical e1 (leaveAll_canonical hs hs)
      · next e1 => exact finishSave_canonical (foldl_canonical (State.canonical_modGroup (fst_canonical e1
          (leaveAll_canonical hs hs)) fun _ h => h) fun _ _ _ h => saveHart_canonical
          (State.canonical_modHart h fun _ h => Hart.dropMasks_vecWf h))
    · exact hs
grind_pattern meetPreempt_canonical => meetPreempt g s, s.canonical

theorem forceSaveAll_canonical {a : Nat} {s : State} (hs : s.canonical) : (forceSaveAll a s).canonical :=
  foldl_canonical hs fun _ _ _ h => forceSave_canonical h

theorem markFaulted_canonical {a : Nat} {s : State} (hs : s.canonical) : (markFaulted a s).canonical := by
  unfold markFaulted
  split
  · dsimp only
    split
    · exact State.setCtx_canonical hs
    · exact State.setCtx_canonical hs
    · exact hs
  · dsimp only
    split
    · exact forceSaveAll_canonical (State.setCtx_canonical hs)
    · exact State.setCtx_canonical hs
    · exact hs
grind_pattern markFaulted_canonical => markFaulted a s, s.canonical

theorem contextFault_canonical {t : Trap} {s : State} (hs : s.canonical) : (contextFault t s).canonical := by
  unfold contextFault
  split
  · refine finishSave_canonical ?_
    grind
  · grind
grind_pattern contextFault_canonical => contextFault t s, s.canonical

theorem takeTrap_canonical {t : Trap} {s : State} (hs : s.canonical) : (takeTrap t s).canonical := by
  unfold takeTrap
  split
  · exact contextFault_canonical hs
  · exact enterHandler_canonical hs
grind_pattern takeTrap_canonical => takeTrap t s, s.canonical

theorem stopAt_canonical {p : Stop} {s : State} (hs : s.canonical) : (stopAt p s).canonical := by
  unfold stopAt
  split
  · exact takeTrap_canonical hs
  · exact hs
grind_pattern stopAt_canonical => stopAt p s, s.canonical

theorem stepAfter_canonical {vec arr : Bool} {was : Hart} {s : State} (hs : s.canonical) :
    (stepAfter vec arr was s).canonical := by
  unfold stepAfter
  split
  · exact takeStep_canonical hs
  · exact hs

theorem stepTrap_canonical {was : Hart} {s : State} (hs : s.canonical) : (stepTrap was s).canonical :=
  stepAfter_canonical hs

theorem retireTo_canonical {target : Word} {s : State} (hs : s.canonical) : (retireTo target s).canonical :=
  stepTrap_canonical (State.canonical_modMe_of hs fun _ h => Hart.goTo_vecWf h)

theorem retire_canonical {s : State} (hs : s.canonical) : (retire s).canonical := retireTo_canonical hs
grind_pattern retire_canonical => retire s, s.canonical

theorem Hart.keeps_vecWf {h : Hart} {next : Nat} {strips : List Strip} {head : Option Nat} (hx : h.vecWf) :
    (Hart.keeps h next strips head).vecWf :=
  hx
grind_pattern Hart.keeps_vecWf => Hart.keeps h next strips head, h.vecWf

theorem Hart.endVec_vecWf {h : Hart} (hx : h.vecWf) : (Hart.endVec h).vecWf := hx

theorem retireVec_canonical {s : State} (hs : s.canonical) : (retireVec s).canonical :=
  retire_canonical (State.canonical_modMe_of hs fun _ h => Hart.endVec_vecWf h)
grind_pattern retireVec_canonical => retireVec s, s.canonical

theorem Hart.standsAt_vecWf {e : Nat} {outs : List (Option Nat)} {h : Hart} (hx : h.vecWf) :
    (Hart.standsAt e outs h).vecWf :=
  hx

theorem stopInside_canonical {e : Nat} {outs : List (Option Nat)} {s : State} (hs : s.canonical) :
    (stopInside e outs s).canonical :=
  stepAfter_canonical (State.canonical_modMe_of hs fun _ h => Hart.standsAt_vecWf h)

theorem waitAt_canonical {w : Wait} {s : State} (hs : s.canonical) : (waitAt w s).canonical := by
  unfold waitAt
  dsimp only
  split
  · exact State.canonical_modMe_of hs fun _ h => h
  · split
    · grind
    · exact meetPreempt_canonical (State.canonical_modMe_of hs fun _ h => h)
grind_pattern waitAt_canonical => waitAt w s, s.canonical

theorem endWait_canonical {s : State} (hs : s.canonical) : (endWait s).canonical := endWaitOf_canonical hs
grind_pattern endWait_canonical => endWait s, s.canonical

theorem addLatch_canonical {j : Nat} {l : Latch} {s : State} (hs : s.canonical) : (addLatch j l s).canonical :=
  State.canonical_modHart hs fun _ h => h
grind_pattern addLatch_canonical => addLatch j l s, s.canonical

end Sys2Proof.Machine
end

section
/-!
PROOFS. Operand strips, bound registers and the stores they accept keep every memory in canonical form.
-/
namespace Sys2Proof.Machine
open Sys2Proof

theorem Hart.vecWf_setUnit {h : Hart} {v i x : Nat} {t : Tag} (hx : h.vecWf) : (h.setUnit v t i x).vecWf := by
  exact forall_set (P := fun m => Memory.wf m = true) v (bsWrite_wf _ _ _ (hx v)) hx
grind_pattern Hart.vecWf_setUnit => h.setUnit v t i x, h.vecWf

theorem Hart.setTag_vecWf {h : Hart} {v : Nat} {t : Tag} (hx : h.vecWf) : (Hart.setTag h v t).vecWf := hx

theorem spacePlaces_canonical {w : Who} {j : Nat} {acc : Access} {sp : Nat} {addr : Word} {n al lane : Nat}
    {s : State} (hs : s.canonical) :
    (spacePlaces w j acc sp addr n al lane s).1.canonical := by
  unfold spacePlaces
  grind
grind_pattern spacePlaces_canonical => spacePlaces w j acc sp addr n al lane s, s.canonical

theorem readSpace_canonical {w : Who} {j sp : Nat} {addr : Word} {n al lane : Nat} {s : State} (hs : s.canonical) :
    (readSpace w j sp addr n al lane s).1.canonical := by
  unfold readSpace
  split
  · next e1 => exact fst_canonical e1 (spacePlaces_canonical hs)
  · next _ s1 _ e1 =>
    have h1 : s1.canonical := fst_canonical e1 (spacePlaces_canonical hs)
    split
    · next e2 => exact fst_canonical e2 (placesFault_canonical h1)
    · grind
grind_pattern readSpace_canonical => readSpace w j sp addr n al lane s, s.canonical

theorem readLineList_canonical {w : Who} {j sp : Nat} {l : List (Nat × Nat)} {s : State} (hs : s.canonical) :
    (readLineList w j sp l s).1.canonical := by
  fun_induction readLineList w j sp l s <;> grind
grind_pattern readLineList_canonical => readLineList w j sp l s, s.canonical

theorem readRange_canonical {w : Who} {j sp : Nat} {a : Word} {n : Nat} {s : State} (hs : s.canonical) :
    (readRange w j sp a n s).1.canonical :=
  readLineList_canonical hs
grind_pattern readRange_canonical => readRange w j sp a n s, s.canonical

theorem acceptStores_canonical {j : Nat} {hold : Bool} {first : Option Nat} {l : List PStore} {va : Nat} {s : State}
    (hs : s.canonical) :
    (acceptStores j hold first l va s).canonical := by
  unfold acceptStores
  split
  · exact performAll_canonical (settleAll_canonical (noteRemote_canonical hs))
  · exact State.canonical_modHart (noteRemote_canonical hs) fun _ h => h
grind_pattern acceptStores_canonical => acceptStores j hold first l va s, s.canonical

theorem storeSpace_canonical {w : Who} {j sp : Nat} {addr : Word} {data : List Byte} {al lane : Nat} {hold : Bool}
    {first : Option Nat} {s : State} (hs : s.canonical) :
    (storeSpace w j sp addr data al lane hold first s).1.canonical := by
  unfold storeSpace
  split
  · next e1 => exact fst_canonical e1 (spacePlaces_canonical hs)
  · grind
grind_pattern storeSpace_canonical => storeSpace w j sp addr data al lane hold first s, s.canonical

theorem Hart.setBinding_vecWf {h : Hart} {b : Binding} (hx : h.vecWf) : (Hart.setBinding h b).vecWf := hx
grind_pattern Hart.setBinding_vecWf => Hart.setBinding h b, h.vecWf

theorem setBinding_canonical {j : Nat} {b : Binding} {s : State} (hs : s.canonical) :
    (setBinding j b s).canonical :=
  State.canonical_modHart hs fun _ h => Hart.setBinding_vecWf h
grind_pattern setBinding_canonical => setBinding j b s, s.canonical

theorem State.setCall_canonical {s : State} {c : Call} (hs : s.canonical) : (State.setCall s c).canonical := hs
grind_pattern State.setCall_canonical => State.setCall s c, s.canonical

theorem readBytesAt_canonical {w : Who} {j sp : Nat} {l : List Word} {s : State} (hs : s.canonical) :
    (readBytesAt w j sp l s).1.canonical := by
  fun_induction readBytesAt w j sp l s <;> grind
grind_pattern readBytesAt_canonical => readBytesAt w j sp l s, s.canonical

theorem streamRaw_canonical {w : Who} {j : Nat} {b : Binding} {i : Nat} {s : State} (hs : s.canonical) :
    (streamRaw w j b i s).1.canonical := by
  unfold streamRaw
  grind
grind_pattern streamRaw_canonical => streamRaw w j b i s, s.canonical

theorem streamRun_canonical {w : Who} {j : Nat} {b : Binding} {l : List Nat} {k i : Nat} {s : State}
    (hs : s.canonical) :
    (streamRun w j b l k i s).1.canonical := by
  fun_induction streamRun w j b l k i s <;> grind
grind_pattern streamRun_canonical => streamRun w j b l k i s, s.canonical

theorem latchTrap_canonical {j : Nat} {p : Latch → Bool} {s : State} {t} (hs : s.canonical)
    (e : latchTrap j p s = some t) :
    t.1.canonical := by
  unfold latchTrap at e
  grind
grind_pattern latchTrap_canonical => latchTrap j p s, some t, s.canonical

theorem decoderArrival_canonical {j : Nat} {b : Binding} {fault : Option (BitVec 6)} {s : State}
    (hs : s.canonical) :
    (decoderArrival j b fault s).1.canonical := by
  unfold decoderArrival
  split
  · next e1 => exact fst_canonical e1 (recordPlace_canonical hs)
  · next _ s1 _ e1 =>
    have h1 : s1.canonical := fst_canonical e1 (recordPlace_canonical hs)
    split
    · dsimp only
      split
      · grind
      · exact h1
    · dsimp only
      split
      · grind
      · exact h1
grind_pattern decoderArrival_canonical => decoderArrival j b fault s, s.canonical

theorem failBinding_canonical {j : Nat} {b : Binding} {cause : BitVec 6} {tval : Word} {s : State}
    (hs : s.canonical) :
    (failBinding j b cause tval s).canonical := by
  unfold failBinding
  split
  · exact decoderArrival_canonical (setBinding_canonical hs)
  · exact setBinding_canonical hs
grind_pattern failBinding_canonical => failBinding j b cause tval s, s.canonical

theorem faultBinding_canonical {j : Nat} {b : Binding} {t : Trap} {s : State} (hs : s.canonical) :
    (faultBinding j b t s).canonical := by
  unfold faultBinding
  split
  · exact setBinding_canonical hs
  · split
    · exact failBinding_canonical hs
    · exact hs
grind_pattern faultBinding_canonical => faultBinding j b t s, s.canonical

theorem stripReady_canonical {j : Nat} {b : Binding} {n : Nat} {s : State} (hs : s.canonical) :
    (stripReady j b n s).1.canonical := by
  unfold stripReady
  split
  · split
    · exact hs
    · grind
  · split
    · exact hs
    · grind
  · split
    · exact hs
    · grind
  · split
    · exact hs
    · grind
grind_pattern stripReady_canonical => stripReady j b n s, s.canonical

theorem countWait_canonical {j vt : Nat} {p : Stop} {s : State} (hs : s.canonical) :
    (countWait j vt p s).canonical := by
  unfold countWait
  split
  · exact hs
  · split
    · exact setBinding_canonical (bump_canonical hs)
    · exact hs
grind_pattern countWait_canonical => countWait j vt p s, s.canonical

theorem readStrip_canonical {j : Nat} {b : Binding} {n : Nat} {s : State} (hs : s.canonical) :
    (readStrip j b n s).1.canonical := by
  unfold readStrip
  split
  · next e1 => exact fst_canonical e1 (stripReady_canonical hs)
  · next _ s1 e1 =>
    have h1 : s1.canonical := fst_canonical e1 (stripReady_canonical hs)
    split
    · grind
    · grind
grind_pattern readStrip_canonical => readStrip j b n s, s.canonical

theorem boundStrip_canonical {j : Nat} {b : Binding} {n : Nat} {s : State} (hs : s.canonical) :
    (boundStrip j b n s).1.canonical := by
  unfold boundStrip
  split
  · grind
  · exact readStrip_canonical hs
grind_pattern boundStrip_canonical => boundStrip j b n s, s.canonical

theorem advance_canonical {j n : Nat} {b : Binding} {s : State} (hs : s.canonical) :
    (advance j n b s).canonical := by
  unfold advance
  split
  · split
    · exact setBinding_canonical (bump_canonical hs)
    · exact hs
  · split
    · grind
    · grind
grind_pattern advance_canonical => advance j n b s, s.canonical

theorem operandStrip_canonical {j ovr v n : Nat} {s : State} (hs : s.canonical) :
    (operandStrip j ovr v n s).1.canonical := by
  unfold operandStrip
  dsimp only
  split
  · exact boundStrip_canonical hs
  · exact hs
grind_pattern operandStrip_canonical => operandStrip j ovr v n s, s.canonical

theorem operandStrips_canonical {j ovr n : Nat} {l : List Nat} {s : State} (hs : s.canonical) :
    (operandStrips j ovr n l s).1.canonical := by
  fun_induction operandStrips j ovr n l s <;> grind
grind_pattern operandStrips_canonical => operandStrips j ovr n l s, s.canonical

theorem sourceStrips_canonical {ovr n : Nat} {src : List Nat} {s : State} (hs : s.canonical) :
    (sourceStrips ovr n src s).1.canonical := by
  unfold sourceStrips
  split
  · exact hs
  · split
    · next e1 => exact fst_canonical e1 (operandStrips_canonical hs)
    · next _ s1 _ e1 =>
      have h1 : s1.canonical := fst_canonical e1 (operandStrips_canonical hs)
      split
      · grind
      · exact h1
grind_pattern sourceStrips_canonical => sourceStrips ovr n src s, s.canonical

theorem advanceAll_canonical {j n : Nat} {l : List Nat} {s : State} (hs : s.canonical) :
    (advanceAll j n l s).canonical := by
  unfold advanceAll
  grind
grind_pattern advanceAll_canonical => advanceAll j n l s, s.canonical

theorem bytePlaces_canonical {w : Who} {j sp : Nat} {l : List Word} {s : State} (hs : s.canonical) :
    (bytePlaces w j sp l s).1.canonical := by
  fun_induction bytePlaces w j sp l s <;> grind
grind_pattern bytePlaces_canonical => bytePlaces w j sp l s, s.canonical

theorem sendPlaces_canonical {w : Who} {j : Nat} {b : Binding} {k : Nat} {s : State} (hs : s.canonical) :
    (sendPlaces w j b k s).1.canonical := by
  unfold sendPlaces
  split
  · exact bytePlaces_canonical hs
  · exact spacePlaces_canonical hs
grind_pattern sendPlaces_canonical => sendPlaces w j b k s, s.canonical

theorem sendOne_canonical {w : Who} {j : Nat} {b : Binding} {vt : Tag} {rm : Rm} {k x : Nat} {sent : List PStore}
    {s : State} (hs : s.canonical) :
    (sendOne w j b vt rm k x sent s).1.canonical := by
  unfold sendOne
  split
  · next e1 => exact fst_canonical e1 (sendPlaces_canonical (ite_canonical (settleAll_canonical hs) hs))
  · next _ s1 _ e1 =>
    have h1 : s1.canonical := fst_canonical e1 (sendPlaces_canonical (ite_canonical (settleAll_canonical hs) hs))
    split
    · grind
    · split
      · grind
      · grind
grind_pattern sendOne_canonical => sendOne w j b vt rm k x sent s, s.canonical

theorem sendAll_canonical {w : Who} {j : Nat} {b : Binding} {vt : Tag} {rm : Rm} {k : Nat} {l : List (Option Nat)}
    {m : List PStore} {s : State} (hs : s.canonical) :
    (sendAll w j b vt rm k l m s).1.canonical := by
  fun_induction sendAll w j b vt rm k l m s <;> grind
grind_pattern sendAll_canonical => sendAll w j b vt rm k l m s, s.canonical

theorem sendChecks_canonical {w : Who} {j : Nat} {b : Binding} {k : Nat} {l : List Bool} {s : State}
    (hs : s.canonical) :
    (sendChecks w j b k l s).1.canonical := by
  fun_induction sendChecks w j b k l s <;> grind
grind_pattern sendChecks_canonical => sendChecks w j b k l s, s.canonical

theorem stripAccepted_canonical {b : Binding} {acts : List Bool} {s : State} (hs : s.canonical) :
    (stripAccepted b acts s).1.canonical := by
  unfold stripAccepted
  split
  · exact hs
  · split
    · exact hs
    · exact sendChecks_canonical hs
grind_pattern stripAccepted_canonical => stripAccepted b acts s, s.canonical

theorem performStrip_canonical {j vt : Nat} {s : State} (hs : s.canonical) : (performStrip j vt s).canonical := by
  unfold performStrip
  split
  · exact hs
  · exact settleN_canonical hs
grind_pattern performStrip_canonical => performStrip j vt s, s.canonical

theorem sendCall_canonical {j : Nat} {b : Binding} {n : Nat} {outs : List (Option Nat)} {s : State}
    (hs : s.canonical) :
    (sendCall j b n outs s).canonical := by
  unfold sendCall
  split
  · exact hs
  · split
    · exact hs
    · exact setBinding_canonical (bump_canonical (State.setCall_canonical hs))
grind_pattern sendCall_canonical => sendCall j b n outs s, s.canonical

theorem sendStrip_canonical {j : Nat} {b : Binding} {vt : Tag} {n : Nat} {outs : List (Option Nat)} {s : State}
    (hs : s.canonical) :
    (sendStrip j b vt n outs s).1.canonical := by
  unfold sendStrip
  split
  · grind
  · split
    · exact hs
    · grind
grind_pattern sendStrip_canonical => sendStrip j b vt n outs s, s.canonical

end Sys2Proof.Machine
end

section
/-!
PROOFS. Scalar and vector instructions, masks and lane grants keep every memory in canonical form.
-/
namespace Sys2Proof.Machine
open Sys2Proof

theorem writeSd_canonical {sd : BitVec 6} {v : Word} {s : State} (hs : s.canonical) : (writeSd sd v s).canonical :=
  retire_canonical (State.setSr_canonical hs)
grind_pattern writeSd_canonical => writeSd sd v s, s.canonical

theorem aluS_canonical {f : FmtS} {g : Word → Word → Word → Word} {s : State} (hs : s.canonical) :
    (aluS f g s).canonical :=
  writeSd_canonical hs

theorem aluI_canonical {f : FmtI} {g : Word → Word} {s : State} (hs : s.canonical) : (aluI f g s).canonical :=
  writeSd_canonical hs

theorem raise_canonical {fl : Flags} {s : State} (hs : s.canonical) : (raise fl s).canonical := by
  unfold raise
  split
  · exact hs
  · exact State.canonical_modMe_of hs fun _ h => h
grind_pattern raise_canonical => raise fl s, s.canonical

theorem divide_canonical {f : FmtS} {onZero : Word → Word} {g : Word → Word → Word} {s : State} (hs : s.canonical) :
    (divide f onZero g s).canonical := by
  unfold divide
  dsimp only
  split
  · exact retire_canonical (raise_canonical (State.setSr_canonical hs))
  · exact writeSd_canonical hs

theorem execMinS_canonical {f : FmtS} {s : State} (hs : s.canonical) : NextCanonical (execMinS f s) :=
  .next (aluS_canonical hs)

theorem execMaxS_canonical {f : FmtS} {s : State} (hs : s.canonical) : NextCanonical (execMaxS f s) :=
  .next (aluS_canonical hs)

theorem execMinu_canonical {f : FmtS} {s : State} (hs : s.canonical) : NextCanonical (execMinu f s) :=
  .next (aluS_canonical hs)

theorem execMaxu_canonical {f : FmtS} {s : State} (hs : s.canonical) : NextCanonical (execMaxu f s) :=
  .next (aluS_canonical hs)

theorem execSel_canonical {f : FmtS} {s : State} (hs : s.canonical) : NextCanonical (execSel f s) :=
  .next (aluS_canonical hs)

theorem vecGo_canonical {ovr : Nat} {dst src : List Nat} {refused : Option Trap} {caps : List (Tag × Nat)}
    {body : List Strip → State → State} {s : State} (hs : s.canonical)
    (hb : ∀ (xs : List Strip) (t : State), t.canonical → (body xs t).canonical) :
    (vecGo ovr dst src refused caps body s).canonical := by
  unfold vecGo
  grind
grind_pattern vecGo_canonical => vecGo ovr dst src refused caps body s, s.canonical

theorem Hart.vecWf_setUnits {v i : Nat} {t : Tag} {l : List (Option Nat)} {h : Hart} (hx : h.vecWf) :
    (Hart.setUnits v t i l h).vecWf := by
  fun_induction Hart.setUnits v t i l h <;> grind
grind_pattern Hart.vecWf_setUnits => Hart.setUnits v t i l h, h.vecWf

theorem vecEnd_canonical {e1 : Nat} {src : List Nat} {strips : Flags} {outs : List (Option Nat)} {s : State}
    (hs : s.canonical) :
    (vecEnd e1 src strips outs s).canonical := by
  unfold vecEnd
  split
  · exact stopInside_canonical hs
  · split
    · exact retireVec_canonical (raise_canonical hs)
    · exact retireVec_canonical (raise_canonical (advanceAll_canonical hs))
grind_pattern vecEnd_canonical => vecEnd e1 src strips outs s, s.canonical

theorem vecWrite_canonical {vd : Nat} {td : Tag} {i : Nat} {outs : List (Option Nat)} {acts : List Bool}
    {fl : Flags}
    {fin : Hart → Hart} {w : VecEnd} {s : State} (hs : s.canonical) (hf : ∀ x : Hart, x.vecWf → (fin x).vecWf) :
    (vecWrite vd td i outs acts fl fin w s).canonical := by
  unfold vecWrite
  grind
grind_pattern vecWrite_canonical => vecWrite vd td i outs acts fl fin w s, s.canonical

theorem vecWhole_canonical {vd : Nat} {td : Tag} {outs : List (Option Nat)} {fls : List Flags} {strips : Flags}
    {fin : Hart → Hart} {src : List Nat} {s : State} (hs : s.canonical) (hf : ∀ x : Hart, x.vecWf → (fin x).vecWf) :
    (vecWhole vd td outs fls strips fin src s).canonical := by
  unfold vecWhole
  refine vecWrite_canonical hs fun x hx => ?_
  split
  · exact hf x hx
  · exact hx

theorem runElementwise_canonical {f : FmtV} {d : Elementwise} {s : State} (hs : s.canonical) :
    (runElementwise f d s).canonical :=
  vecGo_canonical hs fun _ _ h => vecWrite_canonical h fun _ h => h

theorem arith_canonical {op : AOp} {n : Nat} {f : FmtV} {s : State} (hs : s.canonical) :
    (arith op n f s).canonical :=
  runElementwise_canonical hs

theorem execVred_canonical {f : FmtV} {s : State} (hs : s.canonical) : NextCanonical (execVred f s) :=
  .next (vecGo_canonical hs fun _ _ h => vecWrite_canonical h fun _ h => h)

theorem execVscan_canonical {f : FmtV} {s : State} (hs : s.canonical) : NextCanonical (execVscan f s) := by
  unfold execVscan
  dsimp only
  split
  · exact .next (vecGo_canonical hs fun _ _ h => vecWhole_canonical h fun _ h => h)
  · exact .next (vecGo_canonical hs fun _ _ h => vecWhole_canonical h fun _ h => h)

theorem execVperm_canonical {f : FmtV} {s : State} (hs : s.canonical) : NextCanonical (execVperm f s) :=
  .next (vecGo_canonical hs fun _ _ h => vecWhole_canonical h fun _ h => h)

theorem placed_canonical {f : FmtV} {g : Hart → List Nat → List (Option Nat)} {s : State} (hs : s.canonical) :
    (placed f g s).canonical :=
  vecGo_canonical hs fun _ _ h => vecWhole_canonical h fun _ h => h

theorem execVslideup_canonical {f : FmtV} {s : State} (hs : s.canonical) : NextCanonical (execVslideup f s) :=
  .next (placed_canonical hs)

theorem execVslidedn_canonical {f : FmtV} {s : State} (hs : s.canonical) : NextCanonical (execVslidedn f s) :=
  .next (placed_canonical hs)

theorem execVcompress_canonical {f : FmtV} {s : State} (hs : s.canonical) : NextCanonical (execVcompress f s) :=
  .next (placed_canonical hs)

theorem execVexpand_canonical {f : FmtV} {s : State} (hs : s.canonical) : NextCanonical (execVexpand f s) :=
  .next (placed_canonical hs)

theorem execViota_canonical {f : FmtV} {s : State} (hs : s.canonical) : NextCanonical (execViota f s) :=
  .next (vecGo_canonical hs fun _ _ h => vecWhole_canonical h fun _ h => h)

theorem execVid_canonical {f : FmtV} {s : State} (hs : s.canonical) : NextCanonical (execVid f s) :=
  .next (vecGo_canonical hs fun _ _ h => vecWhole_canonical h fun _ h => h)

theorem execVsplat_canonical {f : FmtV} {s : State} (hs : s.canonical) : NextCanonical (execVsplat f s) :=
  .next (vecGo_canonical hs fun _ _ h => vecWhole_canonical h fun _ h => h)

theorem execVmv_canonical {f : FmtV} {s : State} (hs : s.canonical) : NextCanonical (execVmv f s) :=
  .next (vecGo_canonical hs fun _ _ h => vecWhole_canonical h fun _ h => h)

theorem execVextr_canonical {f : FmtV} {s : State} (hs : s.canonical) : NextCanonical (execVextr f s) :=
  .next (vecGo_canonical hs fun _ _ h => vecEnd_canonical (State.setSr_canonical h))

theorem execVins_canonical {f : FmtV} {s : State} (hs : s.canonical) : NextCanonical (execVins f s) :=
  .next (vecGo_canonical hs fun _ _ h => vecWhole_canonical h fun _ h => h)

theorem execVkey_canonical {f : FmtV} {s : State} (hs : s.canonical) : NextCanonical (execVkey f s) :=
  .next (vecGo_canonical hs fun _ _ h => vecWhole_canonical h fun _ h => Hart.setTag_vecWf h)

theorem sorted_canonical {f : FmtV} {src : List Nat} {g : Hart → List Strip → List (Option Nat)} {s : State}
    (hs : s.canonical) :
    (sorted f src g s).canonical :=
  vecGo_canonical hs fun _ _ h => vecWhole_canonical h fun _ h => h

theorem execVsortk_canonical {f : FmtV} {s : State} (hs : s.canonical) : NextCanonical (execVsortk f s) :=
  .next (sorted_canonical hs)

theorem execVmergek_canonical {f : FmtV} {s : State} (hs : s.canonical) : NextCanonical (execVmergek f s) :=
  .next (sorted_canonical hs)

theorem execVtopk_canonical {f : FmtV} {s : State} (hs : s.canonical) : NextCanonical (execVtopk f s) :=
  .next (sorted_canonical hs)

theorem execVunkey_canonical {f : FmtV} {s : State} (hs : s.canonical) : NextCanonical (execVunkey f s) :=
  .next (vecGo_canonical hs fun _ _ h => vecWhole_canonical h fun _ h => h)

theorem pastEnd_canonical {body : State → State} {s : State} (hs : s.canonical) (hb : (body s).canonical) :
    (pastEnd body s).canonical := by
  unfold pastEnd
  grind
grind_pattern pastEnd_canonical => pastEnd body s, s.canonical

theorem Hart.putMask_vecWf {h : Hart} {md : Nat} {w : Nat × Nat} {x : BitVec 16384} (hx : h.vecWf) :
    (Hart.putMask h md w x).vecWf :=
  setMask_vecWf hx
grind_pattern Hart.putMask_vecWf => Hart.putMask h md w x, h.vecWf

theorem maskEnd_canonical {e1 : Nat} {s : State} (hs : s.canonical) : (maskEnd e1 s).canonical := by
  unfold maskEnd
  split
  · exact stopInside_canonical hs
  · exact retireVec_canonical hs
grind_pattern maskEnd_canonical => maskEnd e1 s, s.canonical

theorem maskOp_canonical {f : FmtV} {g : BitVec 16384 → BitVec 16384 → BitVec 16384} {s : State}
    (hs : s.canonical) :
    (maskOp f g s).canonical :=
  pastEnd_canonical hs (maskEnd_canonical (State.canonical_modMe hs (Hart.putMask_vecWf (State.canonical_me hs))))

theorem execMpopc_canonical {f : FmtV} {s : State} (hs : s.canonical) : NextCanonical (execMpopc f s) :=
  .next (pastEnd_canonical hs (retireVec_canonical (State.setSr_canonical hs)))

theorem execMfirst_canonical {f : FmtV} {s : State} (hs : s.canonical) : NextCanonical (execMfirst f s) :=
  .next (pastEnd_canonical hs (retireVec_canonical (State.setSr_canonical hs)))

theorem execMset_canonical {f : FmtV} {s : State} (hs : s.canonical) : NextCanonical (execMset f s) := by
  unfold execMset
  grind

theorem execMget_canonical {f : FmtV} {s : State} (hs : s.canonical) : NextCanonical (execMget f s) := by
  unfold execMget
  grind

theorem waitFault_canonical {j md : Nat} {clear : List Nat} {s : State} {t} (hs : s.canonical)
    (e : waitFault j md clear s = some t) :
    t.1.canonical := by
  unfold waitFault at e
  grind
grind_pattern waitFault_canonical => waitFault j md clear s, some t, s.canonical

theorem mwait_canonical {f : FmtV} {s : State} (hs : s.canonical) : (mwait f s).canonical := by
  unfold mwait
  dsimp only
  split
  · exact retireVec_canonical (endWait_canonical hs)
  · split
    · grind
    · exact waitAt_canonical hs
grind_pattern mwait_canonical => mwait f s, s.canonical

theorem execMwaitComplete_canonical {j : Nat} {s : State} (hs : s.canonical) :
    NextCanonical (execMwaitComplete j s) := by
  unfold execMwaitComplete
  split
  · exact .next (mwait_canonical hs)
  · exact .next hs

theorem withdrawOffers_canonical {core : Nat} {q : BitVec 8} {s : State} (hs : s.canonical) :
    (withdrawOffers core q s).canonical := by
  unfold withdrawOffers
  grind
grind_pattern withdrawOffers_canonical => withdrawOffers core q s, s.canonical

theorem applyNext_canonical {g : Nat} {x : Group} {s : State} (hs : s.canonical) : (applyNext g x s).canonical :=
  foldl_canonical (State.canonical_modGroup (takeQuads_canonical (loseLanes_canonical hs)) fun _ h =>
    h) fun _ _ _ h => State.canonical_modHart h fun _ h => h
grind_pattern applyNext_canonical => applyNext g x s, s.canonical

theorem ownOffer_canonical {g : Nat} {x : Group} {s : State} (hs : s.canonical) (hx : x.canonical) :
    (ownOffer g x s).canonical := by
  unfold ownOffer
  grind
grind_pattern ownOffer_canonical => ownOffer g x s, s.canonical

theorem grantLanes_canonical {s0 : State} {t : State} (hs : s0.canonical) (e : grantLanes s0 = some t) :
    t.canonical := by
  unfold grantLanes at e
  grind
grind_pattern grantLanes_canonical => grantLanes s0, some t, s0.canonical

theorem withdrawForWait_canonical {s0 : State} (hs : s0.canonical) : (withdrawForWait s0).canonical := by
  unfold withdrawForWait
  split
  · exact hs
  · split
    · grind
    · grind
grind_pattern withdrawForWait_canonical => withdrawForWait s0, s0.canonical

theorem leaveReady_canonical {s : State} (hs : s.canonical) : (leaveReady s).canonical := by
  unfold leaveReady
  split
  · split
    · grind
    · exact hs
  · exact hs
grind_pattern leaveReady_canonical => leaveReady s, s.canonical

theorem execSetvl_canonical {f : FmtV} {s : State} (hs : s.canonical) : NextCanonical (execSetvl f s) := by
  unfold execSetvl
  split
  · exact .next (waitAt_canonical hs)
  · split
    · exact .next (waitAt_canonical (withdrawForWait_canonical hs))
    · grind

theorem execSettag_canonical {f : FmtV} {s : State} (hs : s.canonical) : NextCanonical (execSettag f s) := by
  refine .next ?_
  split
  · exact takeTrap_canonical hs
  · exact retireVec_canonical (State.canonical_modMe hs
      (foldl_keeps (P := Hart.vecWf) (fun _ _ hx => Hart.setTag_vecWf hx) _ (State.canonical_me hs)))

theorem execLaneGrowthOffer_canonical {g : Nat} {s : State} (hs : s.canonical) :
    NextCanonical (execLaneGrowthOffer g s) := by
  unfold execLaneGrowthOffer
  split
  · exact .next hs
  · dsimp only
    split
    · grind
    · exact .next hs

theorem postReclaim_canonical {p : Nat × Group} {n : Nat} {s : State} (hs : s.canonical) (hp : p.2.canonical) :
    (postReclaim p n s).canonical := State.canonical_setGroup hs hp
grind_pattern postReclaim_canonical => postReclaim p n s, s.canonical

theorem mem_of_reclaimFrom {l : List (Nat × Group)} {below : Option Nat} {p : Nat × Group}
    (e : reclaimFrom l below = some p) : p ∈ l := by
  refine foldl_keeps_mem (P := fun b : Option (Nat × Group) => ∀ q, b = some q → q ∈ l) (by simp) ?_ p e
  intro b q hq hb r hr
  grind

theorem execLaneReclaim_canonical {core : Nat} {s : State} (hs : s.canonical) :
    NextCanonical (execLaneReclaim core s) := by
  refine .next ?_
  dsimp only
  split
  · exact hs
  · split
    · next p hp =>
      have hg : p.2.canonical := coreGroups_canonical hs (mem_of_reclaimFrom hp)
      grind
    · exact hs

theorem execPreemptRequest_canonical {g : Nat} {s : State} (hs : s.canonical) :
    NextCanonical (execPreemptRequest g s) := by
  unfold execPreemptRequest
  split
  · exact .next hs
  · split
    · grind
    · exact .next hs

theorem execReclaimDeadline_canonical {g : Nat} {s : State} (hs : s.canonical) :
    NextCanonical (execReclaimDeadline g s) := by
  unfold execReclaimDeadline
  split
  · exact .next hs
  · split
    · exact .next (forceSave_canonical hs)
    · exact .next hs

end Sys2Proof.Machine
end

section
/-!
PROOFS. Vector memory accesses and tile copies keep every memory in canonical form.
-/
namespace Sys2Proof.Machine
open Sys2Proof

theorem loadUnit_canonical {d : VAcc} {r j size al : Nat} {s : State} (hs : s.canonical) :
    (loadUnit d r j size al s).1.canonical := by
  unfold loadUnit
  dsimp only
  split
  · exact hs
  · split
    · next e1 => exact fst_canonical e1 (readSpace_canonical hs)
    · next e1 => exact fst_canonical e1 (readSpace_canonical hs)
grind_pattern loadUnit_canonical => loadUnit d r j size al s, s.canonical

theorem storeUnit_canonical {d : VAcc} {r j size al x : Nat} {s : State} (hs : s.canonical) :
    (storeUnit d r j size al x s).1.canonical := by
  unfold storeUnit
  split
  · dsimp only
    split
    · exact hs
    · split
      · next e1 => exact fst_canonical e1 (storeSpace_canonical hs)
      · grind
  · dsimp only
    split
    · exact hs
    · split
      · next e1 => exact fst_canonical e1 (storeSpace_canonical hs)
      · next e1 => exact fst_canonical e1 (storeSpace_canonical hs)
grind_pattern storeUnit_canonical => storeUnit d r j size al x s, s.canonical

theorem loadElem_canonical {d : VAcc} {r c : Nat} {s : State} (hs : s.canonical) :
    (loadElem d r c s).1.canonical := by
  unfold loadElem
  split
  · split
    · next e1 => exact fst_canonical e1 (loadUnit_canonical hs)
    · grind
grind_pattern loadElem_canonical => loadElem d r c s, s.canonical

theorem loadVals_canonical {d : VAcc} {r : Nat} {l : List Nat} {s : State} (hs : s.canonical) :
    (loadVals d r l s).1.canonical := by
  fun_induction loadVals d r l s <;> grind
grind_pattern loadVals_canonical => loadVals d r l s, s.canonical

theorem putVals_canonical {v : Nat} {td : Tag} {rm : Rm} {k : Nat} {xs : List (Nat × FVal)} {s : State}
    (hs : s.canonical) :
    (putVals v td rm k xs s).canonical := by
  unfold putVals
  split
  · exact raise_canonical (State.canonical_modMe hs (Hart.vecWf_setUnit (State.canonical_me hs)))
  · exact foldl_canonical hs fun _ _ _ h => raise_canonical (State.canonical_modMe h (Hart.vecWf_setUnit
      (State.canonical_me h)))
grind_pattern putVals_canonical => putVals v td rm k xs s, s.canonical

theorem loadBlock_canonical {d : VAcc} {r k : Nat} {act : List Nat} {s : State} (hs : s.canonical) :
    (loadBlock d r k act s).1.canonical := by
  unfold loadBlock
  split
  · split
    · split
      · next e1 => exact fst_canonical e1 (loadUnit_canonical hs)
      · next _ s1 _ e1 =>
        have h1 : s1.canonical := fst_canonical e1 (loadUnit_canonical hs)
        split
        · grind
        · grind
    · split
      · next e1 => exact fst_canonical e1 (loadVals_canonical hs)
      · grind
grind_pattern loadBlock_canonical => loadBlock d r k act s, s.canonical

theorem storeElem_canonical {d : VAcc} {rows : List (Tag × List Nat)} {r c : Nat} {s : State} (hs : s.canonical) :
    (storeElem d rows r c s).1.canonical := by
  unfold storeElem
  dsimp only
  split
  · next e1 => exact fst_canonical e1 (storeUnit_canonical hs)
  · grind
grind_pattern storeElem_canonical => storeElem d rows r c s, s.canonical

theorem storeBlock_canonical {d : VAcc} {strips : List Strip} {rows : List (Tag × List Nat)} {r k : Nat}
    {act : List Nat} {s : State} (hs : s.canonical) :
    (storeBlock d strips rows r k act s).1.canonical := by
  unfold storeBlock
  split
  · split
    · dsimp only
      split
      · next e1 => exact fst_canonical e1 (storeUnit_canonical hs)
      · grind
    · dsimp only
      split
      · next e1 => exact fst_canonical e1 (storeUnit_canonical hs)
      · grind
grind_pattern storeBlock_canonical => storeBlock d strips rows r k act s, s.canonical

theorem eachElem_canonical {f : Nat → State → State × Option Stop} {l : List Nat} {s : State} (hs : s.canonical)
    (hf : ∀ (e : Nat) (t : State), t.canonical → (f e t).1.canonical) : (eachElem f l s).1.canonical := by
  fun_induction eachElem f l s <;> grind
grind_pattern eachElem_canonical => eachElem f l s, s.canonical

theorem runUnits_canonical {d : VAcc} {unit : Nat} {whole : Nat → Bool}
    {elem : Nat → Nat → State → State × Option Stop}
    {block : Nat → Nat → List Nat → State → State × Option (Stop × Nat)} {lo hi : Nat} {s : State} (hs : s.canonical)
    (he : ∀ (r c : Nat) (t : State), t.canonical → (elem r c t).1.canonical)
    (hb : ∀ (r k : Nat) (l : List Nat) (t : State), t.canonical → (block r k l t).1.canonical) :
    (runUnits d unit whole elem block lo hi s).1.canonical := by
  unfold runUnits
  refine loopFrom_canonical hs fun u t ht => ?_
  grind
grind_pattern runUnits_canonical => runUnits d unit whole elem block lo hi s, s.canonical

theorem stopAtElem_canonical {t : Stop} {e : Nat} {s : State} (hs : s.canonical) :
    (stopAtElem t e s).canonical := by
  unfold stopAtElem
  split
  · exact takeTrap_canonical (settleAll_canonical hs)
  · exact State.canonical_modMe_of hs fun _ h => h
grind_pattern stopAtElem_canonical => stopAtElem t e s, s.canonical

theorem vmemEnd_canonical {e1 total : Nat} {src : List Nat} {strips : Flags} {dst : Option (Nat × Tag)} {msk : Nat}
    {s : State} (hs : s.canonical) :
    (vmemEnd e1 total src strips dst msk s).canonical := by
  unfold vmemEnd
  split
  · exact stopInside_canonical hs
  · split
    · dsimp only
      split
      · exact retireVec_canonical (raise_canonical hs)
      · exact retireVec_canonical (raise_canonical (advanceAll_canonical hs))
    · dsimp only
      split
      · exact retireVec_canonical (raise_canonical hs)
      · split
        · next e1 => exact stopAt_canonical (fst_canonical e1 (sendStrip_canonical hs))
        · next _ s1 _ e1 =>
          have h1 : s1.canonical := fst_canonical e1 (sendStrip_canonical hs)
          split
          · exact retireVec_canonical (raise_canonical (raise_canonical h1))
          · exact retireVec_canonical (raise_canonical (advanceAll_canonical (raise_canonical h1)))
grind_pattern vmemEnd_canonical => vmemEnd e1 total src strips dst msk s, s.canonical

theorem vmemRun_canonical {load : Bool} {form : VForm} {f : FmtVM} {s0 : State} (hs : s0.canonical) :
    (vmemRun load form f s0).canonical := by
  unfold vmemRun
  extract_lets s h vd ovr sp regs rows tags tb step total isrc wr rd goesOn entry td ready got
  have h0 : s.canonical := settleAll_canonical hs
  have hr : ∀ t : State, t.canonical → (ready t).1.canonical := by
    intro t ht
    simp only [ready]
    split <;> grind
  have hg : got.1.canonical := by
    have h1 := sourceStrips_canonical (ovr := 0) (n := h.len) (src := rd) h0
    simp only [got]
    split <;> grind
  clear_value got ready entry s
  split
  · exact retireVec_canonical h0
  · split
    · exact takeTrap_canonical h0
    · split
      · split
        · exact takeTrap_canonical h0
        · exact retireVec_canonical h0
      · split
        · exact stopAt_canonical hg
        · next s1 xs =>
          have h1 : s1.canonical := hg
          split
          · exact takeTrap_canonical h1
          · extract_lets data idx d flats whole unit hi r
            have hr : r.1.canonical := by
              simp only [r]
              split
              · exact runUnits_canonical h1 (fun _ _ _ ht => loadElem_canonical ht)
                  fun _ _ _ _ ht => loadBlock_canonical ht
              · exact runUnits_canonical h1 (fun _ _ _ ht => storeElem_canonical ht)
                  fun _ _ _ _ ht => storeBlock_canonical ht
            clear_value r
            split
            · exact vmemEnd_canonical hr
            · extract_lets first nv trims
              split
              · exact vmemEnd_canonical (State.canonical_modMe hr (State.canonical_me (s := _) hr))
              · exact stopAtElem_canonical hr
grind_pattern vmemRun_canonical => vmemRun load form f s0, s0.canonical

theorem vamoUnit_canonical {sp aop : Nat} {a : Word} {n v : Nat} {s : State} (hs : s.canonical) :
    (vamoUnit sp aop a n v s).1.canonical := by
  unfold vamoUnit
  split
  · exact hs
  · dsimp only
    split
    · next e1 => exact fst_canonical e1 (spacePlaces_canonical hs)
    · next _ s1 _ e1 =>
      have h1 : s1.canonical := fst_canonical e1 (spacePlaces_canonical hs)
      split
      · exact h1
      · split
        · next e2 => exact fst_canonical e2 (placesFault_canonical h1)
        · next _ s2 e2 =>
          have h2 : s2.canonical := fst_canonical e2 (placesFault_canonical h1)
          split
          · grind
          · grind
grind_pattern vamoUnit_canonical => vamoUnit sp aop a n v s, s.canonical

theorem vamoRun_canonical {sp aop : Nat} {base : Word} {td m : Tag} {idx : List ℤ} {units : Nat → Nat}
    {l : List Nat} {s : State} (hs : s.canonical) :
    (vamoRun sp aop base td m idx units l s).1.canonical := by
  fun_induction vamoRun sp aop base td m idx units l s <;> grind
grind_pattern vamoRun_canonical => vamoRun sp aop base td m idx units l s, s.canonical

theorem vamoPut_canonical {vd : Nat} {td m : Tag} {k : Nat} {olds : List (Nat × Nat)} {s : State}
    (hs : s.canonical) :
    (vamoPut vd td m k olds s).canonical := by
  unfold vamoPut
  split
  · split
    · exact hs
    · exact putVals_canonical hs
  · exact foldl_canonical hs fun _ _ _ h => raise_canonical (State.canonical_modMe h (Hart.vecWf_setUnit
      (State.canonical_me h)))
grind_pattern vamoPut_canonical => vamoPut vd td m k olds s, s.canonical

theorem vamoUnits_canonical {sp aop : Nat} {base : Word} {vd : Nat} {td m : Tag} {idx : List ℤ} {act : Nat → Bool}
    {per : Nat} {held : List (Nat × Nat)} {lo hi len u : Nat} {s : State} (hs : s.canonical) :
    (vamoUnits sp aop base vd td m idx act per held lo hi len u s).1.canonical := by
  unfold vamoUnits
  grind
grind_pattern vamoUnits_canonical => vamoUnits sp aop base vd td m idx act per held lo hi len u s, s.canonical

theorem vamoPause_canonical {per e : Nat} {xs : List Strip} {olds : List (Nat × Nat)} {s : State}
    (hs : s.canonical) :
    (vamoPause per e xs olds s).canonical :=
  State.canonical_modMe hs (Hart.standsAt_vecWf (Hart.keeps_vecWf (State.canonical_me hs)))
grind_pattern vamoPause_canonical => vamoPause per e xs olds s, s.canonical

theorem vamoPart_canonical {f : FmtVM} {base : Word} {td m : Tag} {xs : List Strip} {s : State} (hs : s.canonical) :
    (vamoPart f base td m xs s).canonical := by
  unfold vamoPart
  grind
grind_pattern vamoPart_canonical => vamoPart f base td m xs s, s.canonical

theorem execVamo_canonical {f : FmtVM} {s0 : State} (hs : s0.canonical) : NextCanonical (execVamo f s0) := by
  unfold execVamo
  dsimp only
  split
  · exact .next (retireVec_canonical (settleAll_canonical hs))
  · split
    · exact .next (takeTrap_canonical (settleAll_canonical hs))
    · split
      · exact .next (retireVec_canonical (settleAll_canonical hs))
      · split
        · next e1 => exact .next (stopAt_canonical (fst_canonical e1 (sourceStrips_canonical
            (settleAll_canonical hs))))
        · next _ s1 _ e1 =>
          have h1 : s1.canonical := fst_canonical e1 (sourceStrips_canonical (settleAll_canonical hs))
          split
          · exact .next (takeTrap_canonical h1)
          · exact .next (vamoPart_canonical h1)

theorem State.setCopy_canonical {s : State} {c : Copy} (hs : s.canonical) : (State.setCopy s c).canonical := hs
grind_pattern State.setCopy_canonical => State.setCopy s c, s.canonical

theorem State.dropCopy_canonical {s : State} {t : Nat} (hs : s.canonical) : (State.dropCopy s t).canonical := hs
grind_pattern State.dropCopy_canonical => State.dropCopy s t, s.canonical

theorem execCpy_canonical {f : FmtVM} {s0 : State} (hs : s0.canonical) : NextCanonical (execCpy f s0) := by
  unfold execCpy
  split
  · dsimp only
    split
    · exact .next (takeTrap_canonical (settleAll_canonical hs))
    · split
      · exact .next (retireVec_canonical (settleAll_canonical hs))
      · split
        · exact .next (settleAll_canonical hs)
        · grind
  · dsimp only
    split
    · exact .next (takeTrap_canonical (settleAll_canonical hs))
    · split
      · exact .next (retireVec_canonical (settleAll_canonical hs))
      · split
        · exact .next (settleAll_canonical hs)
        · grind

theorem copyLineIn_canonical {c : Copy} {o : Nat} {s : State} (hs : s.canonical) :
    (copyLineIn c o s).1.canonical := by
  unfold copyLineIn
  split
  · grind
  · next _ s1 _ e1 =>
    have h1 : s1.canonical := fst_canonical e1 (vread_canonical hs)
    split
    · grind
    · exact h1
  · next e1 => exact fst_canonical e1 (vread_canonical hs)
grind_pattern copyLineIn_canonical => copyLineIn c o s, s.canonical

theorem markLine_canonical {p : Place} {s : State} (hs : s.canonical) : (markLine p s).canonical := by
  unfold markLine
  split
  · exact State.setLine_canonical hs
  · exact hs
  · exact hs
  · exact hs
grind_pattern markLine_canonical => markLine p s, s.canonical

theorem copyLineOut_canonical {c : Copy} {o : Nat} {s : State} (hs : s.canonical) :
    (copyLineOut c o s).1.canonical := by
  unfold copyLineOut
  dsimp only
  split
  · next e1 => exact fst_canonical e1 (vwriteCheck_canonical hs)
  · next _ s1 _ e1 =>
    have h1 : s1.canonical := fst_canonical e1 (vwriteCheck_canonical hs)
    split
    · grind
    · grind
grind_pattern copyLineOut_canonical => copyLineOut c o s, s.canonical

theorem copyChunk_canonical {c : Copy} {s : State} (hs : s.canonical) : (copyChunk c s).1.canonical := by
  unfold copyChunk
  split
  · exact loopFrom_canonical hs fun _ _ h => copyLineOut_canonical h
  · exact loopFrom_canonical hs fun _ _ h => copyLineIn_canonical h
grind_pattern copyChunk_canonical => copyChunk c s, s.canonical

theorem afterCopy_canonical {j : Nat} {s : State} (hs : s.canonical) : (afterCopy j s).canonical := by
  unfold afterCopy
  split
  · exact finishSave_canonical hs
  · exact hs
grind_pattern afterCopy_canonical => afterCopy j s, s.canonical

theorem execTileCopyChunkDone_canonical {t : Nat} {s : State} (hs : s.canonical) :
    NextCanonical (execTileCopyChunkDone t s) := by
  unfold execTileCopyChunkDone
  split
  · exact .next hs
  · split
    · exact .next hs
    · split
      · exact .next hs
      · split
        · exact .next hs
        · next _ s1 e1 =>
          have h1 : s1.canonical := fst_canonical e1 (copyChunk_canonical hs)
          split
          · exact .next (afterCopy_canonical (State.dropCopy_canonical (State.canonical_modHart h1 fun _ h => h)))
          · exact .next (State.setCopy_canonical (State.canonical_modHart h1 fun _ h => h))

theorem execTileCopyFault_canonical {t : Nat} {s : State} (hs : s.canonical) :
    NextCanonical (execTileCopyFault t s) := by
  refine .next ?_
  split
  · exact hs
  · next c _ =>
    have hc := copyChunk_canonical (c := c) hs
    grind

end Sys2Proof.Machine
end

section
/-!
PROOFS. Descriptors and array instructions keep every memory in canonical form: a job whose body, claim and end keep
it (`ArrayJob.Keeps`) may run, and every check that answers a job answers such a one (`Yields`).
-/
namespace Sys2Proof.Machine
open Sys2Proof

theorem Hart.setDesc_vecWf {h : Hart} {d : BitVec 5} {x : Desc} (hx : h.vecWf) : (Hart.setDesc h d x).vecWf := by
  unfold Hart.setDesc
  split
  · exact hx
  · exact hx
grind_pattern Hart.setDesc_vecWf => Hart.setDesc h d x, h.vecWf

theorem writeShape_canonical {dd : BitVec 5} {d : Desc} {sh : List Nat} {s : State} (hs : s.canonical) :
    (writeShape dd d sh s).canonical := by
  unfold writeShape
  split
  · exact State.canonical_modMe hs (Hart.setDesc_vecWf (State.canonical_me hs))
  · grind
grind_pattern writeShape_canonical => writeShape dd d sh s, s.canonical

theorem descOp_canonical {f : FmtA} {r : Except Trap Desc} {s : State} (hs : s.canonical) :
    (descOp f r s).canonical := by
  unfold descOp
  split
  · exact takeTrap_canonical hs
  · exact retireVec_canonical (State.canonical_modMe hs (Hart.setDesc_vecWf (State.canonical_me hs)))
grind_pattern descOp_canonical => descOp f r s, s.canonical

theorem execDld_canonical {f : FmtA} {s0 : State} (hs : s0.canonical) : NextCanonical (execDld f s0) := by
  unfold execDld
  dsimp only
  split
  · exact .next (takeTrap_canonical (settleAll_canonical hs))
  · split
    · exact .next (stopAt_canonical (settleAll_canonical hs))
    · split
      · next e1 => exact .next (stopAt_canonical (fst_canonical e1 (readSpace_canonical (settleAll_canonical hs))))
      · next _ s1 _ e1 =>
        have h1 : s1.canonical := fst_canonical e1 (readSpace_canonical (settleAll_canonical hs))
        split
        · exact .next (takeTrap_canonical h1)
        · exact .next (retireVec_canonical (State.canonical_modMe h1 (Hart.setDesc_vecWf (State.canonical_me h1))))

theorem execDstr_canonical {f : FmtA} {s0 : State} (hs : s0.canonical) : NextCanonical (execDstr f s0) := by
  unfold execDstr
  dsimp only
  split
  · exact .next (takeTrap_canonical (settleAll_canonical hs))
  · split
    · exact .next (stopAt_canonical (settleAll_canonical hs))
    · split
      · next e1 => exact .next (stopAt_canonical (fst_canonical e1 (storeSpace_canonical (settleAll_canonical hs))))
      · next e1 => exact .next (retireVec_canonical (fst_canonical e1 (storeSpace_canonical
          (settleAll_canonical hs))))

theorem execDget_canonical {f : FmtA} {s : State} (hs : s.canonical) : NextCanonical (execDget f s) :=
  .next (retireVec_canonical (State.setSr_canonical hs))

theorem execDsetx_canonical {f : FmtA} {s : State} (hs : s.canonical) : NextCanonical (execDsetx f s) :=
  .next (descOp_canonical hs)

theorem execDresh_canonical {f : FmtA} {s : State} (hs : s.canonical) : NextCanonical (execDresh f s) := by
  unfold execDresh
  dsimp only
  split
  · exact .next (ite_canonical (takeTrap_canonical (bump_canonical hs)) (takeTrap_canonical hs))
  · exact .next (ite_canonical (takeTrap_canonical hs) (retireVec_canonical (writeShape_canonical hs)))

theorem execDtrans_canonical {f : FmtA} {s : State} (hs : s.canonical) : NextCanonical (execDtrans f s) :=
  .next (descOp_canonical hs)

theorem execDtake_canonical {f : FmtA} {s : State} (hs : s.canonical) : NextCanonical (execDtake f s) := by
  unfold execDtake
  dsimp only
  split
  · exact .next (takeTrap_canonical hs)
  · split
    · exact .next (takeTrap_canonical hs)
    · split
      · exact .next (descOp_canonical hs)
      · split
        · exact .next (takeTrap_canonical hs)
        · split
          · grind
          · grind

theorem lineVersion_canonical {write : Bool} {ps : List Place} {s : State} (hs : s.canonical) :
    (lineVersion write ps s).1.canonical := by
  unfold lineVersion
  split
  · split
    · exact hs
    · grind
  · exact hs
grind_pattern lineVersion_canonical => lineVersion write ps s, s.canonical

theorem readHeader_canonical {base : Word} {s : State} (hs : s.canonical) : (readHeader base s).1.canonical := by
  unfold readHeader
  split
  · exact hs
  · dsimp only
    split
    · next e1 => exact fst_canonical e1 (spacePlaces_canonical hs)
    · next _ s1 _ e1 =>
      have h1 : s1.canonical := fst_canonical e1 (spacePlaces_canonical hs)
      split
      · next e2 => exact fst_canonical e2 (placesFault_canonical h1)
      · grind
grind_pattern readHeader_canonical => readHeader base s, s.canonical

theorem putHeader_canonical {base : Word} {h : Header} {s : State} (hs : s.canonical) :
    (putHeader base h s).1.canonical := by
  unfold putHeader
  split
  · exact hs
  · split
    · grind
    · dsimp only
      split
      · grind
      · grind
grind_pattern putHeader_canonical => putHeader base h s, s.canonical

theorem claimUse_canonical {base : Word} {s : State} (hs : s.canonical) : (claimUse base s).1.canonical := by
  unfold claimUse
  split
  · next e1 => exact fst_canonical e1 (readHeader_canonical hs)
  · next _ s1 _ _ e1 =>
    have h1 : s1.canonical := fst_canonical e1 (readHeader_canonical hs)
    split
    · dsimp only
      split
      · exact h1
      · exact h1
    · dsimp only
      split
      · exact h1
      · exact putHeader_canonical h1

theorem checkWit_canonical {w : Option Wit} {s : State} (hs : s.canonical) : (checkWit w s).1.canonical := by
  unfold checkWit
  split
  · exact hs
  · exact hs
grind_pattern checkWit_canonical => checkWit w s, s.canonical

theorem fieldStores_canonical {w : Wit} {run : Nat × List Nat} {s : State} (hs : s.canonical) :
    (fieldStores w run s).1.canonical := by
  unfold fieldStores
  dsimp only
  split
  · exact hs
  · split
    · next e1 => exact fst_canonical e1 (spacePlaces_canonical hs)
    · next _ s1 _ e1 =>
      have h1 : s1.canonical := fst_canonical e1 (spacePlaces_canonical hs)
      split
      · grind
      · grind
grind_pattern fieldStores_canonical => fieldStores w run s, s.canonical

theorem readElem_canonical {d : Desc} {x : List Nat} {s : State} (hs : s.canonical) :
    (readElem d x s).1.canonical := by
  unfold readElem
  dsimp only
  split
  · exact hs
  · split
    · next e1 => exact fst_canonical e1 (readSpace_canonical hs)
    · next e1 => exact fst_canonical e1 (readSpace_canonical hs)
grind_pattern readElem_canonical => readElem d x s, s.canonical

theorem eachRead_canonical {α β : Type} {f : α → State → State × Except Stop β} {l : List α} {s : State}
    (hs : s.canonical) (hf : ∀ (a : α) (t : State), t.canonical → (f a t).1.canonical) :
    (eachRead f l s).1.canonical := by
  fun_induction eachRead f l s <;> grind
grind_pattern eachRead_canonical => eachRead f l s, s.canonical

/-- What an array job does keeps every memory in canonical form. -/
structure ArrayJob.Keeps (j : ArrayJob) : Prop where
  body : ∀ (e0 e1 : Nat) (s : State), s.canonical → (j.body e0 e1 s).1.canonical
  claim : ∀ s : State, s.canonical → (j.claim s).1.canonical
  done : ∀ s : State, s.canonical → (j.done s).canonical
grind_pattern ArrayJob.Keeps.body => j.body e0 e1 s, j.Keeps, s.canonical
grind_pattern ArrayJob.Keeps.claim => j.claim s, j.Keeps, s.canonical
grind_pattern ArrayJob.Keeps.done => j.done s, j.Keeps, s.canonical

theorem noClaim_canonical {s : State} (hs : s.canonical) : (noClaim s).1.canonical := hs
grind_pattern noClaim_canonical => noClaim s, s.canonical

theorem arrayStop_canonical {e0 : Nat} {t : Stop} {s : State} (hs : s.canonical) :
    (arrayStop e0 t s).canonical := by
  unfold arrayStop
  split
  · exact takeTrap_canonical hs
  · exact hs
grind_pattern arrayStop_canonical => arrayStop e0 t s, s.canonical

theorem checkResults_canonical {d : Desc} {l : List PStore} {m : List (Nat × Nat)} {s : State} (hs : s.canonical) :
    (checkResults d l m s).1.canonical := by
  fun_induction checkResults d l m s <;> grind
grind_pattern checkResults_canonical => checkResults d l m s, s.canonical

theorem Hart.withStatus_vecWf {h : Hart} {f : BitVec 3 → BitVec 3} (hx : h.vecWf) : (Hart.withStatus h f).vecWf :=
  hx
grind_pattern Hart.withStatus_vecWf => Hart.withStatus h f, h.vecWf

theorem Hart.keepLine_vecWf {h : Hart} {c : Option (Word × Bool)} (hx : h.vecWf) : (Hart.keepLine h c).vecWf := by
  unfold Hart.keepLine
  split
  · exact hx
  · exact hx
grind_pattern Hart.keepLine_vecWf => Hart.keepLine h c, h.vecWf

theorem commitStrip_canonical {j : ArrayJob} {e0 : Nat} {p : Pan} {s : State} (hs : s.canonical) (hj : j.Keeps) :
    (commitStrip j e0 p s).1.canonical := by
  unfold commitStrip
  split
  · grind
  · next s1 sts e1 =>
    have h1 : s1.canonical := fst_canonical e1 (checkResults_canonical hs)
    clear e1
    split
    · cases hw : j.wit <;> grind
    · next s2 ws e2 =>
      have h2 : s2.canonical := by cases hw : j.wit <;> grind
      clear e2
      split
      · grind
      · next s3 e3 =>
        have h3 : s3.canonical := by grind
        refine raise_canonical (State.canonical_modMe_of (foldl_canonical h3 ?_) fun x hx => ?_)
        · grind
        · have hk : Hart.vecWf ({ x with seed := p.seed }.keepLine p.carry) := Hart.keepLine_vecWf hx
          show Hart.vecWf (if _ then _ else _)
          split <;> exact hk
grind_pattern commitStrip_canonical => commitStrip j e0 p s, s.canonical

theorem finishArray_canonical {j : ArrayJob} {s : State} (hs : s.canonical) (hj : j.Keeps) :
    (finishArray j s).canonical := by
  unfold finishArray
  split
  · next s1 t e =>
    have h1 : s1.canonical := by cases hw : j.wit <;> grind
    grind
  · next s1 e =>
    have h1 : s1.canonical := by cases hw : j.wit <;> grind
    grind
grind_pattern finishArray_canonical => finishArray j s, s.canonical

theorem stripBoundary_canonical {s : State} (hs : s.canonical) : (stripBoundary s).canonical := by
  unfold stripBoundary
  split
  · exact stepAfter_canonical hs
  · dsimp only
    split
    · exact meetPreempt_canonical (State.canonical_modMe_of hs fun _ h => h)
    · exact State.canonical_modMe_of hs fun _ h => h
grind_pattern stripBoundary_canonical => stripBoundary s, s.canonical

theorem runArray_canonical {j : ArrayJob} {s : State} (hs : s.canonical) (hj : j.Keeps) :
    (runArray j s).canonical := by
  unfold runArray
  grind
grind_pattern runArray_canonical => runArray j s, s.canonical

/-- What every answer of a check has, where it answers one. -/
def Yields {α : Type} (P : α → Prop) (r : Except Trap α) : Prop := ∀ a, r = .ok a → P a

theorem yields_ok {α : Type} {P : α → Prop} {a : α} (h : P a) : Yields P (.ok a) := fun _ e => by cases e; exact h

theorem yields_error {α : Type} {P : α → Prop} {t : Trap} : Yields P (.error t) := nofun

theorem Yields.bind {α β : Type} {P : β → Prop} {x : Except Trap α} {f : α → Except Trap β}
    (h : ∀ a, Yields P (f a)) :
    Yields P (x >>= f) := by
  cases x with
  | error t => nofun
  | ok a => exact h a

theorem Yields.andThen {α β : Type} {Q : α → Prop} {P : β → Prop} {x : Except Trap α} {f : α → Except Trap β}
    (hx : Yields Q x) (h : ∀ a, Q a → Yields P (f a)) : Yields P (x >>= f) := by
  cases x with
  | error t => nofun
  | ok a => exact h a (hx a rfl)

/-- A check that throws, and what follows it. -/
theorem Yields.guard {α : Type} {P : α → Prop} {c : Prop} [Decidable c] {t : Trap} {k : Unit → Except Trap α}
    (h : Yields P (k ())) : Yields P (if c then (throw t >>= k) else k ()) := by
  split
  · exact yields_error
  · exact h

theorem arrayGo_canonical {r : State → Except Trap ArrayJob} {s : State} (hs : s.canonical)
    (hr : ∀ t, Yields ArrayJob.Keeps (r t)) : (arrayGo r s).canonical := by
  unfold arrayGo
  grind [Yields]

theorem noMore_canonical {s : State} (hs : s.canonical) : (noMore s).canonical := hs
grind_pattern noMore_canonical => noMore s, s.canonical

theorem elemStrip_canonical {a : ArrayElem} {td : Tag} {ag : Agreed} {e0 e1 : Nat} {s : State} (hs : s.canonical) :
    (elemStrip a td ag e0 e1 s).1.canonical := by
  unfold elemStrip
  grind

theorem elemJob_keeps {f : FmtA} {a : ArrayElem} {s : State} : Yields ArrayJob.Keeps (elemJob f a s) :=
  .bind fun _ => .bind fun _ => .bind fun _ => .bind fun _ => .bind fun _ => .bind fun _ =>
    yields_ok ⟨fun _ _ _ hs => elemStrip_canonical hs, fun _ hs => hs, fun _ hs => hs⟩

theorem arith1_canonical {op : AOp} {f : FmtA} {s : State} (hs : s.canonical) : (arith1 op f s).canonical := by
  unfold arith1
  exact arrayGo_canonical hs fun _ => elemJob_keeps

theorem arith2_canonical {op : AOp} {f : FmtA} {s : State} (hs : s.canonical) : (arith2 op f s).canonical := by
  unfold arith2
  exact arrayGo_canonical hs fun _ => elemJob_keeps

theorem arithPick_canonical {isMax : Bool} {f : FmtA} {s : State} (hs : s.canonical) :
    (arithPick isMax f s).canonical := by
  unfold arithPick
  exact arrayGo_canonical hs fun _ => elemJob_keeps

theorem execAfma_canonical {f : FmtA} {s : State} (hs : s.canonical) : NextCanonical (execAfma f s) := by
  unfold execAfma
  exact .next (arrayGo_canonical hs fun _ => elemJob_keeps)

theorem execAclamp_canonical {f : FmtA} {s : State} (hs : s.canonical) : NextCanonical (execAclamp f s) := by
  unfold execAclamp
  exact .next (arrayGo_canonical hs fun _ => elemJob_keeps)

theorem execAcmp_canonical {f : FmtA} {s : State} (hs : s.canonical) : NextCanonical (execAcmp f s) := by
  unfold execAcmp
  exact .next (arrayGo_canonical hs fun _ => elemJob_keeps)

theorem execAsel_canonical {f : FmtA} {s : State} (hs : s.canonical) : NextCanonical (execAsel f s) := by
  unfold execAsel
  exact .next (arrayGo_canonical hs fun _ => elemJob_keeps)

theorem execAcvt_canonical {f : FmtA} {s : State} (hs : s.canonical) : NextCanonical (execAcvt f s) := by
  unfold execAcvt
  exact .next (arrayGo_canonical hs fun _ => elemJob_keeps)

theorem arrayLogic_canonical {op : LOp} {srcs : List Desc} {agreed : Except Trap Agreed} {f : FmtA} {s : State}
    (hs : s.canonical) : (arrayLogic op srcs agreed f s).canonical := by
  unfold arrayLogic
  exact arrayGo_canonical hs fun _ => elemJob_keeps

theorem logic2_canonical {op : LOp} {f : FmtA} {s : State} (hs : s.canonical) : (logic2 op f s).canonical := by
  unfold logic2
  exact arrayLogic_canonical hs

theorem execAnot_canonical {f : FmtA} {s : State} (hs : s.canonical) : NextCanonical (execAnot f s) :=
  .next (arrayLogic_canonical hs)

theorem execAqnt_canonical {f : FmtA} {s : State} (hs : s.canonical) : NextCanonical (execAqnt f s) := by
  unfold execAqnt
  exact .next (arrayGo_canonical hs fun _ => elemJob_keeps)

theorem readPieces_canonical {α : Type} {get : Nat → Nat → State → State × Except Stop α}
    {ps : List (Nat × Nat × Nat)} {s : State} (hs : s.canonical)
    (hg : ∀ (l i : Nat) (t : State), t.canonical → (get l i t).1.canonical) : (readPieces get ps s).1.canonical := by
  unfold readPieces
  grind
grind_pattern readPieces_canonical => readPieces get ps s, s.canonical

theorem aredStrip_canonical {f : FmtA} {d td : Desc} {g : Lines} {e0 e1 : Nat} {s : State} (hs : s.canonical) :
    (aredStrip f d td g e0 e1 s).1.canonical := by
  unfold aredStrip
  grind

theorem clearLine_canonical {s : State} (hs : s.canonical) : (clearLine s).canonical :=
  State.canonical_modMe hs (Hart.keepLine_vecWf (State.canonical_me hs))
grind_pattern clearLine_canonical => clearLine s, s.canonical

theorem lineJob_keeps {f : FmtA} {d : Desc} {shape : List Nat} {g : Nat × Nat} {cut : Bool} {ls : Nat}
    {body : Nat → Nat → State → State × Except Stop Pan} {wit : Option Wit} {done : State → State}
    (hb : ∀ (e0 e1 : Nat) (s : State), s.canonical → (body e0 e1 s).1.canonical)
    (hd : ∀ s : State, s.canonical → (done s).canonical) : (lineJob f d shape g cut ls body wit done).Keeps :=
  ⟨hb, fun _ hs => hs, fun _ hs => hd _ (clearLine_canonical hs)⟩

theorem execAred_canonical {f : FmtA} {s : State} (hs : s.canonical) : NextCanonical (execAred f s) :=
  .next (arrayGo_canonical hs fun _ =>
    .bind fun _ => .bind fun _ => .bind fun _ => .bind fun _ => .bind fun _ => .bind fun _ =>
      yields_ok (lineJob_keeps (fun _ _ _ ht => aredStrip_canonical ht) fun _ ht => ht))

theorem execAscan_canonical {f : FmtA} {s : State} (hs : s.canonical) : NextCanonical (execAscan f s) := by
  refine .next (arrayGo_canonical hs fun _ =>
    .bind fun _ => .bind fun _ => .bind fun _ => .bind fun _ => .bind fun _ =>
      yields_ok (lineJob_keeps (fun _ _ _ ht => ?_) fun _ ht => ht))
  grind

theorem wholeStrip_canonical {d : Desc} {g : Lines}
    {out : Nat → List Nat → List (Nat × Nat) × Flags × List (Nat × Nat)}
    {e0 e1 : Nat} {s : State} (hs : s.canonical) : (wholeStrip d g out e0 e1 s).1.canonical := by
  unfold wholeStrip
  grind

theorem execAmed_canonical {f : FmtA} {s : State} (hs : s.canonical) : NextCanonical (execAmed f s) :=
  .next (arrayGo_canonical hs fun _ =>
    .bind fun _ => .bind fun _ => .bind fun _ => .bind fun _ => .bind fun _ => .bind fun _ =>
      yields_ok (lineJob_keeps (fun _ _ _ ht => wholeStrip_canonical ht) fun _ ht => ht))

theorem execAgrade_canonical {f : FmtA} {s : State} (hs : s.canonical) : NextCanonical (execAgrade f s) :=
  .next (arrayGo_canonical hs fun _ =>
    .bind fun _ => .bind fun _ => .bind fun _ => .bind fun _ => .bind fun _ =>
      yields_ok (lineJob_keeps (fun _ _ _ ht => wholeStrip_canonical ht) fun _ ht => ht))

theorem setOvf_canonical {s : State} (hs : s.canonical) : (setOvf s).canonical :=
  State.canonical_modMe hs (Hart.withStatus_vecWf (State.canonical_me hs))
grind_pattern setOvf_canonical => setOvf s, s.canonical

theorem execAtopk_canonical {f : FmtA} {s : State} (hs : s.canonical) : NextCanonical (execAtopk f s) := by
  refine .next (arrayGo_canonical hs fun _ =>
    .bind fun _ => .bind fun _ => .bind fun _ => .bind fun _ =>
      yields_ok (lineJob_keeps (fun _ _ _ ht => ?_) fun _ ht => ?_))
  · split
    · exact ht
    · exact wholeStrip_canonical ht
  · grind

theorem execAinner_canonical {f : FmtA} {s : State} (hs : s.canonical) : NextCanonical (execAinner f s) := by
  refine .next (arrayGo_canonical hs fun _ =>
    .bind fun _ => .bind fun _ => .guard (.guard (.bind fun _ => .bind fun _ =>
      yields_ok (lineJob_keeps (fun _ _ _ ht => ?_) fun _ ht => ht))))
  grind

theorem copied_canonical {d : Desc} {x : List Nat} {s : State} (hs : s.canonical) : (copied d x s).1.canonical := by
  unfold copied
  split
  · next e1 => exact fst_canonical e1 (readElem_canonical hs)
  · next e1 => exact fst_canonical e1 (readElem_canonical hs)
grind_pattern copied_canonical => copied d x s, s.canonical

/-- What an element of a structural primitive does keeps every memory in canonical form. -/
def PrimElem.Keeps (e : PrimElem) : Prop := ∀ (i : Nat) (x : List Nat) (s : State), s.canonical → (e i x s).1.canonical

theorem primStrip_canonical {shape : List Nat} {elem : PrimElem} {e0 e1 : Nat} {s : State} (hs : s.canonical)
    (he : elem.Keeps) : (primStrip shape elem e0 e1 s).1.canonical := by
  have h := eachRead_canonical (f := fun i s => elem i (unravel shape i) s) (l := fromTo e0 e1) hs
    fun i t ht => he i (unravel shape i) t ht
  unfold primStrip
  split <;> grind

theorem primJob_keeps {f : FmtA} {srcs : List Desc} {refused : Option Trap}
    {shape : Except Trap (List Nat × PrimElem)}
    {s : State} (h : Yields (fun p => p.2.Keeps) shape) : Yields ArrayJob.Keeps (primJob f srcs refused shape s) :=
  .bind fun _ => .bind fun _ => h.andThen fun _ hsh => .bind fun _ => yields_ok
    ⟨fun _ _ _ hs => primStrip_canonical hs hsh, fun _ hs => hs, fun _ hs => hs⟩

theorem execAiota_canonical {f : FmtA} {s : State} (hs : s.canonical) : NextCanonical (execAiota f s) := by
  refine .next (arrayGo_canonical hs fun _ => primJob_keeps ?_)
  split
  · exact yields_error
  · exact yields_ok fun _ _ _ ht => ht

theorem execAfill_canonical {f : FmtA} {s : State} (hs : s.canonical) : NextCanonical (execAfill f s) :=
  .next (arrayGo_canonical hs fun _ => primJob_keeps (yields_ok fun _ _ _ ht => ht))

theorem execAcopy_canonical {f : FmtA} {s : State} (hs : s.canonical) : NextCanonical (execAcopy f s) :=
  .next (arrayGo_canonical hs fun _ => primJob_keeps (yields_ok fun _ _ _ ht => copied_canonical ht))

theorem execAresh_canonical {f : FmtA} {s : State} (hs : s.canonical) : NextCanonical (execAresh f s) := by
  refine .next (arrayGo_canonical hs fun _ => primJob_keeps (yields_ok fun _ _ _ ht => ?_))
  dsimp only
  split
  · exact ht
  · exact copied_canonical ht

theorem alongAxis_keeps {f : FmtA} {ext : Nat → Except Trap Nat} {at_ : Nat → Nat → Option Nat} {s : State} :
    Yields ArrayJob.Keeps (alongAxis f ext at_ s) := by
  refine primJob_keeps (.bind fun _ => .bind fun _ => yields_ok fun _ _ _ ht => ?_)
  dsimp only
  split
  · exact copied_canonical ht
  · exact ht

theorem execArot_canonical {f : FmtA} {s : State} (hs : s.canonical) : NextCanonical (execArot f s) :=
  .next (arrayGo_canonical hs fun _ => alongAxis_keeps)

theorem execArev_canonical {f : FmtA} {s : State} (hs : s.canonical) : NextCanonical (execArev f s) :=
  .next (arrayGo_canonical hs fun _ => alongAxis_keeps)

theorem execAtake_canonical {f : FmtA} {s : State} (hs : s.canonical) : NextCanonical (execAtake f s) :=
  .next (arrayGo_canonical hs fun _ => alongAxis_keeps)

theorem catShape_keeps {f : FmtA} {a b : Desc} : Yields (fun p => p.2.Keeps) (catShape f a b) := by
  refine .bind fun _ => .guard ?_
  dsimp only
  split
  · exact yields_error
  · refine .bind fun _ => .guard (yields_ok fun _ _ _ ht => ?_)
    dsimp only
    split <;> exact copied_canonical ht

theorem execAcat_canonical {f : FmtA} {s : State} (hs : s.canonical) : NextCanonical (execAcat f s) :=
  .next (arrayGo_canonical hs fun _ => primJob_keeps catShape_keeps)

theorem execAgath_canonical {f : FmtA} {s : State} (hs : s.canonical) : NextCanonical (execAgath f s) := by
  refine .next (arrayGo_canonical hs fun _ => primJob_keeps (.bind fun _ => .guard
    (yields_ok fun _ _ _ ht => ?_)))
  grind

theorem execAouter_canonical {f : FmtA} {s : State} (hs : s.canonical) : NextCanonical (execAouter f s) := by
  refine .next (arrayGo_canonical hs fun _ => primJob_keeps (.bind fun _ =>
    yields_ok fun _ _ _ ht => ?_))
  grind

theorem compStrip_canonical {a b : Desc} {ma mb : List Nat → List Nat} {shape : List Nat} {cap e0 e1 : Nat}
    {s : State} (hs : s.canonical) :
    (compStrip a b ma mb shape cap e0 e1 s).1.canonical := by
  unfold compStrip
  grind
grind_pattern compStrip_canonical => compStrip a b ma mb shape cap e0 e1 s, s.canonical

theorem execAcomp_canonical {f : FmtA} {s : State} (hs : s.canonical) : NextCanonical (execAcomp f s) := by
  refine .next (arrayGo_canonical hs fun _ =>
    .bind fun _ => .bind fun _ => .bind fun _ => .bind fun _ =>
      yields_ok ⟨fun _ _ _ ht => compStrip_canonical ht, fun _ ht => ht, fun _ ht => ?_⟩)
  grind

theorem expdStrip_canonical {a b : Desc} {cap k : Nat} {l : List Nat} {s : State} (hs : s.canonical) :
    (expdStrip a b cap k l s).1.canonical := by
  fun_induction expdStrip a b cap k l s <;> grind
grind_pattern expdStrip_canonical => expdStrip a b cap k l s, s.canonical

theorem execAexpd_canonical {f : FmtA} {s : State} (hs : s.canonical) : NextCanonical (execAexpd f s) := by
  refine .next (arrayGo_canonical hs fun _ =>
    .bind fun _ => .bind fun _ => yields_ok ⟨fun _ _ _ ht => ?_, fun _ ht => ht, fun _ ht => ?_⟩)
  · dsimp only
    grind
  · grind

end Sys2Proof.Machine
end

section
/-!
PROOFS. Witnesses and matrix instructions keep every memory in canonical form.
-/
namespace Sys2Proof.Machine
open Sys2Proof

theorem readField_canonical {base : Word} {wlog k : Nat} {s : State} (hs : s.canonical) :
    (readField base wlog k s).1.canonical := by
  unfold readField
  dsimp only
  split
  · exact hs
  · split
    · next e1 => exact fst_canonical e1 (readSpace_canonical hs)
    · next e1 => exact fst_canonical e1 (readSpace_canonical hs)
grind_pattern readField_canonical => readField base wlog k s, s.canonical

theorem adjointAt_canonical {base : Word} {h : Header} {side : Nat} {pass : Bool} {x : List Nat} {s : State}
    (hs : s.canonical) :
    (adjointAt base h side pass x s).1.canonical := by
  unfold adjointAt
  split
  · dsimp only
    split
    · next e1 => exact fst_canonical e1 (readField_canonical hs)
    · next e1 => exact fst_canonical e1 (readField_canonical hs)
  · split
    · grind
    · grind
grind_pattern adjointAt_canonical => adjointAt base h side pass x s, s.canonical

theorem adjointStrip_canonical {base : Word} {h : Header} {d : Desc} {shape : List Nat} {side : Nat} {pass : Bool}
    {e0 e1 : Nat} {s : State} (hs : s.canonical) :
    (adjointStrip base h d shape side pass e0 e1 s).1.canonical := by
  unfold adjointStrip
  grind
grind_pattern adjointStrip_canonical => adjointStrip base h d shape side pass e0 e1 s, s.canonical

theorem adjointJob_keeps {f : FmtA} {dd da w : Desc} {h : Header} {ls : Nat} {s : State} :
    (adjointJob f dd da w h ls s).Keeps :=
  ⟨fun _ _ _ ht => adjointStrip_canonical ht, fun _ ht => claimUse_canonical ht, fun _ ht => ht⟩

theorem adjointChecks_keeps {f : FmtA} {dd da w : Desc} {h : Header} {v ls : Nat} {s : State} :
    Yields ArrayJob.Keeps (adjointChecks f dd da w h v ls s) := by
  unfold adjointChecks
  exact .guard (.guard (.guard (.guard (.guard (.guard (.bind fun _ => .bind fun _ => yields_ok adjointJob_keeps))))))

theorem execWadj_canonical {f : FmtA} {s0 : State} (hs : s0.canonical) : NextCanonical (execWadj f s0) := by
  unfold execWadj
  refine .next ?_
  have h0 : (settleAll s0.cur s0).canonical := settleAll_canonical hs
  generalize settleAll s0.cur s0 = s at h0 ⊢
  split
  · exact arrayStop_canonical h0
  · split
    · exact runArray_canonical h0 adjointJob_keeps
    · split
      · exact arrayStop_canonical h0
      · split
        · next e1 => exact arrayStop_canonical (fst_canonical e1 (readHeader_canonical h0))
        · next e1 =>
          have h1 := fst_canonical e1 (readHeader_canonical h0)
          split
          · exact arrayStop_canonical h1
          · next e => exact runArray_canonical h1 (adjointChecks_keeps _ e)

theorem execWchk_canonical {f : FmtA} {s0 : State} (hs : s0.canonical) : NextCanonical (execWchk f s0) := by
  unfold execWchk
  dsimp only
  split
  · exact .next (takeTrap_canonical (settleAll_canonical hs))
  · split
    · next e1 => exact .next (stopAt_canonical (fst_canonical e1 (readHeader_canonical (settleAll_canonical hs))))
    · next _ s1 _ _ e1 =>
      have h1 : s1.canonical := fst_canonical e1 (readHeader_canonical (settleAll_canonical hs))
      exact .next (ite_canonical (takeTrap_canonical h1) (retireVec_canonical (State.setSr_canonical h1)))

theorem execWchkSeal_canonical {f : FmtA} {s0 : State} (hs : s0.canonical) : NextCanonical (execWchkSeal f s0) := by
  unfold execWchkSeal
  dsimp only
  split
  · exact .next (takeTrap_canonical (settleAll_canonical hs))
  · split
    · exact .next (takeTrap_canonical (settleAll_canonical hs))
    · split
      · exact .next (takeTrap_canonical (settleAll_canonical hs))
      · split
        · next e1 => exact .next (stopAt_canonical (fst_canonical e1 (putHeader_canonical
            (settleAll_canonical hs))))
        · next e1 => exact .next (retireVec_canonical (fst_canonical e1 (putHeader_canonical
            (settleAll_canonical hs))))

theorem execWrel_canonical {f : FmtA} {s0 : State} (hs : s0.canonical) : NextCanonical (execWrel f s0) := by
  unfold execWrel
  dsimp only
  split
  · exact .next (takeTrap_canonical (settleAll_canonical hs))
  · split
    · next e1 => exact .next (stopAt_canonical (fst_canonical e1 (readHeader_canonical (settleAll_canonical hs))))
    · next _ s1 _ _ e1 =>
      have h1 : s1.canonical := fst_canonical e1 (readHeader_canonical (settleAll_canonical hs))
      split
      · exact .next (takeTrap_canonical h1)
      · split
        · exact .next (retireVec_canonical h1)
        · split
          · next e2 => exact .next (stopAt_canonical (fst_canonical e2 (putHeader_canonical h1)))
          · next e2 => exact .next (retireVec_canonical (fst_canonical e2 (putHeader_canonical h1)))

theorem State.setTile_canonical {s : State} {i : BitVec 1} {a : ByteStore} (hs : s.canonical)
    (ha : Memory.wf a = true) :
    (s.setTile i a).canonical := by
  obtain ⟨hp, hd, hl, hc⟩ := State.canonical_core hs s.myCore
  refine State.canonical_setCore hs ⟨hp, hd, hl, fun k => ?_⟩
  by_cases hk : k < 2
  · have hck := hc k
    rw [getElem!_pos _ k hk] at hck ⊢
    rw [Vector.getElem_set]
    split
    · exact ha
    · exact hck
  · rw [getElem!_neg _ k hk]
    rfl

theorem State.tile_wf {s : State} {i : BitVec 1} (hs : s.canonical) : Memory.wf (s.tile i) = true := by
  obtain ⟨-, -, -, hc⟩ := State.canonical_core hs s.myCore
  have hi : i.toNat < 2 := i.isLt
  have h := hc i.toNat
  rw [getElem!_pos (s.core s.myCore).acc i.toNat hi] at h
  exact h

theorem outerStep_wf {tile : ByteStore} {m n : Nat} {ks : List Nat} {a : List FVal} {b : List (List FVal)}
    {pick : Nat → Nat → Nat} (h : Memory.wf tile = true) : Memory.wf (outerStep tile m n ks a b pick).1 = true := by
  refine foldl_keeps (P := fun acc : ByteStore × Flags => Memory.wf acc.1 = true) (fun _ _ hrow => ?_) _ h
  exact foldl_keeps (P := fun acc : ByteStore × Flags => Memory.wf acc.1 = true)
    (fun _ _ hacc => bsWrite_wf _ _ _ hacc) _ hrow

theorem rowStep_wf {tile : ByteStore} {row n : Nat} {active : Nat → Bool} {fn : Nat → Nat → Nat × Flags}
    (h : Memory.wf tile = true) : Memory.wf (rowStep tile row n active fn).1 = true :=
  foldl_keeps (P := fun acc : ByteStore × Flags => Memory.wf acc.1 = true) (fun _ _ hacc => bsWrite_wf _ _ _ hacc) _ h

theorem matrixGo_canonical {fn ovr : Nat} {dst src : List (Nat × Nat)} {own : List (Option Trap)}
    {body : List Strip → State → State} {s : State} (hs : s.canonical)
    (hb : ∀ (xs : List Strip) (t : State), t.canonical → (body xs t).canonical) :
    (matrixGo fn ovr dst src own body s).canonical := by
  unfold matrixGo
  grind
grind_pattern matrixGo_canonical => matrixGo fn ovr dst src own body s, s.canonical

theorem advanceEach_canonical {src : List (Nat × Nat)} {s : State} (hs : s.canonical) :
    (advanceEach src s).canonical := by
  unfold advanceEach
  grind
grind_pattern advanceEach_canonical => advanceEach src s, s.canonical

theorem matrixEnd_canonical {src : List (Nat × Nat)} {fl : Flags} {s : State} (hs : s.canonical) :
    (matrixEnd src fl s).canonical :=
  retireVec_canonical (advanceEach_canonical (raise_canonical hs))
grind_pattern matrixEnd_canonical => matrixEnd src fl s, s.canonical

theorem State.canonical_clearTiles {s : State} {c : Nat} {m : Option Nat} (hs : s.canonical) :
    (s.setCore c { s.core c with mholder := m, acc := Vector.replicate 2 [] }).canonical := by
  obtain ⟨hp, hd, hl, -⟩ := State.canonical_core hs c
  exact State.canonical_setCore hs ⟨hp, hd, hl, noTiles_wf⟩

theorem giveUpArray_canonical {s : State} (hs : s.canonical) : (giveUpArray s).canonical := by
  unfold giveUpArray
  split
  · exact hs
  · dsimp only
    split
    · exact State.canonical_clearTiles hs
    · exact hs

theorem execMmodeOn_canonical {f : FmtX} {s0 : State} (hs : s0.canonical) : NextCanonical (execMmodeOn f s0) := by
  unfold execMmodeOn
  dsimp only
  split
  · exact .next (retireVec_canonical (endWait_canonical (settleAll_canonical hs)))
  · split
    · exact .next (settleAll_canonical hs)
    · exact .next (ite_canonical (retireVec_canonical (endWait_canonical (State.canonical_modMe_of
        (settleAll_canonical hs) fun _ h => h))) (ite_canonical (retireVec_canonical (endWait_canonical
        (State.canonical_modMe_of (State.canonical_clearTiles (settleAll_canonical hs)) fun _ h => h)))
        (waitAt_canonical (settleAll_canonical hs))))

theorem execMmodeOff_canonical {f : FmtX} {s : State} (hs : s.canonical) : NextCanonical (execMmodeOff f s) :=
  .next (retireVec_canonical (giveUpArray_canonical (State.canonical_modMe_of hs fun _ h => h)))

theorem execMshape_canonical {f : FmtX} {s : State} (hs : s.canonical) : NextCanonical (execMshape f s) := by
  have hw : ∀ w : Word, (retireVec ((s.modMe fun h => { h with mshape := w }).setSr f.xd w)).canonical := fun w =>
    retireVec_canonical (State.setSr_canonical (State.canonical_modMe_of hs fun _ h => h))
  unfold execMshape
  refine .next ?_
  split
  · exact takeTrap_canonical hs
  · split
    · exact takeTrap_canonical hs
    · exact hw _

theorem execMzero_canonical {f : FmtX} {s : State} (hs : s.canonical) : NextCanonical (execMzero f s) := by
  refine .next ?_
  split
  · exact retireVec_canonical (State.setTile_canonical hs rfl)
  · exact takeTrap_canonical hs

theorem mact_canonical {slide : Bool} {fn : Nat} {f : FmtX} {s : State} (hs : s.canonical) :
    (mact slide fn f s).canonical := by
  unfold mact
  refine matrixGo_canonical hs fun xs t ht => ?_
  dsimp only
  split
  · exact matrixEnd_canonical ht
  · exact matrixEnd_canonical (State.setTile_canonical ht (outerStep_wf (State.tile_wf ht)))

theorem execMmovn_canonical {f : FmtX} {s : State} (hs : s.canonical) : NextCanonical (execMmovn f s) := by
  unfold execMmovn
  grind

theorem toRow_canonical {fn : Nat} {f : FmtX} {regs : List Nat} {bad : Tag → Bool}
    {op : List Strip → Nat → Nat → Nat × Flags} {s : State} (hs : s.canonical) :
    (toRow fn f regs bad op s).canonical := by
  unfold toRow
  refine matrixGo_canonical hs fun xs t ht => ?_
  dsimp only
  split
  · exact matrixEnd_canonical ht
  · exact matrixEnd_canonical (State.setTile_canonical ht (rowStep_wf (State.tile_wf ht)))

theorem execMmovw_canonical {f : FmtX} {s : State} (hs : s.canonical) : NextCanonical (execMmovw f s) :=
  .next (toRow_canonical hs)

theorem execMvmac_canonical {f : FmtX} {s : State} (hs : s.canonical) : NextCanonical (execMvmac f s) :=
  .next (toRow_canonical hs)

end Sys2Proof.Machine
end

section
/-!
PROOFS. Held writes and collective calls keep every memory in canonical form.
-/
namespace Sys2Proof.Machine
open Sys2Proof

theorem collCheck_canonical {w : Who} {j lm : Nat} {r : BitVec 512} {s : State} (hs : s.canonical) :
    (collCheck w j lm r s).1.canonical := by
  unfold collCheck
  split
  · exact hs
  · split
    · exact hs
    · grind
grind_pattern collCheck_canonical => collCheck w j lm r s, s.canonical

theorem raiseEv_canonical {c : Call} {bits : Nat} {s : State} (hs : s.canonical) :
    (raiseEv c bits s).canonical := by
  unfold raiseEv
  split
  · exact State.canonical_modHart hs fun _ h => h
  · exact hs
grind_pattern raiseEv_canonical => raiseEv c bits s, s.canonical

theorem tryHeld_canonical {w : HeldWrite} {s : State} (hs : s.canonical) : (tryHeld w s).canonical := by
  unfold tryHeld
  split
  · next s1 e =>
    have h1 : s1.canonical := fst_canonical e (vwrite_canonical hs)
    exact h1
  · next s1 r _ e =>
    have h1 : s1.canonical := fst_canonical e (vwrite_canonical hs)
    clear e
    split
    · exact h1
    · dsimp only
      split
      · refine raiseMsix_canonical ?_
        split <;> grind
      · split <;> grind
grind_pattern tryHeld_canonical => tryHeld w s, s.canonical

theorem flushHeld_canonical {s : State} (hs : s.canonical) : (flushHeld s).canonical :=
  foldl_canonical hs fun _ _ _ h => tryHeld_canonical h
grind_pattern flushHeld_canonical => flushHeld s, s.canonical

theorem postRecord_canonical {c : Call} {s : State} (hs : s.canonical) : (postRecord c s).canonical := by
  unfold postRecord
  split
  · exact State.setCall_canonical hs
  · exact tryHeld_canonical (State.setCall_canonical hs)
grind_pattern postRecord_canonical => postRecord c s, s.canonical

theorem mailTo_canonical {c : Call} {m : CallMsg} {d : Nat} {s : State} (hs : s.canonical) :
    (mailTo c m d s).canonical :=
  hs

theorem tellAll_canonical {c : Call} {m : CallMsg} {s : State} (hs : s.canonical) : (tellAll c m s).canonical :=
  foldl_canonical hs fun _ _ _ h => sendTo_canonical (mailTo_canonical h)
grind_pattern tellAll_canonical => tellAll c m s, s.canonical

theorem abortCall_canonical {c : Call} {status lost : Nat} {s : State} (hs : s.canonical) :
    (abortCall c status lost s).canonical :=
  postRecord_canonical (raiseEv_canonical hs)
grind_pattern abortCall_canonical => abortCall c status lost s, s.canonical

theorem abortAll_canonical {c : Call} {status lost : Nat} {s : State} (hs : s.canonical) :
    (abortAll c status lost s).canonical :=
  abortCall_canonical (tellAll_canonical hs)
grind_pattern abortAll_canonical => abortAll c status lost s, s.canonical

theorem newCall_canonical {j lm : Nat} {r : BitVec 512} {memb : List Nat} {s : State} (hs : s.canonical) :
    (newCall j lm r memb s).1.canonical := by
  unfold newCall
  grind
grind_pattern newCall_canonical => newCall j lm r memb s, s.canonical

theorem readResidual_canonical {c : Call} {lo n : Nat} {s : State} (hs : s.canonical) :
    (readResidual c lo n s).1.canonical := by
  unfold readResidual
  split
  · exact hs
  · split
    · next e1 => exact fst_canonical e1 (vread_canonical hs)
    · next e1 => exact fst_canonical e1 (vread_canonical hs)
grind_pattern readResidual_canonical => readResidual c lo n s, s.canonical

theorem ownWire_canonical {c : Call} {lo hi : Nat} {s : State} (hs : s.canonical) :
    (ownWire c lo hi s).1.canonical := by
  unfold ownWire
  split
  · split
    · next e1 => exact fst_canonical e1 (readResidual_canonical hs)
    · next e1 => exact fst_canonical e1 (readResidual_canonical hs)
  · exact hs
grind_pattern ownWire_canonical => ownWire c lo hi s, s.canonical

theorem chunkValue_canonical {c : Call} {i : Nat} {contrib : List (List Byte)} {s : State} (hs : s.canonical) :
    (chunkValue c i contrib s).1.canonical := by
  unfold chunkValue
  split
  · dsimp only
    split
    · next e1 => exact fst_canonical e1 (ownWire_canonical hs)
    · next e1 => exact fst_canonical e1 (ownWire_canonical hs)
  · split
    · exact hs
    · exact hs

theorem sendValue_canonical {c : Call} {m : CallMsg} {ranks : List Nat} {lo hi : Nat} {s : State}
    (hs : s.canonical) :
    (sendValue c m ranks lo hi s).canonical :=
  foldl_canonical hs fun _ _ _ h => foldl_canonical (mailTo_canonical h) fun _ _ _ h => sendGroup_canonical h
grind_pattern sendValue_canonical => sendValue c m ranks lo hi s, s.canonical

theorem flushSend_canonical {i : Nat} {x : Send} {s : State} (hs : s.canonical) : (flushSend i x s).canonical := by
  unfold flushSend
  split
  · exact hs
  · split
    · exact hs
    · split
      · exact hs
      · next _ s1 _ e1 =>
        have h1 : s1.canonical := fst_canonical e1 (ownWire_canonical hs)
        split
        · exact hs
        · exact abortAll_canonical h1
      · next e1 => exact sendValue_canonical (State.setCall_canonical (fst_canonical e1 (ownWire_canonical hs)))

theorem noteSource_canonical {due : Bool} {i : Nat} {s : State} (hs : s.canonical) :
    (noteSource due i s).canonical := by
  unfold noteSource
  split
  · exact hs
  · split
    · exact hs
    · split
      · exact raiseEv_canonical (State.setCall_canonical (bump_canonical hs))
      · exact bump_canonical hs

theorem flushCall_canonical {i : Nat} {s : State} (hs : s.canonical) : (flushCall i s).canonical := by
  unfold flushCall
  split
  · exact hs
  · split
    · exact noteSource_canonical (foldl_canonical hs fun _ _ _ h => flushSend_canonical h)
    · exact hs

theorem flushCalls_canonical {s : State} (hs : s.canonical) : (flushCalls s).canonical :=
  foldl_canonical hs fun _ _ _ h => flushCall_canonical h

theorem execCallStart_canonical {i : Nat} {others : List CallTerms} {s : State} (hs : s.canonical) :
    NextCanonical (execCallStart i others s) := by
  unfold execCallStart
  split
  · exact .next hs
  · split
    · exact .next hs
    · split
      · exact .next (flushCall_canonical (State.setCall_canonical hs))
      · exact .next (abortCall_canonical hs)

theorem deliverChunk_canonical {c : Call} {chunk : Nat} {contrib : List (List Byte)} {s : State}
    (hs : s.canonical) :
    (deliverChunk c chunk contrib s).canonical := by
  unfold deliverChunk
  split
  · exact hs
  · split
    · exact hs
    · next e1 => exact abortAll_canonical (fst_canonical e1 (chunkValue_canonical hs))
    · exact hs
    · next _ s1 _ e1 =>
      have h1 : s1.canonical := fst_canonical e1 (chunkValue_canonical hs)
      dsimp only
      split
      · exact hs
      · next e2 => exact abortAll_canonical (fst_canonical e2 (vwrite_canonical h1))
      · next e2 => exact sendValue_canonical (State.canonical_modHart (State.setCall_canonical (fst_canonical e2
          (vwrite_canonical h1))) fun _ h => h)

theorem ringHop_canonical {c : Call} {k : Nat} {contrib : List (List Byte)} {s : State} (hs : s.canonical) :
    (ringHop c k contrib s).canonical := by
  unfold ringHop
  grind
grind_pattern ringHop_canonical => ringHop c k contrib s, s.canonical

theorem execCollectiveChunkDone_canonical {i chunk : Nat} {contrib : List (List Byte)} {s : State}
    (hs : s.canonical) :
    NextCanonical (execCollectiveChunkDone i chunk contrib s) := by
  unfold execCollectiveChunkDone
  split
  · exact .next hs
  · split
    · exact .next hs
    · split
      · exact .next (flushCall_canonical (deliverChunk_canonical hs))
      · exact .next (flushCall_canonical (ringHop_canonical hs))

theorem execCallLocal_canonical {i : Nat} {s : State} (hs : s.canonical) : NextCanonical (execCallLocal i s) := by
  unfold execCallLocal
  split
  · exact .next hs
  · split
    · exact .next (flushCall_canonical (tellAll_canonical (raiseEv_canonical (noteSource_canonical
        (State.setCall_canonical hs)))))
    · exact .next hs

theorem writeResidual_canonical {c : Call} {s : State} {t} (hs : s.canonical) (e : writeResidual c s = some t) :
    t.1.canonical := by
  unfold writeResidual at e
  grind
grind_pattern writeResidual_canonical => writeResidual c s, some t, s.canonical

theorem execCallDone_canonical {i : Nat} {s : State} (hs : s.canonical) : NextCanonical (execCallDone i s) := by
  unfold execCallDone
  split
  · exact .next hs
  · split
    · exact .next hs
    · split
      · exact .next hs
      · split
        · grind
        · grind

theorem execCallAbort_canonical {i status lost : Nat} {s : State} (hs : s.canonical) :
    NextCanonical (execCallAbort i status lost s) := by
  unfold execCallAbort
  split
  · exact .next hs
  · split
    · grind
    · grind
    · grind
    · grind

theorem execCstat_canonical {f : FmtC} {s : State} (hs : s.canonical) : NextCanonical (execCstat f s) :=
  .next (retire_canonical (State.setSr_canonical hs))

theorem execCabort_canonical {f : FmtC} {s : State} (hs : s.canonical) : NextCanonical (execCabort f s) := by
  unfold execCabort
  split
  · exact .next (retire_canonical (State.setSr_canonical hs))
  · split
    · exact .next (retire_canonical (State.setSr_canonical (abortAll_canonical hs)))
    · exact .next (retire_canonical (State.setSr_canonical (abortAll_canonical hs)))
    · exact .next (retire_canonical (State.setSr_canonical hs))
    · exact .next (retire_canonical (State.setSr_canonical hs))
    · exact .next (retire_canonical (State.setSr_canonical hs))

end Sys2Proof.Machine
end

section
/-!
PROOFS. Bindings, the decoder and the resumption of a group keep every memory in canonical form.
-/
namespace Sys2Proof.Machine
open Sys2Proof

theorem blockBody_canonical {rd : Nat → Nat → State → State × Except Stop (List Byte)} {h : BHead} {t : Tag}
    {s : State}
    (hs : s.canonical) (hr : ∀ (o n : Nat) (t : State), t.canonical → (rd o n t).1.canonical) :
    (blockBody rd h t s).1.canonical := by
  unfold blockBody
  grind
grind_pattern blockBody_canonical => blockBody rd h t s, s.canonical

theorem Hart.vecWf_bind {h : Hart} {l : List Binding} {v : Nat} (hx : h.vecWf) :
    ({ h with binds := l, vreg := h.vreg.set! v [] } : Hart).vecWf :=
  forall_set (P := fun m => Memory.wf m = true) v rfl hx

theorem bindRecord_canonical {b : Binding} {s : State} (hs : s.canonical) : (bindRecord b s).1.canonical := by
  unfold bindRecord
  extract_lets h stop alloc t stand
  have hstand : ∀ (b : Binding) (u : State), u.canonical → (stand b u).1.canonical := by
    intro b u hu
    simp only [stand]
    split
    · exact hu
    · exact State.canonical_modMe_of hu fun _ hx => Hart.vecWf_bind hx
  clear_value stand
  grind
grind_pattern bindRecord_canonical => bindRecord b s, s.canonical

theorem execBind_canonical {f : FmtC} {s0 : State} (hs : s0.canonical) : NextCanonical (execBind f s0) := by
  unfold execBind
  dsimp only
  split
  · exact .next (takeTrap_canonical (settleAll_canonical hs))
  · split
    · next e1 => exact .next (stopAt_canonical (fst_canonical e1 (readSpace_canonical (settleAll_canonical hs))))
    · next _ s1 _ e1 =>
      have h1 : s1.canonical := fst_canonical e1 (readSpace_canonical (settleAll_canonical hs))
      split
      · next e2 => exact .next (stopAt_canonical (fst_canonical e2 (bindRecord_canonical h1)))
      · next e2 => exact .next (retire_canonical (fst_canonical e2 (bindRecord_canonical h1)))

theorem release_canonical {j : Nat} {b : Binding} {s : State} (hs : s.canonical) : (release j b s).canonical := by
  have h := settleAll_canonical (j := j) hs
  exact State.canonical_modHart h fun x hx => forall_set (P := fun m => Memory.wf m = true) b.vt rfl hx
grind_pattern release_canonical => release j b s, s.canonical

theorem execUnbind_canonical {f : FmtC} {s : State} (hs : s.canonical) : NextCanonical (execUnbind f s) := by
  unfold execUnbind
  split
  · exact .next (retire_canonical (State.setSr_canonical hs))
  · split
    · exact .next hs
    · exact .next (retire_canonical (State.setSr_canonical (release_canonical hs)))

theorem execSstat_canonical {f : FmtC} {s : State} (hs : s.canonical) : NextCanonical (execSstat f s) := by
  unfold execSstat
  grind

theorem vldcLoop_canonical {sp : Nat} {base : Word} {budget vl : Nat} {t : Tag} {k : Nat} {b : Decoded} {s : State}
    (hs : s.canonical) :
    (vldcLoop sp base budget vl t k b s).1.canonical := by
  fun_induction vldcLoop sp base budget vl t k b s <;> grind
grind_pattern vldcLoop_canonical => vldcLoop sp base budget vl t k b s, s.canonical

theorem State.setDecoder_canonical {s : State} {c : Nat} {p : Option (Nat × Nat)} (hs : s.canonical) :
    (State.setDecoder s c p).canonical := by
  unfold State.setDecoder
  grind
grind_pattern State.setDecoder_canonical => State.setDecoder s c p, s.canonical

theorem execVldc_canonical {f : FmtVM} {s0 : State} (hs : s0.canonical) : NextCanonical (execVldc f s0) := by
  unfold execVldc
  dsimp only
  split
  · exact .next (takeTrap_canonical (settleAll_canonical hs))
  · split
    · exact .next (settleAll_canonical hs)
    · split
      · next e1 => exact .next (stopAt_canonical (fst_canonical e1 (vldcLoop_canonical (settleAll_canonical hs))))
      · next _ s1 _ e1 =>
        have h1 : s1.canonical := fst_canonical e1 (vldcLoop_canonical (settleAll_canonical hs))
        split
        · grind
        · grind

theorem execStreamUnitRead_canonical {j vt : Nat} {s : State} (hs : s.canonical) :
    NextCanonical (execStreamUnitRead j vt s) := by
  unfold execStreamUnitRead
  split
  · exact .next hs
  · split
    · dsimp only
      split
      · split
        · exact .next hs
        · next e1 => exact .next (setBinding_canonical (fst_canonical e1 (streamRaw_canonical hs)))
      · exact .next hs
    · dsimp only
      split
      · split
        · exact .next hs
        · next e1 => exact .next (setBinding_canonical (fst_canonical e1 (streamRaw_canonical hs)))
      · exact .next hs

theorem putDecoded_canonical {w : Who} {j : Nat} {l : List (Nat × Nat)} {m : List Byte} {s : State}
    (hs : s.canonical) :
    (putDecoded w j l m s).1.canonical := by
  fun_induction putDecoded w j l m s <;> grind
grind_pattern putDecoded_canonical => putDecoded w j l m s, s.canonical

theorem decoderFault_canonical {j : Nat} {b : Binding} {t : Trap} {s : State} (hs : s.canonical) :
    (decoderFault j b t s).canonical := by
  unfold decoderFault
  split
  · exact addLatch_canonical (setBinding_canonical hs)
  · exact failBinding_canonical hs
grind_pattern decoderFault_canonical => decoderFault j b t s, s.canonical

theorem blockVerified_canonical {j : Nat} {b : Binding} {w : Wrote} {s : State} (hs : s.canonical) :
    (blockVerified j b w s).1.canonical := by
  unfold blockVerified
  dsimp only
  split
  · split
    · next e1 => exact fst_canonical e1 (decoderArrival_canonical (State.canonical_modHart
        (setBinding_canonical hs) fun _ h => h))
    · next e1 => exact fst_canonical e1 (decoderArrival_canonical (State.canonical_modHart
        (setBinding_canonical hs) fun _ h => h))
    · grind
  · grind
grind_pattern blockVerified_canonical => blockVerified j b w s, s.canonical

theorem decodeBlock_canonical {h : Nat} {b : Binding} {rd : Nat → Nat → State → State × Except Stop (List Byte)}
    {hd : BHead}
    {s : State} (hs : s.canonical) (hr : ∀ (o n : Nat) (t : State), t.canonical → (rd o n t).1.canonical) :
    (decodeBlock h b rd hd s).1.canonical := by
  unfold decodeBlock
  grind
grind_pattern decodeBlock_canonical => decodeBlock h b rd hd s, s.canonical

theorem execDecoderBlock_canonical {j vt : Nat} {s : State} (hs : s.canonical) :
    NextCanonical (execDecoderBlock j vt s) := by
  unfold execDecoderBlock
  split
  · exact .next hs
  · split
    · exact .next hs
    · grind

theorem rereadRecord_canonical {j : Nat} {b : Binding} {s : State} (hs : s.canonical) :
    (rereadRecord j b s).1.canonical := by
  unfold rereadRecord
  split
  · next e1 => exact fst_canonical e1 (readSpace_canonical hs)
  · next e1 => exact fst_canonical e1 (readSpace_canonical hs)

theorem walkBlocks_canonical {j k : Nat} {b : Binding} {s : State} (hs : s.canonical) :
    (walkBlocks j k b s).1.canonical := by
  fun_induction walkBlocks j k b s <;> grind
grind_pattern walkBlocks_canonical => walkBlocks j k b s, s.canonical

theorem resumeBinding_canonical {j : Nat} {b : Binding} {s : State} (hs : s.canonical) :
    (resumeBinding j b s).canonical := by
  unfold resumeBinding
  split
  · exact hs
  · dsimp only
    split
    · exact setBinding_canonical (walkBlocks_canonical (rereadRecord_canonical hs))
    · exact setBinding_canonical (rereadRecord_canonical hs)

theorem resumeHart_canonical {j : Nat} {s : State} (hs : s.canonical) : (resumeHart j s).canonical :=
  foldl_canonical (State.canonical_modHart hs fun _ h => h) fun _ _ _ h => resumeBinding_canonical h

theorem resumeHarts_canonical {g : Nat} {s : State} (hs : s.canonical) : (resumeHarts g s).canonical := by
  unfold resumeHarts
  split
  · exact hs
  · refine foldl_canonical (refillBolts_canonical (State.canonical_setGroup hs ⟨nofun, nofun⟩)) fun t j _ ht => ?_
    exact resumeHart_canonical ht
grind_pattern resumeHarts_canonical => resumeHarts g s, s.canonical

theorem restoreLanes_canonical {g : Nat} {x : Group} {s : State} (hs : s.canonical) (hx : x.canonical) :
    (restoreLanes g x s).canonical := by
  obtain ⟨hp, hd, hl, ha⟩ := State.canonical_core hs x.core
  obtain ⟨hlanes, htiles⟩ := hx
  refine State.canonical_setCore hs ⟨hp, hd, ?_, ?_⟩
  · exact foldl_keeps_mem (P := fun v => ∀ l : Nat, Memory.wf (v[l]!) = true) hl fun v p hp hv =>
      forall_set (P := fun m => Memory.wf m = true) p.1 (hlanes p hp) hv
  · show ∀ i : Nat, Memory.wf ((x.saveAcc.getD _)[i]!) = true
    cases e : x.saveAcc with
    | none => exact ha
    | some a => exact htiles a e
grind_pattern restoreLanes_canonical => restoreLanes g x s, s.canonical

theorem reclaimExact_canonical {g : Nat} {x : Group} {s : State} (hs : s.canonical) :
    (reclaimExact g x s).canonical := by
  unfold reclaimExact
  grind
grind_pattern reclaimExact_canonical => reclaimExact g x s, s.canonical

theorem execGroupResume_canonical {g : Nat} {s : State} (hs : s.canonical) :
    NextCanonical (execGroupResume g s) := by
  unfold execGroupResume
  split
  · exact .next hs
  · split
    · exact .next hs
    · split
      · exact .next (resumeHarts_canonical hs)
      · split
        · exact .next hs
        · split
          · exact .next (reclaimExact_canonical hs)
          · grind

end Sys2Proof.Machine
end

section
/-!
PROOFS. Transducer runs and posting queries keep every memory in canonical form; a query's evaluation is followed
through its monad.
-/
namespace Sys2Proof.Machine
open Sys2Proof

theorem State.setChQueue_canonical {s : State} {ch : Nat} {l : List ChItem} (hs : s.canonical) :
    (State.setChQueue s ch l).canonical := hs
grind_pattern State.setChQueue_canonical => State.setChQueue s ch l, s.canonical

theorem State.setRun_canonical {s : State} {r : Run} (hs : s.canonical) : (State.setRun s r).canonical := hs
grind_pattern State.setRun_canonical => State.setRun s r, s.canonical

theorem pitRun_canonical {r : Run} {s : State} (hs : s.canonical) : (pitRun r s).canonical := by
  unfold pitRun
  split
  · exact State.setRun_canonical hs
  · split
    · exact State.setRun_canonical hs
    · exact addLatch_canonical (State.setRun_canonical hs)

theorem endRun_canonical {r : Run} {code : Nat} {s : State} (hs : s.canonical) : (endRun r code s).canonical :=
  pitRun_canonical hs
grind_pattern endRun_canonical => endRun r code s, s.canonical

theorem inputFault_canonical {r : Run} {t : Trap} {s : State} (hs : s.canonical) :
    (inputFault r t s).canonical := by
  unfold inputFault
  split
  · exact endRun_canonical hs
  · split
    · exact endRun_canonical hs
    · exact addLatch_canonical (State.setRun_canonical hs)
grind_pattern inputFault_canonical => inputFault r t s, s.canonical

theorem emit_canonical {r : Run} {y : Word} {s : State} (hs : s.canonical) : (emit r y s).1.canonical := by
  unfold emit
  split
  · exact hs
  · dsimp only
    split
    · next e1 => exact fst_canonical e1 (vwrite_canonical hs)
    · next e1 => exact fst_canonical e1 (vwrite_canonical hs)
    · next e1 => exact fst_canonical e1 (vwrite_canonical hs)
grind_pattern emit_canonical => emit r y s, s.canonical

theorem applyEntry_canonical {r : Run} {e : BitVec 32} {x : Nat} {s : State} (hs : s.canonical) :
    (applyEntry r e x s).canonical := by
  unfold applyEntry
  split
  · split
    · exact endRun_canonical hs
    · split
      · exact State.setRun_canonical hs
      · dsimp only
        split
        · exact hs
        · next _ s1 _ e1 =>
          have h1 : s1.canonical := fst_canonical e1 (emit_canonical hs)
          split
          · exact pitRun_canonical h1
          · exact State.setRun_canonical h1
grind_pattern applyEntry_canonical => applyEntry r e x s, s.canonical

theorem execRunStart_canonical {ch : Nat} {s : State} (hs : s.canonical) : NextCanonical (execRunStart ch s) := by
  unfold execRunStart
  split
  · split
    · exact .next (State.setChQueue_canonical hs)
    · split
      · exact .next hs
      · split
        · exact .next (endRun_canonical (State.setChQueue_canonical hs))
        · split
          · grind
          · exact .next (endRun_canonical (State.setChQueue_canonical hs))
  · exact .next hs

theorem execTableReplace_canonical {ch : Nat} {s : State} (hs : s.canonical) :
    NextCanonical (execTableReplace ch s) := by
  unfold execTableReplace
  split
  · split
    · exact .next hs
    · split
      · exact .next (State.setChQueue_canonical hs)
      · exact .next hs
  · exact .next hs

theorem replayPit_canonical {r : Run} {l : List (Word × Word × BitVec 6)} {s : State} (hs : s.canonical) :
    (replayPit r l s).1.canonical := by
  fun_induction replayPit r l s <;> grind
grind_pattern replayPit_canonical => replayPit r l s, s.canonical

theorem replayRun_canonical {r : Run} {s : State} (hs : s.canonical) : (replayRun r s).canonical := by
  unfold replayRun
  split
  · dsimp only
    split
    · exact State.setRun_canonical (replayPit_canonical hs)
    · split
      · exact State.setRun_canonical (replayPit_canonical hs)
      · exact pitRun_canonical (replayPit_canonical hs)
  · dsimp only
    split
    · exact State.setRun_canonical (replayPit_canonical hs)
    · split
      · exact State.setRun_canonical (replayPit_canonical hs)
      · exact pitRun_canonical (replayPit_canonical hs)
grind_pattern replayRun_canonical => replayRun r s, s.canonical

theorem execTransducerStep_canonical {i : Nat} {s : State} (hs : s.canonical) :
    NextCanonical (execTransducerStep i s) := by
  unfold execTransducerStep
  split
  · exact .next hs
  · split
    · exact .next hs
    · split
      · exact .next (replayRun_canonical hs)
      · split
        · exact .next hs
        · split
          · exact .next (endRun_canonical hs)
          · grind

theorem finishRun_canonical {r : Run} {s : State} {t : State} (hs : s.canonical) (e : finishRun r s = some t) :
    t.canonical := by
  unfold finishRun at e
  grind
grind_pattern finishRun_canonical => finishRun r s, some t, s.canonical

theorem getD_canonical {o : Option State} {s : State} (hs : s.canonical) (ho : ∀ t, o = some t → t.canonical) :
    (o.getD s).canonical := by
  cases o with
  | none => exact hs
  | some t => exact ho t rfl

theorem execRunEnd_canonical {i : Nat} {s : State} (hs : s.canonical) : NextCanonical (execRunEnd i s) := by
  refine .next ?_
  split
  · exact hs
  · split
    · exact getD_canonical hs fun t e => finishRun_canonical hs e
    · exact hs

theorem resumeRun_canonical {i : Nat} {s : State} (hs : s.canonical) : (resumeRun i s).canonical := by
  unfold resumeRun
  split
  · exact hs
  · split
    · exact State.setRun_canonical hs
    · exact replayRun_canonical hs
    · exact hs

theorem abandonRun_canonical {r : Run} {s : State} {t : State} (hs : s.canonical) (e : abandonRun r s = some t) :
    t.canonical := by
  unfold abandonRun at e
  grind
grind_pattern abandonRun_canonical => abandonRun r s, some t, s.canonical

theorem execXtab_canonical {f : FmtC} {s0 : State} (hs : s0.canonical) : NextCanonical (execXtab f s0) := by
  unfold execXtab
  dsimp only
  split
  · exact .next (takeTrap_canonical (settleAll_canonical hs))
  · split
    · exact .next (takeTrap_canonical (settleAll_canonical hs))
    · split
      · next e1 => exact .next (stopAt_canonical (fst_canonical e1 (readRange_canonical (settleAll_canonical hs))))
      · next _ s1 _ e1 =>
        have h1 : s1.canonical := fst_canonical e1 (readRange_canonical (settleAll_canonical hs))
        split
        · split
          · grind
          · grind
        · split
          · grind
          · grind

theorem execXrun_canonical {f : FmtC} {s : State} (hs : s.canonical) : NextCanonical (execXrun f s) := by
  unfold execXrun
  split
  · dsimp only
    split
    · exact .next (takeTrap_canonical hs)
    · exact .next (takeTrap_canonical hs)
  · dsimp only
    split
    · exact .next (takeTrap_canonical hs)
    · exact .next hs
  · dsimp only
    split
    · exact .next (takeTrap_canonical hs)
    · split
      · grind
      · split
        · grind
        · grind

theorem execXstat_canonical {f : FmtC} {s : State} (hs : s.canonical) : NextCanonical (execXstat f s) :=
  .next (retire_canonical (State.setSr_canonical hs))

theorem State.setQuery_canonical {s : State} {q : Query} (hs : s.canonical) : (State.setQuery s q).canonical := hs

/-- An evaluation of a query that keeps the memories in canonical form, whatever it answers. -/
def QM.Keeps {α : Type} (m : QM α) : Prop := ∀ p : State × Flags, p.1.canonical → (m.run p).2.1.canonical

namespace QM.Keeps

theorem pure {α : Type} {a : α} : QM.Keeps (Pure.pure a) := fun _ hp => hp

theorem throw {α : Type} {e : QErr} : QM.Keeps (MonadExcept.throw e : QM α) := fun _ hp => hp

theorem fail {α : Type} {c t : Nat} : QM.Keeps (qFail c t : QM α) := fun _ hp => hp

theorem run_bind {α β : Type} (m : QM α) (f : α → QM β) (p : State × Flags) :
   (m >>= f).run p = match m.run p with | (.ok a, q) => (f a).run q | (.error e, q) => (.error e, q) := by
  show ExceptT.bindCont f (m.run p).1 (m.run p).2 = _
  obtain ⟨r | a, q⟩ := m.run p
  · rfl
  · rfl

theorem bind {α β : Type} {m : QM α} {f : α → QM β} (hm : QM.Keeps m) (hf : ∀ a, QM.Keeps (f a)) :
    QM.Keeps (m >>= f) := by
  intro p hp
  have h1 := hm p hp
  rw [run_bind]
  split
  · next e => rw [e] at h1; exact hf _ _ h1
  · next e => rw [e] at h1; exact h1

theorem mapM {α β : Type} {f : α → QM β} (hf : ∀ a, QM.Keeps (f a)) (l : List α) : QM.Keeps (l.mapM f) := by
  induction l with
  | nil => exact pure
  | cons a l ih =>
    rw [List.mapM_cons]
    exact bind (hf a) fun _ => bind ih fun _ => pure

theorem run_get_bind {α : Type} (f : State × Flags → QM α) (p : State × Flags) :
    (get >>= f).run p = (f p).run p := rfl

theorem read {q : Query} {a n : Nat} : QM.Keeps (qRead q a n) := by
  intro p hp
  unfold qRead
  rw [run_get_bind]
  split
  · next e => exact fst_canonical e (vread_canonical hp)
  · next e => exact fst_canonical e (vread_canonical hp)

theorem readSome {q : Query} {a n : Nat} : QM.Keeps (qReadSome q a n) := by
  unfold qReadSome
  split
  · exact pure
  · exact read

theorem flag {r : Nat × Flags} : QM.Keeps (qFlag r) := fun _ hp => hp

theorem op {o : AOp} {a b : Nat} : QM.Keeps (qOp o a b) := flag

theorem int {n : Nat} : QM.Keeps (qInt n) := flag

theorem readTerm {q : Query} {t list idf : Nat} : QM.Keeps (readTerm q t list idf) := by
  refine bind read fun h => bind readSome fun sk => ?_
  dsimp only
  split
  · exact fail
  · exact pure

theorem readBlock {q : Query} {t : Nat} {l : TermList} {e : Skip} : QM.Keeps (readBlock q t l e) := by
  refine bind read fun h => ?_
  dsimp only
  split
  · exact fail
  · refine bind readSome fun x => ?_
    split
    · exact fail
    · exact pure

theorem readPosts {q : Query} {op : Nat} {terms : List TermList} {ts : List Nat}
    {acc : List (Nat × List (Nat × Nat))} : QM.Keeps (readPosts q op terms ts acc) := by
  fun_induction Machine.readPosts q op terms ts acc with
  | case1 acc => exact pure
  | case2 acc t ts h ih => exact ih
  | case3 acc t ts l h ih => exact bind (mapM (fun _ => readBlock) _) fun bs => ih bs

theorem scoreTerms {h : QHead} {omb kp1 q : Nat} {posts : List (Nat × List (Nat × Nat))} {d : Nat}
    {ts : List (TermList × Nat)} {sum : Nat} : QM.Keeps (scoreTerms h omb kp1 q posts d ts sum) := by
  fun_induction Machine.scoreTerms h omb kp1 q posts d ts sum with
  | case1 sum => exact pure
  | case2 sum l t more hf ih => exact ih
  | case3 sum l t more tf hf ih =>
    exact bind int fun _ => bind op fun _ => bind op fun _ => bind op fun _ => bind op fun _ => bind op fun _ =>
      bind op fun _ => bind op fun _ => ih _

theorem scoreDoc {q : Query} {h : QHead} {omb kp1 : Nat} {terms : List TermList}
    {posts : List (Nat × List (Nat × Nat))} {d : Nat} : QM.Keeps (scoreDoc q h omb kp1 terms posts d) := by
  unfold Machine.scoreDoc
  split
  · exact bind pure fun _ => bind scoreTerms fun _ => pure
  · exact bind read fun _ => bind int fun _ => bind op fun _ => bind op fun _ => bind scoreTerms fun _ => pure

theorem reciprocal {kr : Nat} {r : Option Nat} : QM.Keeps (reciprocal kr r) := by
  cases r with
  | none => exact pure
  | some r => exact bind int fun _ => bind op fun _ => op

theorem fuse {h : QHead} {lex cand : List (Nat × Nat)} : QM.Keeps (fuse h lex cand) := by
  unfold Machine.fuse
  split
  · exact pure
  · refine mapM (fun d => ?_) _
    split
    · exact bind op fun _ => bind op fun _ => bind op fun _ => pure
    · exact bind reciprocal fun _ => bind reciprocal fun _ => bind op fun _ => pure

theorem candidates {h : QHead} {x : Nat} : QM.Keeps (candidates h x) := by
  unfold Machine.candidates
  dsimp only
  repeat' split
  · exact pure
  · exact fail
  · exact pure

theorem evalQuery {q : Query} {h : QHead} : QM.Keeps (evalQuery q h) := by
  unfold Machine.evalQuery
  split
  · exact fail
  · refine bind read fun _ => ?_
    split
    · exact fail
    · refine bind readSome fun _ => bind candidates fun _ => bind (mapM (fun _ => readTerm) _) fun _ =>
        bind readPosts fun _ => ?_
      dsimp only
      split
      · exact fail
      · exact bind op fun _ => bind op fun _ => bind (mapM (fun _ => scoreDoc) _) fun _ => bind fuse fun _ => pure

end QM.Keeps

theorem runQuery_canonical {q : Query} {s : State} (hs : s.canonical) : (runQuery q s).1.canonical := by
  have hr : QM.Keeps (readHead q) := .bind .read fun _ => .pure
  have h0 := hr (s, 0) hs
  unfold runQuery
  split
  · next e => rwa [e] at h0
  · next h p e =>
    rw [e] at h0
    exact QM.Keeps.evalQuery (h := h) p h0

theorem writeQuery_canonical {q : Query} {k res : Nat} {l : List Nat} {w : Word} {s : State} (hs : s.canonical) :
    (writeQuery q k res l w s).1.canonical := by
  unfold writeQuery
  grind
grind_pattern writeQuery_canonical => writeQuery q k res l w s, s.canonical

theorem leaveEngine_canonical {q : Query} {s : State} (hs : s.canonical) : (leaveEngine q s).canonical := by
  unfold leaveEngine
  grind
grind_pattern leaveEngine_canonical => leaveEngine q s, s.canonical

theorem attemptQuery_canonical {q : Query} {s : State} (hs : s.canonical) : (attemptQuery q s).1.canonical := by
  have h1 := runQuery_canonical (q := q) hs
  unfold attemptQuery
  generalize runQuery q s = r at h1
  obtain ⟨s1, o⟩ := r
  dsimp only
  split
  · exact h1
  · exact writeQuery_canonical h1
  · exact writeQuery_canonical h1

theorem execQueryStart_canonical {i : Nat} {s : State} (hs : s.canonical) : NextCanonical (execQueryStart i s) := by
  unfold execQueryStart
  split
  · split
    · exact .next (State.setQuery_canonical hs)
    · exact .next hs
  · exact .next hs

theorem execQueryEnd_canonical {i : Nat} {s : State} (hs : s.canonical) : NextCanonical (execQueryEnd i s) := by
  unfold execQueryEnd
  split
  · exact .next hs
  · split
    · exact .next hs
    · split
      · next e1 => exact .next (leaveEngine_canonical (fst_canonical e1 (attemptQuery_canonical hs)))
      · exact .next hs

theorem execQueryFault_canonical {i : Nat} {s : State} (hs : s.canonical) : NextCanonical (execQueryFault i s) := by
  unfold execQueryFault
  split
  · exact .next hs
  · split
    · exact .next hs
    · split
      · next e1 => exact .next (addLatch_canonical (State.setQuery_canonical (fst_canonical e1
          (attemptQuery_canonical hs))))
      · exact .next hs

theorem resumeQuery_canonical {i : Nat} {s : State} (hs : s.canonical) : (resumeQuery i s).canonical := by
  unfold resumeQuery
  split
  · split
    · exact State.setQuery_canonical hs
    · exact hs
  · exact hs

theorem abandonQuery_canonical {q : Query} {s : State} {t : State} (hs : s.canonical)
    (e : abandonQuery q s = some t) :
    t.canonical := by
  unfold abandonQuery at e
  grind
grind_pattern abandonQuery_canonical => abandonQuery q s, some t, s.canonical

theorem execPqry_canonical {f : FmtC} {s : State} (hs : s.canonical) : NextCanonical (execPqry f s) := by
  unfold execPqry
  split
  · dsimp only
    split
    · exact .next (takeTrap_canonical hs)
    · exact .next (takeTrap_canonical hs)
  · dsimp only
    split
    · exact .next (takeTrap_canonical hs)
    · exact .next hs
  · dsimp only
    split
    · exact .next (takeTrap_canonical hs)
    · grind

theorem execPstat_canonical {f : FmtC} {s : State} (hs : s.canonical) : NextCanonical (execPstat f s) := by
  unfold execPstat
  dsimp only
  split
  · exact .next (retire_canonical (State.setSr_canonical hs))
  · exact .next (retire_canonical (State.setSr_canonical (bump_canonical hs)))

end Sys2Proof.Machine
end

section
/-!
PROOFS. Barriers and scalar memory accesses keep every memory in canonical form.
-/
namespace Sys2Proof.Machine
open Sys2Proof

theorem barDone_canonical {sd : BitVec 6} {v : Word} {s : State} (hs : s.canonical) : (barDone sd v s).canonical :=
  retire_canonical (endWait_canonical (State.setSr_canonical hs))
grind_pattern barDone_canonical => barDone sd v s, s.canonical

theorem barrierPlace_canonical {a : Word} {scope : BitVec 3} {s : State} (hs : s.canonical) :
    (barrierPlace a scope s).1.canonical := by
  unfold barrierPlace
  split
  · exact hs
  · split
    · next e1 => exact fst_canonical e1 (linePlace_canonical hs)
    · next e1 => exact fst_canonical e1 (linePlace_canonical hs)
    · next _ s1 _ e1 =>
      have h1 : s1.canonical := fst_canonical e1 (linePlace_canonical hs)
      split
      · split
        · exact h1
        · exact h1
      · exact h1
grind_pattern barrierPlace_canonical => barrierPlace a scope s, s.canonical

theorem saveIfDue_canonical {j : Nat} {s : State} (hs : s.canonical) : (saveIfDue j s).canonical := by
  unfold saveIfDue
  split
  · split
    · exact finishSave_canonical (forceHart_canonical hs)
    · exact hs
  · exact hs
grind_pattern saveIfDue_canonical => saveIfDue j s, s.canonical

theorem barRecheck_canonical {f : FmtY} {latch : Bool} {gen : BitVec 32} {s : State} (hs : s.canonical) :
    (barRecheck f latch gen s).canonical := by
  unfold barRecheck
  split
  · exact saveIfDue_canonical hs
  · split
    · split
      · exact hs
      · split
        · exact waitAt_canonical hs
        · exact barDone_canonical hs
    · split
      · next e1 => exact takeTrap_canonical (endWait_canonical (fst_canonical e1 (recordPlace_canonical hs)))
      · exact hs
      · next _ s1 _ e1 =>
        have h1 : s1.canonical := fst_canonical e1 (recordPlace_canonical hs)
        dsimp only
        split
        · exact waitAt_canonical h1
        · exact barDone_canonical h1
grind_pattern barRecheck_canonical => barRecheck f latch gen s, s.canonical

theorem arriveLatch_canonical {f : FmtY} {s : State} (hs : s.canonical) : (arriveLatch f s).canonical := by
  unfold arriveLatch
  split
  · exact hs
  · dsimp only
    split
    · grind
    · grind
grind_pattern arriveLatch_canonical => arriveLatch f s, s.canonical

theorem arriveRecord_canonical {f : FmtY} {p : Place} {s : State} (hs : s.canonical) :
    (arriveRecord f p s).canonical := by
  unfold arriveRecord
  dsimp only
  split
  · exact barDone_canonical hs
  · split
    · exact stopAt_canonical hs
    · split
      · grind
      · grind
grind_pattern arriveRecord_canonical => arriveRecord f p s, s.canonical

theorem execBar_canonical {f : FmtY} {s : State} (hs : s.canonical) : NextCanonical (execBar f s) := by
  unfold execBar
  split
  · exact .next (barRecheck_canonical hs)
  · split
    · split
      · exact .next (stopAt_canonical hs)
      · grind
    · split
      · next e1 => exact .next (stopAt_canonical (fst_canonical e1 (barrierPlace_canonical hs)))
      · next _ s1 _ e1 =>
        have h1 : s1.canonical := fst_canonical e1 (barrierPlace_canonical hs)
        split
        · exact .next (stopAt_canonical h1)
        · grind

theorem execBarrierRecheck_canonical {j : Nat} {s : State} (hs : s.canonical) :
    NextCanonical (execBarrierRecheck j s) := by
  unfold execBarrierRecheck
  split
  · exact .next (barRecheck_canonical hs)
  · exact .next hs

theorem execBinitSet_canonical {f : FmtY} {s : State} (hs : s.canonical) : NextCanonical (execBinitSet f s) := by
  unfold execBinitSet
  split
  · next e1 => exact .next (stopAt_canonical (fst_canonical e1 (barrierPlace_canonical hs)))
  · next _ s1 _ e1 =>
    have h1 : s1.canonical := fst_canonical e1 (barrierPlace_canonical hs)
    split
    · exact .next (stopAt_canonical h1)
    · dsimp only
      split
      · grind
      · split
        · grind
        · grind

theorem execBinitFault_canonical {f : FmtY} {s : State} (hs : s.canonical) :
    NextCanonical (execBinitFault f s) := by
  unfold execBinitFault
  split
  · grind
  · next _ s1 _ e1 =>
    have h1 : s1.canonical := fst_canonical e1 (barrierPlace_canonical hs)
    split
    · dsimp only
      split
      · exact .next (takeTrap_canonical h1)
      · exact .next (stopAt_canonical h1)
    · dsimp only
      split
      · exact .next (takeTrap_canonical h1)
      · split
        · grind
        · split
          · grind
          · grind

theorem releaseLost_canonical {d : Nat} {s : State} (hs : s.canonical) : (releaseLost d s).canonical := by
  unfold releaseLost
  grind
grind_pattern releaseLost_canonical => releaseLost d s, s.canonical

theorem beforeScalar_canonical {gated : Bool} {s : State} {t : State} (hs : s.canonical)
    (e : beforeScalar gated s = .ok t) :
    t.canonical := by
  unfold beforeScalar at e
  grind
grind_pattern beforeScalar_canonical => beforeScalar gated s, Except.ok (ε := Stop) t, s.canonical

theorem loadScalar_canonical {ea : Word} {n : Nat} {s : State} (hs : s.canonical) :
    (loadScalar ea n s).1.canonical := by
  unfold loadScalar
  split
  · exact hs
  · split
    · exact hs
    · split
      · split
        · exact hs
        · exact hs
      · exact vreadNat_canonical hs

theorem storeScalar_canonical {ea : Word} {data : List Byte} {s : State} (hs : s.canonical) :
    (storeScalar ea data s).1.canonical := by
  unfold storeScalar
  split
  · exact hs
  · split
    · exact hs
    · split
      · grind
      · split
        · next e1 => exact fst_canonical e1 (vwriteCheck_canonical hs)
        · grind
grind_pattern storeScalar_canonical => storeScalar ea data s, s.canonical

theorem execLd_canonical {f : FmtM} {s : State} (hs : s.canonical) : NextCanonical (execLd f s) := by
  unfold execLd
  dsimp only
  split
  · next e1 => exact .next (stopAt_canonical (fst_canonical e1 (loadScalar_canonical (settleSome_canonical hs))))
  · next e1 => exact .next (writeSd_canonical (fst_canonical e1 (loadScalar_canonical (settleSome_canonical hs))))

theorem execSt_canonical {f : FmtM} {s : State} (hs : s.canonical) : NextCanonical (execSt f s) := by
  unfold execSt
  split
  · exact .next (stopAt_canonical hs)
  · dsimp only
    split
    · grind
    · grind

theorem execAmo_canonical {f : FmtM} {s : State} (hs : s.canonical) : NextCanonical (execAmo f s) := by
  unfold execAmo
  split
  · exact .next (stopAt_canonical hs)
  · dsimp only
    split
    · grind
    · split
      · split
        · grind
        · grind
      · split
        · grind
        · grind

theorem execFence_canonical {f : FmtM} {s : State} (hs : s.canonical) : NextCanonical (execFence f s) := by
  unfold execFence
  dsimp only
  split
  · exact .next (stopAt_canonical hs)
  · exact .next (retire_canonical (ite_canonical (settleAll_canonical hs) hs))

end Sys2Proof.Machine
end

section
/-!
PROOFS. Kernels and their groups keep every memory in canonical form.
-/
namespace Sys2Proof.Machine
open Sys2Proof

theorem checkRecord_canonical {asid cluster r : Nat} {s : State} (hs : s.canonical) :
    (checkRecord asid cluster r s).1.canonical := by
  unfold checkRecord
  split
  · exact hs
  · dsimp only
    split
    · split
      · exact hs
      · exact hs
    · split
      · next e1 => exact fst_canonical e1 (vread_canonical hs)
      · next _ s1 _ e1 =>
        have h1 : s1.canonical := fst_canonical e1 (vread_canonical hs)
        split
        · exact h1
        · exact h1
grind_pattern checkRecord_canonical => checkRecord asid cluster r s, s.canonical

theorem addKernel_canonical {k : Kernel} {s : State} (hs : s.canonical) : (addKernel k s).canonical := hs
grind_pattern addKernel_canonical => addKernel k s, s.canonical

theorem changeHolds_canonical {f : Nat → Buf → Buf} {x : Kernel} {s : State} (hs : s.canonical) :
    (changeHolds f x s).canonical :=
  foldl_canonical (State.canonical_modCtx hs) fun _ _ _ h => ite_canonical h (storeBuf_canonical h)

theorem execKernelDispatch_canonical {k : Nat} {s : State} (hs : s.canonical) :
    NextCanonical (execKernelDispatch k s) := by
  unfold execKernelDispatch
  split
  · exact .next hs
  · split
    · exact .next (State.setKernel_canonical (changeHolds_canonical hs))
    · exact .next hs

theorem levelDone_canonical {serial : Nat} {x : Kernel} {level unit : Nat} {cause tval : Word} {s : State}
    (hs : s.canonical) :
    (levelDone serial x level unit cause tval s).canonical := by
  unfold levelDone
  dsimp only
  split
  · split
    · exact raiseMsix_canonical (queueEvent_canonical hs)
    · exact raiseMsix_canonical hs
  · split
    · exact queueEvent_canonical hs
    · exact hs

theorem nodesDone_canonical {k : Nat} {s : State} (hs : s.canonical) : (nodesDone k s).canonical := by
  unfold nodesDone
  split
  · exact hs
  · split
    · exact hs
    · exact foldl_canonical (foldl_canonical (foldl_canonical (State.setKernel_canonical hs) fun _ _ _ h =>
        levelDone_canonical h) fun _ _ _ h => levelDone_canonical h) fun _ _ _ h => levelDone_canonical h

theorem finishKernel_canonical {last : Bool} {k : Nat} {s : State} (hs : s.canonical) :
    (finishKernel last k s).canonical := by
  unfold finishKernel
  split
  · exact hs
  · split
    · exact levelDone_canonical (levelDone_canonical (State.setKernel_canonical hs))
    · split
      · dsimp only
        split
        · next e1 => exact levelDone_canonical (fst_canonical e1 (vamoAt_canonical (levelDone_canonical
            (State.setKernel_canonical hs))))
        · next e1 => exact levelDone_canonical (fst_canonical e1 (vamoAt_canonical (levelDone_canonical
            (State.setKernel_canonical hs))))
        · next e1 => exact levelDone_canonical (fst_canonical e1 (vamoAt_canonical (levelDone_canonical
            (State.setKernel_canonical hs))))
      · dsimp only
        split
        · next e1 => exact levelDone_canonical (fst_canonical e1 (vamoAt_canonical (levelDone_canonical
            (State.setKernel_canonical hs))))
        · next e1 => exact levelDone_canonical (fst_canonical e1 (vamoAt_canonical (levelDone_canonical
            (State.setKernel_canonical hs))))
        · exact hs

theorem execKernelRetire_canonical {k : Nat} {s : State} (hs : s.canonical) :
    NextCanonical (execKernelRetire k s) := by
  unfold execKernelRetire
  split
  · exact .next hs
  · split
    · exact .next hs
    · split
      · dsimp only
        split
        · split
          · exact .next (finishKernel_canonical (State.setKernel_canonical (changeHolds_canonical hs)))
          · exact .next hs
        · exact .next hs
      · split
        · exact .next (finishKernel_canonical hs)
        · exact .next hs

theorem startHart_vecWf {k : Kernel} {num g i : Nat} {old : Hart} :
    (startHart k num g i old).vecWf := Hart.reset_vecWf

theorem placeGroup_canonical {serial : Nat} {k : Kernel} {core base frame : Nat} {s : State} (hs : s.canonical) :
    (placeGroup serial k core base frame s).canonical := by
  refine nodesDone_canonical (State.setKernel_canonical (foldl_canonical (State.canonical_setGroup ?_ ⟨nofun, nofun⟩)
    fun t p _ ht => State.canonical_modHart ht fun _ _ => startHart_vecWf))
  exact hs

theorem execGroupPlace_canonical {s : State} (hs : s.canonical) : NextCanonical (execGroupPlace s) := by
  unfold execGroupPlace
  split
  · exact .next hs
  · exact .next (placeGroup_canonical hs)

theorem dropGroup_canonical {g : Nat} {s : State} (hs : s.canonical) : (dropGroup g s).canonical := by
  unfold dropGroup
  split
  · exact hs
  · extract_lets c s1 s2
    have h1 : s1.canonical := ite_canonical (State.canonical_clearTiles hs) hs
    have h2 : s2.canonical :=
      foldl_canonical h1 fun _ _ _ h => State.canonical_modHart (settleAll_canonical h) fun _ h => h
    exact State.canonical_withGroups h2 (smDel_all (State.canonical_groups h2))

theorem retireGroup_canonical {g : Nat} {s : State} (hs : s.canonical) : (retireGroup g s).canonical := by
  unfold retireGroup
  split
  · exact hs
  · dsimp only
    split
    · exact dropGroup_canonical hs
    · exact nodesDone_canonical (State.setKernel_canonical (dropGroup_canonical hs))

theorem cancelWork_canonical {serial : Nat} {harts : List Nat} {s : State} (hs : s.canonical) :
    (cancelWork serial harts s).canonical :=
  hs

theorem abortKernel_canonical {k : Nat} {s : State} (hs : s.canonical) : (abortKernel k s).canonical := by
  unfold abortKernel
  split
  · exact hs
  · split
    · exact hs
    · split
      · exact finishKernel_canonical (nodesDone_canonical (State.setKernel_canonical (cancelWork_canonical
          (foldl_canonical hs fun _ _ _ h => dropGroup_canonical h))))
      · exact finishKernel_canonical (nodesDone_canonical (State.setKernel_canonical (changeHolds_canonical
          (cancelWork_canonical (foldl_canonical hs fun _ _ _ h => dropGroup_canonical h)))))
grind_pattern abortKernel_canonical => abortKernel k s, s.canonical

theorem execLaunch_canonical {f : FmtY} {s : State} (hs : s.canonical) : NextCanonical (execLaunch f s) := by
  refine .next ?_
  split
  · exact takeTrap_canonical hs
  · split
    · exact takeTrap_canonical hs
    · exact hs
    · next s0 e0 =>
      have h0 : s0.canonical := releaseGate_canonical hs e0
      clear e0
      split
      · next e1 => exact stopAt_canonical (fst_canonical e1 (readRange_canonical h0))
      · next s1 d e1 =>
        have h1 : s1.canonical := fst_canonical e1 (readRange_canonical h0)
        clear e1
        dsimp only
        split
        · next e2 => exact stopAt_canonical (fst_canonical e2 (checkRecord_canonical h1))
        · next e2 => exact takeTrap_canonical (fst_canonical e2 (checkRecord_canonical h1))
        · next s2 _ e2 =>
          have h2 : s2.canonical := fst_canonical e2 (checkRecord_canonical h1)
          clear e2
          split <;> grind

/-- What each step of a fold that may stop keeps, the fold keeps where it does not stop. -/
theorem foldl_bind_canonical {β : Type} {f : β → State → Option State} {l : List β} {o : Option State}
    (ho : ∀ t, o = some t → t.canonical) (hf : ∀ b s t, s.canonical → f b s = some t → t.canonical) :
    ∀ t, l.foldl (fun s b => s.bind (f b)) o = some t → t.canonical :=
  foldl_keeps (P := fun o : Option State => ∀ t, o = some t → t.canonical) (fun o b ho t e => by
    obtain ⟨s, hs, e⟩ := Option.bind_eq_some_iff.1 e
    exact hf b s t (ho s hs) e) l ho

theorem exitEnds_canonical {j : Nat} {s t : State} (hs : s.canonical) (e : exitEnds j s = some t) :
    t.canonical := by
  refine foldl_bind_canonical (foldl_bind_canonical ?_ fun r u v => ?_) (fun q u v => ?_) t e
  · rintro _ ⟨⟩
    exact hs
  · exact fun hu e => abandonRun_canonical hu e
  · exact fun hu e => abandonQuery_canonical hu e
grind_pattern exitEnds_canonical => exitEnds j s, some t, s.canonical

theorem stopHart_canonical {j : Nat} {s : State} (hs : s.canonical) : (stopHart j s).canonical := by
  unfold stopHart
  grind
grind_pattern stopHart_canonical => stopHart j s, s.canonical

theorem afterExit_canonical {g : Nat} {s : State} (hs : s.canonical) : (afterExit g s).canonical := by
  unfold afterExit
  split
  · exact hs
  · dsimp only
    split
    · grind
    · grind
grind_pattern afterExit_canonical => afterExit g s, s.canonical

theorem leaveGroup_canonical {abort : Bool} {s : State} (hs : s.canonical) : (leaveGroup abort s).canonical := by
  unfold leaveGroup
  split
  · exact hs
  · dsimp only
    split
    · split
      · exact abortKernel_canonical (giveUpArray_canonical (stopHart_canonical hs))
      · split
        · exact retireGroup_canonical (giveUpArray_canonical (stopHart_canonical hs))
        · exact afterExit_canonical (giveUpArray_canonical (stopHart_canonical hs))
    · split
      · exact abortKernel_canonical (giveUpArray_canonical (stopHart_canonical hs))
      · split
        · exact retireGroup_canonical (giveUpArray_canonical (stopHart_canonical hs))
        · exact afterExit_canonical (giveUpArray_canonical (stopHart_canonical hs))
grind_pattern leaveGroup_canonical => leaveGroup abort s, s.canonical

theorem exitHart_canonical {abort : Bool} {s : State} (hs : s.canonical) : (exitHart abort s).canonical := by
  unfold exitHart
  split
  · exact hs
  · split
    · grind
    · split
      · grind
      · grind
grind_pattern exitHart_canonical => exitHart abort s, s.canonical

theorem execCwait_canonical {f : FmtY} {s0 : State} (hs : s0.canonical) : NextCanonical (execCwait f s0) := by
  unfold execCwait
  dsimp only
  split
  · exact .next (takeTrap_canonical (endWait_canonical (settleSome_canonical hs)))
  · split
    · exact .next (takeTrap_canonical (settleSome_canonical hs))
    · split
      · next e1 => exact .next (takeTrap_canonical (endWait_canonical (fst_canonical e1 (loadScalar_canonical
          (settleSome_canonical hs)))))
      · exact .next (settleSome_canonical hs)
      · next _ s1 _ e1 =>
        have h1 : s1.canonical := fst_canonical e1 (loadScalar_canonical (settleSome_canonical hs))
        exact .next (ite_canonical (retire_canonical (endWait_canonical (State.setSr_canonical h1)))
          (waitAt_canonical h1))

theorem execCwaitRecheck_canonical {j : Nat} {s : State} (hs : s.canonical) :
    NextCanonical (execCwaitRecheck j s) := by
  unfold execCwaitRecheck
  split
  · exact execCwait_canonical (s0 := { s with cur := j }) hs
  · exact .next hs

end Sys2Proof.Machine
end

section
/-!
PROOFS. Queues keep every memory in canonical form.
-/
namespace Sys2Proof.Machine
open Sys2Proof

theorem State.setQueue_canonical {s : State} {q : Nat} {x : Queue} (hs : s.canonical) :
    (State.setQueue s q x).canonical := hs
grind_pattern State.setQueue_canonical => State.setQueue s q x, s.canonical

theorem syncRecord_canonical {q : Nat} {s : State} (hs : s.canonical) : (syncRecord q s).canonical := by
  unfold syncRecord
  split
  · exact hs
  · dsimp only
    split
    · exact hs
    · exact ovuneLine_canonical hs

theorem State.putQueue_canonical {s : State} {q : Nat} {x : Queue} (hs : s.canonical) :
    (State.putQueue s q x).canonical :=
  syncRecord_canonical (setQueue_canonical hs)
grind_pattern State.putQueue_canonical => State.putQueue s q x, s.canonical

theorem queueError_canonical {q err : Nat} {s : State} (hs : s.canonical) : (queueError q err s).canonical := by
  unfold queueError
  split
  · exact hs
  · split
    · exact hs
    · exact queueEvent_canonical (State.putQueue_canonical hs)
grind_pattern queueError_canonical => queueError q err s, s.canonical

theorem applyTail_canonical {q : Nat} {t : Word} {s : State} (hs : s.canonical) : (applyTail q t s).canonical := by
  unfold applyTail
  split
  · exact hs
  · split
    · exact State.putQueue_canonical hs
    · exact queueError_canonical hs

theorem switchQueueOut_canonical {q : Nat} {s : State} (hs : s.canonical) : (switchQueueOut q s).canonical := by
  unfold switchQueueOut
  split
  · exact hs
  · split
    · exact State.putQueue_canonical hs
    · exact hs

theorem switchQueueIn_canonical {q : Nat} {s : State} (hs : s.canonical) : (switchQueueIn q s).canonical := by
  unfold switchQueueIn
  split
  · exact hs
  · split
    · exact hs
    · split
      · split
        · exact applyTail_canonical (State.putQueue_canonical hs)
        · exact State.putQueue_canonical hs
      · split
        · exact applyTail_canonical (State.putQueue_canonical hs)
        · exact State.putQueue_canonical hs
grind_pattern switchQueueIn_canonical => switchQueueIn q s, s.canonical

theorem makeRoom_canonical {s t : State} (hs : s.canonical) (e : makeRoom s = some t) : t.canonical := by
  unfold makeRoom at e
  split at e
  · cases e
    exact hs
  · obtain ⟨q, -, rfl⟩ := Option.map_eq_some_iff.1 e
    exact switchQueueOut_canonical hs
grind_pattern makeRoom_canonical => makeRoom s, some t, s.canonical

theorem qcmdDone_canonical {op q status : Nat} {s : State} (hs : s.canonical) :
    (qcmdDone op q status s).canonical :=
  raiseMsix_canonical hs

theorem queueResident_canonical {asid : Nat} {s : State} (hs : s.canonical) : (queueResident asid s).canonical := by
  unfold queueResident
  split
  · exact State.canonical_modCtx hs
  · exact hs
grind_pattern queueResident_canonical => queueResident asid s, s.canonical

theorem attachQueue_canonical {q : Nat} {x : Queue} {s : State} (hs : s.canonical) :
    (attachQueue q x s).canonical := by
  unfold attachQueue
  split
  · split
    · grind
    · exact State.putQueue_canonical hs
  · exact State.putQueue_canonical hs
grind_pattern attachQueue_canonical => attachQueue q x s, s.canonical

theorem execAttach_canonical {q : Nat} {s : State} (hs : s.canonical) : NextCanonical (execAttach q s) := by
  unfold execAttach
  split
  · exact .next (qcmdDone_canonical hs)
  · split
    · exact .next (qcmdDone_canonical hs)
    · split
      · exact .next (qcmdDone_canonical hs)
      · dsimp only
        split
        · exact .next (qcmdDone_canonical hs)
        · exact .next (qcmdDone_canonical (attachQueue_canonical hs))

theorem execDetach_canonical {q : Nat} {s : State} (hs : s.canonical) : NextCanonical (execDetach q s) := by
  unfold execDetach
  split
  · exact .next (qcmdDone_canonical hs)
  · split
    · exact .next (qcmdDone_canonical hs)
    · exact .next (qcmdDone_canonical hs)

theorem execReset_canonical {q : Nat} {s : State} (hs : s.canonical) : NextCanonical (execReset q s) := by
  unfold execReset
  split
  · exact .next (qcmdDone_canonical hs)
  · split
    · exact .next (qcmdDone_canonical (State.putQueue_canonical hs))
    · exact .next (qcmdDone_canonical hs)

theorem execQcmdBadOp_canonical {op q : Nat} {s : State} (hs : s.canonical) :
    NextCanonical (execQcmdBadOp op q s) := by
  unfold execQcmdBadOp
  split
  · exact .next hs
  · exact .next (qcmdDone_canonical hs)

theorem noteCandidate_canonical {q : Nat} {s : State} (hs : s.canonical) : (noteCandidate q s).canonical := by
  unfold noteCandidate
  split
  · exact hs
  · split
    · exact State.setQueue_canonical hs
    · exact hs
grind_pattern noteCandidate_canonical => noteCandidate q s, s.canonical

theorem execTail_canonical {q : Nat} {v : Word} {s : State} (hs : s.canonical) :
    NextCanonical (execTail q v s) := by
  unfold execTail
  split
  · exact .next hs
  · split
    · exact .next hs
    · split
      · exact .next (noteCandidate_canonical (State.setQueue_canonical hs))
      · exact .next (applyTail_canonical hs)

theorem execQueueSwitchIn_canonical {q : Nat} {s : State} (hs : s.canonical) :
    NextCanonical (execQueueSwitchIn q s) := by
  unfold execQueueSwitchIn
  split
  · exact .next hs
  · split
    · split
      · grind
      · exact .next hs
    · exact .next hs

theorem execQueueAging_canonical {q : Nat} {s : State} (hs : s.canonical) : NextCanonical (execQueueAging q s) := by
  unfold execQueueAging
  split
  · exact .next hs
  · split
    · exact .next (State.setQueue_canonical hs)
    · exact .next hs

theorem counterRead_canonical {w : Who} {a : Nat} {s : State} (hs : s.canonical) :
    (counterRead w a s).1.canonical := by
  unfold counterRead
  split
  · exact hs
  · exact vreadNat_canonical hs

theorem counterWrite_canonical {w : Who} {add : Bool} {a v : Nat} {s : State} (hs : s.canonical) :
    (counterWrite w add a v s).1.canonical := by
  unfold counterWrite
  split
  · exact hs
  · split
    · split
      · next e1 => exact fst_canonical e1 (vamoAt_canonical hs)
      · next e1 => exact fst_canonical e1 (vamoAt_canonical hs)
    · exact vwrite_canonical hs
grind_pattern counterWrite_canonical => counterWrite w add a v s, s.canonical

theorem takeBody_canonical {q : Nat} {x : Queue} {e : Nat} {s : State} (hs : s.canonical) :
    (takeBody q x e s).1.canonical := by
  unfold takeBody
  split
  · dsimp only
    split
    · exact hs
    · grind
  · dsimp only
    split
    · exact hs
    · grind
  · exact hs
  · split
    · exact hs
    · grind
grind_pattern takeBody_canonical => takeBody q x e s, s.canonical

theorem takeHead_canonical {q : Nat} {x : Queue} {s : State} (hs : s.canonical) : (takeHead q x s).1.canonical := by
  unfold takeHead
  dsimp only
  split
  · next e1 => exact fst_canonical e1 (vreadNat_canonical hs)
  · next _ s1 _ e1 =>
    have h1 : s1.canonical := fst_canonical e1 (vreadNat_canonical hs)
    split
    · exact h1
    · split
      · split
        · next e2 => exact fst_canonical e2 (counterRead_canonical h1)
        · next _ s2 _ e2 =>
          have h2 : s2.canonical := fst_canonical e2 (counterRead_canonical h1)
          split
          · exact h2
          · exact takeBody_canonical h2
      · exact takeBody_canonical h1
grind_pattern takeHead_canonical => takeHead q x s, s.canonical

theorem turnOf_canonical {q : Nat} {x : Queue} {s : State} (hs : s.canonical) : (turnOf q x s).canonical := by
  unfold turnOf
  split
  · grind
  · next e1 => exact State.putQueue_canonical (fst_canonical e1 (takeHead_canonical hs))
  · next e1 => exact queueError_canonical (fst_canonical e1 (takeHead_canonical hs))
  · exact hs
grind_pattern turnOf_canonical => turnOf q x s, s.canonical

theorem execQueueSchedule_canonical {s : State} (hs : s.canonical) : NextCanonical (execQueueSchedule s) := by
  unfold execQueueSchedule
  split
  · exact .next hs
  · exact .next (turnOf_canonical hs)

theorem execCounterWaitRecheck_canonical {q : Nat} {s : State} (hs : s.canonical) :
    NextCanonical (execCounterWaitRecheck q s) := by
  unfold execCounterWaitRecheck
  split
  · exact .next hs
  · split
    · exact .next (turnOf_canonical hs)
    · exact .next hs

theorem copyEntry_canonical {c : Copy} {s : State} (hs : s.canonical) : (copyEntry c s).1.canonical := by
  unfold copyEntry
  grind
grind_pattern copyEntry_canonical => copyEntry c s, s.canonical

theorem execQueueCopyDone_canonical {t : Nat} {s : State} (hs : s.canonical) :
    NextCanonical (execQueueCopyDone t s) := by
  refine .next ?_
  split
  · exact hs
  · split
    · exact hs
    · extract_lets leave
      have hl : ∀ u : State, u.canonical → (leave u).canonical := by
        intro u hu
        simp only [leave]
        split <;> grind
      clear_value leave
      split
      · next e1 => exact queueError_canonical (hl _ (fst_canonical e1 (copyEntry_canonical hs)))
      · exact hs
      · next s1 e1 =>
        have h1 : s1.canonical := fst_canonical e1 (copyEntry_canonical hs)
        split
        · next e2 => exact hl _ (fst_canonical e2 (counterWrite_canonical h1))
        · next e2 => exact queueError_canonical (hl _ (fst_canonical e2 (counterWrite_canonical h1)))
        · exact hs

theorem postTail_canonical {q : Nat} {x : Queue} {s : State} (hs : s.canonical) : (postTail q x s).canonical := by
  unfold postTail
  split
  · exact noteCandidate_canonical (State.setQueue_canonical hs)
  · exact State.putQueue_canonical hs
grind_pattern postTail_canonical => postTail q x s, s.canonical

theorem execQpost_canonical {f : FmtY} {s : State} (hs : s.canonical) : NextCanonical (execQpost f s) := by
  refine .next ?_
  split
  · exact takeTrap_canonical hs
  · split
    · exact takeTrap_canonical hs
    · split
      · exact takeTrap_canonical hs
      · exact hs
      · next s0 e0 =>
        have h0 : s0.canonical := releaseGate_canonical hs e0
        clear e0
        split
        · next e1 => exact stopAt_canonical (fst_canonical e1 (readSpace_canonical h0))
        · next s1 d e1 =>
          have h1 : s1.canonical := fst_canonical e1 (readSpace_canonical h0)
          clear e1
          refine ite_canonical ?_ ?_
          · exact retire_canonical (State.setSr_canonical h1)
          · split
            · next e2 => exact stopAt_canonical (fst_canonical e2 (vwrite_canonical h1))
            · next s2 e2 =>
              have h2 : s2.canonical := fst_canonical e2 (vwrite_canonical h1)
              clear e2
              grind

theorem pollDrive_canonical {f : FmtY} {q : Nat} {x : Queue} {s : State} (hs : s.canonical) :
    (pollDrive f q x s).canonical := by
  unfold pollDrive
  split
  · next e1 => exact stopAt_canonical (fst_canonical e1 (readSpace_canonical hs))
  · next _ s1 _ e1 =>
    have h1 : s1.canonical := fst_canonical e1 (readSpace_canonical hs)
    split
    · dsimp only
      split
      · exact retire_canonical (State.setSr_canonical h1)
      · split
        · grind
        · grind
    · dsimp only
      split
      · exact retire_canonical (State.setSr_canonical h1)
      · split
        · grind
        · grind
grind_pattern pollDrive_canonical => pollDrive f q x s, s.canonical

theorem execQpoll_canonical {f : FmtY} {s0 : State} (hs : s0.canonical) : NextCanonical (execQpoll f s0) := by
  unfold execQpoll
  split
  · dsimp only
    split
    · exact .next (takeTrap_canonical (settleAll_canonical hs))
    · split
      · exact .next (pollDrive_canonical (settleAll_canonical hs))
      · exact .next (takeTrap_canonical (settleAll_canonical hs))
  · dsimp only
    split
    · exact .next (takeTrap_canonical (settleAll_canonical hs))
    · split
      · exact .next (pollDrive_canonical (settleAll_canonical hs))
      · exact .next (retire_canonical (State.setSr_canonical (settleAll_canonical hs)))

theorem switchOutQueues_canonical {asid : Nat} {s : State} (hs : s.canonical) :
    (switchOutQueues asid s).canonical :=
  foldl_canonical hs fun _ _ _ h => switchQueueOut_canonical h
grind_pattern switchOutQueues_canonical => switchOutQueues asid s, s.canonical

theorem switchInQueues_canonical {asid : Nat} {s : State} (hs : s.canonical) :
    (switchInQueues asid s).canonical := by
  unfold switchInQueues
  grind
grind_pattern switchInQueues_canonical => switchInQueues asid s, s.canonical

theorem detachQueues_canonical {asid : Nat} {s : State} (hs : s.canonical) : (detachQueues asid s).canonical := hs
grind_pattern detachQueues_canonical => detachQueues asid s, s.canonical

end Sys2Proof.Machine
end

section
/-!
PROOFS. System instructions, translations, migrations and the host's accesses keep every memory in canonical form.
-/
namespace Sys2Proof.Machine
open Sys2Proof

theorem crWrite_vecWf {h : Hart} {cn : Nat} {v : Word} {t : Hart} (hx : h.vecWf) (e : crWrite h cn v = some t) :
    t.vecWf := by
  unfold crWrite at e
  split at e <;> grind
grind_pattern crWrite_vecWf => crWrite h cn v, some t, h.vecWf

theorem execGetc_canonical {f : FmtY} {s : State} (hs : s.canonical) : NextCanonical (execGetc f s) := by
  unfold execGetc
  split
  · exact .next (takeTrap_canonical hs)
  · exact .next (retire_canonical (State.setSr_canonical hs))

theorem execSetc_canonical {f : FmtY} {s : State} (hs : s.canonical) : NextCanonical (execSetc f s) := by
  unfold execSetc
  split
  · exact .next (takeTrap_canonical hs)
  · grind

theorem execEvwait_canonical {f : FmtY} {s : State} (hs : s.canonical) : NextCanonical (execEvwait f s) :=
  .next (ite_canonical (retire_canonical (endWait_canonical (State.setSr_canonical hs))) (waitAt_canonical hs))

theorem execEvwaitWake_canonical {j : Nat} {s : State} (hs : s.canonical) : NextCanonical (execEvwaitWake j s) := by
  unfold execEvwaitWake
  split
  · exact execEvwait_canonical (s := { s with cur := j }) hs
  · exact .next hs

theorem execYield_canonical {f : FmtY} {s : State} (hs : s.canonical) : NextCanonical (execYield f s) := by
  unfold execYield
  dsimp only
  split
  · exact .next (retire_canonical hs)
  · grind

theorem ringPost_canonical {asid : Nat} {e : BitVec 512} {s : State} (hs : s.canonical) :
    (ringPost asid e s).1.canonical := by
  unfold ringPost
  split
  · exact hs
  · dsimp only
    split
    · next e1 => exact fst_canonical e1 (vreadNat_canonical hs)
    · next s1 _ e1 =>
      have h1 : s1.canonical := fst_canonical e1 (vreadNat_canonical hs)
      clear e1
      split
      · next e2 => exact fst_canonical e2 (vreadNat_canonical h1)
      · next s2 _ e2 =>
        have h2 : s2.canonical := fst_canonical e2 (vreadNat_canonical h1)
        clear e2
        split
        · next e3 => exact fst_canonical e3 (vreadNat_canonical h2)
        · next s3 _ e3 =>
          have h3 : s3.canonical := fst_canonical e3 (vreadNat_canonical h2)
          clear e3
          split
          · exact h3
          · split
            · next e4 => exact fst_canonical e4 (vwriteCheck_canonical h3)
            · next s4 _ e4 =>
              have h4 : s4.canonical := fst_canonical e4 (vwriteCheck_canonical h3)
              clear e4
              grind
grind_pattern ringPost_canonical => ringPost asid e s, s.canonical

theorem execEventPost_canonical {asid : Nat} {s : State} (hs : s.canonical) :
    NextCanonical (execEventPost asid s) := by
  unfold execEventPost
  dsimp only
  split
  · exact .next hs
  · split
    · exact .next hs
    · split
      · next e1 => exact .next (State.canonical_modCtx (fst_canonical e1 (ringPost_canonical hs)))
      · next e1 => exact .next (raiseMsix_canonical (queueEvent_canonical (markFaulted_canonical
          (State.canonical_modCtx (fst_canonical e1 (ringPost_canonical hs))))))
      · exact .next hs

theorem runtimePost_canonical {f : FmtY} {s : State} (hs : s.canonical) : (runtimePost f s).canonical := by
  unfold runtimePost
  dsimp only
  split
  · exact retire_canonical (State.setSr_canonical hs)
  · split
    · exact hs
    · next e1 => exact retire_canonical (State.setSr_canonical (fst_canonical e1 (vread_canonical hs)))
    · next _ s1 _ e1 =>
      have h1 : s1.canonical := fst_canonical e1 (vread_canonical hs)
      split
      · next e2 => exact retire_canonical (State.setSr_canonical (fst_canonical e2 (ringPost_canonical h1)))
      · next e2 => exact contextFault_canonical (fst_canonical e2 (ringPost_canonical h1))
      · next e2 => exact contextFault_canonical (fst_canonical e2 (ringPost_canonical h1))
      · exact hs

theorem execSysc_canonical {f : FmtY} {s : State} (hs : s.canonical) : NextCanonical (execSysc f s) := by
  unfold execSysc
  split
  · exact .next (takeTrap_canonical hs)
  · split
    · exact .next (retire_canonical (State.setSr_canonical hs))
    · exact .next (runtimePost_canonical (settleAll_canonical hs))
    · exact .next (retire_canonical (State.setSr_canonical hs))
    · exact .next (retire_canonical (State.setSr_canonical hs))

theorem resumeWork_canonical {j : Nat} {l : Latch} {s : State} (hs : s.canonical) :
    (resumeWork j l s).canonical := by
  unfold resumeWork
  split
  · split
    · exact State.setCopy_canonical hs
    · exact hs
  · split
    · split
      · exact setBinding_canonical hs
      · exact hs
    · exact hs
  · exact resumeRun_canonical hs
  · exact resumeQuery_canonical hs

theorem resumeHeld_canonical {j : Nat} {s : State} (hs : s.canonical) : (resumeHeld j s).canonical :=
  foldl_canonical (State.canonical_modHart hs fun _ h => h) fun _ _ _ h => resumeWork_canonical h

theorem Hart.tretTo_vecWf {h : Hart} (hx : h.vecWf) : (Hart.tretTo h).vecWf := hx

theorem execTret_canonical {f : FmtY} {s : State} (hs : s.canonical) : NextCanonical (execTret f s) := by
  unfold execTret
  split
  · exact .next (takeTrap_canonical hs)
  · dsimp only
    split
    · split
      · exact .next (finishSave_canonical (saveHart_canonical (resumeHeld_canonical (State.canonical_modMe hs
          (Hart.tretTo_vecWf (State.canonical_me hs))))))
      · exact .next (saveHart_canonical (resumeHeld_canonical (State.canonical_modMe hs (Hart.tretTo_vecWf
          (State.canonical_me hs)))))
    · split
      · exact .next (meetPreempt_canonical (resumeHeld_canonical (State.canonical_modMe hs (Hart.tretTo_vecWf
          (State.canonical_me hs)))))
      · exact .next (resumeHeld_canonical (State.canonical_modMe hs (Hart.tretTo_vecWf (State.canonical_me hs))))

theorem execDebugRegisterWrite_canonical {j off : Nat} {v : Word} {s : State} (hs : s.canonical) :
    NextCanonical (execDebugRegisterWrite j off v s) := by
  unfold execDebugRegisterWrite
  split
  · exact .next hs
  · split
    · exact .next (State.canonical_modHart hs fun _ h => h)
    · exact .next (State.canonical_modHart hs fun _ h => h)
    · exact .next (State.canonical_modHart hs fun _ h => h)
    · exact .next hs

theorem countBolts_canonical {asid : Nat} {v : Word} {n : Nat} {s : State} (hs : s.canonical) :
    (countBolts asid v n s).canonical :=
  countRange_canonical hs

theorem execTlbb_canonical {f : FmtY} {s : State} (hs : s.canonical) : NextCanonical (execTlbb f s) := by
  refine .next ?_
  split
  · exact hs
  · next g x hg =>
    have hx : x.canonical := State.canonical_myGroup hs hg
    have h1 : (countBolts x.asid (s.sr f.sa) (s.sr f.sb).toNat s).canonical := countBolts_canonical hs
    split
    · exact takeTrap_canonical hs
    · dsimp only
      split
      · exact takeTrap_canonical h1
      · exact retire_canonical (State.setSr_canonical (State.canonical_setGroup h1 hx))

theorem unbolt_canonical {w : Who} {b : Bolt} {s : State} (hs : s.canonical) : (unbolt w b s).canonical := by
  unfold unbolt
  split
  · exact foldl_canonical hs fun _ _ _ h => tlbFill_canonical h
  · grind
grind_pattern unbolt_canonical => unbolt w b s, s.canonical

theorem execTlbu_canonical {f : FmtY} {s : State} (hs : s.canonical) : NextCanonical (execTlbu f s) := by
  unfold execTlbu
  split
  · grind
  · dsimp only
    split
    · exact .next (retire_canonical (State.setSr_canonical hs))
    · grind

theorem dropEntries_canonical {asid : Nat} {p : Leaf → Bool} {c : Nat → Bool} {s : State} (hs : s.canonical) :
    (dropEntries asid p c s).canonical := by
  refine State.canonical_withGroups (s := { s with tlb := _ }) hs fun q hq => ?_
  obtain ⟨x, hx, rfl⟩ := List.mem_map.1 hq
  have h : x.2.canonical := State.canonical_groups hs x hx
  split
  · exact h
  · exact h

theorem settleHarts_canonical {s : State} (hs : s.canonical) : (settleHarts s).canonical :=
  foldl_canonical hs fun _ _ _ h => settleAll_canonical h
grind_pattern settleHarts_canonical => settleHarts s, s.canonical

theorem execTlbi_canonical {f : FmtY} {s0 : State} (hs : s0.canonical) : NextCanonical (execTlbi f s0) := by
  unfold execTlbi
  split
  · exact .next (takeTrap_canonical hs)
  · exact .next (retire_canonical (dropEntries_canonical (settleHarts_canonical hs)))

theorem execPageWalk_canonical {j : Nat} {va : Word} {acc : Access} {s : State} (hs : s.canonical) :
    NextCanonical (execPageWalk j va acc s) := by
  unfold execPageWalk
  split
  · exact .next hs
  · exact .next (leafOf_canonical hs)

theorem hostWrite_canonical {w : HostWrite} {s : State} (hs : s.canonical) : (hostWrite w s).canonical :=
  foldl_canonical hs fun _ _ _ h => ite_canonical h (writeLine_canonical h)

theorem tryHost_canonical {w : HostWrite} {s : State} (hs : s.canonical) : (tryHost w s).canonical := by
  unfold tryHost
  split
  · exact hs
  · exact hostWrite_canonical hs
grind_pattern tryHost_canonical => tryHost w s, s.canonical

theorem retryHost_canonical {l : List HostWrite} {s : State} (hs : s.canonical) : (retryHost l s).canonical :=
  foldl_canonical hs fun _ _ _ h => tryHost_canonical h
grind_pattern retryHost_canonical => retryHost l s, s.canonical

theorem endMig_canonical {m : Mig} {code lost : Nat} {s : State} (hs : s.canonical) :
    (endMig m code lost s).canonical :=
  retryHost_canonical (flushHeld_canonical (tryHeld_canonical hs))
grind_pattern endMig_canonical => endMig m code lost s, s.canonical

theorem dropPage_canonical {m : Mig} {s : State} (hs : s.canonical) : (dropPage m s).canonical :=
  dropEntries_canonical hs
grind_pattern dropPage_canonical => dropPage m s, s.canonical

theorem casLeaf_canonical {asid pa old new : Nat} {s : State} (hs : s.canonical) :
    (casLeaf asid pa old new s).canonical := by
  unfold casLeaf
  split
  · exact writeLoc_canonical (countHot_canonical hs)
  · exact countHot_canonical hs
grind_pattern casLeaf_canonical => casLeaf asid pa old new s, s.canonical

theorem clearMig_canonical {m : Mig} {s : State} (hs : s.canonical) : (clearMig m s).canonical :=
  dropPage_canonical (foldl_canonical hs fun _ _ _ h => casLeaf_canonical h)
grind_pattern clearMig_canonical => clearMig m s, s.canonical

theorem startMig_canonical {m : Mig} {s0 : State} (hs : s0.canonical) : (startMig m s0).canonical := by
  unfold startMig
  dsimp only
  split
  · exact endMig_canonical (countWalk_canonical (settleHarts_canonical hs))
  · split
    · exact endMig_canonical (countWalk_canonical (settleHarts_canonical hs))
    · split
      · exact endMig_canonical (countWalk_canonical (settleHarts_canonical hs))
      · split
        · exact endMig_canonical (countWalk_canonical (settleHarts_canonical hs))
        · split
          · exact endMig_canonical (countWalk_canonical (settleHarts_canonical hs))
          · grind
grind_pattern startMig_canonical => startMig m s0, s0.canonical

theorem countCopy_canonical {m : Mig} {src : Nat} {s : State} (hs : s.canonical) : (countCopy m src s).canonical :=
  countHotBy_canonical (countHotBy_canonical hs)

theorem copyMig_canonical {m : Mig} {s0 : State} (hs : s0.canonical) : (copyMig m s0).canonical := by
  unfold copyMig
  extract_lets n src s lines bad lost s1
  have h0 : s.canonical := countCopy_canonical hs
  have h1 : s1.canonical := State.canonical_withMem h0 (moveBytes_wf _ _ _ _ h0.1)
  clear_value s1 s
  split
  · exact endMig_canonical (clearMig_canonical h0)
  · split
    · exact endMig_canonical (clearMig_canonical h1)
    · split
      · exact endMig_canonical (clearMig_canonical h1)
      · exact endMig_canonical (dropPage_canonical (foldl_canonical h1 fun _ _ _ ht => casLeaf_canonical ht))

theorem execMigration_canonical {i : Nat} {s : State} (hs : s.canonical) : NextCanonical (execMigration i s) := by
  unfold execMigration
  split
  · exact .next hs
  · split
    · exact .next (startMig_canonical hs)
    · exact .next (copyMig_canonical hs)

theorem execMigrationTimeout_canonical {i : Nat} {s : State} (hs : s.canonical) :
    NextCanonical (execMigrationTimeout i s) := by
  unfold execMigrationTimeout
  split
  · exact .next hs
  · split
    · exact .next hs
    · exact .next (endMig_canonical (clearMig_canonical hs))

theorem execPmig_canonical {f : FmtY} {s0 : State} (hs : s0.canonical) : NextCanonical (execPmig f s0) := by
  refine .next ?_
  have h0 : (settleSome s0.cur s0).canonical := settleSome_canonical hs
  split
  · exact takeTrap_canonical hs
  · generalize settleSome s0.cur s0 = s at h0 ⊢
    dsimp only
    split
    · exact takeTrap_canonical h0
    · split
      · exact h0
      · next e1 => exact takeTrap_canonical (fst_canonical e1 (vread_canonical h0))
      · next s1 _ e1 =>
        have h1 : s1.canonical := fst_canonical e1 (vread_canonical h0)
        clear e1
        split
        · split
          · split
            · grind
            · exact retire_canonical (State.setSr_canonical h1)
          · exact takeTrap_canonical h1
        · exact takeTrap_canonical h1

theorem putRing_canonical {r : Word} {i x : Nat} {s : State} (hs : s.canonical) : (putRing r i x s).canonical :=
  ovuneWrite_canonical hs
grind_pattern putRing_canonical => putRing r i x s, s.canonical

theorem proposal_canonical {p : Nat × Option Nat × Nat} {s : State} (hs : s.canonical) :
    (proposal p s).canonical := by
  unfold proposal
  dsimp only
  split
  · exact hs
  · grind
grind_pattern proposal_canonical => proposal p s, s.canonical

theorem execHotWindow_canonical {s : State} (hs : s.canonical) : NextCanonical (execHotWindow s) := by
  unfold execHotWindow
  grind

theorem scrubLog_canonical {pa kind : Nat} {s : State} (hs : s.canonical) : (scrubLog pa kind s).canonical := by
  unfold scrubLog
  split
  · exact hs
  · grind
grind_pattern scrubLog_canonical => scrubLog pa kind s, s.canonical

theorem execRakeScrub_canonical {pa : Nat} {found : Scrub} {s : State} (hs : s.canonical) :
    NextCanonical (execRakeScrub pa found s) := by
  unfold execRakeScrub
  split
  · dsimp only
    split
    · exact .next hs
    · exact .next hs
  · dsimp only
    split
    · exact .next hs
    · exact .next (scrubLog_canonical hs)
  · dsimp only
    split
    · exact .next hs
    · split
      · exact .next hs
      · exact .next (scrubLog_canonical (State.setLine_canonical hs))

theorem execBankRefresh_canonical {k : Nat} {s : State} (hs : s.canonical) : NextCanonical (execBankRefresh k s) :=
  .next hs

theorem execHostMemoryAccess_canonical {pa : Nat} {rq : HostReq} {s : State} (hs : s.canonical) :
    NextCanonical (execHostMemoryAccess pa rq s) := by
  unfold execHostMemoryAccess
  grind

end Sys2Proof.Machine
end

section
/-!
PROOFS. Links, lost devices and remote accesses keep every memory in canonical form.
-/
namespace Sys2Proof.Machine
open Sys2Proof

theorem Hart.neverAcked_vecWf {p : Nat → Bool} {h : Hart} (hx : h.vecWf) : (Hart.neverAcked p h).vecWf := hx

theorem discarded_canonical {before after : Port} {s : State} (hs : s.canonical) :
    (discarded before after s).canonical := by
  unfold discarded
  split
  · exact hs
  · exact foldl_canonical hs fun _ _ _ h => State.canonical_modHart h fun _ h => Hart.neverAcked_vecWf h
grind_pattern discarded_canonical => discarded before after s, s.canonical

theorem changePort_canonical {p : Nat} {f : Port → Port} {s : State} (hs : s.canonical) :
    (changePort p f s).canonical := by
  unfold changePort
  split
  · exact hs
  · grind
grind_pattern changePort_canonical => changePort p f s, s.canonical

theorem execLinkEnable_canonical {p : Nat} {s : State} (hs : s.canonical) : NextCanonical (execLinkEnable p s) :=
  .next (changePort_canonical hs)

theorem execLinkDisable_canonical {p : Nat} {s : State} (hs : s.canonical) : NextCanonical (execLinkDisable p s) :=
  .next (changePort_canonical hs)

theorem execDrain_canonical {p : Nat} {s : State} (hs : s.canonical) : NextCanonical (execDrain p s) :=
  .next (changePort_canonical hs)

theorem execTrainingEnd_canonical {p lanes peer peerPort : Nat} {s : State} (hs : s.canonical) :
    NextCanonical (execTrainingEnd p lanes peer peerPort s) :=
  .next (flushHeld_canonical (changePort_canonical hs))

theorem execLaneLost_canonical {p : Nat} {s : State} (hs : s.canonical) : NextCanonical (execLaneLost p s) :=
  .next (changePort_canonical hs)

theorem execReplayLimit_canonical {p : Nat} {s : State} (hs : s.canonical) : NextCanonical (execReplayLimit p s) :=
  .next (changePort_canonical hs)

theorem execDeadTime_canonical {p : Nat} {s : State} (hs : s.canonical) : NextCanonical (execDeadTime p s) :=
  .next (changePort_canonical hs)

theorem execDrainDone_canonical {p : Nat} {s : State} (hs : s.canonical) : NextCanonical (execDrainDone p s) :=
  .next (changePort_canonical hs)

theorem execHeartbeat_canonical {s : State} (hs : s.canonical) : NextCanonical (execHeartbeat s) :=
  .next (flushCalls_canonical (foldl_canonical (foldl_canonical hs fun _ _ _ h =>
    sendFlit_canonical h) fun _ _ _ h => sendTo_canonical h))

theorem forward_canonical {flit : List Byte} {s : State} (hs : s.canonical) : (forward flit s).canonical :=
  queueFlit_canonical hs

theorem ackStores_canonical {flit : List Byte} {s : State} (hs : s.canonical) : (ackStores flit s).canonical :=
  foldl_canonical hs fun _ _ _ h => ite_canonical (State.canonical_modHart (settleAll_canonical h) fun _ h => h) h

theorem execFlitReceive_canonical {p : Nat} {flit : List Byte} {s : State} (hs : s.canonical) :
    NextCanonical (execFlitReceive p flit s) := by
  unfold execFlitReceive
  dsimp only
  split
  · exact .next hs
  · split
    · exact .next (sendFlit_canonical (State.modPort_canonical hs))
    · split
      · split
        · split
          · exact .next (flushCalls_canonical (forward_canonical (pump_canonical (State.modPort_canonical hs))))
          · exact .next (flushCalls_canonical (forward_canonical (sendFlit_canonical (State.modPort_canonical hs))))
        · split
          · exact .next (flushCalls_canonical (ackStores_canonical (pump_canonical (State.modPort_canonical hs))))
          · exact .next (flushCalls_canonical (sendFlit_canonical (State.modPort_canonical hs)))
      · split
        · exact .next hs
        · exact .next (sendFlit_canonical (State.modPort_canonical hs))

theorem execRouteEntryWrite_canonical {d : Nat} {v : Word} {s : State} (hs : s.canonical) :
    NextCanonical (execRouteEntryWrite d v s) := by
  unfold execRouteEntryWrite
  split
  · exact .next hs
  · exact .next (flushHeld_canonical (pump_canonical hs))

theorem Hart.dropStores_vecWf {d : Nat} {h : Hart} (hx : h.vecWf) : (Hart.dropStores d h).vecWf := hx
grind_pattern Hart.dropStores_vecWf => Hart.dropStores d h, h.vecWf

theorem loseMember_canonical {d i : Nat} {s : State} (hs : s.canonical) : (loseMember d i s).canonical := by
  unfold loseMember
  split
  · exact hs
  · split
    · exact hs
    · split
      · exact bump_canonical hs
      · exact abortAll_canonical (bump_canonical hs)
grind_pattern loseMember_canonical => loseMember d i s, s.canonical

theorem execDeviceLost_canonical {d : Nat} {s : State} (hs : s.canonical) : NextCanonical (execDeviceLost d s) := by
  unfold execDeviceLost
  split
  · exact .next hs
  · grind

theorem execRemoteAccess_canonical {dev asid pa buf mode : Nat} {rq : RemoteReq} {s : State} (hs : s.canonical) :
    NextCanonical (execRemoteAccess dev asid pa buf mode rq s) := by
  unfold execRemoteAccess
  extract_lets c n stores reads ps refuse old s1 d
  have hr : refuse.canonical := sendTo_canonical (s := { s with reply := [] }) hs
  have h1 : s1.canonical := foldl_canonical (s := { s with reply := if reads then old else [] }) hs
    fun _ _ _ ht => countHot_canonical ht
  have h2 : (sendTo dev 3 (ps.foldl (fun s p => writeLine c p.1 ((d.drop (p.1 - pa)).take p.2) s) s1)).canonical :=
    sendTo_canonical (foldl_canonical h1 fun _ _ _ ht => writeLine_canonical ht)
  exact .next <| ite_canonical hr <| ite_canonical hr <| ite_canonical hs <| ite_canonical hr <|
    ite_canonical hr <| ite_canonical (sendTo_canonical h1) h2

end Sys2Proof.Machine
end

section
/-!
PROOFS. Context commands, branches, the platform and register writes keep every memory in canonical form.
-/
namespace Sys2Proof.Machine
open Sys2Proof

theorem ctxCmd_canonical {op asid status : Nat} {s : State} (hs : s.canonical) :
    (ctxCmd op asid status s).canonical :=
  hs

theorem measure_canonical {image : List Byte} {s : State} (hs : s.canonical) : (measure image s).canonical := hs
grind_pattern measure_canonical => measure image s, s.canonical

theorem storeTable_canonical {asid : Nat} {s : State} (hs : s.canonical) : (storeTable asid s).canonical :=
  foldl_canonical hs fun _ _ _ h => storeBuf_canonical h
grind_pattern storeTable_canonical => storeTable asid s, s.canonical

theorem execCreate_canonical {asid : Nat} {s : State} (hs : s.canonical) : NextCanonical (execCreate asid s) := by
  unfold execCreate
  refine .next ?_
  split
  · exact hs
  · split
    · exact ctxCmd_canonical hs
    · split
      · exact ctxCmd_canonical hs
      · split
        · exact ctxCmd_canonical hs
        · exact ctxCmd_canonical (measure_canonical (bump_canonical (storeTable_canonical (State.setCtx_canonical hs))))

theorem execSwitchOut_canonical {asid : Nat} {s : State} (hs : s.canonical) :
    NextCanonical (execSwitchOut asid s) := by
  unfold execSwitchOut
  split
  · exact .next hs
  · split
    · exact .next (switchOutQueues_canonical (forceSaveAll_canonical (ctxCmd_canonical hs)))
    · exact .next (ctxCmd_canonical hs)

theorem execSwitchIn_canonical {asid : Nat} {s : State} (hs : s.canonical) :
    NextCanonical (execSwitchIn asid s) := by
  unfold execSwitchIn
  split
  · exact .next hs
  · dsimp only
    split
    · exact .next (ctxCmd_canonical hs)
    · split
      · exact .next (ctxCmd_canonical (State.setCtx_canonical hs))
      · exact .next (ctxCmd_canonical (switchInQueues_canonical (State.setCtx_canonical hs)))

theorem postEvents_canonical {asid : Nat} {l : List (BitVec 512)} {s : State} (hs : s.canonical) :
    (postEvents asid l s).canonical := by
  fun_induction postEvents asid l s <;> grind
grind_pattern postEvents_canonical => postEvents asid l s, s.canonical

theorem endMigs_canonical {asid : Nat} {s : State} (hs : s.canonical) : (endMigs asid s).canonical := by
  unfold endMigs
  dsimp only
  split
  · exact hs
  · grind
grind_pattern endMigs_canonical => endMigs asid s, s.canonical

theorem finishLast_canonical {k : Nat} {s : State} (hs : s.canonical) : (finishLast k s).canonical := by
  unfold finishLast
  split
  · exact hs
  · split
    · exact finishKernel_canonical hs
    · exact hs
grind_pattern finishLast_canonical => finishLast k s, s.canonical

theorem teardown_canonical {asid : Nat} {s : State} (hs : s.canonical) : (teardown asid s).canonical := by
  unfold teardown
  grind
grind_pattern teardown_canonical => teardown asid s, s.canonical

theorem execTeardown_canonical {asid : Nat} {s : State} (hs : s.canonical) :
    NextCanonical (execTeardown asid s) := by
  unfold execTeardown
  split
  · exact .next hs
  · split
    · exact .next (ctxCmd_canonical hs)
    · exact .next (ctxCmd_canonical (teardown_canonical hs))

theorem reenter_canonical {asid : Nat} {s : State} (hs : s.canonical) : (reenter asid s).canonical := by
  unfold reenter
  grind
grind_pattern reenter_canonical => reenter asid s, s.canonical

theorem recallQueues_canonical {asid : Nat} {s : State} (hs : s.canonical) : (recallQueues asid s).canonical := by
  unfold recallQueues
  grind
grind_pattern recallQueues_canonical => recallQueues asid s, s.canonical

theorem execResume_canonical {asid : Nat} {s : State} (hs : s.canonical) : NextCanonical (execResume asid s) := by
  unfold execResume
  split
  · exact .next hs
  · split
    · exact .next (ctxCmd_canonical hs)
    · exact .next (ctxCmd_canonical (recallQueues_canonical (reenter_canonical (State.canonical_modCtx hs))))

theorem execBadOp_canonical {op asid : Nat} {s : State} (hs : s.canonical) :
    NextCanonical (execBadOp op asid s) := by
  unfold execBadOp
  split
  · exact .next hs
  · exact .next (ctxCmd_canonical hs)

theorem execZeroisationConfirmed_canonical {asid : Nat} {s : State} (hs : s.canonical) :
    NextCanonical (execZeroisationConfirmed asid s) := by
  refine .next ?_
  split
  · exact hs
  · exact hs

theorem leaveResident_canonical {asid : Nat} {s : State} (hs : s.canonical) : (leaveResident asid s).canonical := by
  unfold leaveResident
  grind
grind_pattern leaveResident_canonical => leaveResident asid s, s.canonical

theorem ctxDone_canonical {s : State} (hs : s.canonical) : (ctxDone s).canonical := raiseMsix_canonical hs
grind_pattern ctxDone_canonical => ctxDone s, s.canonical

theorem execContextCommandComplete_canonical {s : State} (hs : s.canonical) :
    NextCanonical (execContextCommandComplete s) := by
  unfold execContextCommandComplete
  split
  · grind
  · dsimp only
    split
    · split
      · exact .next (ctxDone_canonical (leaveResident_canonical hs))
      · exact .next hs
    · split
      · exact .next hs
      · exact .next (ctxDone_canonical hs)

theorem execBr_canonical {f : FmtB} {s : State} (hs : s.canonical) : NextCanonical (execBr f s) :=
  .next (retireTo_canonical hs)

theorem execJmp_canonical {f : FmtJ} {s : State} (hs : s.canonical) : NextCanonical (execJmp f s) :=
  .next (retireTo_canonical hs)

theorem execCall_canonical {f : FmtJ} {s : State} (hs : s.canonical) : NextCanonical (execCall f s) :=
  .next (retireTo_canonical (State.setSr_canonical hs))

theorem execJr_canonical {f : FmtI} {s : State} (hs : s.canonical) : NextCanonical (execJr f s) :=
  .next (ite_canonical (retireTo_canonical (State.setSr_canonical hs)) (takeTrap_canonical hs))

theorem execLoop_canonical {f : FmtB} {s : State} (hs : s.canonical) : NextCanonical (execLoop f s) :=
  .next (retireTo_canonical (State.setSr_canonical hs))

theorem State.modIsland_canonical {s : State} {i : Nat} {f : Island → Island} (hs : s.canonical) :
    (State.modIsland s i f).canonical :=
  hs

theorem execIslandDvfs_canonical {i mhz : Nat} {s : State} (hs : s.canonical) :
    NextCanonical (execIslandDvfs i mhz s) := by
  unfold execIslandDvfs
  split
  · exact .next hs
  · exact .next (State.modIsland_canonical (bump_canonical hs))

theorem execDroopStretch_canonical {i : Nat} {s : State} (hs : s.canonical) :
    NextCanonical (execDroopStretch i s) := by
  unfold execDroopStretch
  split
  · exact .next hs
  · exact .next (State.modIsland_canonical hs)

theorem modClusterIslands_canonical {f : Island → Island} {s : State} (hs : s.canonical) :
    (modClusterIslands f s).canonical :=
  foldl_canonical hs fun _ _ _ h => State.modIsland_canonical h

theorem execPowerCapTick_canonical {draw : Nat} {s : State} (hs : s.canonical) :
    NextCanonical (execPowerCapTick draw s) :=
  .next (ite_canonical (modClusterIslands_canonical hs) (ite_canonical (modClusterIslands_canonical hs) hs))

theorem execAttcmd_canonical {s : State} (hs : s.canonical) : NextCanonical (execAttcmd s) := by
  unfold execAttcmd
  split
  · exact .next hs
  · exact .next hs

theorem execAttestationReport_canonical {s : State} (hs : s.canonical) :
    NextCanonical (execAttestationReport s) := by
  unfold execAttestationReport
  split
  · exact .next hs
  · grind

/-- The memories keep their bytes over a device reset, and no unit is listed after it. -/
theorem execDevrst_canonical {s : State} (hs : s.canonical) : NextCanonical (execDevrst s) := by
  obtain ⟨hm, hh, hp, -⟩ := hs
  unfold execDevrst
  exact .next (State.canonical_of_noUnits hm hh hp rfl rfl rfl)

theorem bootImages_canonical {l : List (List Byte × List Byte)} {s : State} (hs : s.canonical) :
    (bootImages l s).1.canonical := by
  fun_induction bootImages l s <;> grind
grind_pattern bootImages_canonical => bootImages l s, s.canonical

theorem execFirmwareBoot_canonical {images : List (List Byte × List Byte)} {s : State} (hs : s.canonical) :
    NextCanonical (execFirmwareBoot images s) := by
  refine .next ?_
  split
  · exact hs
  · split
    next s1 ok e =>
    have h1 : s1.canonical := fst_canonical e (bootImages_canonical hs)
    exact h1

theorem writeDump_canonical {reason : Nat} {s : State} (hs : s.canonical) : (writeDump reason s).canonical := by
  unfold writeDump
  exact ovuneWrite_canonical hs
grind_pattern writeDump_canonical => writeDump reason s, s.canonical

theorem execFatalError_canonical {cause cls unit detail : Nat} {s : State} (hs : s.canonical) :
    NextCanonical (execFatalError cause cls unit detail s) := by
  unfold execFatalError
  grind

theorem State.modRegs_canonical {s : State} {f : Regs → Regs} (hs : s.canonical) :
    (State.modRegs s f).canonical := hs
grind_pattern State.modRegs_canonical => State.modRegs s f, s.canonical

theorem goesOn_canonical {s : State} {o : Host.Outcome State Fault Refusal} (hs : s.canonical)
    (ho : NextCanonical o) :
    (goesOn s o).canonical := by
  unfold goesOn
  split
  · exact ho _ rfl
  · exact hs
grind_pattern goesOn_canonical => goesOn s o, s.canonical

theorem writeCtxCmd_canonical {v : Word} {s : State} (hs : s.canonical) : (writeCtxCmd v s).canonical := by
  unfold writeCtxCmd
  dsimp only
  split
  · exact hs
  · split
    · exact hs
    · refine goesOn_canonical hs ?_
      split
      · exact execCreate_canonical hs
      · exact execSwitchOut_canonical hs
      · exact execSwitchIn_canonical hs
      · exact execTeardown_canonical hs
      · exact execResume_canonical hs
      · exact execBadOp_canonical hs

theorem writeQcmd_canonical {v : Word} {s : State} (hs : s.canonical) : (writeQcmd v s).canonical := by
  unfold writeQcmd
  dsimp only
  split
  · exact hs
  · refine goesOn_canonical hs ?_
    split
    · exact execAttach_canonical hs
    · exact execDetach_canonical hs
    · exact execReset_canonical hs
    · exact execQcmdBadOp_canonical hs

theorem writePort_canonical {p : Nat} {v : Word} {s : State} (hs : s.canonical) : (writePort p v s).canonical := by
  unfold writePort
  extract_lets s1
  have h1 : s1.canonical := by
    refine goesOn_canonical hs ?_
    split
    · exact execLinkEnable_canonical hs
    · exact execLinkDisable_canonical hs
  split
  · exact goesOn_canonical h1 (execDrain_canonical h1)
  · exact State.modPort_canonical h1

theorem writeLinkCfg_canonical {v : Word} {s : State} (hs : s.canonical) : (writeLinkCfg v s).canonical := by
  unfold writeLinkCfg
  split
  · exact State.modRegs_canonical hs
  · exact hs
grind_pattern writeLinkCfg_canonical => writeLinkCfg v s, s.canonical

theorem writeConfig_canonical {off : Nat} {v : Word} {s : State} (hs : s.canonical) :
    (writeConfig off v s).canonical := by
  unfold writeConfig
  split
  · grind
  · grind
  · exact State.modRegs_canonical hs
  · exact State.modRegs_canonical hs
  · exact State.modRegs_canonical hs
  · exact State.modRegs_canonical hs
  · exact bump_canonical (State.modRegs_canonical hs)
  · exact State.modRegs_canonical hs
  · exact writeLinkCfg_canonical hs
  · exact State.modRegs_canonical hs
  · exact State.modRegs_canonical hs
  · grind
  · exact hs
grind_pattern writeConfig_canonical => writeConfig off v s, s.canonical

theorem writeBar0_canonical {off : Nat} {v : Word} {s : State} (hs : s.canonical) :
    (writeBar0 off v s).canonical := by
  unfold writeBar0
  repeat' split
  · exact goesOn_canonical hs (execDevrst_canonical hs)
  · exact hs
  · exact writeCtxCmd_canonical hs
  · exact writeQcmd_canonical hs
  · exact goesOn_canonical hs (execAttcmd_canonical hs)
  · exact hs
  · exact writePort_canonical hs
  · exact hs
  · exact goesOn_canonical hs (execRouteEntryWrite_canonical hs)
  · exact hs
  · exact goesOn_canonical hs (execDebugRegisterWrite_canonical hs)
  · exact writeConfig_canonical hs

theorem execRegisterWrite_canonical {bar off : Nat} {v : Word} {s : State} (hs : s.canonical) :
    NextCanonical (execRegisterWrite bar off v s) := by
  refine .next ?_
  split
  · exact writeBar0_canonical hs
  · split
    · exact goesOn_canonical hs (execTail_canonical hs)
    · exact hs

end Sys2Proof.Machine
end

section
/-!
PROOFS. Conversions, vector logic and the start of a word keep every memory in canonical form.
-/
namespace Sys2Proof.Machine
open Sys2Proof

theorem runConversion_canonical {f : FmtV} {n : Nat} {plain : Tag → Rm → Nat → List (Tag × Nat) → Nat × Flags}
    {exact : List (Tag × Nat) → FVal × Flags} {s : State} (hs : s.canonical) :
    (runConversion f n plain exact s).canonical := by
  unfold runConversion
  dsimp only
  split
  · exact vecGo_canonical hs fun _ _ h => vecWrite_canonical h fun _ h => h
  · exact runElementwise_canonical hs

theorem execVcvt_canonical {f : FmtV} {s : State} (hs : s.canonical) : NextCanonical (execVcvt f s) :=
  .next (runConversion_canonical hs)

theorem execVqnt_canonical {f : FmtV} {s : State} (hs : s.canonical) : NextCanonical (execVqnt f s) :=
  .next (runConversion_canonical hs)

theorem execVpxunp_canonical {f : FmtV} {s : State} (hs : s.canonical) : NextCanonical (execVpxunp f s) :=
  .next (vecGo_canonical hs fun _ _ h => vecWhole_canonical (ite_canonical h h) fun _ h => h)

theorem execVpxpak_canonical {f : FmtV} {s : State} (hs : s.canonical) : NextCanonical (execVpxpak f s) := by
  unfold execVpxpak
  refine .next (vecGo_canonical hs fun xs t ht => vecWrite_canonical ?_ fun _ hx => hx)
  split
  · exact ht
  · exact ht

theorem logic_canonical {op : LOp} {n : Nat} {f : FmtV} {s : State} (hs : s.canonical) :
    (logic op n f s).canonical :=
  runElementwise_canonical hs

theorem execVcmp_canonical {f : FmtV} {s : State} (hs : s.canonical) : NextCanonical (execVcmp f s) :=
  .next (runElementwise_canonical hs)

theorem execVsel_canonical {f : FmtV} {s : State} (hs : s.canonical) : NextCanonical (execVsel f s) :=
  .next (runElementwise_canonical hs)

theorem execVclass_canonical {f : FmtV} {s : State} (hs : s.canonical) : NextCanonical (execVclass f s) :=
  .next (runElementwise_canonical hs)

theorem tick_canonical {s : State} (hs : s.canonical) : (tick s).canonical := hs

theorem takeTurn_canonical {j : Nat} {rest : List Turn} {s : State} (hs : s.canonical) :
    (takeTurn j rest s).canonical := hs

theorem startWord_canonical {w : Word} {s : State} (hs : s.canonical) : (startWord w s).canonical := by
  unfold startWord
  split
  · exact State.canonical_modMe_of hs fun _ h => h
  · exact hs

end Sys2Proof.Machine
end

section
/-!
PROOFS. A step keeps every memory in canonical form (O57), and so they are at reset (O56).
-/
namespace Sys2Proof.Machine
open Sys2Proof

/-- Whatever the instruction: one arm for each, by the lemma about its meaning. -/
theorem exec_canonical {i : Instr} {s : State} (hs : s.canonical) : NextCanonical (exec i s) := by
  cases i with
  | add f | sub f | andS f | orS f | xorS f | andn f | lea f | mul f | mulh f | mulhu f | madd f | shl f
    | shr f | sra f | rol f | clz f | ctz f | popc f | sext f | zext f | slt f | sltu f | seq f | sne f =>
    exact .next (aluS_canonical hs)
  | minS f => exact execMinS_canonical hs
  | maxS f => exact execMaxS_canonical hs
  | minu f => exact execMinu_canonical hs
  | maxu f => exact execMaxu_canonical hs
  | sel f => exact execSel_canonical hs
  | div f | divu f | rem f | remu f => exact .next (divide_canonical hs)
  | addi f | andi f | ori f | xori f | shli f | shri f | srai f | li f | lih f | slti f | sltiu f =>
    exact .next (aluI_canonical hs)
  | br f => exact execBr_canonical hs
  | jmp f => exact execJmp_canonical hs
  | call f => exact execCall_canonical hs
  | jr f => exact execJr_canonical hs
  | loop f => exact execLoop_canonical hs
  | ld f => exact execLd_canonical hs
  | st f => exact execSt_canonical hs
  | amo f => exact execAmo_canonical hs
  | fence f => exact execFence_canonical hs
  | vadd f | vsub f | vmul f | vmulh f | vdiv f | vrem f | vmin f | vmax f | vabs f | vneg f | vabsd f | vavg f
    | vfma f | vfms f | vfnma f | vclamp f | vsqrt f | vexp2 f | vlog2 f | vrcpe f | vrcps f | vrsqe f
    | vrsqs f => exact .next (arith_canonical hs)
  | vand f | vor f | vxor f | vnot f | vshl f | vshr f | vrol f | vpopc f | vclz f => exact .next (logic_canonical hs)
  | vcmp f => exact execVcmp_canonical hs
  | vsel f => exact execVsel_canonical hs
  | vclass f => exact execVclass_canonical hs
  | vcvt f => exact execVcvt_canonical hs
  | vqnt f => exact execVqnt_canonical hs
  | vpxunp f => exact execVpxunp_canonical hs
  | vpxpak f => exact execVpxpak_canonical hs
  | vred f => exact execVred_canonical hs
  | vscan f => exact execVscan_canonical hs
  | vperm f => exact execVperm_canonical hs
  | vslideup f => exact execVslideup_canonical hs
  | vslidedn f => exact execVslidedn_canonical hs
  | vcompress f => exact execVcompress_canonical hs
  | vexpand f => exact execVexpand_canonical hs
  | viota f => exact execViota_canonical hs
  | vid f => exact execVid_canonical hs
  | vsplat f => exact execVsplat_canonical hs
  | vmv f => exact execVmv_canonical hs
  | vextr f => exact execVextr_canonical hs
  | vins f => exact execVins_canonical hs
  | vkey f => exact execVkey_canonical hs
  | vsortk f => exact execVsortk_canonical hs
  | vmergek f => exact execVmergek_canonical hs
  | vtopk f => exact execVtopk_canonical hs
  | vunkey f => exact execVunkey_canonical hs
  | mand f | mor f | mxor f | mandn f | mnot f => exact .next (maskOp_canonical hs)
  | mpopc f => exact execMpopc_canonical hs
  | mfirst f => exact execMfirst_canonical hs
  | mset f => exact execMset_canonical hs
  | mget f => exact execMget_canonical hs
  | mwait f => exact .next (mwait_canonical hs)
  | mwaitComplete h => exact execMwaitComplete_canonical hs
  | setvl f => exact execSetvl_canonical hs
  | settag f => exact execSettag_canonical hs
  | vld f | vlds f | vldx f | vldt f | vldl f | vst f | vsts f | vstx f | vstt f | vstl f =>
    exact .next (vmemRun_canonical hs)
  | vldc f => exact execVldc_canonical hs
  | vamo f => exact execVamo_canonical hs
  | vpf f => exact .next (retireVec_canonical hs)
  | cpy f => exact execCpy_canonical hs
  | tileCopyChunkDone t => exact execTileCopyChunkDone_canonical hs
  | tileCopyFault t => exact execTileCopyFault_canonical hs
  | dld f => exact execDld_canonical hs
  | dstr f => exact execDstr_canonical hs
  | dget f => exact execDget_canonical hs
  | dsetx f => exact execDsetx_canonical hs
  | dresh f => exact execDresh_canonical hs
  | dtrans f => exact execDtrans_canonical hs
  | dtake f => exact execDtake_canonical hs
  | aadd f | asub f | amul f | adiv f => exact .next (arith2_canonical hs)
  | amin f | amax f => exact .next (arithPick_canonical hs)
  | afma f => exact execAfma_canonical hs
  | aclamp f => exact execAclamp_canonical hs
  | acmp f => exact execAcmp_canonical hs
  | asel f => exact execAsel_canonical hs
  | acvt f => exact execAcvt_canonical hs
  | aand f | aor f | axor f => exact .next (logic2_canonical hs)
  | anot f => exact execAnot_canonical hs
  | aabs f | aneg f | asqrt f | aexp2 f | alog2 f => exact .next (arith1_canonical hs)
  | aqnt f => exact execAqnt_canonical hs
  | aiota f => exact execAiota_canonical hs
  | afill f => exact execAfill_canonical hs
  | acopy f => exact execAcopy_canonical hs
  | arot f => exact execArot_canonical hs
  | arev f => exact execArev_canonical hs
  | atake f => exact execAtake_canonical hs
  | aresh f => exact execAresh_canonical hs
  | acat f => exact execAcat_canonical hs
  | agath f => exact execAgath_canonical hs
  | acomp f => exact execAcomp_canonical hs
  | aexpd f => exact execAexpd_canonical hs
  | agrade f => exact execAgrade_canonical hs
  | aouter f => exact execAouter_canonical hs
  | ainner f => exact execAinner_canonical hs
  | atopk f => exact execAtopk_canonical hs
  | ared f => exact execAred_canonical hs
  | ascan f => exact execAscan_canonical hs
  | amed f => exact execAmed_canonical hs
  | wadj f => exact execWadj_canonical hs
  | wchk f => exact execWchk_canonical hs
  | wchkSeal f => exact execWchkSeal_canonical hs
  | wrel f => exact execWrel_canonical hs
  | mmodeOn f => exact execMmodeOn_canonical hs
  | mmodeOff f => exact execMmodeOff_canonical (f := f) hs
  | mshape f => exact execMshape_canonical hs
  | mzero f => exact execMzero_canonical hs
  | mact f | macts f => exact .next (mact_canonical hs)
  | mmovn f => exact execMmovn_canonical hs
  | mmovw f => exact execMmovw_canonical hs
  | mvmac f => exact execMvmac_canonical hs
  | bind f => exact execBind_canonical hs
  | unbind f => exact execUnbind_canonical hs
  | sstat f => exact execSstat_canonical hs
  | streamUnitRead h vt => exact execStreamUnitRead_canonical hs
  | writeStripPerform h vt => exact .next (performStrip_canonical hs)
  | decoderBlock h vt => exact execDecoderBlock_canonical hs
  | xtab f => exact execXtab_canonical hs
  | tableReplace ch => exact execTableReplace_canonical hs
  | xrun f => exact execXrun_canonical hs
  | xstat f => exact execXstat_canonical hs
  | runStart ch => exact execRunStart_canonical hs
  | transducerStep r => exact execTransducerStep_canonical hs
  | runEnd r => exact execRunEnd_canonical hs
  | pqry f => exact execPqry_canonical hs
  | pstat f => exact execPstat_canonical hs
  | queryStart q => exact execQueryStart_canonical hs
  | queryEnd q => exact execQueryEnd_canonical hs
  | cstat f => exact execCstat_canonical hs
  | cabort f => exact execCabort_canonical hs
  | bar f => exact execBar_canonical hs
  | barrierRecheck h => exact execBarrierRecheck_canonical hs
  | binitSet f => exact execBinitSet_canonical hs
  | binitFault f => exact execBinitFault_canonical hs
  | qpost f => exact execQpost_canonical hs
  | qpoll f => exact execQpoll_canonical hs
  | launch f => exact execLaunch_canonical hs
  | kexit f | kexitAbort f => exact .next (exitHart_canonical hs)
  | cwait f => exact execCwait_canonical hs
  | cwaitRecheck h => exact execCwaitRecheck_canonical hs
  | evwait f => exact execEvwait_canonical hs
  | evwaitWake h => exact execEvwaitWake_canonical hs
  | yield f => exact execYield_canonical (f := f) hs
  | getc f => exact execGetc_canonical hs
  | setc f => exact execSetc_canonical hs
  | sysc f => exact execSysc_canonical hs
  | brk f => exact .next (takeTrap_canonical hs)
  | tret f => exact execTret_canonical hs
  | tlbb f => exact execTlbb_canonical hs
  | tlbu f => exact execTlbu_canonical hs
  | tlbi f => exact execTlbi_canonical hs
  | pmig f => exact execPmig_canonical hs
  | nop f | hintNop bits => exact .next (retire_canonical hs)
  | preemptRequest g => exact execPreemptRequest_canonical hs
  | laneGrowthOffer g => exact execLaneGrowthOffer_canonical hs
  | reclaimDeadline g => exact execReclaimDeadline_canonical hs
  | groupResume g => exact execGroupResume_canonical hs
  | groupPlace => exact execGroupPlace_canonical hs
  | kernelDispatch k => exact execKernelDispatch_canonical hs
  | kernelRetire k => exact execKernelRetire_canonical hs
  | create asid => exact execCreate_canonical hs
  | switchOut asid => exact execSwitchOut_canonical hs
  | switchIn asid => exact execSwitchIn_canonical hs
  | teardown asid => exact execTeardown_canonical hs
  | resume asid => exact execResume_canonical hs
  | badOp op asid => exact execBadOp_canonical hs
  | zeroisationConfirmed asid => exact execZeroisationConfirmed_canonical hs
  | contextCommandComplete => exact execContextCommandComplete_canonical hs
  | attach q => exact execAttach_canonical hs
  | detach q => exact execDetach_canonical hs
  | reset q => exact execReset_canonical hs
  | tail q v => exact execTail_canonical hs
  | queueSchedule => exact execQueueSchedule_canonical hs
  | counterWaitRecheck q => exact execCounterWaitRecheck_canonical hs
  | queueCopyDone t => exact execQueueCopyDone_canonical hs
  | queueAging q => exact execQueueAging_canonical hs
  | queueSwitchIn q => exact execQueueSwitchIn_canonical hs
  | eventPost asid => exact execEventPost_canonical hs
  | pageWalk h va acc => exact execPageWalk_canonical hs
  | migration m => exact execMigration_canonical hs
  | migrationTimeout m => exact execMigrationTimeout_canonical hs
  | hotWindow => exact execHotWindow_canonical hs
  | rakeScrub pa found => exact execRakeScrub_canonical hs
  | bankRefresh bank => exact execBankRefresh_canonical (k := bank) hs
  | hostMemoryAccess pa rq => exact execHostMemoryAccess_canonical hs
  | linkEnable p => exact execLinkEnable_canonical hs
  | linkDisable p => exact execLinkDisable_canonical hs
  | drain p => exact execDrain_canonical hs
  | trainingEnd p lanes peer peerPort => exact execTrainingEnd_canonical hs
  | laneLost p => exact execLaneLost_canonical hs
  | replayLimit p => exact execReplayLimit_canonical hs
  | deadTime p => exact execDeadTime_canonical hs
  | drainDone p => exact execDrainDone_canonical hs
  | heartbeat => exact execHeartbeat_canonical hs
  | flitReceive p flit => exact execFlitReceive_canonical hs
  | deviceLost d => exact execDeviceLost_canonical hs
  | routeEntryWrite d v => exact execRouteEntryWrite_canonical hs
  | remoteAccess dev asid pa buf mode rq => exact execRemoteAccess_canonical hs
  | callStart c others => exact execCallStart_canonical hs
  | collectiveChunkDone c chunk contrib => exact execCollectiveChunkDone_canonical hs
  | callLocal c => exact execCallLocal_canonical hs
  | callDone c => exact execCallDone_canonical hs
  | callAbort c status lost => exact execCallAbort_canonical hs
  | islandDvfs island mhz => exact execIslandDvfs_canonical hs
  | droopStretch island => exact execDroopStretch_canonical hs
  | powerCapTick draw => exact execPowerCapTick_canonical hs
  | attcmd => exact execAttcmd_canonical hs
  | attestationReport => exact execAttestationReport_canonical hs
  | devrst => exact execDevrst_canonical hs
  | firmwareBoot images => exact execFirmwareBoot_canonical hs
  | fatalError cause cls unit detail => exact execFatalError_canonical hs
  | debugRegisterWrite h off v => exact execDebugRegisterWrite_canonical hs
  | registerWrite bar off v => exact execRegisterWrite_canonical hs
  | laneReclaim core => exact execLaneReclaim_canonical hs
  | queryFault q => exact execQueryFault_canonical hs
  | qcmdBadOp op q => exact execQcmdBadOp_canonical hs

theorem stepHart_canonical {s : State} (hs : s.canonical) : NextCanonical (stepHart s) := by
  unfold stepHart
  split
  · split
    · exact exec_canonical hs
    · split
      · next e => exact .next (stopAt_canonical (fst_canonical e (fetch_canonical hs)))
      · next s1 w e =>
        have h1 : s1.canonical := fst_canonical e (fetch_canonical hs)
        split
        · exact .next (takeTrap_canonical (startWord_canonical h1))
        · exact exec_canonical (startWord_canonical h1)
  · exact .next hs

theorem step_canonical {s : State} (hs : s.canonical) : NextCanonical (step s) := by
  unfold step
  split
  · next i rest _ =>
    have h1 : (tick { s with agenda := rest }).canonical := hs
    split
    · exact exec_canonical h1
    · exact .next h1
  · next j rest _ =>
    split
    · exact .next hs
    · exact stepHart_canonical (tick_canonical (takeTurn_canonical hs))
  · next j rest _ =>
    split
    · exact .next hs
    · exact stepHart_canonical (tick_canonical (takeTurn_canonical hs))
  · split
    · nofun
    · exact stepHart_canonical (tick_canonical hs)

/-- Settles O57: `step` answers what `exec` does to a state, a trap or the state itself, and each keeps the form. -/
theorem canonicalKept : Obligations.CanonicalKept := by
  unfold Obligations.CanonicalKept
  intro s t hs e
  exact step_canonical hs t e

/-- Settles O56: at reset no memory lists a byte. -/
theorem canonicalAtReset : Obligations.CanonicalAtReset := by
  unfold Obligations.CanonicalAtReset
  exact State.canonical_of_noUnits rfl rfl (List.forall_mem_nil _) rfl rfl rfl

end Sys2Proof.Machine
end

section
/-!
PROOFS. Decoding and encoding agree (R66 to R87): what each format's packing and unpacking do to each other, the
opcode tables of R85 gathered by format, and from these both directions over every instruction and every word.
-/
namespace Sys2Proof

/-! ## Fields of a word -/

theorem toNat_bitsOf (w : Word) (lo n : Nat) : (bitsOf w lo n).toNat = w.toNat / 2 ^ lo % 2 ^ n := BitVec.toNat_ofNat ..

/-- A number from a bit on, and the `n` bits below it, are the number from the lower bit on. -/
theorem join_field (x : Nat) {hi lo n : Nat} (h : hi = lo + n) :
    x / 2 ^ hi * 2 ^ hi + x / 2 ^ lo % 2 ^ n * 2 ^ lo = x / 2 ^ lo * 2 ^ lo := by
  rw [h, Nat.pow_add, ← Nat.div_div_eq_div_mul, Nat.mul_comm (2 ^ lo), ← Nat.mul_assoc, ← Nat.add_mul,
    Nat.mul_comm _ (2 ^ n), Nat.div_add_mod]

theorem join_lowest_field (x n : Nat) : x / 2 ^ n * 2 ^ n + x / 2 ^ 0 % 2 ^ n = x := by
  rw [Nat.pow_zero, Nat.div_one, Nat.mul_comm, Nat.div_add_mod]

/-- Reserved bits that are zero, in the middle of a word and at its end. -/
theorem drop_gap {x hi lo n : Nat} (h : x / 2 ^ lo % 2 ^ n = 0) (hhi : hi = lo + n) :
    x / 2 ^ hi * 2 ^ hi = x / 2 ^ lo * 2 ^ lo := by
  rw [← join_field x hhi, h, Nat.zero_mul, Nat.add_zero]

theorem drop_reserved {x n : Nat} (h : x % 2 ^ n = 0) : x / 2 ^ n * 2 ^ n = x :=
  Nat.div_mul_cancel (Nat.dvd_of_mod_eq_zero h)

/-! ## A format with its opcode tables -/

/-- A format of R68 to R80: its majors with their functions in FN order, how its words are made and read, and the laws
that tie these to the decoder and the encoder. A major without function codes has one function, at FN 0. -/
structure WordFormat (α : Type) where
  /-- The majors of the format, each with its functions in FN order (R85). -/
  tables : List (Nat × List (α → Instr))
  /-- The word of a major, an FN and the fields. -/
  pack : Nat → Nat → α → Word
  /-- The fields of a word. -/
  unpack : Word → α
  /-- The FN of a word. -/
  fn : Word → Nat
  /-- The reserved bits of a word. -/
  rsv : Word → Nat
  /-- How many FNs the format has room for. -/
  fns : Nat
  bounds : ∀ r ∈ tables, (0 < r.1 ∧ r.1 < 2 ^ 8) ∧ r.2.length ≤ fns
  fields_pack : ∀ m k f, m < 2 ^ 8 → k < fns →
    (pack m k f).toNat / 2 ^ 56 = m ∧ fn (pack m k f) = k ∧ rsv (pack m k f) = 0
  unpack_pack : ∀ m k f, unpack (pack m k f) = f
  pack_unpack : ∀ w, rsv w = 0 → pack (w.toNat / 2 ^ 56) (fn w) (unpack w) = w
  candidate_eq : ∀ w, w ≠ 0 → ∀ r ∈ tables, w.toNat / 2 ^ 56 = r.1 → candidate w = byFn r.2 (fn w) (rsv w) (unpack w)
  encode_table : ∀ r ∈ tables, ∀ p ∈ r.2.zipIdx, ∀ f, encode (p.1 f) = some (pack r.1 p.2 f)

/-- The functions that the format lists for a major. -/
def WordFormat.functions {α : Type} (F : WordFormat α) (m : Nat) : Option (List (α → Instr)) := F.tables.lookup m

theorem WordFormat.mem_tables {α : Type} {F : WordFormat α} {m : Nat} {t : List (α → Instr)} (h : F.functions m = some t) :
    (m, t) ∈ F.tables := by
  obtain ⟨l, r, e, -⟩ := List.lookup_eq_some_iff.1 h
  simp [e]

/-- The word of an instruction that the tables list decodes to it. -/
theorem WordFormat.candidate_pack {α : Type} (F : WordFormat α) {m k : Nat} {mk : α → Instr}
    (h : (F.functions m).bind (·[k]?) = some mk) (f : α) : candidate (F.pack m k f) = .ok (mk f) := by
  obtain ⟨t, ht, hmk⟩ := Option.bind_eq_some_iff.1 h
  have hmem := WordFormat.mem_tables ht
  obtain ⟨⟨hpos, hlt⟩, hlen⟩ := F.bounds _ hmem
  have hk : k < F.fns := Nat.lt_of_lt_of_le (List.getElem?_eq_some_iff.1 hmk).1 hlen
  obtain ⟨hmajor, hfn, hrsv⟩ := F.fields_pack m k f hlt hk
  have h0 : F.pack m k f ≠ 0 := by
    intro h
    rw [h] at hmajor
    exact absurd hmajor (Nat.ne_of_lt hpos)
  rw [F.candidate_eq _ h0 _ hmem hmajor, hfn, hrsv, F.unpack_pack, byFn, hmk]
  rfl

theorem byFn_ok {α : Type} {table : List (α → Instr)} {fn rsv : Nat} {f : α} {i : Instr} (h : byFn table fn rsv f = .ok i) :
    ∃ mk, table[fn]? = some mk ∧ rsv = 0 ∧ i = mk f := by
  unfold byFn at h
  split at h
  · cases h
  · next mk hmk =>
    split at h
    · next hrsv =>
      cases h
      exact ⟨mk, hmk, hrsv, rfl⟩
    · cases h

theorem ne_zero_of_candidate {w : Word} {i : Instr} (h : candidate w = .ok i) : w ≠ 0 := by
  rintro rfl
  cases h

/-- A word of one of the format's majors is the word of what it decodes to. -/
theorem WordFormat.encode_of_candidate {α : Type} (F : WordFormat α) {w : Word} {i : Instr}
    (hm : (F.functions (w.toNat / 2 ^ 56)).isSome = true) (h : candidate w = .ok i) : encode i = some w := by
  obtain ⟨t, ht⟩ := Option.isSome_iff_exists.1 hm
  have hmem := WordFormat.mem_tables ht
  rw [F.candidate_eq w (ne_zero_of_candidate h) _ hmem rfl] at h
  obtain ⟨mk, hmk, hrsv, rfl⟩ := byFn_ok h
  rw [F.encode_table _ hmem (mk, F.fn w) (List.mk_mem_zipIdx_iff_getElem?.2 hmk), F.pack_unpack w hrsv]

/-! ## The formats

Four functions have two instructions each, told apart by one field; both have the function's word. -/

theorem encode_wchkForms (f : FmtA) : encode (if f.fl = 1 then .wchkSeal f else .wchk f) = some (packA 0x75 1 f) := by
  split <;> rfl

theorem encode_mmodeForms (f : FmtX) : encode (if f.q = 1 then .mmodeOn f else .mmodeOff f) = some (packX 0x80 0 f) := by
  split <;> rfl

theorem encode_binitForms (f : FmtY) :
    encode (if f.imm = 1 then .binitFault f else .binitSet f) = some (packY 0xA0 1 f) := by
  split <;> rfl

theorem encode_kexitForms (f : FmtY) :
    encode (if f.imm = 1 then .kexitAbort f else .kexit f) = some (packY 0xA0 5 f) := by
  split <;> rfl

/-- Format S (R68) with its majors (R85). -/
def formatS : WordFormat FmtS where
  tables := [(0x01, major01), (0x02, major02), (0x03, major03), (0x04, major04)]
  pack := packS
  unpack := unpackS
  fn w := w.toNat / 2 ^ 48 % 2 ^ 8
  rsv w := w.toNat % 2 ^ 24
  fns := 2 ^ 8
  bounds := by decide
  fields_pack m k f hm hk := by
    simp only [packS, BitVec.toNat_ofNat]
    omega
  unpack_pack m k f := by
    obtain ⟨sd, sa, sb, sc⟩ := f
    simp only [unpackS, packS, bitsOf, FmtS.mk.injEq, BitVec.toNat_eq, BitVec.toNat_ofNat]
    omega
  pack_unpack w h := by
    simp only [packS, unpackS, toNat_bitsOf, join_field, Nat.reduceAdd, drop_reserved h, BitVec.ofNat_toNat,
      BitVec.setWidth_eq]
  candidate_eq w h0 := by
    simp only [List.forall_mem_cons, List.not_mem_nil, false_imp_iff, implies_true, and_true]
    and_intros <;> intro hm <;> simp only [candidate, if_neg h0, hm]
  encode_table := by
    simp only [major01, major02, major03, major04, List.zipIdx_cons, List.zipIdx_nil, List.forall_mem_cons,
      List.not_mem_nil, false_imp_iff, implies_true, and_true]
    and_intros <;> exact fun _ => rfl

/-- Format I (R69) with its majors (R85). -/
def formatI : WordFormat FmtI where
  tables := [(0x10, [.addi]), (0x11, [.andi]), (0x12, [.ori]), (0x13, [.xori]), (0x14, [.shli]), (0x15, [.shri]),
    (0x16, [.srai]), (0x17, [.li]), (0x18, [.lih]), (0x19, [.slti]), (0x1A, [.sltiu]), (0x23, [.jr])]
  pack m _ f := packI m f
  unpack := unpackI
  fn _ := 0
  rsv _ := 0
  fns := 1
  bounds := by decide
  fields_pack m k f hm hk := by
    simp only [packI, BitVec.toNat_ofNat, and_true]
    omega
  unpack_pack m k f := by
    obtain ⟨sd, sa, imm⟩ := f
    simp only [unpackI, packI, bitsOf, FmtI.mk.injEq, BitVec.toNat_eq, BitVec.toNat_ofNat]
    omega
  pack_unpack w _ := by
    simp only [packI, unpackI, toNat_bitsOf, join_field, Nat.reduceAdd, join_lowest_field, BitVec.ofNat_toNat,
      BitVec.setWidth_eq]
  candidate_eq w h0 := by
    simp only [List.forall_mem_cons, List.not_mem_nil, false_imp_iff, implies_true, and_true]
    and_intros <;> intro hm <;> simp only [candidate, if_neg h0, hm] <;> rfl
  encode_table := by
    simp only [List.zipIdx_cons, List.zipIdx_nil, List.forall_mem_cons, List.not_mem_nil, false_imp_iff, implies_true,
      and_true]
    and_intros <;> exact fun _ => rfl

/-- Format B (R70) with its majors (R85). -/
def formatB : WordFormat FmtB where
  tables := [(0x20, [.br]), (0x24, [.loop])]
  pack m _ f := packB m f
  unpack := unpackB
  fn _ := 0
  rsv _ := 0
  fns := 1
  bounds := by decide
  fields_pack m k f hm hk := by
    simp only [packB, BitVec.toNat_ofNat, and_true]
    omega
  unpack_pack m k f := by
    obtain ⟨cnd, sa, sb, off⟩ := f
    simp only [unpackB, packB, bitsOf, FmtB.mk.injEq, BitVec.toNat_eq, BitVec.toNat_ofNat]
    omega
  pack_unpack w _ := by
    simp only [packB, unpackB, toNat_bitsOf, join_field, Nat.reduceAdd, join_lowest_field, BitVec.ofNat_toNat,
      BitVec.setWidth_eq]
  candidate_eq w h0 := by
    simp only [List.forall_mem_cons, List.not_mem_nil, false_imp_iff, implies_true, and_true]
    and_intros <;> intro hm <;> simp only [candidate, if_neg h0, hm] <;> rfl
  encode_table := by
    simp only [List.zipIdx_cons, List.zipIdx_nil, List.forall_mem_cons, List.not_mem_nil, false_imp_iff, implies_true,
      and_true]
    and_intros <;> exact fun _ => rfl

/-- Format J (R71) with its majors (R85). -/
def formatJ : WordFormat FmtJ where
  tables := [(0x21, [.jmp]), (0x22, [.call])]
  pack m _ f := packJ m f
  unpack := unpackJ
  fn _ := 0
  rsv _ := 0
  fns := 1
  bounds := by decide
  fields_pack m k f hm hk := by
    simp only [packJ, BitVec.toNat_ofNat, and_true]
    omega
  unpack_pack m k f := by
    obtain ⟨sd, off⟩ := f
    simp only [unpackJ, packJ, bitsOf, FmtJ.mk.injEq, BitVec.toNat_eq, BitVec.toNat_ofNat]
    omega
  pack_unpack w _ := by
    simp only [packJ, unpackJ, toNat_bitsOf, join_field, Nat.reduceAdd, join_lowest_field, BitVec.ofNat_toNat,
      BitVec.setWidth_eq]
  candidate_eq w h0 := by
    simp only [List.forall_mem_cons, List.not_mem_nil, false_imp_iff, implies_true, and_true]
    and_intros <;> intro hm <;> simp only [candidate, if_neg h0, hm] <;> rfl
  encode_table := by
    simp only [List.zipIdx_cons, List.zipIdx_nil, List.forall_mem_cons, List.not_mem_nil, false_imp_iff, implies_true,
      and_true]
    and_intros <;> exact fun _ => rfl

/-- Format M (R72) with its majors (R85). -/
def formatM : WordFormat FmtM where
  tables := [(0x30, [.ld]), (0x31, [.st]), (0x32, [.amo]), (0x33, [.fence])]
  pack m _ f := packM m f
  unpack := unpackM
  fn _ := 0
  rsv _ := 0
  fns := 1
  bounds := by decide
  fields_pack m k f hm hk := by
    simp only [packM, BitVec.toNat_ofNat, and_true]
    omega
  unpack_pack m k f := by
    obtain ⟨sz, sd, sa, ord, scope, imm⟩ := f
    simp only [unpackM, packM, bitsOf, FmtM.mk.injEq, BitVec.toNat_eq, BitVec.toNat_ofNat]
    omega
  pack_unpack w _ := by
    simp only [packM, unpackM, toNat_bitsOf, join_field, Nat.reduceAdd, join_lowest_field, BitVec.ofNat_toNat,
      BitVec.setWidth_eq]
  candidate_eq w h0 := by
    simp only [List.forall_mem_cons, List.not_mem_nil, false_imp_iff, implies_true, and_true]
    and_intros <;> intro hm <;> simp only [candidate, if_neg h0, hm] <;> rfl
  encode_table := by
    simp only [List.zipIdx_cons, List.zipIdx_nil, List.forall_mem_cons, List.not_mem_nil, false_imp_iff, implies_true,
      and_true]
    and_intros <;> exact fun _ => rfl

/-- Format V (R73) with its majors (R85). -/
def formatV : WordFormat FmtV where
  tables := [(0x40, major40), (0x41, major41), (0x42, major42), (0x43, major43), (0x44, major44), (0x45, major45),
    (0x46, major46), (0x47, major47)]
  pack := packV
  unpack := unpackV
  fn w := w.toNat / 2 ^ 48 % 2 ^ 8
  rsv w := w.toNat % 2 ^ 3
  fns := 2 ^ 8
  bounds := by decide
  fields_pack m k f hm hk := by
    simp only [packV, BitVec.toNat_ofNat]
    omega
  unpack_pack m k f := by
    obtain ⟨vd, va, vb, vc, msk, ch, ovr, mod, rm, sat, z⟩ := f
    simp only [unpackV, packV, bitsOf, FmtV.mk.injEq, BitVec.toNat_eq, BitVec.toNat_ofNat]
    omega
  pack_unpack w h := by
    simp only [packV, unpackV, toNat_bitsOf, join_field, Nat.reduceAdd, drop_reserved h, BitVec.ofNat_toNat,
      BitVec.setWidth_eq]
  candidate_eq w h0 := by
    simp only [List.forall_mem_cons, List.not_mem_nil, false_imp_iff, implies_true, and_true]
    and_intros <;> intro hm <;> simp only [candidate, if_neg h0, hm]
  encode_table := by
    simp only [major40, major41, major42, major43, major44, major45, major46, major47, List.zipIdx_cons,
      List.zipIdx_nil, List.forall_mem_cons, List.not_mem_nil, false_imp_iff, implies_true, and_true]
    and_intros <;> exact fun _ => rfl

/-- Format VM (R76) with its majors (R85). -/
def formatVM : WordFormat FmtVM where
  tables := [(0x60, major60), (0x61, major61), (0x62, major62), (0x63, major63)]
  pack := packVM
  unpack := unpackVM
  fn w := w.toNat / 2 ^ 50 % 2 ^ 6
  rsv _ := 0
  fns := 2 ^ 6
  bounds := by decide
  fields_pack m k f hm hk := by
    simp only [packVM, BitVec.toNat_ofNat, and_true]
    omega
  unpack_pack m k f := by
    obtain ⟨vd, sa, sb, msk, e, o, ff, ch, sp, ovr, imm⟩ := f
    simp only [unpackVM, packVM, bitsOf, FmtVM.mk.injEq, BitVec.toNat_eq, BitVec.toNat_ofNat]
    omega
  pack_unpack w _ := by
    simp only [packVM, unpackVM, toNat_bitsOf, join_field, Nat.reduceAdd, join_lowest_field, BitVec.ofNat_toNat,
      BitVec.setWidth_eq]
  candidate_eq w h0 := by
    simp only [List.forall_mem_cons, List.not_mem_nil, false_imp_iff, implies_true, and_true]
    and_intros <;> intro hm <;> simp only [candidate, if_neg h0, hm]
  encode_table := by
    simp only [major60, major61, major62, major63, List.zipIdx_cons, List.zipIdx_nil, List.forall_mem_cons,
      List.not_mem_nil, false_imp_iff, implies_true, and_true]
    and_intros <;> exact fun _ => rfl

/-- Format A (R77) with its majors (R85). -/
def formatA : WordFormat FmtA where
  tables := [(0x70, major70), (0x71, major71), (0x72, major72), (0x73, major73), (0x75, major75)]
  pack := packA
  unpack := unpackA
  fn w := w.toNat / 2 ^ 48 % 2 ^ 8
  rsv w := w.toNat % 2 ^ 6
  fns := 2 ^ 8
  bounds := by decide
  fields_pack m k f hm hk := by
    simp only [packA, BitVec.toNat_ofNat]
    omega
  unpack_pack m k f := by
    obtain ⟨dd, da, db, ka, kb, ax, wd, fl, sa⟩ := f
    simp only [unpackA, packA, bitsOf, FmtA.mk.injEq, BitVec.toNat_eq, BitVec.toNat_ofNat]
    omega
  pack_unpack w h := by
    simp only [packA, unpackA, toNat_bitsOf, join_field, Nat.reduceAdd, drop_reserved h, BitVec.ofNat_toNat,
      BitVec.setWidth_eq]
  candidate_eq w h0 := by
    simp only [List.forall_mem_cons, List.not_mem_nil, false_imp_iff, implies_true, and_true]
    and_intros <;> intro hm <;> simp only [candidate, if_neg h0, hm]
  encode_table := by
    simp only [major70, major71, major72, major73, major75, List.zipIdx_cons, List.zipIdx_nil, List.forall_mem_cons,
      List.not_mem_nil, false_imp_iff, implies_true, and_true, encode_wchkForms, true_and]
    and_intros <;> exact fun _ => rfl

/-- Format X (R78) with its majors (R85). -/
def formatX : WordFormat FmtX where
  tables := [(0x80, major80)]
  pack := packX
  unpack := unpackX
  fn w := w.toNat / 2 ^ 48 % 2 ^ 8
  rsv w := w.toNat % 2 ^ 12
  fns := 2 ^ 8
  bounds := by decide
  fields_pack m k f hm hk := by
    simp only [packX, BitVec.toNat_ofNat]
    omega
  unpack_pack m k f := by
    obtain ⟨xd, xa, xb, at_, ch, msk, ovr, rm, sat, q⟩ := f
    simp only [unpackX, packX, bitsOf, FmtX.mk.injEq, BitVec.toNat_eq, BitVec.toNat_ofNat]
    omega
  pack_unpack w h := by
    simp only [packX, unpackX, toNat_bitsOf, join_field, Nat.reduceAdd, drop_reserved h, BitVec.ofNat_toNat,
      BitVec.setWidth_eq]
  candidate_eq w h0 := by
    simp only [List.forall_mem_cons, List.not_mem_nil, false_imp_iff, implies_true, and_true]
    intro hm; simp only [candidate, if_neg h0, hm]
  encode_table := by
    simp only [major80, List.zipIdx_cons, List.zipIdx_nil, List.forall_mem_cons, List.not_mem_nil, false_imp_iff,
      implies_true, and_true, encode_mmodeForms, true_and]
    and_intros <;> exact fun _ => rfl

/-- Format C (R79) with its majors (R85). -/
def formatC : WordFormat FmtC where
  tables := [(0x88, major88), (0x90, major90)]
  pack := packC
  unpack := unpackC
  fn w := w.toNat / 2 ^ 48 % 2 ^ 8
  rsv _ := 0
  fns := 2 ^ 8
  bounds := by decide
  fields_pack m k f hm hk := by
    simp only [packC, BitVec.toNat_ofNat, and_true]
    omega
  unpack_pack m k f := by
    obtain ⟨sd, sa, sb, vt, lm, imm⟩ := f
    simp only [unpackC, packC, bitsOf, FmtC.mk.injEq, BitVec.toNat_eq, BitVec.toNat_ofNat]
    omega
  pack_unpack w _ := by
    simp only [packC, unpackC, toNat_bitsOf, join_field, Nat.reduceAdd, join_lowest_field, BitVec.ofNat_toNat,
      BitVec.setWidth_eq]
  candidate_eq w h0 := by
    simp only [List.forall_mem_cons, List.not_mem_nil, false_imp_iff, implies_true, and_true]
    and_intros <;> intro hm <;> simp only [candidate, if_neg h0, hm]
  encode_table := by
    simp only [major88, major90, List.zipIdx_cons, List.zipIdx_nil, List.forall_mem_cons, List.not_mem_nil,
      false_imp_iff, implies_true, and_true]
    and_intros <;> exact fun _ => rfl

/-- Format Y (R80) with its majors (R85). -/
def formatY : WordFormat FmtY where
  tables := [(0xA0, majorA0), (0xF0, majorF0)]
  pack := packY
  unpack := unpackY
  fn w := w.toNat / 2 ^ 48 % 2 ^ 8
  rsv w := w.toNat / 2 ^ 24 % 2 ^ 3
  fns := 2 ^ 8
  bounds := by decide
  fields_pack m k f hm hk := by
    simp only [packY, BitVec.toNat_ofNat]
    omega
  unpack_pack m k f := by
    obtain ⟨sd, sa, sb, scope, cn, imm⟩ := f
    simp only [unpackY, packY, bitsOf, FmtY.mk.injEq, BitVec.toNat_eq, BitVec.toNat_ofNat]
    omega
  pack_unpack w h := by
    simp only [packY, unpackY, toNat_bitsOf, join_field, Nat.reduceAdd, join_lowest_field, drop_gap h,
      BitVec.ofNat_toNat, BitVec.setWidth_eq]
  candidate_eq w h0 := by
    simp only [List.forall_mem_cons, List.not_mem_nil, false_imp_iff, implies_true, and_true]
    and_intros <;> intro hm <;> simp only [candidate, if_neg h0, hm]
  encode_table := by
    simp only [majorA0, majorF0, List.zipIdx_cons, List.zipIdx_nil, List.forall_mem_cons, List.not_mem_nil,
      false_imp_iff, implies_true, and_true, encode_binitForms, encode_kexitForms, true_and]
    and_intros <;> exact fun _ => rfl

/-! ## Words of major 0xFE (R87) -/

/-- The word of a no-op of major 0xFE. -/
def hintWord (b : BitVec 56) : Word := BitVec.ofNat 64 (0xFE * 2 ^ 56 + b.toNat)

theorem candidate_hintWord (b : BitVec 56) : candidate (hintWord b) = .ok (.hintNop b) := by
  have hmajor : (hintWord b).toNat / 2 ^ 56 = 0xFE := by simp only [hintWord, BitVec.toNat_ofNat]; omega
  have hbits : bitsOf (hintWord b) 0 56 = b := by
    simp only [hintWord, bitsOf, BitVec.toNat_eq, BitVec.toNat_ofNat]; omega
  have h0 : hintWord b ≠ 0 := fun h => by rw [h] at hmajor; cases hmajor
  simp only [candidate, if_neg h0, hmajor, hbits]

theorem encode_of_candidate_hint {w : Word} {i : Instr} (hm : w.toNat / 2 ^ 56 = 0xFE) (h : candidate w = .ok i) :
    encode i = some w := by
  have hword : hintWord (bitsOf w 0 56) = w := by
    rw [hintWord, toNat_bitsOf, ← hm, join_lowest_field, BitVec.ofNat_toNat, BitVec.setWidth_eq]
  rw [← hword, candidate_hintWord] at h
  cases h
  exact congrArg some hword

/-! ## Both directions -/

/-- An instruction with a legal word is what its word names. Where one function has two instructions, the field that
tells them apart is a condition of `wf`. -/
theorem candidate_of_encode {i : Instr} {w : Word} (hwf : wf i = true) (h : encode i = some w) : candidate w = .ok i := by
  cases i with
  | add f | sub f | andS f | orS f | xorS f | andn f | minS f | maxS f | minu f | maxu f | sel f | lea f | mul f
  | mulh f | mulhu f | div f | divu f | rem f | remu f | madd f | shl f | shr f | sra f | rol f | clz f | ctz f | popc f
  | sext f | zext f | slt f | sltu f | seq f | sne f =>
    obtain rfl := Option.some.inj h
    exact formatS.candidate_pack rfl f
  | addi f | andi f | ori f | xori f | shli f | shri f | srai f | li f | lih f | slti f | sltiu f | jr f =>
    obtain rfl := Option.some.inj h
    exact formatI.candidate_pack (k := 0) rfl f
  | br f | loop f =>
    obtain rfl := Option.some.inj h
    exact formatB.candidate_pack (k := 0) rfl f
  | jmp f | call f =>
    obtain rfl := Option.some.inj h
    exact formatJ.candidate_pack (k := 0) rfl f
  | ld f | st f | amo f | fence f =>
    obtain rfl := Option.some.inj h
    exact formatM.candidate_pack (k := 0) rfl f
  | vadd f | vsub f | vmul f | vmulh f | vdiv f | vrem f | vmin f | vmax f | vabs f | vneg f | vabsd f | vavg f
  | vfma f | vfms f | vfnma f | vclamp f | vsqrt f | vexp2 f | vlog2 f | vrcpe f | vrcps f | vrsqe f | vrsqs f | vand f
  | vor f | vxor f | vnot f | vshl f | vshr f | vrol f | vpopc f | vclz f | vcmp f | vsel f | vclass f | vcvt f
  | vqnt f | vpxunp f | vpxpak f | vred f | vscan f | vperm f | vslideup f | vslidedn f | vcompress f | vexpand f
  | viota f | vid f | vsplat f | vmv f | vextr f | vins f | vkey f | vsortk f | vmergek f | vtopk f | vunkey f | mand f
  | mor f | mxor f | mandn f | mnot f | mpopc f | mfirst f | mset f | mget f | mwait f | setvl f | settag f =>
    obtain rfl := Option.some.inj h
    exact formatV.candidate_pack rfl f
  | vld f | vlds f | vldx f | vldt f | vldl f | vldc f | vst f | vsts f | vstx f | vstt f | vstl f | vamo f | vpf f
  | cpy f =>
    obtain rfl := Option.some.inj h
    exact formatVM.candidate_pack rfl f
  | dld f | dstr f | dget f | dsetx f | dresh f | dtrans f | dtake f | aadd f | asub f | amul f | adiv f | amin f
  | amax f | afma f | aclamp f | acmp f | asel f | acvt f | aand f | aor f | axor f | anot f | aabs f | aneg f | asqrt f
  | aexp2 f | alog2 f | aqnt f | aiota f | afill f | acopy f | arot f | arev f | atake f | aresh f | acat f | agath f
  | acomp f | aexpd f | agrade f | aouter f | ainner f | atopk f | ared f | ascan f | amed f | wadj f | wrel f =>
    obtain rfl := Option.some.inj h
    exact formatA.candidate_pack rfl f
  | mshape f | mzero f | mact f | macts f | mmovn f | mmovw f | mvmac f =>
    obtain rfl := Option.some.inj h
    exact formatX.candidate_pack rfl f
  | bind f | unbind f | sstat f | xtab f | xrun f | xstat f | pqry f | pstat f | cstat f | cabort f =>
    obtain rfl := Option.some.inj h
    exact formatC.candidate_pack rfl f
  | bar f | qpost f | qpoll f | launch f | cwait f | evwait f | yield f | getc f | setc f | sysc f | brk f | tret f
  | tlbb f | tlbu f | tlbi f | pmig f | nop f =>
    obtain rfl := Option.some.inj h
    exact formatY.candidate_pack rfl f
  | wchk f =>
    obtain rfl := Option.some.inj h
    obtain ⟨-, -, -, -, -, -, hfl, -⟩ := of_decide_eq_true hwf
    exact (formatA.candidate_pack rfl f).trans (by simp [hfl])
  | wchkSeal f =>
    obtain rfl := Option.some.inj h
    obtain ⟨-, -, -, -, -, -, hfl⟩ := of_decide_eq_true hwf
    exact (formatA.candidate_pack rfl f).trans (by simp [hfl])
  | mmodeOn f =>
    obtain rfl := Option.some.inj h
    obtain ⟨-, -, -, -, -, -, -, -, -, hq⟩ := of_decide_eq_true hwf
    exact (formatX.candidate_pack rfl f).trans (by simp [hq])
  | mmodeOff f =>
    obtain rfl := Option.some.inj h
    obtain ⟨-, -, -, -, -, -, -, -, -, hq⟩ := of_decide_eq_true hwf
    exact (formatX.candidate_pack rfl f).trans (by simp [hq])
  | binitSet f =>
    obtain rfl := Option.some.inj h
    obtain ⟨-, himm, -⟩ := of_decide_eq_true hwf
    exact (formatY.candidate_pack rfl f).trans (by simp [himm])
  | binitFault f =>
    obtain rfl := Option.some.inj h
    obtain ⟨-, -, -, himm⟩ := of_decide_eq_true hwf
    exact (formatY.candidate_pack rfl f).trans (by simp [himm])
  | kexit f =>
    obtain rfl := Option.some.inj h
    obtain ⟨-, -, -, -, -, himm⟩ := of_decide_eq_true hwf
    exact (formatY.candidate_pack rfl f).trans (by simp [himm])
  | kexitAbort f =>
    obtain rfl := Option.some.inj h
    obtain ⟨-, -, -, -, -, himm⟩ := of_decide_eq_true hwf
    exact (formatY.candidate_pack rfl f).trans (by simp [himm])
  | hintNop b =>
    obtain rfl := Option.some.inj h
    exact candidate_hintWord b
  | _ => nomatch h

theorem candidate_major_mem {w : Word} {i : Instr} (h : candidate w = .ok i) : w.toNat / 2 ^ 56 ∈ Laws.Major.majors := by
  unfold candidate at h
  rw [if_neg (ne_zero_of_candidate h)] at h
  split at h
  case h_48 => cases h
  all_goals next hm => rw [hm]; decide

/-- Every major code of R85 belongs to a format, but for the hint major. -/
theorem major_has_format : ∀ m ∈ Laws.Major.majors,
    (formatS.functions m).isSome = true ∨ (formatI.functions m).isSome = true ∨
    (formatB.functions m).isSome = true ∨ (formatJ.functions m).isSome = true ∨
    (formatM.functions m).isSome = true ∨
    (formatV.functions m).isSome = true ∨ (formatVM.functions m).isSome = true ∨ (formatA.functions m).isSome = true ∨
    (formatX.functions m).isSome = true ∨ (formatC.functions m).isSome = true ∨ (formatY.functions m).isSome = true ∨
    m = 0xFE := by
  decide

theorem encode_of_candidate {w : Word} {i : Instr} (h : candidate w = .ok i) : encode i = some w := by
  rcases major_has_format _ (candidate_major_mem h) with hm | hm | hm | hm | hm | hm | hm | hm | hm | hm | hm | hm
  · exact formatS.encode_of_candidate hm h
  · exact formatI.encode_of_candidate hm h
  · exact formatB.encode_of_candidate hm h
  · exact formatJ.encode_of_candidate hm h
  · exact formatM.encode_of_candidate hm h
  · exact formatV.encode_of_candidate hm h
  · exact formatVM.encode_of_candidate hm h
  · exact formatA.encode_of_candidate hm h
  · exact formatX.encode_of_candidate hm h
  · exact formatC.encode_of_candidate hm h
  · exact formatY.encode_of_candidate hm h
  · exact encode_of_candidate_hint hm h

/-- What decodes is what the word names, and is well-formed. -/
theorem decodeWord_ok_iff {w : Word} {i : Instr} : decodeWord w = .ok i ↔ candidate w = .ok i ∧ wf i = true := by
  unfold decodeWord
  constructor
  · intro h
    split at h
    · cases h
    · split at h
      · cases h
        exact ⟨‹_›, ‹_›⟩
      · cases h
  · rintro ⟨h, hwf⟩
    simp only [h, hwf, if_true]

/-- Settles O58: the two directions, from the laws of each format. -/
theorem decodeEncodeAgree : Obligations.DecodeEncodeAgree := by
  unfold Obligations.DecodeEncodeAgree
  refine ⟨fun i w hwf h => decodeWord_ok_iff.2 ⟨candidate_of_encode hwf h, hwf⟩, fun i w h => ?_⟩
  obtain ⟨hcand, hwf⟩ := decodeWord_ok_iff.1 h
  exact ⟨hwf, encode_of_candidate hcand⟩

/-! ## The words that the spec writes out -/

/-- Settles O60: the decoder evaluated on each word. -/
theorem wordsDecode : Obligations.WordsDecode := by
  unfold Obligations.WordsDecode
  decide

end Sys2Proof
end

section
/-!
PROOFS. Control registers (R83, R84, R86, R233): what `GETC` reads, what `SETC` stores, and what level U may not do.
-/
namespace Sys2Proof.Machine
open Sys2Proof

/-! ## A trap at level U -/

theorem toNat_cause (t : Trap) : (t.cause 0).toNat = t.code.toNat + b2n t.vec * 2 ^ 12 + b2n t.arr * 2 ^ 13 := by
  have hcode := t.code.isLt
  have hbit (b : Bool) : b2n b ≤ 1 := by cases b <;> decide
  have hvec := hbit t.vec
  have harr := hbit t.arr
  rw [Trap.cause, wd, BitVec.toNat_ofNat, Nat.mod_eq_of_lt (by omega), Nat.zero_mul, Nat.add_zero]

theorem entersHandler_of_me {c : Cause} {t : Trap} {epc : Word} {s u : State} (hc : t.code = c.code)
    (hme : u.me = { s.me with
      cause := t.cause 0, tval := t.tval, epc := epc, epr := t.epr, level := .s,
      pc := (s.ctx (s.asidOf s.cur)).sentry, wait := none, strip := false, resumed := false })
    (ho : OnlyHart s u) : EntersHandler c t.vec t.arr t.tval epc t.epr s u := by
  unfold EntersHandler
  rw [hme]
  exact ⟨rfl, rfl, hc ▸ toNat_cause t, rfl, rfl, rfl, rfl, rfl, rfl, rfl, ho⟩

theorem me_enterHandler (t : Trap) (s : State) : (enterHandler s.cur t s).me = { s.me with
    cause := t.cause 0, tval := t.tval, epc := if t.past then s.me.pc + 8 else s.me.pc, epr := t.epr, level := .s,
    pc := (s.ctx (s.asidOf s.cur)).sentry, wait := none, strip := false, resumed := false } :=
  State.hart_setHart_same s s.cur _

theorem onlyHart_enterHandler (t : Trap) (s : State) : OnlyHart s (enterHandler s.cur t s) := onlyHart_setMe s _

/-- Entering the S runtime with a trap (R226 to R228). -/
theorem entersHandler_enterHandler {c : Cause} {t : Trap} (hc : t.code = c.code) (s : State) :
    EntersHandler c t.vec t.arr t.tval (if t.past then s.me.pc + 8 else s.me.pc) t.epr s (enterHandler s.cur t s) :=
  entersHandler_of_me hc (me_enterHandler t s) (onlyHart_enterHandler t s)

theorem trapsScalar_takeTrap {s : State} (hu : s.me.level = .u) (c : Cause) (tval : Word) :
    TrapsScalar c tval s (takeTrap (Trap.scalar c tval) s) := by
  rw [takeTrap_at_u _ _ hu]
  exact entersHandler_enterHandler rfl s

/-- ILLEGAL for what the instruction's level may not do has the instruction's word in `tval` (R89). -/
theorem trapsScalar_illegal {s : State} (hu : s.me.level = .u) {i : Instr} {w : Word} (h : encode i = some w) :
    TrapsScalar .illegal w s (takeTrap (Trap.scalar .illegal (wordOf i)) s) := by
  rw [wordOf, h]
  exact trapsScalar_takeTrap hu .illegal w

/-! ## GETC -/

theorem exec_getc_of_crRead {f : FmtY} {s : State} {v : Word} (hs : s.me.steps = false) (h : crRead s f.cn.toNat = some v) :
    ∃ t, exec (.getc f) s = .next t ∧ Writes f.sd v (s.me.pc + 8) s t :=
  ⟨writeSd f.sd v s, by simp only [exec, execGetc, h, writeSd], writeSd_spec f.sd v s hs⟩

theorem exec_getc_of_none {f : FmtY} {s : State} (h : crRead s f.cn.toNat = none) :
    exec (.getc f) s = .next (takeTrap (Trap.scalar .illegal (wordOf (.getc f))) s) := by
  simp only [exec, execGetc, h]

/-- Level U reads no control register outside its list (R83). -/
theorem crRead_at_u_eq_none {s : State} {cn : Nat} (hu : s.me.level = .u)
    (h : cn ∉ [0, 1, 2, 3, 4, 5, 6, 8, 9, 10, 11, 0x10, 0x11, 0x12, 0x18, 0x19, 0x30, 0x31, 0x32, 0x33]) :
    crRead s cn = none := by
  have hsup : decide (s.me.level = .s) = false := by rw [hu]; rfl
  unfold crRead
  split
  case h_17 | h_18 | h_19 => simp [hsup]
  case h_24 => rfl
  all_goals simp at h

/-- Settles O6: each register by its arm of `crRead`. -/
theorem controlRegisterReads : Obligations.ControlRegisterReads := by
  unfold Obligations.ControlRegisterReads
  intro f s hs
  have reads (l : List (Nat × Word)) (hl : ∀ p ∈ l, crRead s p.1 = some p.2) :
      ∀ p ∈ l, f.cn.toNat = p.1 → ∃ t, exec (.getc f) s = .next t ∧ Writes f.sd p.2 (s.me.pc + 8) s t :=
    fun p hp hcn => exec_getc_of_crRead hs (hcn ▸ hl p hp)
  refine ⟨reads _ ?both, fun hu => reads _ ?user, fun hsup => reads _ ?runtime⟩
  case both => simp [crRead, State.myCore]
  case user => simp [crRead, hu]
  case runtime => simp [crRead, hsup]

/-! ## SETC -/

theorem exec_setc_of_none {f : FmtY} {s : State} (h : crWrite s.me f.cn.toNat (s.sr f.sa) = none) :
    exec (.setc f) s = .next (takeTrap (Trap.scalar .illegal (wordOf (.setc f))) s) := by
  simp only [exec, execSetc, h]

/-- A control register written leaves the pc, the level and the debug registers. -/
theorem crWrite_keeps {h x : Hart} {cn : Nat} {v : Word} (hx : crWrite h cn v = some x) :
    x.pc = h.pc ∧ x.steps = h.steps := by
  unfold crWrite at hx
  split at hx
  case h_20 => cases hx
  all_goals simp only [Option.ite_none_right_eq_some, Option.some.injEq] at hx
  -- the registers that only level S writes
  case h_1 | h_2 | h_3 | h_5 | h_17 | h_18 | h_19 =>
    obtain ⟨-, rfl⟩ := hx
    exact ⟨rfl, by simp only [Hart.steps]⟩
  all_goals subst hx; exact ⟨rfl, by simp only [Hart.steps]⟩

theorem exec_setc_of_crWrite {f : FmtY} {s : State} {x : Hart} (hs : s.me.steps = false)
    (h : crWrite s.me f.cn.toNat (s.sr f.sa) = some x) :
    exec (.setc f) s = .next (s.setMe { x with pc := s.me.pc + 8, wait := none }) := by
  obtain ⟨hpc, hsteps⟩ := crWrite_keeps h
  have hx : (s.setMe x).me.steps = false := by rw [State.me_setMe, hsteps, hs]
  simp only [exec, execSetc, h]
  rw [retire_of_not_steps _ hx, State.me_setMe, State.setMe_setMe, hpc]
  rfl

theorem crWrite_at_u_eq_none {h : Hart} {cn : Nat} (hu : h.level = .u) (v : Word)
    (hcn : cn ∉ [3, 5, 6, 8, 9, 10, 11, 0x10, 0x11, 0x12, 0x18, 0x19]) : crWrite h cn v = none := by
  unfold crWrite
  split
  all_goals simp [hu] at hcn ⊢

/-! ### Values stored under a register's own rule -/

theorem stored_rowcnt (v : Word) :
    BitVec.ofNat 4 (min (fld v 0 4) 8) = if 8 < v.toNat % 16 then 8 else v.setWidth 4 := by
  rw [fld_from_zero]
  split
  · rw [Nat.min_eq_right (by omega)]
    rfl
  · rw [Nat.min_eq_left (by omega)]
    exact BitVec.eq_of_toNat_eq (by simp)

theorem stored_vl (v : Word) :
    BitVec.ofNat 15 (min (fld v 0 15) 16384) = if 16384 < v.toNat % 2 ^ 15 then 16384 else v.setWidth 15 := by
  rw [fld_from_zero]
  split
  · rw [Nat.min_eq_right (by omega)]
    rfl
  · rw [Nat.min_eq_left (by omega)]
    exact BitVec.eq_of_toNat_eq (by simp)

theorem stored_frm (v : Word) : (if fld v 0 3 = 0 ∨ fld v 0 3 = 7 then 1 else BitVec.ofNat 3 (fld v 0 3)) =
    if v.toNat % 8 = 0 ∨ v.toNat % 8 = 7 then 1 else v.setWidth 3 := by
  rw [fld_from_zero]
  exact ite_congr rfl (fun _ => rfl) fun _ => BitVec.eq_of_toNat_eq (by simp)

theorem storedShape_eq (v : Word) : storedShape v =
    BitVec.ofNat 64 (v.toNat / 2 ^ 32 % 16 * 2 ^ 32 + v.toNat / 2 ^ 16 % 2 ^ 16 / 8 * 8 * 2 ^ 16
        + min (v.toNat / 2 ^ 8 % 256) 128 * 2 ^ 8 + min (v.toNat % 256) 128) := by
  simp [storedShape, wd, fld, nbits]

theorem stored_epc (v : Word) : wd (v.toNat / 8 * 8) = v &&& 0xFFFFFFFFFFFFFFF8 := by
  have h := wd_fld_mul v 3 61
  rwa [fld, nbits, Nat.mod_eq_of_lt (by omega)] at h

/-- Settles O7: each register by its arm of `crWrite`, with the value that its rule stores. -/
theorem controlRegisterWrites : Obligations.ControlRegisterWrites := by
  unfold Obligations.ControlRegisterWrites
  intro f s hs
  have writes (l : List (Nat × Hart)) (hl : ∀ p ∈ l, crWrite s.me p.1 (s.sr f.sa) = some p.2) :
      ∀ p ∈ l, f.cn.toNat = p.1 → exec (.setc f) s = .next (s.setMe { p.2 with pc := s.me.pc + 8, wait := none }) :=
    fun p hp hcn => exec_setc_of_crWrite hs (hcn ▸ hl p hp)
  refine ⟨writes _ ?both, fun hsup => writes _ ?runtime⟩
  case both => simp only [List.forall_mem_cons, crWrite, stored_rowcnt, stored_frm, BitVec.ofNat_toNat]; simp
  case runtime => simp [crWrite, hsup, stored_vl, storedShape_eq, stored_epc]

/-! ## What level U may not do -/

/-- Settles O5: each takes the one trap for it, with the instruction's word. -/
theorem privilege : Obligations.Privilege := by
  unfold Obligations.Privilege
  intro f s hu
  refine ⟨⟨_, ?tret, fun w h => trapsScalar_illegal hu h⟩, ⟨_, ?tlbi, fun w h => trapsScalar_illegal hu h⟩,
    ⟨_, ?pmig, fun w h => trapsScalar_illegal hu h⟩,
    fun hcn => ⟨_, exec_getc_of_none (crRead_at_u_eq_none hu hcn), fun w h => trapsScalar_illegal hu h⟩,
    fun hcn => ⟨_, exec_setc_of_none (crWrite_at_u_eq_none hu _ hcn), fun w h => trapsScalar_illegal hu h⟩⟩
  case tret => simp only [exec, execTret, hu, if_true]
  case tlbi => simp only [exec, execTlbi, hu, if_true]
  case pmig => simp only [exec, execPmig, hu, if_true]

end Sys2Proof.Machine
end

section
/-!
PROOFS. A step (R66, R87, R230): every instruction answers a next state, what a fetch that translates gives, which
events may act, and from these what `step` runs.
-/
namespace Sys2Proof.Machine
open Sys2Proof

/-! ## Every instruction answers a next state -/

theorem exec_answers (i : Instr) (s : State) : ∃ t, exec i s = .next t := by
  cases i with
  | cwaitRecheck h =>
    simp only [exec, execCwaitRecheck]
    split <;> exact ⟨_, rfl⟩
  | evwaitWake h =>
    simp only [exec, execEvwaitWake]
    split <;> exact ⟨_, rfl⟩
  | _ => exact ⟨_, rfl⟩

theorem stepHart_answers (s : State) : ∃ t, stepHart s = .next t := by
  unfold stepHart
  split
  · split
    · exact exec_answers _ _
    · split
      · exact ⟨_, rfl⟩
      · split
        · exact ⟨_, rfl⟩
        · exact exec_answers _ _
  · exact ⟨_, rfl⟩

/-- The one way in which a step answers no next state (R239). -/
theorem step_answers (s : State) : (s.fatal = true ∧ s.agenda = [] ∧ step s = .fault .fatalStop) ∨
    (¬ (s.fatal = true ∧ s.agenda = []) ∧ ∃ t, step s = .next t) := by
  unfold step
  split
  case h_1 i rest hag =>
    refine .inr ⟨by simp [hag], ?_⟩
    split
    · exact exec_answers _ _
    · exact ⟨_, rfl⟩
  case h_2 h rest hag | h_3 h rest hag =>
    refine .inr ⟨by simp [hag], ?_⟩
    split
    · exact ⟨_, rfl⟩
    · exact stepHart_answers _
  case h_4 hag =>
    split
    · next hf => exact .inl ⟨hf, hag, rfl⟩
    · next hf => exact .inr ⟨fun h => hf h.1, stepHart_answers _⟩

/-! ## Fetching -/

/-- An access that lies within one line is one piece. -/
theorem piecesOf_within_line {va n : Nat} (h0 : 0 < n) (h : va % 64 + n ≤ 64) : piecesOf va n = [(va, n)] := by
  have hmin : min n (64 - va % 64) = n := by omega
  rw [piecesOf, linePieces, if_neg (by omega), hmin]
  simp only [Nat.sub_self]
  rw [linePieces.eq_def]
  split <;> simp

theorem translateAll_single {w : Who} {acc : Access} {va n : Nat} {s s1 : State} {p : Place}
    (h : translate w acc va n s = (s1, .ok p)) : translateAll w acc [(va, n)] s = (s1, .ok [p]) := by
  unfold translate at h
  split at h
  · cases h
  · next hl =>
    simp only [translateAll, lookUpAll, hl, List.zip_cons_cons, List.zip_nil_right, grantedAll, h]

theorem placeOf_length {w : Who} {acc : Access} {va n : Nat} {l : Leaf} {s s1 : State} {p : Place}
    (h : placeOf w acc va n l s = (s1, .ok p)) : p.n = n := by
  dsimp only [placeOf] at h
  split at h
  · cases h
  · split at h
    · cases h
    · split at h
      · cases h
        rfl
      · split at h
        · cases h
        · split at h
          · cases h
          · cases h
            rfl

theorem translate_length {w : Who} {acc : Access} {va n : Nat} {s s1 : State} {p : Place}
    (h : translate w acc va n s = (s1, .ok p)) : p.n = n := by
  unfold translate granted at h
  split at h
  · cases h
  · split at h
    · exact placeOf_length h
    · cases h

theorem vread_within_line {w : Who} {acc : Access} {va n : Nat} {s s1 s2 : State} {p : Place} (h0 : 0 < n)
    (hn : va % 64 + n ≤ 64) (h : translate w acc va n s = (s1, .ok p)) (hfar : p.far = false)
    (hp : placeFault p s1 = (s2, none)) :
    vread w acc va n s = (countPlaces w [p] s2, .ok (readLoc s2 p.loc n)) := by
  rw [vread, piecesOf_within_line h0 hn, translateAll_single h]
  simp [hfar, placesFault, hp, firstFault, translate_length h]

theorem fetch_of_translate {s s1 s2 : State} {p : Place} (hpc : s.me.pc.toNat % 8 = 0)
    (h : translate (hartWho s s.cur) .fetch s.me.pc.toNat 8 s = (s1, .ok p)) (hfar : p.far = false)
    (hp : placeFault p s1 = (s2, none)) :
    fetch s = (countPlaces (hartWho s s.cur) [p] s2, .ok (wd (leNat (readLoc s2 p.loc 8)))) := by
  rw [fetch, vread_within_line (by decide) (by omega) h hfar hp]

@[simp] theorem readLoc_length (s : State) (l : Loc) (n : Nat) : (readLoc s l n).length = n := by
  cases l <;> exact bsRead_length ..

/-- The byte at a place of a little-endian number. -/
theorem leNat_byte (l : List Byte) (k : Nat) : leNat l / 2 ^ (8 * k) % 2 ^ 8 = (l.getD k 0).toNat := by
  induction l generalizing k with
  | nil => simp [leNat]
  | cons b l ih =>
    have hb := b.isLt
    cases k with
    | zero => simp only [leNat, List.getD_cons_zero]; omega
    | succ k =>
      rw [List.getD_cons_succ, ← ih k, leNat, Nat.mul_succ, Nat.add_comm (8 * k), Nat.pow_add, ← Nat.div_div_eq_div_mul]
      congr 2
      omega

/-- Whether a word is one of a vector or array instruction stands in its highest byte (R67, R230). -/
theorem resumes_iff {bytes : List Byte} (h : bytes.length = 8) : resumes (wd (leNat bytes)) = true ↔
    let major := (bytes.getD 7 0).toNat
    (0x40 ≤ major ∧ major ≤ 0x47) ∨ (0x60 ≤ major ∧ major ≤ 0x63) ∨ (0x70 ≤ major ∧ major ≤ 0x75) := by
  have hlt := leNat_lt bytes
  rw [h] at hlt
  have hmajor : fld (wd (leNat bytes)) 56 8 = (bytes.getD 7 0).toNat := by
    rw [← leNat_byte, fld, nbits, wd, BitVec.toNat_ofNat, Nat.mod_eq_of_lt hlt]
  rw [resumes, hmajor, decide_eq_true_iff]

/-! ## Events -/

/-- The events that act whatever has stopped the device: its resets, and the host's memory accesses (R437, R444). -/
def AlwaysActs (i : Instr) : Prop :=
  i = .devrst ∨ (∃ v, i = .registerWrite 0 8 v ∧ v.getLsbD 0 = true) ∨ ∃ pa rq, i = .hostMemoryAccess pa rq

/-- A write of a register of BAR0 that takes no command (log 37). -/
def WritesConfig (i : Instr) : Prop := ∃ off v, i = .registerWrite 0 off v ∧
  off ∈ [0x1000, 0x1010, 0x1020, 0x1040, 0x1048, 0x1058, 0x1060, 0x1068, 0x1080, 0x1090, 0x1098, 0x10A0]

theorem storesOnly_iff (off : Nat) : storesOnly off = true ↔
    off ∈ [0x1000, 0x1010, 0x1020, 0x1040, 0x1048, 0x1058, 0x1060, 0x1068, 0x1080, 0x1090, 0x1098, 0x10A0] :=
  List.contains_iff_mem

/-- Which events the agenda may run. -/
theorem eventMayAct_iff (s : State) (i : Instr) : eventMayAct s i = true ↔
    (s.fatal = false ∧ s.regs.boot ≠ 2) ∨ AlwaysActs i ∨ (s.regs.boot ≠ 2 ∧ WritesConfig i) := by
  unfold eventMayAct
  rw [Bool.or_eq_true, Bool.and_eq_true, Bool.not_eq_true', decide_eq_true_iff]
  refine or_congr_right ?_
  split
  case h_1 => simp [AlwaysActs]
  case h_2 bar off v =>
    rw [Bool.and_eq_true, Bool.or_eq_true, Bool.and_eq_true, Bool.and_eq_true, storesOnly_iff, decide_eq_true_iff,
      decide_eq_true_iff, decide_eq_true_iff]
    constructor
    · rintro ⟨rfl, ⟨rfl, hv⟩ | ⟨hb, hoff⟩⟩
      · exact .inl (.inr (.inl ⟨v, rfl, hv⟩))
      · exact .inr ⟨hb, off, v, rfl, hoff⟩
    · rintro ((h | ⟨_, ⟨⟩, hv⟩ | ⟨_, _, h⟩) | ⟨hb, _, _, ⟨⟩, hoff⟩)
      · cases h
      · exact ⟨rfl, .inl ⟨rfl, hv⟩⟩
      · cases h
      · exact ⟨rfl, .inr ⟨hb, hoff⟩⟩
  case h_3 pa rq => simp [AlwaysActs]
  case h_4 hrst hwrite hhost =>
    constructor
    · nofun
    · rintro ((h | ⟨_, h, -⟩ | ⟨_, _, h⟩) | ⟨-, _, _, h, -⟩)
      · exact (hrst h).elim
      · exact (hwrite _ _ _ h).elim
      · exact (hhost _ _ h).elim
      · exact (hwrite _ _ _ h).elim

theorem step_event {s : State} {i : Instr} {rest : List Turn} (h : s.agenda = .event i :: rest) :
    step s = if eventMayAct s i then exec i { s with agenda := rest, clock := s.clock + 1 }
      else .next { s with agenda := rest, clock := s.clock + 1 } := by
  rw [step, h]
  rfl

theorem step_hart {s : State} {turn : Turn} {j : Nat} {rest : List Turn} (ht : turn = .hart j ∨ turn = .back j)
    (h : s.agenda = turn :: rest) :
    step s = if s.fatal then .next { s with agenda := rest, clock := s.clock + 1 }
      else stepHart { s with agenda := rest, clock := s.clock + 1, cur := j } := by
  rw [step, h]
  obtain rfl | rfl := ht <;> rfl

/-! ## One instruction of a hart -/

theorem step_of_no_turn {s : State} (hag : s.agenda = []) (hf : s.fatal = false) :
    step s = stepHart { s with clock := s.clock + 1 } := by
  show step s = stepHart (tick s)
  simp only [step, hag, hf, Bool.false_eq_true, if_false]

theorem stepHart_of_not_runnable {s : State} (h : runnable s s.cur = false) : stepHart s = .next s := by
  rw [stepHart, h]
  rfl

theorem stepHart_of_wait {s : State} {w : Wait} (hr : runnable s s.cur = true) (hw : s.me.wait = some w) :
    stepHart s = exec w.instr s := by
  simp only [stepHart, hr, if_true, hw]

theorem stepHart_of_fetch {s v : State} {w : Word} (hr : runnable s s.cur = true) (hw : s.me.wait = none)
    (hfetch : fetch s = (v, .ok w)) :
    (∀ i, decodeWord w = .ok i → stepHart s = exec i (startWord w v)) ∧
    (∀ r, decodeWord w = .error r → stepHart s = .next (takeTrap (Trap.scalar .illegal w) (startWord w v))) := by
  constructor
  · intro i h
    simp only [stepHart, hr, if_true, hw, hfetch, h]
  · intro r h
    simp only [stepHart, hr, if_true, hw, hfetch, h]

/-- Settles O59: a fetch that translates gives the word, an event acts as `eventMayAct` says, and no instruction answers a
fault or a refusal. -/
theorem stepRunsDecoded : Obligations.StepRunsDecoded := by
  unfold Obligations.StepRunsDecoded
  refine ⟨fun s0 s1 s2 p hag hf hr => ⟨fun w hw => (step_of_no_turn hag hf).trans (stepHart_of_wait hr hw), ?fetched⟩,
    fun s i rest h => ⟨fun hact => ?acts, fun hheld halways hstores => ?ignored⟩,
    fun s j rest turn ht h => ⟨fun hf => ?turn, fun hf => ?stopped⟩, fun s => stepHart_of_not_runnable, fun s => ?fault,
    fun s r h => ?refused⟩
  case fetched =>
    intro hw hpc ht hfar hp v bytes major vector u
    have hfetch := fetch_of_translate hpc ht hfar hp
    obtain ⟨hrun, htrap⟩ := stepHart_of_fetch hr hw hfetch
    have hvec : resumes (wd (leNat bytes)) = true ↔ vector := resumes_iff (readLoc_length ..)
    have hstart : startWord (wd (leNat bytes)) v = u := by
      simp only [startWord, u, State.modMe, hvec]
    rw [hstart] at hrun htrap
    rw [step_of_no_turn hag hf]
    refine ⟨fun i h => ⟨(decodeWord_ok_iff.1 h).2, hrun i h⟩, fun r h hu => ⟨_, htrap r h, trapsScalar_takeTrap hu _ _⟩⟩
  case acts => rw [step_event h, if_pos ((eventMayAct_iff s i).2 hact)]
  case ignored =>
    rw [step_event h, if_neg]
    rw [eventMayAct_iff]
    rintro (⟨hf, hb⟩ | hi | hi)
    · exact hheld.elim (fun h => by rw [hf] at h; cases h) hb
    · exact halways hi
    · exact hstores hi
  case turn => rw [step_hart ht h, hf]; rfl
  case stopped => rw [step_hart ht h, hf]; rfl
  case fault =>
    obtain ⟨hf, hag, h⟩ | ⟨hn, t, h⟩ := step_answers s
    · exact ⟨fun _ => ⟨hf, hag⟩, fun _ => ⟨_, h⟩⟩
    · exact ⟨fun ⟨e, he⟩ => (nomatch h.symm.trans he), fun hs => absurd hs hn⟩
  case refused =>
    obtain ⟨-, -, he⟩ | ⟨-, t, he⟩ := step_answers s <;> exact nomatch he.symm.trans h

end Sys2Proof.Machine
end

section
/-!
PROOFS. Waiting, yielding, doing nothing, a single step, and ordering (R87, R103, R221, R222, R235, R237, R344, R419).
-/
namespace Sys2Proof.Machine
open Sys2Proof

/-! ## Groups of harts -/

theorem State.group?_of_groupOf {s : State} {h g : Nat} {x : Group} (hg : s.groupOf h = some (g, x)) :
    s.group? g = some x := by
  unfold State.groupOf at hg
  split at hg
  · obtain ⟨y, hy, he⟩ := Option.map_eq_some_iff.1 hg
    cases he
    exact hy
  · cases hg

theorem State.groupOf_setMe {s : State} {x : Hart} (hx : x.group = s.me.group) :
    (s.setMe x).groupOf s.cur = s.groupOf s.cur := by
  have hg : ((s.setMe x).hart s.cur).group = (s.hart s.cur).group := (congrArg Hart.group (State.me_setMe s x)).trans hx
  unfold State.groupOf
  rw [hg]
  rfl

theorem State.asidOf_setMe {s : State} {x : Hart} (hx : x.group = s.me.group) :
    (s.setMe x).asidOf s.cur = s.asidOf s.cur := by
  rw [State.asidOf, State.groupOf_setMe hx, State.asidOf]

/-- The end of a wait changes groups alone, and of them the hart's where it was WAITING (R215). -/
theorem endWaitOf_spec (h : Nat) (s : State) : ∃ gs, endWaitOf h s = { s with groups := gs } ∧
    ∀ g, smGet? gs g = if (s.groupOf h).map Prod.fst = some g then
      (s.group? g).map fun x => if x.st = .waiting then { x with st := .running } else x else s.group? g := by
  unfold endWaitOf
  split
  · next g x hg =>
    have hx := State.group?_of_groupOf hg
    split
    · next hw =>
      refine ⟨_, rfl, fun j => ?_⟩
      rw [smGet?_smPut, hg]
      by_cases hj : j = g
      · simp [hj, hx, hw]
      · simp [hj, Ne.symm hj, State.group?]
    · next hw =>
      refine ⟨_, rfl, fun j => ?_⟩
      rw [hg]
      by_cases hj : g = j
      · rw [← hj, hx, Option.map_some, if_pos rfl, Option.map_some, if_neg hw]
        exact hx
      · simp [hj, State.group?]
  · next hg => exact ⟨_, rfl, fun j => by simp [hg, State.group?]⟩

/-- An instruction that ends its hart's wait, writes SD and completes. -/
theorem writes_endWait (sd : BitVec 6) (v : Word) (s : State) (hs : s.me.steps = false) :
    Writes sd v (s.me.pc + 8) s { retire (endWait (s.setSr sd v)) with groups := s.groups } ∧
    GroupRuns s (retire (endWait (s.setSr sd v))) := by
  obtain ⟨gs, he, hgs⟩ := endWaitOf_spec s.cur (s.setSr sd v)
  have hsr : (s.setSr sd v).me.steps = false := by simpa using hs
  have hw : writeSd sd v s = (s.setSr sd v).setMe _ := retire_of_not_steps _ hsr
  have ht : retire (endWait (s.setSr sd v)) = { writeSd sd v s with groups := gs } := by
    rw [hw, show endWait (s.setSr sd v) = _ from he]
    exact retire_of_not_steps _ hsr
  have hg : (s.setSr sd v).groupOf s.cur = s.groupOf s.cur := State.groupOf_setMe (Hart.set_group ..)
  rw [ht]
  refine ⟨?_, fun g => ?_⟩
  · have h := writeSd_spec sd v s hs
    rw [hw] at h ⊢
    exact h
  · rw [hg] at hgs
    exact hgs g

/-! ## Waiting -/

theorem meetPreempt_of_no_request {g : Nat} {s : State} (h : ∀ x, s.group? g = some x → x.pre = false) :
    meetPreempt g s = s := by
  unfold meetPreempt
  split
  · rfl
  · next x hx => rw [if_neg (by simp [h x hx])]

theorem waits_of_groups {w : Wait} {s : State} {gs : Sparse Group} (h : ∀ g, smGet? gs g = s.group? g ∨
      (s.groupOf s.cur).map Prod.fst = some g ∧ smGet? gs g = (s.group? g).map fun x => { x with st := .waiting }) :
    Waits w s { s.setMe { s.me with wait := some w } with groups := gs } :=
  ⟨State.me_setMe s _, onlyHart_setMe s _, h⟩

/-- A hart that waits where no pre-emption is requested (R215). -/
theorem waits_waitAt (w : Wait) {s : State} (hp : NoPreempt s) : Waits w s (waitAt w s) := by
  have hg : (s.setMe { s.me with wait := some w }).groupOf s.cur = s.groupOf s.cur := State.groupOf_setMe rfl
  unfold waitAt
  dsimp only
  split
  · exact waits_of_groups (gs := s.groups) fun g => .inl rfl
  · next g x hgx =>
    replace hgx : s.groupOf s.cur = some (g, x) := hg.symm.trans hgx
    have hx : smGet? s.groups g = some x := State.group?_of_groupOf hgx
    have hpre : x.pre = false := hp g x hgx
    split
    · rw [meetPreempt_of_no_request fun y hy => by
        rw [State.group?, State.setGroup_groups, smGet?_smPut, if_pos rfl] at hy
        cases hy
        exact hpre]
      refine waits_of_groups fun j => ?_
      rw [smGet?_smPut]
      by_cases hj : j = g
      · exact .inr ⟨by rw [hgx, hj]; rfl, by rw [if_pos hj, hj, State.group?, hx]; rfl⟩
      · exact .inl (if_neg hj)
    · rw [meetPreempt_of_no_request fun y hy => by
        cases hx.symm.trans hy
        exact hpre]
      exact waits_of_groups (gs := s.groups) fun g => .inl rfl

/-! ## Nothing to do -/

/-- The one word of `NOP` (R87, R235): the other words of its major and FN are none. -/
theorem decodeWord_nop {w : Word} {i : Instr} (hw : w.toNat / 2 ^ 48 = 0xF009) (h : decodeWord w = .ok i) :
    w = 0xF009000000000000 := by
  obtain ⟨hcand, hwf⟩ := decodeWord_ok_iff.1 h
  have henc := encode_of_candidate hcand
  rw [formatY.candidate_eq w (ne_zero_of_candidate hcand) (0xF0, majorF0) (by simp [formatY]) (by omega)] at hcand
  obtain ⟨mk, hmk, -, rfl⟩ := byFn_ok hcand
  rw [show formatY.fn w = 9 from (by simp only [formatY]; omega)] at hmk
  cases hmk
  obtain ⟨hsd, hsa, hsb, hscope, hcn, himm⟩ := of_decide_eq_true hwf
  have hpack := Option.some.inj henc
  rw [← hpack, packY, hsd, hsa, hsb, hscope, hcn, himm]
  rfl

/-! ## Yielding -/

theorem readyHarts_eq {s : State} (hb : s.regs.boot ≠ 2) :
    readyHarts s = ([0, 1, 2, 3].map fun i => 4 * (s.cur / 4) + i).filter fun h =>
      decide (h ≠ s.cur) && (s.hart h).wait.isNone && runnable s h && !(s.agenda.contains (.back h)) := by
  refine List.filter_congr fun h _ => ?_
  unfold runnable
  simp only [hb, ne_eq, not_false_eq_true, decide_true, Bool.true_and]
  ac_rfl

/-! ## A single step -/

/-- The STEP trap after an instruction that changes nothing but the pc. -/
theorem entersHandler_retire {s : State} (hu : s.me.level = .u) (hepr : s.me.epr = 0) (hs : s.me.steps = true) :
    EntersHandler .step false false (Config.unstated s.fresh) (s.me.pc + 8) 0 s { retire s with fresh := s.fresh } := by
  let s1 := s.setMe (s.me.goTo (s.me.pc + 8))
  let t := Trap.scalar .step (Config.unstated s.fresh)
  have hme : s1.me = s.me.goTo (s.me.pc + 8) := State.me_setMe s _
  have hlevel : s1.me.level = .u := hme ▸ hu
  have hepr1 : (s1.hart s1.cur).epr = 0 := (congrArg Hart.epr hme).trans hepr
  have hstep : { retire s with fresh := s.fresh } = enterHandler s1.cur t s1 := by
    show ({ stepAfter false false s.me s1 with fresh := s.fresh } : State) = _
    rw [stepAfter, hs, hlevel]
    show ({ takeStep s1.cur false false s1 with fresh := s.fresh } : State) = _
    rw [takeStep, hepr1]
    rfl
  have hasid : s1.asidOf s1.cur = s.asidOf s.cur := State.asidOf_setMe rfl
  rw [hstep]
  refine entersHandler_of_me (t := t) rfl ?_ (onlyHart_trans (onlyHart_setMe s _) (onlyHart_enterHandler t s1))
  rw [me_enterHandler, hme, hasid]
  rfl

/-! ## Ordering -/

/-- Accepted stores of the hart that perform leave it without them (R107). -/
theorem me_settleAll (s : State) : (settleAll s.cur s).me = { s.me with pend := [] } := by
  unfold settleAll
  split
  · next h =>
    rw [← h]
    rfl
  · next l h =>
    show (((performAll (s.hart s.cur).pend s).modHart s.cur fun x => { x with pend := [] }).hart
      (performAll (s.hart s.cur).pend s).cur) = _
    rw [performAll_cur, State.modHart, State.hart_setHart_same, performAll_hart]
    rfl

section
variable {pick : Remote → Bool} {h : Nat} {s : State}

theorem remoteGate_open (hd : ∀ r ∈ (s.hart h).dropped, pick r = false)
    (hu : ∀ r ∈ (s.hart h).unacked, pick r = false) : remoteGate pick h s = none := by
  rw [remoteGate, List.find?_eq_none.2 fun r hr => by simp [hd r hr]]
  simpa using hu

theorem remoteGate_waits (hd : ∀ r ∈ (s.hart h).dropped, pick r = false)
    (hu : ∃ r ∈ (s.hart h).unacked, pick r = true) : remoteGate pick h s = some .stall := by
  rw [remoteGate, List.find?_eq_none.2 fun r hr => by simp [hd r hr]]
  simpa using hu

/-- The first dropped remote store that the gate orders traps PROT at its address (R419). -/
theorem remoteGate_dropped {l l' : List Remote} {r : Remote} (hd : (s.hart h).dropped = l ++ r :: l')
    (hl : ∀ x ∈ l, pick x = false) (hr : pick r = true) :
    remoteGate pick h s = some (.trap (Trap.scalar .prot r.va)) := by
  have hfind : (s.hart h).dropped.find? pick = some r := by
    rw [hd, List.find?_append, List.find?_eq_none.2 fun x hx => by simp [hl x hx], List.find?_cons_of_pos hr]
    rfl
  rw [remoteGate, hfind]

end

/-- A release waits for every remote store. -/
theorem releaseGate_of_dropped {s : State} {r : Remote} {l : List Remote} (hd : s.me.dropped = r :: l) :
    releaseGate s.cur s = .error (.trap (Trap.scalar .prot r.va)) := by
  rw [releaseGate, remoteGate_dropped (l := []) hd nofun rfl]

theorem releaseGate_of_unacked {s : State} (hd : s.me.dropped = []) (hu : s.me.unacked ≠ []) :
    releaseGate s.cur s = .error .stall := by
  obtain ⟨r, hr⟩ := List.exists_mem_of_ne_nil _ hu
  have hnone : ∀ x ∈ (s.hart s.cur).dropped, (fun _ => true) x = false := by
    rw [show (s.hart s.cur).dropped = [] from hd]
    nofun
  rw [releaseGate, remoteGate_waits hnone ⟨r, hr, rfl⟩]

/-- A release of a scalar access that its gate stops does not start (R339, log 49). -/
theorem exec_st_of_gate {f : FmtM} {s : State} {p : Stop} (ho : f.ord = 2) (h : releaseGate s.cur s = .error p) :
    exec (.st f) s = .next (stopAt p s) := by
  simp only [exec, execSt, beforeScalar, ho, decide_true, if_true, h]

theorem exec_amo_of_gate {f : FmtM} {s : State} {p : Stop} (ho : f.ord = 2 ∨ f.ord = 3)
    (h : releaseGate s.cur s = .error p) : exec (.amo f) s = .next (stopAt p s) := by
  have hrel : (f.ord = 2 || f.ord = 3) = true := by simpa using ho
  simp only [exec, execAmo, beforeScalar, hrel, if_true, h]

/-- The class of a `FENCE` kind (R344). -/
theorem fenceClass_eq {kind : Nat} (hk : kind < 4) (r : Remote) : fenceClass (kind % 4) r =
    decide (kind = 3 ∨ (kind = 0 ∧ r.vec = false) ∨ ((kind = 1 ∨ kind = 2) ∧ r.vec = true)) := by
  have hvec := Bool.eq_false_or_eq_true r.vec
  interval_cases kind <;> rcases hvec with h | h <;> simp [fenceClass, h]

theorem exec_fence_of_open {f : FmtM} {s : State}
    (h : remoteGate (fenceClass (f.imm.toNat % 4)) s.cur s = none) :
    exec (.fence f) s = .next (retire (if f.imm.toNat % 4 % 2 = 1 then settleAll s.cur s else s)) := by
  simp only [exec, execFence, h]

theorem exec_fence_of_stop {f : FmtM} {s : State} {p : Stop}
    (h : remoteGate (fenceClass (f.imm.toNat % 4)) s.cur s = some p) :
    exec (.fence f) s = .next (stopAt (if f.imm.toNat % 4 % 2 = 0 then p.asVector else p) s) := by
  simp only [exec, execFence, h]

theorem passes_retire_settled {s : State} (c : Prop) [Decidable c] (hs : s.me.steps = false) :
    Passes (s.me.pc + 8) (if c then settleAll s.cur s else s) (retire (if c then settleAll s.cur s else s)) := by
  split
  · have hpc : (settleAll s.cur s).me.pc = s.me.pc := by rw [me_settleAll]
    have hsettled : (settleAll s.cur s).me.steps = false := by
      rw [me_settleAll]
      exact hs
    rw [← hpc]
    exact retireTo_spec _ _ hsettled
  · exact retireTo_spec _ s hs

/-- A trap of the scalar unit, or of the vector queue. -/
theorem entersHandler_stopAt {s : State} (hu : s.me.level = .u) (c : Cause) (v : Word) (q : Prop) [Decidable q] :
    EntersHandler c (decide q) false v s.me.pc 0 s
      (stopAt (if q then (Stop.trap (Trap.scalar c v)).asVector else .trap (Trap.scalar c v)) s) := by
  split
  · next hq =>
    rw [decide_eq_true hq]
    show EntersHandler c true false v s.me.pc 0 s (takeTrap (Trap.vector c v) s)
    rw [takeTrap_at_u _ _ hu]
    exact entersHandler_enterHandler rfl s
  · next hq =>
    rw [decide_eq_false hq]
    exact trapsScalar_takeTrap hu c v

/-! ## The rules -/

theorem fenceRule : FenceRule := by
  refine ⟨?fence, fun f s r l hd hu => ?dropped, fun f s hd hu => ?unacked⟩
  case fence =>
    intro f s hk orders
    have hclass : fenceClass (f.imm.toNat % 4) = orders := funext fun r => fenceClass_eq hk r
    have hlate : (f.imm.toNat % 4 % 2 = 1) = (f.imm.toNat = 1 ∨ f.imm.toNat = 3) := propext (by omega)
    have hqueue : (f.imm.toNat % 4 % 2 = 0) = (f.imm.toNat = 0 ∨ f.imm.toNat = 2) := propext (by omega)
    refine ⟨fun hd hu hs => ?_, fun hd hu => ?_, fun l r l' hd hl hr hu => ?_⟩
    · refine ⟨_, exec_fence_of_open (by rw [hclass]; exact remoteGate_open hd hu), ?_⟩
      simp only [hlate]
      exact passes_retire_settled _ hs
    · rw [exec_fence_of_stop (by rw [hclass]; exact remoteGate_waits hd hu)]
      split <;> rfl
    · refine ⟨_, exec_fence_of_stop (by rw [hclass]; exact remoteGate_dropped hd hl hr), ?_⟩
      simp only [hqueue]
      exact entersHandler_stopAt hu .prot r.va _
  case dropped =>
    have hgate := releaseGate_of_dropped hd
    exact ⟨fun ho => ⟨_, exec_st_of_gate ho hgate, trapsScalar_takeTrap hu .prot r.va⟩,
      fun ho => ⟨_, exec_amo_of_gate ho hgate, trapsScalar_takeTrap hu .prot r.va⟩⟩
  case unacked =>
    have hgate := releaseGate_of_unacked hd hu
    exact ⟨fun ho => exec_st_of_gate ho hgate, fun ho => exec_amo_of_gate ho hgate⟩

theorem singleStepRule : SingleStepRule := by
  intro f s hu hepr hctl
  have hs : s.me.steps = true := by simpa [Hart.steps, hu] using hctl
  exact ⟨_, _, rfl, entersHandler_retire hu hepr hs⟩

theorem exec_evwait_of_event {f : FmtY} {s : State}
    (h : (s.me.ev.zeroExtend 64 : Word) &&& (s.sr f.sa ||| f.imm.zeroExtend 64) ≠ 0 ∨
      s.sr f.sa ||| f.imm.zeroExtend 64 = 0) :
    exec (.evwait f) s = .next (retire (endWait (s.setSr f.sd (s.me.ev.zeroExtend 64)))) := by
  simp only [exec, execEvwait, if_pos h]

theorem eventsAndNopsRule : EventsAndNopsRule := by
  refine ⟨?event, ?wait, ?wake, fun f s hs => ⟨_, rfl, retireTo_spec _ s hs⟩, fun w hw => ?word,
    fun b s hs => ⟨_, rfl, retireTo_spec _ s hs⟩, ?yield⟩
  case event =>
    intro f s hs m v h
    exact ⟨_, exec_evwait_of_event h, writes_endWait f.sd _ s hs⟩
  case wait =>
    intro f s hp m h0 hm
    refine ⟨_, ?_, waits_waitAt _ hp⟩
    simp only [exec, execEvwait]
    rw [if_neg (not_or.2 ⟨fun h => h h0, hm⟩)]
  case wake =>
    intro h f s hw hs m v hv
    refine ⟨_, ?_, (writes_endWait f.sd _ { s with cur := h } hs).1⟩
    simp only [exec, execEvwaitWake, hw]
    exact exec_evwait_of_event (s := { s with cur := h }) hv
  case word =>
    split
    · next h => exact ⟨⟨0, 0, 0, 0, 0, 0⟩, by rw [h]; decide⟩
    · next h =>
      cases hd : decodeWord w with
      | error r => exact ⟨r, rfl⟩
      | ok i => exact absurd (decodeWord_nop hw hd) h
  case yield =>
    intro f s hs hb ready
    have hready : readyHarts s = ready := readyHarts_eq hb
    have he : retire s = s.setMe (s.me.goTo (s.me.pc + 8)) := retire_of_not_steps s hs
    have hpass : Passes (s.me.pc + 8) s (s.setMe (s.me.goTo (s.me.pc + 8))) := he ▸ retireTo_spec _ s hs
    simp only [exec, execYield, hready, he]
    refine ⟨_, rfl, ?_⟩
    split
    · exact ⟨hpass, rfl⟩
    · exact ⟨hpass, rfl⟩

/-- Settles O12: its three rules. -/
theorem eventsAndFences : Obligations.EventsAndFences := by
  unfold Obligations.EventsAndFences
  exact ⟨eventsAndNopsRule, singleStepRule, fenceRule⟩

end Sys2Proof.Machine
end

section
/-!
PROOFS. Bit functions, comparison, selection and classification of vectors (R122 to R125).
-/
namespace Sys2Proof.Machine
open Sys2Proof

/-! ## What the entries accept (R111, R113) -/

theorem refuseAny_eq_none {bad : Tag → Bool} {tags : List Tag} (h : ∀ x ∈ tags, bad x = false) :
    refuseAny bad tags = none :=
  refuseFrom_none bad tags 0 h

theorem firstTrap_eq_none_iff {l : List (Option Trap)} : firstTrap l = none ↔ ∀ x ∈ l, x = none := by
  induction l with
  | nil => simp [firstTrap]
  | cons x l ih => cases x <;> simp [firstTrap, ih]

theorem Tag.packed_eq_false {t : Tag} (h : t.isSx = false ∧ t ≠ .kx) : t.packed = false := by
  simp [Tag.packed, h]

theorem Tag.isSx_eq_false_of_isInt {t : Tag} (h : t.isInt = true) : t.isSx = false := by
  cases t <;> simp_all [Tag.isInt, Tag.isSx, Tag.code]

theorem refuseLogic_eq_none {op : LOp} {td : Tag} {tags : List Tag}
    (hp : ∀ x ∈ td :: tags, x.isSx = false ∧ x ≠ .kx)
    (hw : op.bitwise = true → ∀ x ∈ td :: tags, x.width = (tags.headD .u8).width)
    (hi : op.bitwise = false → ∀ x ∈ tags, x.isInt = true) : refuseLogic op td tags = none := by
  refine firstTrap_eq_none_iff.2 (List.forall_mem_cons.2 ⟨?packed, List.forall_mem_singleton.2 ?kind⟩)
  case packed => exact refuseAny_eq_none fun x hx => Tag.packed_eq_false (hp x hx)
  case kind =>
    split
    · next h => exact refuseAny_eq_none fun x hx => by simpa using hw h x hx
    · next h => exact refuseFrom_none _ _ _ fun x hx => by simpa using hi (by simpa using h) x hx

/-! ## The rules -/

/-- What an elementwise instruction leaves that draws nothing and whose entry refuses nothing (R108, R117). -/
theorem exec_elementwise {i : Instr} {f : FmtV} {d : Elementwise} {s : State}
    (hi : exec i s = .next (runElementwise f d s)) (hd : d.draws = false) (fn : List (Tag × Nat) → Nat × Flags)
    (hfn : ∀ u, d.fn u = fn) (hr : d.refused = none) (hready : VecReady s (f.vd.toNat :: d.src))
    (hsx : (s.me.opTag f.ovr.toNat f.vd.toNat).isSx = false)
    (hfits : VecFits s (s.me.opTag f.ovr.toNat f.vd.toNat :: d.src.map (s.me.opTag f.ovr.toNat))) :
    ∃ t, exec i s = .next t ∧ Elementwise.result f (s.me.opTag f.ovr.toNat f.vd.toNat)
      (fun e => fn (s.me.sources f.mod.toNat f.ovr.toNat d.modAt d.src e)) s t :=
  ⟨_, hi, runElementwise_result f d fn s hd (fun u => congrFun (hfn u)) hready hr hsx hfits⟩

theorem logicOp {mk : FmtV → Instr} {op : LOp} {n : Nat} (hn : n = 1 ∨ n = 2)
    (hmk : ∀ f s, exec (mk f) s = .next (logic op n f s)) : LogicOp mk op n := by
  intro f s src td tags ta hready hfits hplain hwidth hint
  have hsrc : FmtV.sources f n = src := by rcases hn with rfl | rfl <;> rfl
  have hhead : tags.headD .u8 = ta := by rcases hn with rfl | rfl <;> rfl
  have hexec := hmk f s
  simp only [logic, hsrc] at hexec
  have h := exec_elementwise hexec rfl (fun xs => elemLogic op ta td (f.sat = 1) (xs.getD 0 (.u8, 0)).2
    (xs.getD 1 (.u8, 0)).2) (fun _ => by rw [← hhead]) (refuseLogic_eq_none hplain (by rwa [hhead]) hint) hready
    (hplain td (by simp)).1 hfits
  exact h

theorem refuseTags_eq_none {l : List Tag} (h : (∀ t ∈ l, t = .kx) ∨ ∀ t ∈ l, t ≠ .kx) :
    (if l.all fun t => t = .kx then none else refuseAny (fun t => t = .kx) l) = none := by
  split
  · rfl
  · next hall =>
    refine refuseAny_eq_none fun x hx => ?_
    rcases h with h | h
    · exact absurd (List.all_eq_true.2 fun t ht => by simpa using h t ht) hall
    · simpa using h x hx

/-- Settles O14: each instruction's entry refuses nothing here, and each is an elementwise instruction without draws. -/
theorem vectorLogicAndCompare : Obligations.VectorLogicAndCompare := by
  unfold Obligations.VectorLogicAndCompare
  refine ⟨logicOp (.inr rfl) fun _ _ => rfl, logicOp (.inr rfl) fun _ _ => rfl, logicOp (.inr rfl) fun _ _ => rfl,
    logicOp (.inl rfl) fun _ _ => rfl, logicOp (.inr rfl) fun _ _ => rfl, logicOp (.inr rfl) fun _ _ => rfl,
    logicOp (.inr rfl) fun _ _ => rfl, logicOp (.inl rfl) fun _ _ => rfl, logicOp (.inl rfl) fun _ _ => rfl,
    ?compare, ?select, ?classify⟩
  case compare =>
    intro f s t p src td tags hready hfits hint hsx hprom
    have hwork : workTag tags = t := by rw [workTag, hprom]
    have hdst := Tag.isSx_eq_false_of_isInt hint
    have hrefused : firstTrap [refuseAny Tag.isSx (td :: tags), if td.isInt then none else badTag td 0,
        match promoteAll tags with
        | .ok _ => none
        | .error (u, p) => badTag u p] = none := by
      rw [refuseAny_eq_none (List.forall_mem_cons.2 ⟨hdst, hsx⟩), hprom, if_pos hint]
      rfl
    have h := exec_elementwise (i := .vcmp f) (execVcmp.eq_1 f s) rfl
      (fun xs => elemCmp f.vc.toNat t td (s.me.rmOf 0) false (xs.getD 0 (.u8, 0)) (xs.getD 1 (.u8, 0)))
      (fun _ => by rw [← hwork]; rfl) hrefused hready hdst hfits
    exact h
  case select =>
    intro f s src tag td hready hfits hsx hkx
    have hrefused := firstTrap_eq_none_iff.2 (List.forall_mem_cons.2 ⟨refuseAny_eq_none (bad := Tag.isSx) hsx,
      List.forall_mem_singleton.2 (refuseTags_eq_none (l := td :: (src.map tag).take 2) (by simpa [src] using hkx))⟩)
    have h := exec_elementwise (i := .vsel f) (execVsel.eq_1 f s) rfl
      (fun xs =>
        let x := if (xs.getD 2 (.u8, 0)).2 = 0 then xs.getD 1 (.u8, 0) else xs.getD 0 (.u8, 0)
        convert x.1 td (s.me.rmOf f.rm.toNat) (f.sat = 1) 0 x.2)
      (fun _ => rfl) hrefused hready (hsx td (by simp)) hfits
    exact h
  case classify =>
    intro f s td ta hready hfits hint hwidth hfloat
    have hrefused : firstTrap [if td.isInt && decide (16 ≤ td.width) then none else badTag td 0,
        if ta.isFloat then none else badTag ta 1] = none := by
      rw [hint, decide_eq_true hwidth, hfloat]
      rfl
    have hplain : ta.isSx = false := by
      simp only [Tag.isFloat, decide_eq_true_eq] at hfloat
      simp only [Tag.isSx, decide_eq_false_iff_not]
      omega
    have h := exec_elementwise (i := .vclass f) (execVclass.eq_1 f s) rfl
      (fun xs => (2 ^ classBit ta (xs.getD 0 (.u8, 0)).2, 0))
      (fun _ => rfl) hrefused hready (Tag.isSx_eq_false_of_isInt hint) hfits
    exact h

end Sys2Proof.Machine
end

section
/-!
PROOFS. What a vector instruction leaves whose operands are not bound: the units that it writes, the flags that it
raises, and its frame (R55, R108, R111).
-/
namespace Sys2Proof.Machine
open Sys2Proof

/-! ## Running on the registers' own elements -/

theorem VecFits.withPos {s : State} {tags : List Tag} (h : VecFits s tags) :
    ∀ p ∈ withPos tags, s.me.len ≤ s.mvl p.1 :=
  fun _ hp => h _ (List.fst_mem_of_mem_zipIdx hp)

/-- A vector instruction whose entry refuses nothing runs on what its registers hold. With VL = 0 they deliver nothing. -/
theorem vecGo_own {ovr : Nat} {dst src : List Nat} {refused : Option Trap} {caps : List (Tag × Nat)}
    {body : List Strip → State → State} {s : State} (hready : VecReady s (dst ++ src)) (hrefused : refused = none)
    (hcaps : ∀ p ∈ caps, s.me.len ≤ s.mvl p.1) :
    vecGo ovr dst src refused caps body s = body (src.map (s.me.ownStrip ovr s.me.len)) s := by
  obtain ⟨hsteps, hkept, -, hepr, hbound⟩ := hready
  rw [hrefused, vecGo_unbound ovr dst src caps body s hkept (Hart.elemSteps_of_not_steps _ hsteps) hepr
    (fun v hv => hbound v (List.mem_append_left _ hv)) (fun v hv => hbound v (List.mem_append_right _ hv)) hcaps]
  split
  · next h0 =>
    refine congrArg (body · s) (List.map_congr_left fun v _ => ?_)
    simp [h0, Hart.ownStrip]
  · rfl

theorem stripFlags_ownStrip (h : Hart) (ovr n : Nat) (src : List Nat) : stripFlags (src.map (h.ownStrip ovr n)) = 0 := by
  unfold stripFlags
  induction src with
  | nil => rfl
  | cons v l ih => simpa [Hart.ownStrip] using ih

theorem only_ownStrip (h : Hart) (ovr n v : Nat) (l : List Strip) :
    only (h.ownStrip ovr n v :: l) =
      (List.range (if (h.opTag ovr v).isSx then (n + 15) / 16 else n)).map (h.unit v (h.opTag ovr v)) := rfl

theorem only_ownStrip_of_not_sx {h : Hart} {ovr v : Nat} (n : Nat) (l : List Strip) (hsx : (h.opTag ovr v).isSx = false) :
    only (h.ownStrip ovr n v :: l) = (List.range n).map (h.elem v (h.opTag ovr v)) := by
  rw [only_ownStrip, hsx]
  exact List.map_congr_left fun e _ => Hart.unit_elem h v _ e hsx

theorem getD_map_range {α : Type} (g : Nat → α) (d : α) {n e : Nat} (he : e < n) :
    ((List.range n).map g).getD e d = g e := by
  simp [List.getD_eq_getElem?_getD, he]

/-! ## What the instruction leaves -/

/-- The end of a step of an instruction outside single-step: it covers the positions from `epr` to VL. -/
theorem Hart.window_of_not_steps {h : Hart} (td : Tag) (hs : h.steps = false) : h.window td = (h.epr.toNat, h.len) := by
  simp [Hart.window, Hart.windowBy, Hart.elemSteps_of_not_steps h hs]

theorem VecReady.not_steps {s : State} {l : List Nat} (h : VecReady s l) : s.me.steps = false := h.1

theorem VecReady.wf {s : State} {l : List Nat} (h : VecReady s l) : s.me.vecWf :=
  have ⟨_, _, hwf, _⟩ := h
  hwf

theorem VecReady.keptNow {s : State} {l : List Nat} (h : VecReady s l) : s.me.keptNow = none :=
  have ⟨_, hkept, _⟩ := h
  hkept

/-- The instruction starts, or it is resumed below VL. -/
theorem VecReady.starts {s : State} {l : List Nat} (h : VecReady s l) : s.me.epr = 0 ∨ s.me.epr.toNat < s.me.len :=
  have ⟨_, _, _, hepr, _⟩ := h
  hepr

theorem VecReady.unbound {s : State} {l : List Nat} (h : VecReady s l) {v : Nat} (hv : v ∈ l) :
    s.me.binding? v = none :=
  have ⟨_, _, _, _, hbound⟩ := h
  hbound v hv

theorem VecReady.epr_le {s : State} {l : List Nat} (h : VecReady s l) : s.me.epr.toNat ≤ s.me.len := by
  rcases h.starts with h | h
  · simp [h]
  · exact h.le

/-- The flags of the elements of a window (R55). -/
theorem foldl_or_window (fls : List Flags) (i j b : Nat) :
    (((fls.take j).drop i).foldl (fun f x => f ||| x) 0).getLsbD b = true ↔
      ∃ e, i ≤ e ∧ e < j ∧ (fls.getD e 0).getLsbD b = true := by
  have hfold (l : List Flags) (f : Flags) : (l.foldl (fun f x => f ||| x) f).getLsbD b = true ↔
      f.getLsbD b = true ∨ ∃ x ∈ l, x.getLsbD b = true := by
    induction l generalizing f with
    | nil => simp
    | cons x l ih => simp [ih, or_assoc]
  rw [hfold]
  constructor
  · rintro (h | ⟨x, hx, hb⟩)
    · simp at h
    · obtain ⟨k, hk, rfl⟩ := List.mem_iff_getElem.1 hx
      simp only [List.length_drop, List.length_take] at hk
      refine ⟨i + k, by omega, by omega, ?_⟩
      rw [List.getD_eq_getElem _ _ (by omega)]
      simpa using hb
  · rintro ⟨e, hi, hj, hb⟩
    by_cases he : e < fls.length
    · refine .inr ⟨fls[e], List.mem_iff_getElem.2 ⟨e - i, by simp; omega, ?_⟩, ?_⟩
      · simp [show i + (e - i) = e by omega]
      · rwa [List.getD_eq_getElem _ _ he] at hb
    · simp [List.getD_eq_getElem?_getD, List.getElem?_eq_none (Nat.le_of_not_lt he)] at hb

/-- The hart after its instruction wrote units and completed, with what else the instruction changed put back. -/
theorem Hart.vecDone_id (h : Hart) (vd : Nat) (td : Tag) (i : Nat) (outs : List (Option Nat)) (fl : Flags) :
    h.vecDone vd td i outs fl id = h.vecDone vd td i outs fl fun x => { x with seed := h.seed } := by
  have hseed : (Hart.setUnits vd td i outs h).seed = h.seed :=
    (congrArg Hart.seed (Hart.setUnits_rest vd td i outs h) :)
  simp only [Hart.vecDone, id_eq, ← hseed]

theorem Hart.vecDone_fflags {h : Hart} (vd : Nat) (td : Tag) (i : Nat) (outs : List (Option Nat)) (fl : Flags) :
    (h.vecDone vd td i outs fl id).fflags = h.fflags ||| fl := by
  have hfl : (Hart.setUnits vd td i outs h).fflags = h.fflags :=
    (congrArg Hart.fflags (Hart.setUnits_rest vd td i outs h) :)
  rw [← hfl]
  rfl

section
variable {s : State} {vd i n : Nat} {td : Tag} {outs : List (Option Nat)} {fl : Flags}

/-- A unit of VD after units were written from `i` on. -/
theorem Hart.unit_vecDone {h : Hart} {fin : Hart → Hart} (hvd : vd < 64) (hw : h.vecWf)
    (hfin : ∀ x, (fin x).vreg = x.vreg) (j : Nat) :
    (h.vecDone vd td i outs fl fin).unit vd td j = if i ≤ j ∧ j < i + outs.length then
        (match outs.getD (j - i) none with | some x => x % 2 ^ (8 * td.unitBytes) | none => h.unit vd td j)
      else h.unit vd td j := by
  have hreg : (h.vecDone vd td i outs fl fin).unit vd td j = (Hart.setUnits vd td i outs h).unit vd td j := by
    rw [Hart.unit_eq, Hart.unit_eq]
    exact congrArg (fun r : Vector ByteStore 64 => bsNat (r[vd]!) _ _) (hfin _)
  rw [hreg, Hart.unit_setUnits _ _ _ _ _ _ _ hvd hw]
  exact if_congr (and_iff_right rfl) rfl rfl

theorem getD_window {α : Type} (l : List α) (d : α) {i j e : Nat} (h1 : i ≤ e) (h2 : e < j) :
    ((l.take j).drop i).getD (e - i) d = l.getD e d := by
  simp [List.getD_eq_getElem?_getD, h2, Nat.add_sub_cancel' h1]

/-- A unit of VD of a result of which the window from `i` to `j` is written. -/
theorem Hart.unit_vecDone_window {h : Hart} {j e : Nat} (hvd : vd < 64) (hw : h.vecWf) (h1 : i ≤ e) (h2 : e < j)
    (hj : j ≤ outs.length) :
    (h.vecDone vd td i ((outs.take j).drop i) fl id).unit vd td e =
      match outs.getD e none with | some x => x % 2 ^ (8 * td.unitBytes) | none => h.unit vd td e := by
  rw [Hart.unit_vecDone (fin := id) hvd hw fun _ => rfl, getD_window _ _ h1 h2, List.length_drop, List.length_take]
  exact if_pos (by omega)

theorem vecFrame_vecDone (hvd : vd < 64) (hw : s.me.vecWf) (hn : i + outs.length ≤ n) :
    VecFrame vd td n false s (s.setMe (s.me.vecDone vd td i outs fl id)) := by
  have h := vecDone_frame s vd td i n outs fl s.me.seed hvd hw hn
  rw [← Hart.vecDone_id] at h
  simpa using h

/-- An instruction that writes the elements from `epr` to VL of a register. -/
theorem vecResult_vecDone (hvd : vd < 64) (hw : s.me.vecWf) (hsx : td.isSx = false) (hepr : s.me.epr.toNat ≤ s.me.len)
    (hlen : outs.length = s.me.len - s.me.epr.toNat) :
    VecResult vd td (fun e => outs.getD (e - s.me.epr.toNat) none) (fun b => fl.getLsbD b = true) s
      (s.setMe (s.me.vecDone vd td s.me.epr.toNat outs fl id)) := by
  refine ⟨fun e he => ?_, fun b => ?_, vecFrame_vecDone hvd hw (by omega)⟩
  · rw [State.me_setMe, ← Hart.unit_elem _ _ _ _ hsx, Hart.unit_vecDone (fin := id) hvd hw fun _ => rfl]
    simp only [Hart.unit_elem _ _ _ _ hsx, ← Tag.bytes_eq_unitBytes hsx, Tag.width]
    by_cases h : e < s.me.epr.toNat
    · exact (if_neg (by omega)).trans (if_pos h).symm
    · exact (if_pos ⟨by omega, by omega⟩).trans (if_neg h).symm
  · rw [State.me_setMe, Hart.vecDone_fflags, BitVec.getLsbD_or, Bool.or_eq_true]

/-- What a result depends on: the elements from `epr` on, at the tag's width, and which flags are raised. -/
theorem VecResult.congr {t : State} {g g' : Nat → Option Nat} {r r' : Nat → Prop} (h : VecResult vd td g r s t)
    (hg : ∀ e, s.me.epr.toNat ≤ e → e < s.me.len → (g e).map (· % 2 ^ td.width) = (g' e).map (· % 2 ^ td.width))
    (hr : ∀ b, r b ↔ r' b) : VecResult vd td g' r' s t := by
  obtain ⟨helem, hflags, hframe⟩ := h
  refine ⟨fun e he => (helem e he).trans ?_, fun b => by rw [hflags b, hr b], hframe⟩
  split
  · rfl
  · next hle =>
    have hmap := hg e (by omega) he
    cases hge : g e <;> cases hge' : g' e <;> simp_all

end

/-- The units that an instruction writes where it completes. -/
theorem vecWrite_own {vd i : Nat} {td : Tag} {outs : List (Option Nat)} {acts : List Bool} {fl : Flags} {fin : Hart → Hart}
    {src : List Nat} {s : State} (hready : VecReady s (vd :: src))
    (hfin : ∀ h : Hart, (fin h).steps = h.steps ∧ (fin h).binds = h.binds ∧ (fin h).vl = h.vl) :
    vecWrite vd td i outs acts fl fin { e1 := s.me.len, src := src, strips := 0 } s =
      s.setMe (s.me.vecDone vd td i outs fl fin) :=
  vecWrite_plain vd td i outs acts fl fin src s hready.not_steps (hready.unbound (by simp))
    (fun _ hv => hready.unbound (by simp [hv])) hfin

/-- A result of which each part of the window is written where the instruction completes. -/
theorem vecWhole_own {vd : Nat} {td : Tag} {outs : List (Option Nat)} {fls : List Flags} {fin : Hart → Hart}
    {src : List Nat} {s : State} (hready : VecReady s (vd :: src))
    (hfin : ∀ h : Hart, (fin h).steps = h.steps ∧ (fin h).binds = h.binds ∧ (fin h).vl = h.vl) :
    let per := if td.isSx then 16 else 1
    let i := s.me.epr.toNat / per
    let j := (s.me.len + per - 1) / per
    vecWhole vd td outs fls 0 fin src s = s.setMe (s.me.vecDone vd td i ((outs.take j).drop i)
      (((fls.take j).drop i).foldl (fun f x => f ||| x) 0) fin) := by
  unfold vecWhole
  simp only [Hart.window_of_not_steps td hready.not_steps, if_true]
  exact vecWrite_own hready hfin

theorem vecWhole_result {vd : Nat} {td : Tag} {outs : List (Option Nat)} {fls : List Flags} {src : List Nat} {s : State}
    (hvd : vd < 64) (hready : VecReady s (vd :: src)) (hsx : td.isSx = false) (hlen : outs.length = s.me.len) :
    VecResult vd td (fun e => outs.getD e none)
      (fun b => ∃ e, s.me.epr.toNat ≤ e ∧ e < s.me.len ∧ (fls.getD e 0).getLsbD b = true) s
      (vecWhole vd td outs fls 0 id src s) := by
  rw [vecWhole_own (fin := id) hready fun _ => ⟨rfl, rfl, rfl⟩]
  simp only [hsx, Bool.false_eq_true, if_false, Nat.div_one, Nat.add_sub_cancel]
  refine (vecResult_vecDone hvd hready.wf hsx (hready.epr_le) (by simp [hlen])).congr (fun e h1 h2 => ?_)
    fun b => foldl_or_window ..
  rw [getD_window _ _ h1 h2]

end Sys2Proof.Machine
end

section
/-!
PROOFS. Cross-lane instructions (R131 to R136): each is a result computed whole from its sources.
-/
namespace Sys2Proof.Machine
open Sys2Proof

/-! ## A result computed whole -/

theorem exec_vecWhole {i : Instr} {ovr vd : Nat} {td : Tag} {src : List Nat} {refused : Option Trap}
    {caps : List (Tag × Nat)} {outs : List Strip → State → List (Option Nat)} {fls : List Strip → State → List Flags}
    {fl : List Strip → Flags} {s : State} {g : Nat → Option Nat} {r : Nat → Prop}
    (hi : exec i s = .next (vecGo ovr [vd] src refused caps
      (fun xs s => vecWhole vd td (outs xs s) (fls xs s) (fl xs) id src s) s))
    (hvd : vd < 64) (hready : VecReady s (vd :: src)) (hsx : td.isSx = false) (hrefused : refused = none)
    (hcaps : ∀ p ∈ caps, s.me.len ≤ s.mvl p.1) (hfl : fl (src.map (s.me.ownStrip ovr s.me.len)) = 0)
    (hlen : (outs (src.map (s.me.ownStrip ovr s.me.len)) s).length = s.me.len)
    (hg : ∀ e, s.me.epr.toNat ≤ e → e < s.me.len →
      ((outs (src.map (s.me.ownStrip ovr s.me.len)) s).getD e none).map (· % 2 ^ td.width) =
        (g e).map (· % 2 ^ td.width))
    (hr : ∀ b, (∃ e, s.me.epr.toNat ≤ e ∧ e < s.me.len ∧
      ((fls (src.map (s.me.ownStrip ovr s.me.len)) s).getD e 0).getLsbD b = true) ↔ r b) :
    ∃ t, exec i s = .next t ∧ VecResult vd td g r s t := by
  refine ⟨_, hi, ?_⟩
  rw [vecGo_own hready hrefused hcaps, hfl]
  exact (vecWhole_result hvd hready hsx hlen).congr hg hr

theorem noFlags (s : State) (b : Nat) : (∃ e, s.me.epr.toNat ≤ e ∧ e < s.me.len ∧
    (([] : List Flags).getD e 0).getLsbD b = true) ↔ False := by
  simp

theorem governed_length (h : Hart) (f : FmtV) (g : Nat → Option Nat) : (governed h f g).length = h.len := by
  simp [governed]

/-- What each element below VL receives under the mask (R108). -/
theorem getD_governed {s : State} {f : FmtV} {g g' : Nat → Option Nat} {e : Nat} (he : e < s.me.len)
    (hg : g e = g' e) : (governed s.me f g).getD e none = masked f s g' e := by
  rw [governed, getD_map_range _ _ he, masked, hg]

theorem getD_raised {h : Hart} {msk e : Nat} {g : Nat → Flags} (he : e < h.len) :
    (h.raised msk g).getD e 0 = if h.active msk e then g e else 0 :=
  getD_map_range _ _ he

theorem mem_activeBelow {s : State} {msk n e : Nat} : e ∈ activeBelow s msk n ↔ e < n ∧ s.me.active msk e = true := by
  simp [activeBelow]

/-- The flags of the active elements of a window (R55). -/
theorem raised_window {s : State} {msk : Nat} {g g' : Nat → Flags} (hg : ∀ e, e < s.me.len → g e = g' e) (b : Nat) :
    (∃ e, s.me.epr.toNat ≤ e ∧ e < s.me.len ∧ ((s.me.raised msk g).getD e 0).getLsbD b = true) ↔
      ∃ e ∈ activeBelow s msk s.me.len, s.me.epr.toNat ≤ e ∧ (g' e).getLsbD b = true := by
  refine exists_congr fun e => ?_
  rw [mem_activeBelow]
  constructor
  · rintro ⟨h1, h2, h3⟩
    rw [getD_raised h2] at h3
    split at h3
    · next ha => exact ⟨⟨h2, ha⟩, h1, hg e h2 ▸ h3⟩
    · simp at h3
  · rintro ⟨⟨h2, ha⟩, h1, h3⟩
    exact ⟨h1, h2, by rwa [getD_raised h2, if_pos ha, hg e h2]⟩

theorem refuseCopy_eq_none {td : Tag} {src : Option Tag} (htd : td.isSx = false)
    (hsrc : ∀ t, src = some t → t.isSx = false ∧ t.width = td.width) : refuseCopy td src = none := by
  unfold refuseCopy
  rw [htd]
  cases src with
  | none => rfl
  | some t => simp [firstTrap, hsrc t rfl]

theorem getD_only {h : Hart} {ovr v n e : Nat} {l : List Strip} (hsx : (h.opTag ovr v).isSx = false) (he : e < n) :
    (only (h.ownStrip ovr n v :: l)).getD e 0 = h.elem v (h.opTag ovr v) e := by
  rw [only_ownStrip_of_not_sx n l hsx, getD_map_range _ _ he]

/-! ## Placing elements (R134, R135) -/

section
variable {f : FmtV} {s : State}

theorem exec_placed {i : Instr} {g : Hart → List Nat → List (Option Nat)} {g' : Nat → Option Nat}
    (hi : exec i s = .next (placed f g s)) (hready : VecReady s [f.vd.toNat, f.va.toNat])
    (hfits : VecFits s [s.me.opTag f.ovr.toNat f.vd.toNat, s.me.opTag f.ovr.toNat f.va.toNat])
    (htd : (s.me.opTag f.ovr.toNat f.vd.toNat).isSx = false) (hta : (s.me.opTag f.ovr.toNat f.va.toNat).isSx = false)
    (hwidth : (s.me.opTag f.ovr.toNat f.va.toNat).width = (s.me.opTag f.ovr.toNat f.vd.toNat).width)
    (hlen : ∀ a, (g s.me a).length = s.me.len)
    (hg : ∀ e, e < s.me.len →
      (g s.me ((List.range s.me.len).map (s.me.elem f.va.toNat (s.me.opTag f.ovr.toNat f.va.toNat)))).getD e none = g' e) :
    ∃ t, exec i s = .next t ∧
      VecResult f.vd.toNat (s.me.opTag f.ovr.toNat f.vd.toNat) g' (fun _ => False) s t := by
  simp only [placed] at hi
  refine exec_vecWhole hi f.vd.isLt hready htd (refuseCopy_eq_none htd fun t ht => Option.some.inj ht ▸ ⟨hta, hwidth⟩)
    hfits.withPos (stripFlags_ownStrip ..) (hlen _) (fun e _ he => ?_) (noFlags s)
  rw [List.map_singleton, only_ownStrip_of_not_sx _ _ hta, hg e he]

end

/-! ## Active elements -/

theorem activeBelow_succ (s : State) (msk e : Nat) :
    activeBelow s msk (e + 1) = activeBelow s msk e ++ if s.me.active msk e then [e] else [] := by
  simp only [activeBelow, List.range_succ, List.filter_append]
  rw [List.filter_singleton, Bool.cond_eq_ite]

/-- The active elements below an element. -/
theorem activeList_filter_lt {s : State} {msk e : Nat} (he : e ≤ s.me.len) :
    (s.me.activeList msk).filter (fun i => decide (i < e)) = activeBelow s msk e := by
  have hrange : (List.range s.me.len).filter (fun i => decide (i < e)) = List.range e := by
    obtain ⟨k, hk⟩ := Nat.exists_eq_add_of_le he
    rw [hk, List.range_add, List.filter_append, List.filter_eq_self.2 fun i hi => by simpa using hi]
    simp
  rw [Hart.activeList, activeBelow, List.filter_filter, ← hrange, List.filter_filter]
  exact List.filter_congr fun i _ => Bool.and_comm ..

theorem activeBelow_length_le (s : State) (msk e : Nat) : (activeBelow s msk e).length ≤ e :=
  (List.length_filter_le ..).trans_eq List.length_range

/-! ## Reductions and scans (R132, R133) -/

theorem refuseReduce_eq_none {op : Nat} {td ta : Tag} (htd : td.isSx = false ∧ td ≠ .kx)
    (hta : ta.isSx = false ∧ ta ≠ .kx) (hop : 4 ≤ op → ta.isInt = true) : refuseReduce op td ta = none := by
  refine firstTrap_eq_none_iff.2 (List.forall_mem_cons.2 ⟨refuseAny_eq_none ?_, List.forall_mem_singleton.2 ?_⟩)
  · simp [Tag.packed_eq_false htd, Tag.packed_eq_false hta]
  · exact if_neg fun h => by simp [hop h.1] at h

theorem map_zipIdx_map_range {α β : Type} (n : Nat) (a : Nat → α) (g : α × Nat → β) :
    ((List.range n).map a).zipIdx.map g = (List.range n).map fun e => g (a e, e) :=
  List.ext_getElem (by simp) fun e h1 h2 => by simp

/-- The running values of a scan (R133): `run e` is the value before element `e`. -/
theorem scanRun_eq {op : Nat} {t td : Tag} {rm : Rm} {sat z : Bool} {active : Nat → Bool} {run a : Nat → Nat}
    (hrun : ∀ e, run (e + 1) = if active e then (combine op t rm sat (run e) (a e)).1 else run e) (e n : Nat) :
    scanRun op t td rm sat active z e (run e) ((List.range' e n).map a) =
      ((List.range' e n).map fun e =>
        (if active e then some (convert t td rm sat 0 (run (e + 1))).1 else if z then some 0 else none,
         if active e then (combine op t rm sat (run e) (a e)).2 ||| (convert t td rm sat 0 (run (e + 1))).2 else 0),
       run (e + n)) := by
  induction n generalizing e with
  | zero => rfl
  | succ n ih =>
    have hnext := ih (e + 1)
    rw [show e + 1 + n = e + (n + 1) by omega, hrun e] at hnext
    rw [List.range'_succ, List.map_cons, List.map_cons, scanRun]
    split
    · next ha =>
      rw [if_pos ha] at hnext
      simp only [hnext, hrun e, if_pos ha]
    · next ha =>
      rw [if_neg ha] at hnext
      simp only [hnext]

/-- The carry register that an instruction leaves beside its results. -/
theorem Hart.vecDone_carry (h : Hart) (vd : Nat) (td : Tag) (i : Nat) (outs : List (Option Nat)) (fl : Flags) (c : Bool)
    (v : Word) :
    let fin : Hart → Hart := fun h => if c then { h with carry := v } else h
    { h.vecDone vd td i outs fl fin with carry := h.carry } = h.vecDone vd td i outs fl id ∧
      (h.vecDone vd td i outs fl fin).carry = if c then v else h.carry := by
  have hcarry : (Hart.setUnits vd td i outs h).carry = h.carry :=
    (congrArg Hart.carry (Hart.setUnits_rest vd td i outs h) :)
  cases c
  · exact ⟨by rw [← hcarry]; rfl, hcarry⟩
  · exact ⟨by rw [← hcarry]; rfl, rfl⟩

theorem vecWhole_carry {vd : Nat} {td : Tag} {outs : List (Option Nat)} {fls : List Flags} {src : List Nat} {s : State}
    (hready : VecReady s (vd :: src)) (c : Bool) (v : Word) :
    let t := vecWhole vd td outs fls 0 (fun h => if c then { h with carry := v } else h) src s
    t.setMe { t.me with carry := s.me.carry } = vecWhole vd td outs fls 0 id src s ∧
      t.me.carry = if c then v else s.me.carry := by
  intro t
  have hfin (h : Hart) : (if c then { h with carry := v } else h).steps = h.steps ∧
      (if c then { h with carry := v } else h).binds = h.binds ∧ (if c then { h with carry := v } else h).vl = h.vl := by
    cases c <;> exact ⟨rfl, rfl, rfl⟩
  have ht : t = _ := vecWhole_own hready hfin
  have hdone := s.me.vecDone_carry vd td
  rw [vecWhole_own (fin := id) hready fun _ => ⟨rfl, rfl, rfl⟩, ht, State.me_setMe, State.setMe_setMe]
  exact ⟨congrArg s.setMe (hdone _ _ _ c v).1, (hdone _ _ _ c v).2⟩

section
variable {f : FmtV} {s : State} {td ta : Tag}

/-- `VRED` from its first element: the tree of the active elements and, where one is not, of the identity (R132). -/
theorem exec_vred (htd : s.me.opTag f.ovr.toNat f.vd.toNat = td) (hta : s.me.opTag f.ovr.toNat f.va.toNat = ta)
    (hready : VecReady s [f.vd.toNat, f.va.toNat]) (hfits : VecFits s [td, ta])
    (hrefused : refuseReduce (f.vc.toNat % 8) td ta = none) (hsx : ta.isSx = false) (hn : 0 < s.me.len) :
    let op := f.vc.toNat % 8
    let rm := s.me.rmOf f.rm.toNat
    let r := treeOf op ta rm (f.sat = 1) ((List.range s.me.len).map fun e =>
      if s.me.active f.msk.toNat e then s.me.elem f.va.toNat ta e else identityOf op ta)
    let y := roundTo ta td rm (f.sat = 1) 0 r.1
    exec (.vred f) s = .next (s.setMe (s.me.vecDone f.vd.toNat td 0 (some y.1 :: List.replicate (s.me.len - 1) none)
      (r.2 ||| y.2) id)) := by
  intro op rm r y
  subst htd hta
  simp only [exec, execVred]
  rw [vecGo_own hready hrefused hfits.withPos, stripFlags_ownStrip, List.map_singleton,
    only_ownStrip_of_not_sx s.me.len [] hsx, map_zipIdx_map_range]
  simp only [if_neg hn.ne']
  exact congrArg _ (vecWrite_own (fin := id) hready fun _ => ⟨rfl, rfl, rfl⟩)

/-- `VSCAN`: `run e` is the value that element `e` is combined with (R133). -/
theorem exec_vscan {run : Nat → Nat} (htd : s.me.opTag f.ovr.toNat f.vd.toNat = td)
    (hta : s.me.opTag f.ovr.toNat f.va.toNat = ta)
    (hready : VecReady s [f.vd.toNat, f.va.toNat]) (hfits : VecFits s [td, ta])
    (hrefused : refuseReduce (f.vc.toNat % 8) td ta = none) (hsx : ta.isSx = false)
    (h0 : run 0 = if 8 ≤ f.vc.toNat then s.me.carry.toNat % 2 ^ ta.width else identityOf (f.vc.toNat % 8) ta)
    (hrun : ∀ e, run (e + 1) = if s.me.active f.msk.toNat e then
      (combine (f.vc.toNat % 8) ta (s.me.rmOf f.rm.toNat) (f.sat = 1) (run e) (s.me.elem f.va.toNat ta e)).1 else run e) :
    let op := f.vc.toNat % 8
    let rm := s.me.rmOf f.rm.toNat
    let y : Nat → Nat × Flags := fun e => convert ta td rm (f.sat = 1) 0 (run (e + 1))
    exec (.vscan f) s = .next (vecWhole f.vd.toNat td (governed s.me f fun e => some (y e).1)
      (s.me.raised f.msk.toNat fun e => (combine op ta rm (f.sat = 1) (run e) (s.me.elem f.va.toNat ta e)).2 ||| (y e).2) 0
      (fun h => if decide (8 ≤ f.vc.toNat) then { h with carry := wd (run s.me.len) } else h) [f.va.toNat] s) := by
  intro op rm y
  subst htd hta
  have hscan := scanRun_eq (td := s.me.opTag f.ovr.toNat f.vd.toNat) (z := decide (f.z = 1)) hrun 0 s.me.len
  simp only [decide_eq_true_eq, Nat.zero_add, h0, ← List.range_eq_range'] at hscan
  simp only [exec, execVscan]
  rw [vecGo_own hready hrefused hfits.withPos, stripFlags_ownStrip, List.map_singleton,
    only_ownStrip_of_not_sx s.me.len [] hsx]
  simp only [decide_eq_true_eq, hscan, List.map_map]
  rfl

end

/-! ## Moves (R136) -/

theorem bsNat_lt (m : ByteStore) (a n : Nat) : bsNat m a n < 2 ^ (8 * n) := by
  simpa [bsNat] using leNat_lt (bsRead m a n)

theorem Hart.unit_lt (h : Hart) (v : Nat) (t : Tag) (i : Nat) : h.unit v t i < 2 ^ (8 * t.unitBytes) := by
  rw [Hart.unit_eq]
  exact bsNat_lt ..

theorem Hart.unit_block (h : Hart) (v : Nat) {t : Tag} (i : Nat) (ht : t.isSx = true) : h.unit v t i = h.block v t i :=
  if_pos ht

theorem masked_mod (f : FmtV) (s : State) (m e : Nat) (g : Nat → Nat) :
    (masked f s (fun e => some (g e % m)) e).map (· % m) = (masked f s (fun e => some (g e)) e).map (· % m) := by
  unfold masked
  split
  · simp
  · rfl

/-- The elements of a register that is not sx as the source modifier delivers them (R129). -/
theorem getD_modified {h : Hart} {m ovr v e : Nat} (he : e < h.len) (hsx : (h.opTag ovr v).isSx = false) :
    (modified m h.len ((List.range h.len).map (h.elem v (h.opTag ovr v)))).getD e 0 = (h.sourceMod m ovr v e).2 := by
  have hsrc := h.sources_eq m ovr (some 0) [v] e he
  have hflat : (h.ownStrip ovr h.len v).flat.2 = (List.range h.len).map (h.elem v (h.opTag ovr v)) := by
    rw [← only_ownStrip_of_not_sx h.len [] hsx, Strip.flat, if_neg (by simp [Hart.ownStrip, hsx])]
    rfl
  rw [← hflat]
  exact congrArg (fun l : List (Tag × Nat) => (l.getD 0 (.u8, 0)).2) hsrc

theorem signed_eq_bmod {n x : Nat} (hn : 0 < n) (hx : x < 2 ^ n) : signed n x = (x : Int).bmod (2 ^ n) := by
  obtain ⟨k, rfl⟩ := Nat.exists_eq_succ_of_ne_zero hn.ne'
  simp only [signed, Nat.succ_sub_one, Int.bmod, pow_succ] at *
  omega

/-! ## Writing a scalar register -/

/-- A vector instruction that writes SR[SD] and completes. -/
theorem vecWrites_retireVec (sd : BitVec 6) (v : Word) {s : State} (hs : s.me.steps = false) :
    VecWrites sd v s (retireVec (s.setSr sd v)) := by
  have ht : retireVec (s.setSr sd v) = s.setMe { s.me.set sd v with
      epr := 0, kept := s.me.others, pc := s.me.pc + 8, wait := none } := by
    rw [retireVec_of_not_steps _ (by simpa using hs), State.me_setSr, Hart.set_pc, Hart.others, Hart.set_kept,
      Hart.set_level]
    exact State.setMe_setMe ..
  rw [ht]
  refine ⟨scalarWrite_set s sd v _ rfl rfl (by simp), ?_, ?_, onlyHart_setMe _ _⟩
  · unfold VecDone
    rw [State.me_setMe]
    exact ⟨rfl, rfl, rfl, rfl⟩
  · rw [State.me_setMe]
    unfold Hart.set
    split
    · rfl
    · split <;> rfl

theorem vecEnd_setSr {s : State} {src : List Nat} (hready : VecReady s src) (sd : BitVec 6) (v : Word) :
    vecEnd s.me.len src 0 [] (s.setSr sd v) = retireVec (s.setSr sd v) := by
  have hlen : (s.setSr sd v).me.len = s.me.len := by rw [State.me_setSr]; simp [Hart.len]
  have hadv : advanceAll (s.setSr sd v).cur (s.setSr sd v).me.len src (s.setSr sd v) = s.setSr sd v := by
    refine advanceAll_unbound _ _ _ _ fun w hw => ?_
    show (s.setSr sd v).me.binding? w = none
    rw [State.me_setSr, Hart.binding?, Hart.set_binds]
    exact hready.unbound hw
  rw [vecEnd, if_neg (by omega), hadv, ite_self]
  rfl

theorem Hart.elem_lt (h : Hart) (v : Nat) (t : Tag) (e : Nat) : h.elem v t e < 2 ^ t.width := bsNat_lt ..

theorem Tag.width_pos (t : Tag) : 0 < t.width := by cases t <;> decide

theorem getD_append_replicate {α : Type} (l : List α) (x d : α) {n e : Nat} (he : e < n) :
    (l ++ List.replicate (n - l.length) x).getD e d = if e < l.length then l.getD e d else x := by
  split
  · next h => exact List.getD_append _ _ _ _ h
  · next h =>
    rw [List.getD_append_right _ _ _ _ (by omega), List.getD_eq_getElem?_getD, List.getElem?_replicate,
      if_pos (by omega), Option.getD_some]

section
variable {f : FmtV} {s : State} {td ta tb : Tag}

/-- `VEXTR`: an element, extended as its tag says (R136). -/
theorem exec_vextr (hta : s.me.opTag f.ovr.toNat f.va.toNat = ta) (hready : VecReady s [f.va.toNat])
    (hfits : VecFits s [ta]) (hsx : ta.isSx = false) :
    let x := (s.sr f.vb).toNat
    let a := s.me.elem f.va.toNat ta x
    exec (.vextr f) s = .next (retireVec (s.setSr f.vd (if x < s.me.len then
      (if ta.isSigned then BitVec.ofInt 64 ((a : Int).bmod (2 ^ ta.width)) else BitVec.ofNat 64 a) else 0))) := by
  subst hta
  simp only [exec, execVextr, hsx, Bool.false_eq_true, if_false]
  rw [vecGo_own (dst := []) hready rfl (List.forall_mem_singleton.2 (hfits _ (by simp))), stripFlags_ownStrip,
    vecEnd_setSr hready, List.map_singleton]
  refine congrArg (fun v => Host.Outcome.next (retireVec (s.setSr f.vd v))) (ite_congr rfl (fun h => ?_) fun _ => rfl)
  rw [getD_only hsx h, signed_eq_bmod (Tag.width_pos _) (Hart.elem_lt ..)]
  rfl

/-- `VMV` of elements of one width (R131, R136). -/
theorem exec_vmv_elements (htd : s.me.opTag f.ovr.toNat f.vd.toNat = td) (htb : s.me.opTag f.ovr.toNat f.vb.toNat = tb)
    (hd : td.isSx = false) (hb : tb.isSx = false) :
    exec (.vmv f) s = .next (vecGo f.ovr.toNat [f.vd.toNat] [f.vb.toNat] (refuseCopy td (some tb)) (withPos [td, tb])
      (fun xs s => vecWhole f.vd.toNat td
        (governed s.me f fun e => some ((modified f.mod.toNat s.me.len (only xs)).getD e 0)) [] (stripFlags xs) id
        [f.vb.toNat] s) s) := by
  subst htd htb
  simp only [exec, execVmv, hd, hb, Bool.or_self, Bool.false_eq_true, if_false]

/-- `VMV` of whole blocks of one tag (R136). -/
theorem exec_vmv_blocks (htd : s.me.opTag f.ovr.toNat f.vd.toNat = td) (htb : s.me.opTag f.ovr.toNat f.vb.toNat = td)
    (hd : td.isSx = true) (hmod : f.mod = 0) :
    exec (.vmv f) s = .next (vecGo f.ovr.toNat [f.vd.toNat] [f.vb.toNat] none (withPos [td, td])
      (fun xs s => vecWhole f.vd.toNat td
        ((only xs).zipIdx.map fun p =>
          if (List.range 16).any fun i => s.me.active f.msk.toNat (16 * p.2 + i) then some p.1
          else if f.z = 1 then some 0 else none) [] (stripFlags xs) id [f.vb.toNat] s) s) := by
  simp only [exec, execVmv, htd, htb, hd, hmod, Bool.or_self, if_true, ne_eq, not_true_eq_false, or_self, decide_false,
    Bool.and_false, Bool.false_eq_true, if_false, firstTrap]

/-- What each block of VD becomes (R108, R136). -/
theorem vmv_blocks_result (htd : s.me.opTag f.ovr.toNat f.vd.toNat = td) (htb : s.me.opTag f.ovr.toNat f.vb.toNat = td)
    (hd : td.isSx = true) (hmod : f.mod = 0) (hready : VecReady s [f.vd.toNat, f.vb.toNat]) (hfits : VecFits s [td, td]) :
    ∃ t, exec (.vmv f) s = .next t ∧
      (∀ b, s.me.epr.toNat / 16 ≤ b → b < (s.me.len + 15) / 16 → t.me.block f.vd.toNat td b =
        if (List.range 16).any fun k => s.me.active f.msk.toNat (16 * b + k) then s.me.block f.vb.toNat td b
        else if f.z = 1 then 0 else s.me.block f.vd.toNat td b) ∧ t.me.fflags = s.me.fflags ∧
      VecFrame f.vd.toNat td ((s.me.len + 15) / 16) false s t := by
  have hepr := hready.epr_le
  refine ⟨_, exec_vmv_blocks htd htb hd hmod, ?_⟩
  have honly : only ([f.vb.toNat].map (s.me.ownStrip f.ovr.toNat s.me.len)) =
      (List.range ((s.me.len + 15) / 16)).map (s.me.unit f.vb.toNat td) := by
    rw [List.map_singleton, only_ownStrip, htb, if_pos hd]
  rw [vecGo_own hready rfl hfits.withPos, stripFlags_ownStrip, honly, map_zipIdx_map_range,
    vecWhole_own (fin := id) hready fun _ => ⟨rfl, rfl, rfl⟩]
  have hj : s.me.len + 16 - 1 = s.me.len + 15 := rfl
  simp only [hd, if_true, List.take_nil, List.drop_nil, List.foldl_nil, hj]
  refine ⟨fun b h1 h2 => ?_, ?_, vecFrame_vecDone f.vd.isLt hready.wf ?_⟩
  · rw [State.me_setMe, ← Hart.unit_block _ _ _ hd, Hart.unit_vecDone_window f.vd.isLt hready.wf h1 h2 (by simp),
      getD_map_range _ _ h2]
    by_cases ha : ((List.range 16).any fun k => s.me.active f.msk.toNat (16 * b + k)) = true
    · rw [if_pos ha, if_pos ha, ← Hart.unit_block _ _ _ hd]
      exact Nat.mod_eq_of_lt (Hart.unit_lt ..)
    · rw [if_neg ha, if_neg ha]
      by_cases hz : f.z = 1
      · rw [if_pos hz, if_pos hz]
        exact Nat.zero_mod _
      · rw [if_neg hz, if_neg hz]
        exact Hart.unit_block _ _ _ hd
  · rw [State.me_setMe, Hart.vecDone_fflags]
    exact BitVec.or_zero
  · simp
    omega
end

/-! ## The rules -/

/-- Settles O17: each result, computed whole from the elements of its sources, is the one of its rule. -/
theorem crossLane : Obligations.CrossLane := by
  unfold Obligations.CrossLane
  intro f s ovr vd va vb td ta tb n rm act below a places copies sums
  refine ⟨?reduce, ?scan, ?permute, ?place, ?iota, ?index, ?scalar, ?move, ?extract⟩
  case reduce =>
    intro hready hfits ⟨htd, htd', hta, hta', hop⟩ hn hepr r y
    have h0 : s.me.epr.toNat = 0 := by simp [hepr]
    refine ⟨_, exec_vred rfl rfl hready hfits (refuseReduce_eq_none ⟨htd, htd'⟩ ⟨hta, hta'⟩ hop) hta hn, ?_⟩
    have h := vecResult_vecDone (td := td) (outs := some y.1 :: List.replicate (n - 1) none) (fl := r.2 ||| y.2)
      f.vd.isLt hready.wf htd hready.epr_le (by simp [h0]; omega)
    rw [h0] at h
    refine h.congr (fun e _ he => ?_) fun _ => Iff.rfl
    cases e with
    | zero => rfl
    | succ e => simp [List.getD_eq_getElem?_getD, List.getElem?_replicate]; split <;> rfl
  case scan =>
    intro hready hfits ⟨htd, htd', hta, hta', hop⟩ op start run
    have hrun (e : Nat) : run (e + 1) = if act e then (combine op ta rm (f.sat = 1) (run e) (a e)).1 else run e := by
      simp only [run, activeBelow_succ, List.map_append, List.foldl_append]
      split <;> rfl
    refine ⟨_, exec_vscan rfl rfl hready hfits (refuseReduce_eq_none ⟨htd, htd'⟩ ⟨hta, hta'⟩ hop) hta rfl hrun, ?_, ?_⟩
    · rw [(vecWhole_carry hready _ _).1]
      exact (vecWhole_result f.vd.isLt hready htd (governed_length ..)).congr
        (fun e _ he => congrArg _ (getD_governed he rfl)) (raised_window fun _ _ => rfl)
    · rw [(vecWhole_carry hready _ _).2]
      exact if_congr (by simp) rfl rfl
  case permute =>
    intro hready hfits ⟨htd, hta, hwidth⟩ htb
    have hcopy : refuseCopy td (some ta) = none := refuseCopy_eq_none htd fun t ht => Option.some.inj ht ▸ ⟨hta, hwidth⟩
    refine exec_vecWhole (execVperm.eq_1 f s) f.vd.isLt hready htd
      (firstTrap_eq_none_iff.2 (List.forall_mem_cons.2 ⟨hcopy, List.forall_mem_singleton.2 (if_pos htb)⟩)) hfits.withPos
      (stripFlags_ownStrip ..) (governed_length ..) (fun e _ he => congrArg _ (getD_governed he ?_)) (noFlags s)
    have hb := getD_only (l := []) (Tag.isSx_eq_false_of_isInt htb) he
    show some (if (only [s.me.ownStrip ovr n vb]).getD e 0 < n then
      (only [s.me.ownStrip ovr n va, s.me.ownStrip ovr n vb]).getD ((only [s.me.ownStrip ovr n vb]).getD e 0) 0 else 0) = _
    rw [hb]
    refine congrArg some (ite_congr rfl (fun h => ?_) fun _ => rfl)
    exact getD_only hta h
  case place =>
    intro hready hfits ⟨htd, hta, hwidth⟩
    refine ⟨?up, ?down, ?compress, ?expand⟩
    case up =>
      refine exec_placed (execVslideup.eq_1 f s) hready hfits htd hta hwidth (fun _ => governed_length ..)
        fun e he => getD_governed he (ite_congr rfl (fun _ => ?_) fun _ => rfl)
      rw [getD_map_range _ _ (by omega)]
    case down =>
      refine exec_placed (execVslidedn.eq_1 f s) hready hfits htd hta hwidth (fun _ => governed_length ..)
        fun e he => getD_governed he (congrArg some (ite_congr rfl (fun h => ?_) fun _ => rfl))
      rw [getD_map_range _ _ h]
    case compress =>
      have hlist : s.me.activeList f.msk.toNat = activeBelow s f.msk.toNat n := rfl
      refine exec_placed (execVcompress.eq_1 f s) hready hfits htd hta hwidth (fun _ => ?_) fun e he => ?_
      · have hle := activeBelow_length_le s f.msk.toNat n
        simp [hlist]
        omega
      · rw [hlist, getD_append_replicate _ _ _ he, List.length_map]
        refine ite_congr rfl (fun h => ?_) fun _ => rfl
        have hmem := mem_activeBelow.1 (List.getElem_mem h)
        rw [List.getD_eq_getElem _ _ (by simpa using h), List.getElem_map, getD_map_range _ _ hmem.1,
          List.getD_eq_getElem _ _ h]
    case expand =>
      refine exec_placed (execVexpand.eq_1 f s) hready hfits htd hta hwidth (fun _ => governed_length ..)
        fun e he => getD_governed he ?_
      have hle := activeBelow_length_le s f.msk.toNat e
      rw [activeList_filter_lt he.le, getD_map_range _ _ (by omega)]
  case iota =>
    intro hready hfits hint r
    have hr (e : Nat) (he : e < n) : td.write (s.me.rmOf 0) (f.sat = 1) 0
        (.int ((s.me.activeList f.msk.toNat).filter fun i => decide (i < e)).length) = r e := by
      rw [activeList_filter_lt he.le, Tag.write, if_pos hint]
    refine exec_vecWhole (execViota.eq_1 f s) f.vd.isLt hready (Tag.isSx_eq_false_of_isInt hint) (if_pos hint)
      hfits.withPos rfl (by simp) (fun e _ he => ?_) fun b => exists_congr fun e => and_congr_right fun h1 =>
        and_congr_right fun h2 => ?_
    · rw [List.map_map, getD_map_range _ _ he]
      exact congrArg (fun x : Nat × Flags => (some x.1).map _) (hr e he)
    · rw [List.map_map, getD_map_range _ _ h2, ← hr e h2]
      rfl
  case index =>
    intro hready hfits htd htd' r
    exact exec_vecWhole (execVid.eq_1 f s) f.vd.isLt hready htd
      (if_neg (Bool.eq_false_iff.1 (Tag.packed_eq_false ⟨htd, htd'⟩))) hfits.withPos rfl (governed_length ..)
      (fun e _ he => congrArg _ (getD_governed he rfl)) (raised_window fun _ _ => rfl)
  case scalar =>
    intro hready hfits htd
    refine ⟨?splat, ?insert⟩
    case splat =>
      exact exec_vecWhole (execVsplat.eq_1 f s) f.vd.isLt hready htd (refuseCopy_eq_none htd nofun) hfits.withPos rfl
        (governed_length ..) (fun e _ he => (congrArg _ (getD_governed he rfl)).trans (masked_mod ..)) (noFlags s)
    case insert =>
      refine exec_vecWhole (execVins.eq_1 f s) f.vd.isLt hready htd (refuseCopy_eq_none htd nofun) hfits.withPos rfl
        (by simp) (fun e _ he => ?_) (noFlags s)
      rw [getD_map_range _ _ he]
      split
      · exact congrArg some (Nat.mod_mod ..)
      · rfl
  case move =>
    intro hready hfits
    refine ⟨fun htd htb hwidth => ?elements, fun htd htb hmod => ?blocks⟩
    case elements =>
      refine exec_vecWhole (exec_vmv_elements rfl rfl htd htb) f.vd.isLt hready htd
        (refuseCopy_eq_none htd fun t ht => Option.some.inj ht ▸ ⟨htb, hwidth⟩) hfits.withPos (stripFlags_ownStrip ..)
        (governed_length ..) (fun e _ he => congrArg _ (getD_governed he (congrArg some ?_))) (noFlags s)
      rw [List.map_singleton, only_ownStrip_of_not_sx n [] htb]
      exact getD_modified he htb
    case blocks =>
      rw [htb] at hfits
      exact vmv_blocks_result rfl htb htd hmod hready hfits
  case extract =>
    intro hready hfits hta
    exact ⟨_, exec_vextr rfl hready hfits hta, vecWrites_retireVec _ _ hready.not_steps⟩

end Sys2Proof.Machine
end

section
/-!
PROOFS. Conversion and quantising of vectors (R47, R48, R52, R126, R127).
-/
namespace Sys2Proof.Machine
open Sys2Proof

theorem Hart.lt_of_active {h : Hart} {msk e : Nat} (ha : h.active msk e = true) : e < h.len := by
  rw [Hart.active, Bool.and_eq_true, decide_eq_true_eq] at ha
  exact ha.1

/-! ## Draws in element order (R52) -/

section
variable {active : Nat → Bool} {d z : Bool} {σ : Nat → Word}

/-- Elementwise results with draws: `σ e` is the generator before element `e`. -/
theorem elemResults_draws {fn : Nat → Nat → Nat × Flags} (n : Nat) {e : Nat} (seed : Word)
    (hσ : ∀ j, e ≤ j → σ (j + 1) = if active j ∧ d then seedNext (σ j) else σ j) :
    let m := elemResults active z false (fun _ j => fn (fld (if d then seedNext (σ j) else σ j) 48 16) j) n e seed
    elemResults active z d fn n e (σ e) = (m.1, m.2.1, σ (e + n)) := by
  induction n generalizing e with
  | zero => rfl
  | succ n ih =>
    have hnext := ih (e := e + 1) fun j hj => hσ j (by omega)
    rw [hσ e le_rfl, show e + 1 + n = e + (n + 1) by omega] at hnext
    unfold elemResults
    cases ha : active e <;> simp_all

/-- The sixteen values of a block with their draws: `σ e` is the generator before element `e`. -/
theorem blockValues_draws {fn : Nat → FVal × Flags} (n : Nat) {e : Nat}
    (hσ : ∀ j, e ≤ j → σ (j + 1) = if active j ∧ d then seedNext (σ j) else σ j) :
    (blockValues active d fn n e (σ e)).1 = ((List.range' e n).map fun j =>
      if active j then ((fn j).1, fld (if d then seedNext (σ j) else σ j) 48 16) else (FVal.zero false, 0)) ∧
    (blockValues active d fn n e (σ e)).2.2 = σ (e + n) := by
  induction n generalizing e with
  | zero => exact ⟨rfl, rfl⟩
  | succ n ih =>
    have hnext := ih (e := e + 1) fun j hj => hσ j (by omega)
    rw [hσ e le_rfl, show e + 1 + n = e + (n + 1) by omega] at hnext
    unfold blockValues
    cases ha : active e <;> simp_all [List.range'_succ]

/-- Elements that are not active draw nothing. -/
theorem draws_still {e n : Nat} (hσ : ∀ j, e ≤ j → σ (j + 1) = if active j ∧ d then seedNext (σ j) else σ j)
    (ha : ∀ k, k < n → active (e + k) = false) : σ (e + n) = σ e := by
  induction n with
  | zero => rfl
  | succ n ih =>
    rw [← Nat.add_assoc, hσ _ (by omega), ha n (by omega), if_neg (by simp), ih fun k hk => ha k (by omega)]

end

/-- What block `b` becomes: quantised where one of its elements is active; those that are not count as +0 (R48, R127). -/
def blockResult (t : Tag) (rm : Rm) (active : Nat → Bool) (z : Bool) (fn : Nat → FVal) (draw : Nat → Nat) (b : Nat) :
    Option Nat :=
  if (List.range 16).any fun k => active (16 * b + k) then
    some (sxQuantise t rm ((List.range 16).map fun k =>
      if active (16 * b + k) then (fn (16 * b + k), draw (16 * b + k)) else (FVal.zero false, 0))).1
  else if z then some 0 else none

theorem blockResult_congr {t : Tag} {rm : Rm} {active : Nat → Bool} {z : Bool} {fn fn' : Nat → FVal} {draw : Nat → Nat}
    (h : ∀ e, active e = true → fn e = fn' e) (b : Nat) :
    blockResult t rm active z fn draw b = blockResult t rm active z fn' draw b := by
  have hvals : (fun k => if active (16 * b + k) then (fn (16 * b + k), draw (16 * b + k)) else (FVal.zero false, 0)) =
      fun k => if active (16 * b + k) then (fn' (16 * b + k), draw (16 * b + k)) else (FVal.zero false, 0) :=
    funext fun k => ite_congr rfl (fun ha => by rw [h _ ha]) fun _ => rfl
  rw [blockResult, hvals, blockResult]

/-- The results of blocks: `σ e` is the generator before element `e` (R52). -/
theorem blockResults_draws {t : Tag} {rm : Rm} {active : Nat → Bool} {z : Bool} {fn : Nat → FVal × Flags} {σ : Nat → Word}
    (n : Nat) {b : Nat}
    (hσ : ∀ j, 16 * b ≤ j → σ (j + 1) = if active j ∧ decide (rm = .rsto) then seedNext (σ j) else σ j) :
    (blockResults t rm active z fn n b (σ (16 * b))).1 = (List.range' b n).map (blockResult t rm active z
      (fun j => (fn j).1) fun j => fld (if decide (rm = .rsto) then seedNext (σ j) else σ j) 48 16) ∧
    (blockResults t rm active z fn n b (σ (16 * b))).2.2 = σ (16 * (b + n)) := by
  induction n generalizing b with
  | zero => exact ⟨rfl, rfl⟩
  | succ n ih =>
    obtain ⟨hres, hseed⟩ := ih (b := b + 1) fun j hj => hσ j (by omega)
    obtain ⟨hvals, hlast⟩ := blockValues_draws (fn := fn) 16 hσ
    rw [show b + 1 + n = b + (n + 1) by omega] at hseed
    have hstep : 16 * (b + 1) = 16 * b + 16 := by ring
    rw [hstep] at hres hseed
    have hmap : ∀ g : Nat → FVal × Nat, (List.range' (16 * b) 16).map g = (List.range 16).map fun k => g (16 * b + k) :=
      fun g => by rw [List.range'_eq_map_range, List.map_map]; rfl
    unfold blockResults
    rw [List.range'_succ, List.map_cons, blockResult]
    split
    · simp only [hvals, hlast, hmap]
      exact ⟨congrArg _ hres, hseed⟩
    · next hany =>
      have hstill : σ (16 * b + 16) = σ (16 * b) := draws_still hσ fun k hk => by
        simp only [List.any_eq_true, List.mem_range, not_exists, not_and, Bool.not_eq_true] at hany
        exact hany k hk
      rw [hstill] at hres hseed
      exact ⟨congrArg _ hres, hseed⟩

/-! ## The draws of an instruction -/

/-- How many elements an instruction that starts at `lo` has drawn for before element `e`, where it draws at all. -/
def drawsBefore (s : State) (msk lo : Nat) (d : Bool) (e : Nat) : Nat :=
  if d then ((activeBelow s msk e).filter fun j => decide (lo ≤ j)).length else 0

/-- The generator before element `e`. -/
def seedBefore (s : State) (msk lo : Nat) (d : Bool) (e : Nat) : Word := seedNext^[drawsBefore s msk lo d e] s.me.seed

/-- The draw that active element `e` takes (R52). -/
def drawAt (s : State) (msk lo : Nat) (d : Bool) (e : Nat) : Nat :=
  if d then fld (seedNext^[drawsBefore s msk lo d e + 1] s.me.seed) 48 16 else fld s.me.seed 48 16

section
variable {s : State} {msk lo : Nat} {d : Bool}

theorem seedBefore_start : seedBefore s msk lo d lo = s.me.seed := by
  have hnone : (activeBelow s msk lo).filter (fun j => decide (lo ≤ j)) = [] :=
    List.filter_eq_nil_iff.2 fun j hj => by
      have := (mem_activeBelow.1 hj).1
      simp
      omega
  simp [seedBefore, drawsBefore, hnone]

theorem seedBefore_succ {e : Nat} (he : lo ≤ e) : seedBefore s msk lo d (e + 1) =
    if s.me.active msk e ∧ d then seedNext (seedBefore s msk lo d e) else seedBefore s msk lo d e := by
  cases d
  · simp [seedBefore, drawsBefore]
  · simp only [seedBefore, drawsBefore, if_true, and_true, activeBelow_succ, List.filter_append, List.length_append]
    split
    · simp [he, Function.iterate_succ_apply']
    · simp

theorem draw_eq (e : Nat) :
    fld (if d then seedNext (seedBefore s msk lo d e) else seedBefore s msk lo d e) 48 16 = drawAt s msk lo d e := by
  cases d
  · simp [drawAt, seedBefore, drawsBefore]
  · simp only [if_true, drawAt, seedBefore, Function.iterate_succ_apply']

end

/-- The generator that an instruction leaves beside its results. -/
theorem Hart.vecDone_seed (h : Hart) (vd : Nat) (td : Tag) (i : Nat) (outs : List (Option Nat)) (fl : Flags) (w : Word) :
    { h.vecDone vd td i outs fl (fun x => { x with seed := w }) with seed := h.seed } = h.vecDone vd td i outs fl id := by
  have hseed : (Hart.setUnits vd td i outs h).seed = h.seed :=
    (congrArg Hart.seed (Hart.setUnits_rest vd td i outs h) :)
  rw [← hseed]
  rfl

theorem elementwise_of_vecResult {f : FmtV} {td : Tag} {fn : Nat → Nat × Flags} {s t : State} {r : Nat → Prop}
    (h : VecResult f.vd.toNat td (masked f s fun e => some (fn e).1) r s t)
    (hr : ∀ b, r b ↔ ∃ e, s.me.epr.toNat ≤ e ∧ e < s.me.len ∧ s.me.active f.msk.toNat e = true ∧
      (fn e).2.getLsbD b = true) : Elementwise.result f td fn s t := by
  obtain ⟨helem, hflags, hframe⟩ := h
  refine ⟨fun e he => (helem e he).trans ?_, fun b => by rw [hflags b, hr b], hframe⟩
  unfold masked
  by_cases ha : s.me.active f.msk.toNat e = true
  · simp only [ha, if_true]
  · by_cases hz : f.z = 1
    · simp only [ha, hz, Bool.false_eq_true, if_false, if_true, Nat.zero_mod]
    · simp only [ha, hz, Bool.false_eq_true, if_false]

/-! ## Slots of blocks (R47) -/

/-- The bytes of a written unit's slot beyond its value are 0. -/
theorem Hart.setUnits_pad {v i j k x : Nat} {t : Tag} {l : List (Option Nat)} {h : Hart} (hv : v < 64) (hw : h.vecWf)
    (hi : i ≤ j) (hj : l.getD (j - i) none = some x) (hk : t.unitBytes ≤ k) (hk' : k < t.stride) :
    bsGet ((Hart.setUnits v t i l h).vreg[v]!) (t.offset j + k) = 0 := by
  induction l generalizing i h with
  | nil => simp at hj
  | cons o l ih =>
    by_cases hij : i = j
    · subst hij
      obtain rfl : o = some x := by simpa using hj
      have hnext : t.offset (i + 1) = t.offset i + t.stride := by
        rw [Tag.offset_eq, Tag.offset_eq]
        ring
      rw [Hart.setUnits, Hart.setUnits_byte _ _ _ _ _ _ _ hv (Hart.setUnit_vecWf h v t i x hv hw) (by omega),
        Hart.setUnit_byte _ _ _ _ _ _ _ hv hw, if_pos (by omega), Nat.add_sub_cancel_left,
        List.getD_eq_default _ _ (by rw [leBytes_length]; exact hk)]
    · rw [show j - i = j - (i + 1) + 1 by omega, List.getD_cons_succ] at hj
      cases o with
      | none => exact ih hw (by omega) hj
      | some y => exact ih (Hart.setUnit_vecWf h v t i y hv hw) (by omega) hj

theorem VecFrame.seeded {vd units : Nat} {td : Tag} {b : Bool} {s t : State} (h : VecFrame vd td units b s t) :
    VecFrame vd td units true s t := by
  obtain ⟨hdone, hother, hbeyond, -, hrest, honly⟩ := h
  exact ⟨hdone, hother, hbeyond, nofun, hrest, honly⟩

/-! ## Conversions (R126, R127) -/

section
variable {f : FmtV} {s : State} {n : Nat} {td : Tag} {rm : Rm} {d : Bool}
  {plain : Tag → Rm → Nat → List (Tag × Nat) → Nat × Flags} {exact : List (Tag × Nat) → FVal × Flags}

theorem conversion_accepted {tags : List Tag} (hkx : ∀ x ∈ td :: tags, x ≠ .kx) (hfits : VecFits s (td :: tags))
    (hragged : td.isSx = true → s.me.len % 16 = 0) :
    firstTrap [refuseAny (fun t => t = .kx) (td :: tags), capCheck s (withPos (td :: tags)), raggedCheck td s.me.len] =
      none := by
  have hcheck : raggedCheck td s.me.len = none := if_neg fun h => by
    rw [Bool.and_eq_true, decide_eq_true_eq] at h
    exact h.2 (hragged h.1)
  rw [refuseAny_eq_none fun x hx => decide_eq_false (hkx x hx), capCheck_none _ _ hfits.withPos, hcheck]
  rfl

theorem runConversion_elements (htd : s.me.opTag 0 f.vd.toNat = td) (hrm : s.me.rmConv f.rm.toNat = rm)
    (hd : decide (rm = .rsto) = d) (hovr : f.ovr = 0) (hmod : f.mod = 0)
    (hready : VecReady s (f.vd.toNat :: FmtV.sources f n))
    (hfits : VecFits s (td :: (FmtV.sources f n).map (s.me.opTag 0)))
    (hkx : ∀ x ∈ td :: (FmtV.sources f n).map (s.me.opTag 0), x ≠ .kx) (hsx : td.isSx = false) :
    let lo := s.me.epr.toNat
    let t := runConversion f n plain exact s
    Elementwise.result f td (fun e => plain td rm (drawAt s f.msk.toNat lo d e)
      (s.me.sources 0 0 none (FmtV.sources f n) e)) s (t.setMe { t.me with seed := s.me.seed }) ∧
    t.me.seed = seedBefore s f.msk.toNat lo d s.me.len := by
  intro lo t
  subst htd hrm
  let σ := seedBefore s f.msk.toNat lo d
  have hovr' : f.ovr.toNat = 0 := by rw [hovr]; rfl
  have hmod' : f.mod.toNat = 0 := by rw [hmod]; rfl
  have hle := hready.epr_le
  have ht : t = runElementwise f
      { src := FmtV.sources f n, modAt := none, refused := none, draws := d
        fn := fun u xs => plain (s.me.opTag 0 f.vd.toNat) (s.me.rmConv f.rm.toNat) u xs } s := by
    simp only [t, runConversion, hsx, hd, Bool.false_eq_true, if_false, conversion_accepted hkx hfits (by simp [hsx])]
  have hdraws := elemResults_draws (active := s.me.active f.msk.toNat) (d := d) (z := decide (f.z = 1)) (σ := σ)
    (fn := fun u e => plain (s.me.opTag 0 f.vd.toNat) (s.me.rmConv f.rm.toNat) u
      (s.me.sources 0 0 none (FmtV.sources f n) e))
    (s.me.len - s.me.epr.toNat) (e := s.me.epr.toNat) s.me.seed fun j hj => seedBefore_succ hj
  rw [show σ s.me.epr.toNat = s.me.seed from seedBefore_start, Nat.add_sub_cancel' hle] at hdraws
  simp only [σ, draw_eq] at hdraws
  have hplain := runElementwise_plain f
    { src := FmtV.sources f n, modAt := none, refused := none, draws := d
      fn := fun u xs => plain (s.me.opTag 0 f.vd.toNat) (s.me.rmConv f.rm.toNat) u xs }
    s hready.not_steps hready.keptNow hready.starts (hready.unbound (by simp)) (fun v hv => hready.unbound (by simp [hv])) rfl
    (by rw [hovr']; exact hfits)
  simp only [hovr', hmod', hdraws] at hplain
  obtain ⟨-, hres, hflags⟩ := elemResults_still (s.me.active f.msk.toNat) (decide (f.z = 1))
    (fun e => plain (s.me.opTag 0 f.vd.toNat) (s.me.rmConv f.rm.toNat)
      (drawAt s f.msk.toNat lo d e) (s.me.sources 0 0 none (FmtV.sources f n) e))
    (s.me.len - s.me.epr.toNat) s.me.epr.toNat s.me.seed
  rw [ht, hplain, State.me_setMe, State.setMe_setMe, Hart.vecDone_seed]
  refine ⟨elementwise_of_vecResult ((vecResult_vecDone f.vd.isLt hready.wf hsx hle (elemResults_length ..)).congr
    (fun e h1 h2 => ?_) fun b => Iff.rfl) fun b => (hflags b).trans ?_, rfl⟩
  · rw [hres _ (by omega), Nat.add_sub_cancel' h1]
    simp only [masked, decide_eq_true_eq]
  · constructor
    · rintro ⟨k, hk, ha, hb⟩
      exact ⟨_, Nat.le_add_right .., by omega, ha, hb⟩
    · rintro ⟨e, h1, h2, ha, hb⟩
      exact ⟨e - s.me.epr.toNat, by omega, by rwa [Nat.add_sub_cancel' h1], by rwa [Nat.add_sub_cancel' h1]⟩
/-- The conversion to blocks of an sx destination, as the units that it writes. -/
theorem runConversion_blocks (htd : s.me.opTag 0 f.vd.toNat = td) (hrm : s.me.rmConv f.rm.toNat = rm)
    (hd : decide (rm = .rsto) = d) (hready : VecReady s (f.vd.toNat :: FmtV.sources f n))
    (hfits : VecFits s (td :: (FmtV.sources f n).map (s.me.opTag 0)))
    (hkx : ∀ x ∈ td :: (FmtV.sources f n).map (s.me.opTag 0), x ≠ .kx) (hsx : td.isSx = true)
    (hlen : s.me.len % 16 = 0) :
    let b0 := s.me.epr.toNat / 16
    ∃ fl, runConversion f n plain exact s = s.setMe (s.me.vecDone f.vd.toNat td b0
      ((List.range' b0 (s.me.len / 16 - b0)).map (blockResult td rm (s.me.active f.msk.toNat) (f.z = 1)
        (fun e => (exact (s.me.sources 0 0 none (FmtV.sources f n) e)).1)
        (drawAt s f.msk.toNat (b0 * 16) d)))
      fl fun h => { h with seed := seedBefore s f.msk.toNat (b0 * 16) d s.me.len }) := by
  intro b0
  subst htd hrm hd
  let σ := seedBefore s f.msk.toNat (b0 * 16) (s.me.rmConv f.rm.toNat = .rsto)
  have hle := hready.epr_le
  have hb0 : s.me.epr.toNat / 16 = b0 := rfl
  have hstart : σ (16 * b0) = s.me.seed := by rw [Nat.mul_comm]; exact seedBefore_start
  have hres := blockResults_draws (t := s.me.opTag 0 f.vd.toNat) (rm := s.me.rmConv f.rm.toNat)
    (active := s.me.active f.msk.toNat) (z := decide (f.z = 1)) (σ := σ) (b := b0)
    (fn := fun e => exact (rowAt (columns 0 s.me.len none ((FmtV.sources f n).map (s.me.ownStrip 0 s.me.len))) e))
    (s.me.len / 16 - b0) fun j hj => seedBefore_succ (by omega)
  rw [hstart, show 16 * (b0 + (s.me.len / 16 - b0)) = s.me.len by omega] at hres
  have hrow (e : Nat) (ha : s.me.active f.msk.toNat e = true) :
      (exact (rowAt (columns 0 s.me.len none ((FmtV.sources f n).map (s.me.ownStrip 0 s.me.len))) e)).1 =
        (exact (s.me.sources 0 0 none (FmtV.sources f n) e)).1 := by
    rw [Hart.sources_eq _ _ _ _ _ _ (Hart.lt_of_active ha)]
  simp only [runConversion, hsx, if_true, conversion_accepted hkx hfits fun _ => hlen]
  rw [vecGo_own hready rfl (by simp)]
  simp only [stripFlags_ownStrip, Hart.window_of_not_steps _ hready.not_steps, hb0,
    show (s.me.len + 15) / 16 = s.me.len / 16 by omega]
  obtain ⟨houts, hseed⟩ := hres
  generalize blockResults _ _ _ _ _ _ _ _ = r at houts hseed ⊢
  rw [List.map_congr_left fun b _ => blockResult_congr hrow b] at houts
  simp only [σ, draw_eq] at houts hseed
  rw [← houts, ← hseed]
  exact ⟨_, vecWrite_own (fin := fun h => { h with seed := r.2.2 }) hready fun _ => ⟨rfl, rfl, rfl⟩⟩
end

/-- A destination of blocks from `b0` to `nb`, block `b` written where `g b` gives a value (R47). -/
theorem blocks_written {s : State} {vd b0 nb : Nat} {td : Tag} {g : Nat → Option Nat} {fl : Flags} {w : Word} (hvd : vd < 64)
    (hw : s.me.vecWf) (hsx : td.isSx = true) (hle : b0 ≤ nb) :
    let t := s.setMe (s.me.vecDone vd td b0 ((List.range' b0 (nb - b0)).map g) fl fun h => { h with seed := w })
    (∀ b, b0 ≤ b → b < nb → t.me.block vd td b = match g b with
      | some x => x % 2 ^ (8 * td.blockBytes)
      | none => s.me.block vd td b) ∧
    (∀ b k, b0 ≤ b → b < nb → td.blockBytes ≤ k → k < td.slotBytes → (g b).isSome = true →
      bsGet (t.me.vreg[vd]!) (b * td.slotBytes + k) = 0) ∧
    t.me.seed = w ∧ VecFrame vd td nb true s t := by
  intro t
  have hget (b : Nat) (h1 : b0 ≤ b) (h2 : b < nb) : ((List.range' b0 (nb - b0)).map g).getD (b - b0) none = g b := by
    rw [List.range'_eq_map_range, List.map_map, getD_map_range _ _ (by omega), Function.comp_apply,
      Nat.add_sub_cancel' h1]
  have hunit : td.unitBytes = td.blockBytes := if_pos hsx
  have hstride : td.stride = td.slotBytes := if_pos hsx
  have hme : t.me = _ := State.me_setMe s _
  refine ⟨fun b h1 h2 => ?_, fun b k h1 h2 hk hk' hsome => ?_, ?_, ?_⟩
  · have hblock := Hart.unit_vecDone (td := td) (i := b0) (outs := (List.range' b0 (nb - b0)).map g) (fl := fl)
      (fin := fun h => { h with seed := w }) hvd hw (fun _ => rfl) b
    rw [if_pos (by simp; omega), hget b h1 h2, hunit, Hart.unit_block _ _ _ hsx, Hart.unit_block _ _ _ hsx] at hblock
    rw [hme]
    exact hblock
  · obtain ⟨x, hx⟩ := Option.isSome_iff_exists.1 hsome
    have hpad := Hart.setUnits_pad hvd hw h1 ((hget b h1 h2).trans hx) (hunit ▸ hk) (hstride ▸ hk')
    rw [Tag.offset_eq, hstride] at hpad
    rw [hme]
    exact hpad
  · exact congrArg Hart.seed hme
  · exact (vecDone_frame s _ td b0 nb _ fl w hvd hw (by simp; omega)).seeded

end Sys2Proof.Machine
end

section
/-!
PROOFS. Pixels in packed bytes (R49, R128): pixel e of a layout of width w stands at bit w · e.
-/
namespace Sys2Proof.Machine
open Sys2Proof

/-! ## Places of pixels -/

theorem pixelBit_eq {lay : Nat} (hlay : lay < 3) (e : Nat) : pixelBit lay e = (pixLayout lay).1 * e := by
  interval_cases lay <;> simp only [pixelBit, pixGroupBytes, pixLayout] <;> omega

theorem pixels_fit {lay : Nat} (hlay : lay < 3) (n : Nat) : (pixLayout lay).1 * n ≤ 8 * packedLen lay n := by
  interval_cases lay <;> simp only [packedLen, pixGroupBytes, pixLayout] <;> omega

theorem pixLayout_pos (lay : Nat) : 0 < (pixLayout lay).1 := by
  unfold pixLayout
  split <;> decide

/-! ## Fields of numbers -/

theorem testBit_nbits (x lo n i : Nat) : (nbits x lo n).testBit i = (decide (i < n) && x.testBit (lo + i)) := by
  rw [nbits, Nat.testBit_mod_two_pow, Nat.testBit_div_two_pow, Nat.add_comm]

/-- A number with the `w` bits from `p` on replaced. -/
def putBits (acc p w x : Nat) : Nat := acc - nbits acc p w * 2 ^ p + x * 2 ^ p

theorem testBit_putBits {acc p w x : Nat} (hx : x < 2 ^ w) (k : Nat) :
    (putBits acc p w x).testBit k = if p ≤ k ∧ k < p + w then x.testBit (k - p) else acc.testBit k := by
  obtain ⟨hi, hhi⟩ : ∃ hi, hi = acc / 2 ^ p / 2 ^ w := ⟨_, rfl⟩
  have hlow : acc % 2 ^ p < 2 ^ p := Nat.mod_lt _ (by positivity)
  have hmid : nbits acc p w < 2 ^ w := Nat.mod_lt _ (by positivity)
  have hacc : acc = 2 ^ p * (2 ^ w * hi + nbits acc p w) + acc % 2 ^ p := by
    rw [hhi, nbits, Nat.div_add_mod, Nat.div_add_mod]
  have hput : putBits acc p w x = 2 ^ p * (2 ^ w * hi + x) + acc % 2 ^ p := by
    have hsub : acc - nbits acc p w * 2 ^ p = 2 ^ p * (2 ^ w * hi) + acc % 2 ^ p := by
      have := hacc
      rw [Nat.mul_add, Nat.mul_comm (2 ^ p) (nbits acc p w)] at this
      omega
    rw [putBits, hsub]
    ring
  have hold := congrArg (·.testBit k) hacc
  simp only [Nat.testBit_two_pow_mul_add _ hlow, Nat.testBit_two_pow_mul_add _ hmid] at hold
  rw [hput, hold, Nat.testBit_two_pow_mul_add _ hlow, Nat.testBit_two_pow_mul_add _ hx]
  by_cases h1 : k < p
  · simp only [h1, if_true, if_neg (show ¬(p ≤ k ∧ k < p + w) by omega)]
  · by_cases h2 : k - p < w
    · simp only [h1, h2, if_true, if_false, if_pos (show p ≤ k ∧ k < p + w by omega)]
    · simp only [h1, h2, if_false, if_neg (show ¬(p ≤ k ∧ k < p + w) by omega)]

/-- The pixels `g e` below `m` put into a number in turn. -/
def putPixels (w : Nat) (g : Nat → Option Nat) (m acc : Nat) : Nat :=
  (List.range m).foldl (fun acc e => match g e with
    | some x => putBits acc (w * e) w x
    | none => acc) acc

theorem testBit_putPixels {w m acc : Nat} {g : Nat → Option Nat} (hw : 0 < w) (hg : ∀ e x, g e = some x → x < 2 ^ w)
    (k : Nat) : (putPixels w g m acc).testBit k =
      if k / w < m then ((g (k / w)).map (·.testBit (k % w))).getD (acc.testBit k) else acc.testBit k := by
  induction m with
  | zero => rfl
  | succ m ih =>
    have hsplit : putPixels w g (m + 1) acc = match g m with
        | some x => putBits (putPixels w g m acc) (w * m) w x
        | none => putPixels w g m acc := by
      simp [putPixels, List.range_succ, List.foldl_append]
    have hwindow : (w * m ≤ k ∧ k < w * m + w) ↔ k / w = m := by
      rw [Nat.div_eq_iff hw, Nat.mul_comm m w]
      omega
    cases hgm : g m with
    | none =>
      simp only [hsplit, hgm, ih]
      by_cases hk : k / w = m
      · simp [hk, hgm]
      · simp only [show k / w < m + 1 ↔ k / w < m by omega]
    | some x =>
      simp only [hsplit, hgm, testBit_putBits (hg m x hgm), hwindow, ih]
      by_cases hk : k / w = m
      · have hmod : k - w * m = k % w := by rw [← hk, Nat.mod_eq_sub_mul_div]
        simp [hk, hgm, hmod]
      · simp only [hk, if_false, show k / w < m + 1 ↔ k / w < m by omega]

/-- Pixel `e` after the pixels below `m` were put. -/
theorem nbits_putPixels {w m acc e : Nat} {g : Nat → Option Nat} (hw : 0 < w) (hg : ∀ e x, g e = some x → x < 2 ^ w)
    (he : e < m) : nbits (putPixels w g m acc) (w * e) w = (g e).getD (nbits acc (w * e) w) := by
  refine Nat.eq_of_testBit_eq fun i => ?_
  rw [testBit_nbits, testBit_putPixels hw hg]
  by_cases hi : i < w
  · have hdiv : (w * e + i) / w = e := by rw [Nat.mul_add_div hw, Nat.div_eq_of_lt hi, Nat.add_zero]
    have hmod : (w * e + i) % w = i := by rw [Nat.mul_add_mod, Nat.mod_eq_of_lt hi]
    cases hge : g e <;> simp [hdiv, hmod, he, hge, hi, testBit_nbits]
  · cases hge : g e with
    | none => simp [hi, testBit_nbits]
    | some x =>
      have hbig : x < 2 ^ i := (hg e x hge).trans_le (Nat.pow_le_pow_right (by decide) (by omega))
      simp [hi, Nat.testBit_lt_two_pow hbig]

/-! ## Bytes -/

theorem digits256_bytes (m : ByteStore) (a n : Nat) :
    digits256 ((List.range n).map fun i => bsNat m (a + i) 1) = bsNat m a n := by
  induction n generalizing a with
  | zero => rfl
  | succ n ih =>
    have hnext := ih (a + 1)
    have hbyte : bsNat m a 1 = (bsGet m a).toNat := by simp [bsNat, bsRead, leNat]
    have hstep : bsNat m a (n + 1) = bsNat m a 1 % 256 + 256 * bsNat m (a + 1) n := by
      rw [hbyte, Nat.mod_eq_of_lt (bsGet m a).isLt]
      rfl
    rw [List.range_succ_eq_map, List.map_cons, List.map_map, hstep, ← hnext]
    simp only [digits256, List.foldr_cons, Nat.add_zero, Function.comp_def, Nat.succ_eq_add_one, Nat.add_assoc,
      Nat.add_comm 1]

/-- The low bytes of a number, put together again. -/
theorem digits256_nbits (x n : Nat) : digits256 ((List.range n).map fun i => nbits x (8 * i) 8) = x % 2 ^ (8 * n) := by
  induction n generalizing x with
  | zero => simp [digits256, Nat.mod_one]
  | succ n ih =>
    have hnext := ih (x / 2 ^ 8)
    have hbyte (i : Nat) : nbits x (8 * (i + 1)) 8 = nbits (x / 2 ^ 8) (8 * i) 8 := by
      rw [nbits, nbits, Nat.div_div_eq_div_mul, ← pow_add, show 8 + 8 * i = 8 * (i + 1) by ring]
    rw [List.range_succ_eq_map, List.map_cons, List.map_map, show 8 * (n + 1) = 8 + 8 * n by ring, pow_add, Nat.mod_mul,
      ← hnext]
    simp only [digits256, List.foldr_cons, Function.comp_def, Nat.succ_eq_add_one, hbyte]
    simp [nbits]

/-! ## The instructions (R128) -/

theorem refusePixels_self (a b : Tag) : refusePixels [a, b] [a, b] = none := by
  simp [refusePixels, firstTrap]

theorem Hart.elem_u8 (h : Hart) (v e : Nat) : h.elem v .u8 e = bsNat (h.vreg[v]!) e 1 := by
  simp [Hart.elem, Tag.bytes]

/-- A register's bytes put together. -/
theorem digits256_elems (h : Hart) (v n : Nat) :
    digits256 ((List.range n).map (h.elem v .u8)) = bsNat (h.vreg[v]!) 0 n := by
  rw [← digits256_bytes]
  exact congrArg digits256 (List.map_congr_left fun e _ => by rw [Hart.elem_u8, Nat.zero_add])

theorem range_take_append (n k : Nat) :
    (List.range n).take k ++ (List.range (k - n)).map (n + ·) = List.range k := by
  rw [List.take_range]
  rcases Nat.le_total k n with h | h
  · simp [Nat.min_eq_left h, Nat.sub_eq_zero_of_le h]
  · rw [Nat.min_eq_right h, ← List.range_add, Nat.add_sub_cancel' h]

section
variable {f : FmtV} {s : State}

theorem exec_vpxunp (htd : s.me.opTag 0 f.vd.toNat = .u16) (hta : s.me.opTag 0 f.va.toNat = .u8)
    (hready : VecReady s [f.vd.toNat, f.va.toNat]) (hfits : VecFits s [.u8, .u16]) :
    let lay := f.vc.toNat
    exec (.vpxunp f) s = .next (vecWhole f.vd.toNat .u16 (governed s.me f fun e =>
      some (nbits (bsNat (s.me.vreg[f.va.toNat]!) 0 (packedLen lay s.me.len)) (pixelBit lay e) (pixLayout lay).1)) [] 0 id
      [f.va.toNat] s) := by
  intro lay
  have hunbound : (s.me.binding? f.va.toNat).isSome = false := by rw [hready.unbound (by simp)]; rfl
  have hall : digits256 ((only ([f.va.toNat].map (s.me.ownStrip 0 s.me.len))).take (packedLen f.vc.toNat s.me.len) ++
      (List.range (packedLen f.vc.toNat s.me.len - s.me.len)).map fun i => s.me.elem f.va.toNat .u8 (s.me.len + i)) =
      bsNat (s.me.vreg[f.va.toNat]!) 0 (packedLen f.vc.toNat s.me.len) := by
    rw [List.map_singleton, only_ownStrip_of_not_sx _ _ (by rw [hta]; rfl), hta, ← List.map_take, ← digits256_elems,
      ← range_take_append s.me.len (packedLen _ _), List.map_append, List.map_map]
    rfl
  simp only [only] at hall
  simp only [exec, execVpxunp]
  rw [vecGo_own hready (by rw [htd, hta]; exact refusePixels_self ..)
    (by rw [htd, hta]; exact VecFits.withPos (by simpa [VecFits, and_comm] using hfits)), stripFlags_ownStrip]
  simp only [hunbound, Bool.false_eq_true, if_false, hall, governed, lay]

/-- The pixels that `VPXPAK` puts: those of the active elements, clamped (R128). -/
def packedPixel (f : FmtV) (s : State) (w e : Nat) : Option Nat :=
  masked f s (fun e => some (min (s.me.elem f.va.toNat .u16 e) (2 ^ w - 1))) e

theorem exec_vpxpak (htd : s.me.opTag 0 f.vd.toNat = .u8) (hta : s.me.opTag 0 f.va.toNat = .u16)
    (hready : VecReady s [f.vd.toNat, f.va.toNat]) (hfits : VecFits s [.u8, .u16]) (hepr : s.me.epr = 0)
    (hlay : f.vc.toNat < 3) :
    let w := (pixLayout f.vc.toNat).1
    let n := packedLen f.vc.toNat s.me.len
    let old := bsNat (s.me.vreg[f.vd.toNat]!) 0 n
    exec (.vpxpak f) s = .next (s.setMe (s.me.vecDone f.vd.toNat .u8 0
      ((List.range n).map fun i => some (nbits (putPixels w (packedPixel f s w) s.me.len old) (8 * i) 8))
      (if (List.range s.me.len).any fun e => s.me.active f.msk.toNat e && decide (2 ^ w ≤ s.me.elem f.va.toNat .u16 e)
        then fSAT else 0) id)) := by
  intro w n old
  have hunbound : (s.me.binding? f.vd.toNat).isSome = false := by rw [hready.unbound (by simp)]; rfl
  have hwin := Hart.window_of_not_steps .u16 hready.not_steps
  have h0 : s.me.epr.toNat = 0 := by simp [hepr]
  have hgot (e : Nat) (he : e < s.me.len) : (s.me.ownStrip 0 s.me.len f.va.toNat).vals.getD e 0 =
      s.me.elem f.va.toNat .u16 e := by
    rw [← hta]
    exact getD_only (l := []) (by rw [hta]; rfl) he
  have hlo : packedLen f.vc.toNat 0 = 0 := by interval_cases f.vc.toNat <;> rfl
  simp only [exec, execVpxpak]
  rw [vecGo_own hready (by rw [htd, hta]; exact refusePixels_self ..) (by rw [htd, hta]; exact VecFits.withPos hfits),
    stripFlags_ownStrip]
  simp only [hunbound, Bool.false_eq_true, if_false, hwin, h0, hlo, Nat.sub_zero, Nat.zero_add, List.map_id', Nat.mul_zero]
  have hsum : (List.range s.me.len).foldl (fun acc e =>
      if s.me.active f.msk.toNat e then
        acc - nbits acc (pixelBit f.vc.toNat e) w * 2 ^ pixelBit f.vc.toNat e +
          min ((s.me.ownStrip 0 s.me.len f.va.toNat).vals.getD e 0) (2 ^ w - 1) * 2 ^ pixelBit f.vc.toNat e
      else if f.z = 1 then
        acc - nbits acc (pixelBit f.vc.toNat e) w * 2 ^ pixelBit f.vc.toNat e + 0 * 2 ^ pixelBit f.vc.toNat e
      else acc) (digits256 ((List.range n).map fun i => s.me.elem f.vd.toNat .u8 i)) =
      putPixels w (packedPixel f s w) s.me.len old := by
    rw [digits256_elems]
    refine List.foldl_ext _ _ _ fun acc e he => ?_
    rw [hgot e (List.mem_range.1 he), pixelBit_eq hlay]
    simp only [packedPixel, masked]
    split
    · rfl
    · split <;> rfl
  have hclamped : ((List.range s.me.len).any fun e => s.me.active f.msk.toNat e &&
      decide (2 ^ w ≤ (s.me.ownStrip 0 s.me.len f.va.toNat).vals.getD e 0)) =
      (List.range s.me.len).any fun e => s.me.active f.msk.toNat e && decide (2 ^ w ≤ s.me.elem f.va.toNat .u16 e) :=
    List.any_congr rfl fun e => by
      cases ha : s.me.active f.msk.toNat e
      · rfl
      · rw [hgot e (Hart.lt_of_active ha)]
  simp only [w, n] at hsum
  simp only [List.map_singleton, List.headD_cons, hsum]
  refine congrArg _ ((vecWrite_own (fin := id) hready fun _ => ⟨rfl, rfl, rfl⟩).trans
    (congrArg (fun fl => s.setMe (s.me.vecDone f.vd.toNat .u8 0 _ fl id)) ?_))
  exact congrArg (fun b : Bool => if b then fSAT else 0) hclamped
end

section
variable {f : FmtV} {s : State}

theorem packedPixel_lt {w e x : Nat} (h : packedPixel f s w e = some x) : x < 2 ^ w := by
  have hpos : 0 < 2 ^ w := by positivity
  simp only [packedPixel, masked] at h
  split at h
  · cases h
    omega
  · split at h
    · cases h
      exact hpos
    · cases h

/-- The bytes that are put into a register, put together. -/
theorem bsNat_vecDone_bytes {h : Hart} {vd n x : Nat} {fl : Flags} (hvd : vd < 64) (hw : h.vecWf) :
    bsNat ((h.vecDone vd .u8 0 ((List.range n).map fun i => some (nbits x (8 * i) 8)) fl id).vreg[vd]!) 0 n =
      x % 2 ^ (8 * n) := by
  rw [← digits256_elems, ← digits256_nbits]
  refine congrArg digits256 (List.map_congr_left fun i hi => ?_)
  have hi := List.mem_range.1 hi
  rw [← Hart.unit_elem _ _ _ _ rfl, Hart.unit_vecDone (fin := id) hvd hw fun _ => rfl, Nat.sub_zero,
    getD_map_range _ _ hi]
  refine (if_pos ⟨i.zero_le, by simpa using hi⟩).trans ?_
  exact Nat.mod_eq_of_lt (Nat.mod_lt _ (by decide))

theorem nbits_mod {x lo n m : Nat} (h : lo + n ≤ m) : nbits (x % 2 ^ m) lo n = nbits x lo n := by
  refine Nat.eq_of_testBit_eq fun i => ?_
  rw [testBit_nbits, testBit_nbits, Nat.testBit_mod_two_pow]
  by_cases hi : i < n
  · simp [show lo + i < m by omega]
  · simp [hi]
end

/-- Settles O16, on the results of the conversions and the places of pixels in packed bytes. -/
theorem vectorConversion : Obligations.VectorConversion := by
  unfold Obligations.VectorConversion
  refine ⟨?convert, ?pixels⟩
  case convert =>
    intro f s i n plain exact hi src td rm row draws before draw hmod hovr hready hfits hkx
    have hexec : exec i s = .next (runConversion f n plain exact s) ∧ FmtV.sources f n = src := by
      rcases hi with ⟨rfl, rfl, rfl, rfl⟩ | ⟨rfl, rfl, rfl, rfl⟩ <;> exact ⟨rfl, rfl⟩
    obtain ⟨hexec, hsrc⟩ := hexec
    rw [← hsrc] at hready hfits hkx
    refine ⟨fun hsx => ?elements, fun hsx hlen => ?blocks⟩
    case elements =>
      have hbefore : drawsBefore s f.msk.toNat s.me.epr.toNat draws = before := funext fun e => by
        simp [before, drawsBefore, hsx]
      have hdraw : drawAt s f.msk.toNat s.me.epr.toNat draws = draw := funext fun e => by
        rw [drawAt, hbefore]
      obtain ⟨hresult, hseed⟩ := runConversion_elements (td := td) (rm := rm) (d := draws) (plain := plain)
        (exact := exact) rfl rfl rfl hovr hmod hready hfits hkx hsx
      rw [hdraw, hsrc] at hresult
      exact ⟨_, hexec, hresult, by rw [hseed, seedBefore, hbefore]⟩
    case blocks =>
      have hle := Nat.div_le_div_right (c := 16) hready.epr_le
      have hbefore : drawsBefore s f.msk.toNat (s.me.epr.toNat / 16 * 16) draws = before := funext fun e => by
        simp [before, drawsBefore, hsx]
      have hdraw : drawAt s f.msk.toNat (s.me.epr.toNat / 16 * 16) draws = draw := funext fun e => by
        rw [drawAt, hbefore]
      obtain ⟨fl, hrun⟩ := runConversion_blocks (td := td) (rm := rm) (d := draws) (plain := plain)
        (exact := exact) rfl rfl rfl hready hfits hkx hsx hlen
      rw [hdraw, hsrc] at hrun
      obtain ⟨hblock, hpad, hseed, hframe⟩ := blocks_written (vd := f.vd.toNat) (fl := fl)
        (g := blockResult td rm (s.me.active f.msk.toNat) (f.z = 1) (fun e => (exact (row e)).1) draw)
        (w := seedBefore s f.msk.toNat (s.me.epr.toNat / 16 * 16) draws s.me.len) f.vd.isLt hready.wf hsx hle
      refine ⟨_, hexec.trans (congrArg _ hrun), fun b h1 h2 => (hblock b h1 h2).trans ?_,
        fun b k h1 h2 hk hk' hw => hpad b k h1 h2 hk hk' ?_, ?_, hframe⟩
      · by_cases hany : ((List.range 16).any fun k => s.me.active f.msk.toNat (16 * b + k)) = true
        · rw [blockResult, if_pos hany, if_pos hany]
          refine congrArg (fun l => (sxQuantise td rm l).1 % _) (List.map_congr_left fun k _ =>
            ite_congr rfl (fun _ => congrArg (Prod.mk _) ?_) fun _ => rfl)
          cases h : draws <;> simp only [draw, h, Bool.false_eq_true, if_false, if_true]
        · rw [blockResult, if_neg hany, if_neg hany]
          by_cases hz : f.z = 1
          · simp only [hz, decide_true, if_true, Nat.zero_mod]
          · simp only [hz, decide_false, Bool.false_eq_true, if_false]
      · rw [blockResult]
        split
        · rfl
        · next hany =>
          have hz : f.z = 1 := hw.resolve_right fun ⟨k, hk, ha⟩ =>
            hany (List.any_eq_true.2 ⟨k, List.mem_range.2 hk, ha⟩)
          rw [if_pos (decide_eq_true hz)]
          rfl
      · rw [hseed, seedBefore, hbefore]
  case pixels =>
    intro f s hlay lay w n hready hfits
    refine ⟨fun htd hta => ⟨_, exec_vpxunp htd hta hready hfits, ?unpack⟩, fun htd hta hepr => ?pack⟩
    case unpack =>
      exact (vecWhole_result f.vd.isLt hready rfl (governed_length ..)).congr
        (fun e _ he => congrArg _ (getD_governed he rfl)) (noFlags s)
    case pack =>
      have hw := pixLayout_pos lay
      have hput : ∀ e x, packedPixel f s w e = some x → x < 2 ^ w := fun _ _ => packedPixel_lt
      refine ⟨_, exec_vpxpak htd hta hready hfits hepr hlay, ?_⟩
      rw [State.me_setMe, bsNat_vecDone_bytes f.vd.isLt hready.wf]
      refine ⟨fun e he => ?_, fun k hk hout => ?_, fun b => ?_, vecFrame_vecDone f.vd.isLt hready.wf (by simp [n, lay])⟩
      · have hfit : w * e + w ≤ 8 * n := (Nat.mul_le_mul_left w (Nat.succ_le_of_lt he)).trans (pixels_fit hlay s.me.len)
        rw [pixelBit_eq hlay, nbits_mod hfit, nbits_putPixels hw hput he]
        cases hp : packedPixel f s w e <;> rw [packedPixel] at hp <;> rw [hp] <;> rfl
      · rw [Nat.testBit_mod_two_pow, decide_eq_true hk, Bool.true_and, testBit_putPixels hw hput]
        refine if_neg fun hlt => ?_
        have h : k < w * (k / w) ∨ w * (k / w) + w ≤ k := pixelBit_eq hlay (k / w) ▸ hout _ hlt
        have h1 := Nat.mul_div_le k w
        have h2 := Nat.lt_mul_div_succ k hw
        rw [Nat.mul_add, Nat.mul_one] at h2
        exact h.elim (fun h => absurd h (Nat.not_lt.2 h1)) (fun h => absurd h2 (Nat.not_lt.2 h))
      · rw [State.me_setMe, Hart.vecDone_fflags, BitVec.getLsbD_or, Bool.or_eq_true]
        refine or_congr_right ?_
        split
        · next h =>
          obtain ⟨e, he, hclamped⟩ := List.any_eq_true.1 h
          rw [Bool.and_eq_true, decide_eq_true_eq] at hclamped
          exact ⟨fun hb => ⟨hb, e, mem_activeBelow.2 ⟨List.mem_range.1 he, hclamped.1⟩, hclamped.2⟩, fun hb => hb.1⟩
        · next h =>
          refine ⟨fun hb => absurd hb (by simp), fun ⟨_, e, he, hclamped⟩ => absurd ?_ h⟩
          have ⟨hlt, hactive⟩ := mem_activeBelow.1 he
          exact List.any_eq_true.2 ⟨e, List.mem_range.2 hlt, by simpa [hactive] using hclamped⟩

end Sys2Proof.Machine
end

section
/-!
PROOFS. Mask registers (R140 to R142): bitwise instructions, counts, moves between masks and vectors, and the wait.
-/
namespace Sys2Proof.Machine
open Sys2Proof

/-! ## Bits of mask registers -/

theorem getLsbD_bitRun (w lo n i : Nat) : (bitRun w lo n).getLsbD i = decide (i < w ∧ lo ≤ i ∧ i < lo + n) := by
  rw [bitRun, BitVec.getLsbD_ofNat, Nat.testBit_mul_two_pow, Nat.testBit_two_pow_sub_one, ← Bool.decide_and,
    ← Bool.decide_and]
  exact decide_eq_decide.2 ⟨fun ⟨h1, h2, h3⟩ => ⟨h1, h2, by omega⟩, fun ⟨h1, h2, h3⟩ => ⟨h1, h2, by omega⟩⟩

theorem getLsbD_setBit_true {w : Nat} (x : BitVec w) (e i : Nat) :
    (setBit x e true).getLsbD i = (x.getLsbD i || decide (i < w ∧ i = e)) := by
  rw [setBit, if_pos rfl, BitVec.getLsbD_or, BitVec.getLsbD_ofNat, Nat.testBit_two_pow, ← Bool.decide_and]
  exact congrArg _ (decide_eq_decide.2 (by rw [eq_comm (a := e)]))

/-- The mask of the positions below `n` at which a number is not 0 (R141). -/
theorem getLsbD_foldl_setBit {w : Nat} (a : Nat → Nat) (n i : Nat) :
    ((List.range n).foldl (fun (m : BitVec w) e => if a e = 0 then m else setBit m e true) 0).getLsbD i =
      decide (i < w ∧ i < n ∧ a i ≠ 0) := by
  induction n with
  | zero => simp
  | succ n ih =>
    rw [List.range_succ, List.foldl_append, List.foldl_cons, List.foldl_nil]
    by_cases hi : i = n
    · subst hi
      split
      · next ha => rw [ih, decide_eq_false (by omega), decide_eq_false (by tauto)]
      · next ha => rw [getLsbD_setBit_true, ih]; simp [ha]
    · have hlt : i < n + 1 ↔ i < n := by omega
      split
      · rw [ih]; simp only [hlt]
      · rw [getLsbD_setBit_true, ih]; simp [hi, hlt]

theorem Hart.getLsbD_putMask {h : Hart} {md m i : Nat} {w : Nat × Nat} {x : BitVec 16384} (hmd : md < 16)
    (hi : i < 16384) : ((h.putMask md w x).mask m).getLsbD i =
      if m = md ∧ m ≠ 0 ∧ w.1 ≤ i ∧ i < w.2 then x.getLsbD i else (h.mask m).getLsbD i := by
  rw [Hart.putMask, Hart.mask_setMask _ _ _ _ hmd]
  by_cases h0 : m = 0
  · simp [h0, Hart.mask]
  by_cases hm : m = md
  · subst hm
    have hin : (bitRun 16384 w.1 (w.2 - w.1)).getLsbD i = decide (w.1 ≤ i ∧ i < w.2) := by
      rw [getLsbD_bitRun]
      exact decide_eq_decide.2 ⟨fun ⟨_, h2, h3⟩ => ⟨h2, by omega⟩, fun ⟨h2, h3⟩ => ⟨hi, h2, by omega⟩⟩
    rw [if_neg h0, if_pos rfl, BitVec.getLsbD_or, BitVec.getLsbD_and, BitVec.getLsbD_and, BitVec.getLsbD_not, hin]
    by_cases hwin : w.1 ≤ i ∧ i < w.2
    · simp [h0, hwin]
    · simp [hwin, hi]
  · simp [h0, hm]

/-! ## Instructions that write a mask register -/

theorem pastEnd_of_ready {body : State → State} {s : State} (h : s.me.epr = 0 ∨ s.me.epr.toNat < s.me.len) :
    pastEnd body s = body s :=
  if_neg fun ⟨hne, hle⟩ => h.elim hne (Nat.not_lt.2 hle)

/-- A mask instruction that reaches VL completes. -/
theorem maskEnd_of_len {s : State} {x : Hart} (hs : x.steps = false) (hvl : x.vl = s.me.vl) :
    maskEnd s.me.len (s.setMe x) = s.setMe { x with epr := 0, kept := x.others, pc := x.pc + 8, wait := none } := by
  have hlen : (s.setMe x).me.len = s.me.len := by rw [State.me_setMe, Hart.len, hvl, Hart.len]
  rw [maskEnd, hlen, if_neg (Nat.lt_irrefl _), retireVec_of_not_steps _ (by rw [State.me_setMe]; exact hs), State.me_setMe,
    State.setMe_setMe]

/-- A mask instruction that covers the positions from `epr` to VL and completes. -/
theorem maskWrites_maskEnd {s : State} {md : Nat} {x : BitVec 16384} {g : Nat → Bool} (hs : s.me.steps = false)
    (hmd : md < 16) (hg : ∀ i, i < 16384 → i < s.me.len → x.getLsbD i = g i) :
    MaskWrites md g s (maskEnd s.me.len (s.modMe fun h => h.putMask md (s.me.epr.toNat, s.me.len) x)) := by
  have hend : maskEnd s.me.len (s.modMe fun h => h.putMask md (s.me.epr.toNat, s.me.len) x) =
      s.setMe { s.me.putMask md (s.me.epr.toNat, s.me.len) x with
        epr := 0, kept := s.me.others, pc := s.me.pc + 8, wait := none } := by
    rw [State.modMe, maskEnd_of_len (by rw [Hart.putMask, Hart.setMask_steps]; exact hs)
      (by rw [Hart.putMask, Hart.setMask_vl])]
    simp only [Hart.putMask, Hart.others, Hart.setMask_kept, Hart.setMask_level, Hart.setMask_pc]
  rw [hend]
  refine ⟨fun m i _ hi => ?_, ?_, ?_, onlyHart_setMe _ _⟩
  · rw [State.me_setMe]
    refine (Hart.getLsbD_putMask hmd hi).trans ?_
    split
    · next h =>
      obtain ⟨-, -, -, hlen⟩ := h
      exact hg i hi hlen
    · rfl
  · unfold VecDone
    rw [State.me_setMe]
    exact ⟨rfl, rfl, rfl, rfl⟩
  · rw [State.me_setMe]
    unfold Hart.putMask Hart.setMask
    dsimp only
    split <;> rfl

theorem maskWrites_maskOp {f : FmtV} {s : State} {op : BitVec 16384 → BitVec 16384 → BitVec 16384} {g : Nat → Bool}
    (hs : s.me.steps = false) (hepr : s.me.epr = 0 ∨ s.me.epr.toNat < s.me.len) (hmd : f.vd.toNat < 16)
    (hg : ∀ i, i < 16384 → (op (s.me.mask f.va.toNat) (s.me.mask f.vb.toNat)).getLsbD i = g i) :
    MaskWrites f.vd.toNat g s (maskOp f op s) := by
  rw [maskOp, pastEnd_of_ready hepr]
  simp only [Hart.windowBy, Hart.elemSteps_of_not_steps _ hs, Bool.false_eq_true, if_false]
  exact maskWrites_maskEnd hs hmd fun i hi _ => hg i hi

theorem exec_mset {f : FmtV} {s : State} (hs : s.me.steps = false)
    (hepr : s.me.epr = 0 ∨ s.me.epr.toNat < s.me.len) (hmd : f.vd.toNat < 16)
    (hsx : (s.me.tagOf f.va.toNat).isSx = false) (hfits : VecFits s [s.me.tagOf f.va.toNat]) :
    ∃ t, exec (.mset f) s = .next t ∧
      MaskWrites f.vd.toNat (fun i => decide (s.me.elem f.va.toNat (s.me.tagOf f.va.toNat) i ≠ 0)) s t := by
  have hcap : capCheck s [(s.me.tagOf f.va.toNat, 1)] = none := capCheck_none _ _ (by simpa [VecFits] using hfits)
  refine ⟨_, rfl, ?_⟩
  dsimp only
  rw [pastEnd_of_ready hepr]
  simp only [hsx, hcap, Bool.false_eq_true, if_false, firstTrap, Hart.window_of_not_steps _ hs]
  refine maskWrites_maskEnd hs hmd fun i hi hlen => ?_
  rw [getLsbD_foldl_setBit]
  exact decide_eq_decide.2 ⟨fun h => h.2.2, fun h => ⟨hi, hlen, h⟩⟩

/-! ## MWAIT -/

theorem mem_clearBits {m : BitVec 16384} {b n i : Nat} :
    i ∈ clearBits m b n ↔ i < 16384 ∧ b ≤ i ∧ i < b + n ∧ m.getLsbD i = false := by
  simp only [clearBits, List.mem_filter, List.mem_map, List.mem_range, Bool.not_eq_true']
  constructor
  · rintro ⟨⟨k, hk, rfl⟩, hb⟩
    exact ⟨by omega, by omega, by omega, hb⟩
  · rintro ⟨h1, h2, h3, hb⟩
    exact ⟨⟨i - b, by omega, by omega⟩, hb⟩

/-- A wait whose named bits are set ends, and its instruction completes (R142). -/
theorem mwait_of_set {f : FmtV} {s : State} (hs : s.me.steps = false)
    (hset : ∀ i, i < 16384 → (s.sr f.va).toNat ≤ i → i < (s.sr f.va).toNat + (s.sr f.vb).toNat →
      (s.me.mask f.vd.toNat).getLsbD i = true) :
    ∃ gs, mwait f s = { s.setMe { s.me with pc := s.me.pc + 8, epr := 0, kept := s.me.others, wait := none } with
      groups := gs } ∧ GroupRuns s (mwait f s) := by
  obtain ⟨gs, hend, hgs⟩ := endWaitOf_spec s.cur s
  have hclear : clearBits (s.me.mask f.vd.toNat) (s.sr f.va).toNat (s.sr f.vb).toNat = [] :=
    List.eq_nil_iff_forall_not_mem.2 fun i hi => by
      obtain ⟨h1, h2, h3, hb⟩ := mem_clearBits.1 hi
      exact Bool.false_ne_true (hb.symm.trans (hset i h1 h2 h3))
  have hdone : mwait f s = { s.setMe { s.me with pc := s.me.pc + 8, epr := 0, kept := s.me.others, wait := none } with
      groups := gs } := by
    unfold mwait
    simp only [hclear]
    rw [endWait, hend]
    exact retireVec_of_not_steps _ hs
  exact ⟨gs, hdone, by rw [hdone]; exact hgs⟩

theorem clearBits_eq_cons {m : BitVec 16384} {b n : Nat} (h : ((List.range 16384).filter fun i =>
      decide (b ≤ i ∧ i < b + n)).all (fun i => m.getLsbD i) = false) : ∃ i l, clearBits m b n = i :: l := by
  obtain ⟨i, hi, hb⟩ := List.all_eq_false.1 h
  rw [List.mem_filter, List.mem_range, decide_eq_true_eq] at hi
  have hmem : i ∈ clearBits m b n := mem_clearBits.2 ⟨hi.1, hi.2.1, hi.2.2, by simpa using hb⟩
  exact List.exists_cons_of_ne_nil (List.ne_nil_of_mem hmem)

/-- Nothing that belongs to the hart ends its wait. -/
theorem waitFault_eq_none {s : State} (md : Nat) (clear : List Nat) (hl : s.me.latches = []) (hb : s.me.binds = [])
    (hc : s.calls = []) : waitFault s.cur md clear s = none := by
  have hl' : (s.hart s.cur).latches = [] := hl
  have hb' : (s.hart s.cur).binds = [] := hb
  simp [waitFault, latchTrap, hl', hb', hc, deliverLatch]

/-- A latched fault of the hart's mask register ends its wait (R447). -/
theorem waitFault_of_latch {s : State} {l : Latch} {md : Nat} (clear : List Nat) (hl : s.me.latches = [l])
    (hlm : l.lm = md) (hd : l.delivered = false) (hw : ∀ vt, l.work = .block vt → s.me.binding? vt = none) :
    waitFault s.cur md clear s = some (s.setMe { s.me with latches := [{ l with delivered := true }] },
      { Trap.vector .stream l.tval with code := l.cause }) := by
  have hl' : (s.hart s.cur).latches = [l] := hl
  have hmeets : latchMeets s.cur clear s l = true := by
    unfold latchMeets
    split
    · next vt hvt =>
      have hnone : (s.hart s.cur).binding? vt = none := hw vt hvt
      rw [hnone]
    · rfl
  simp only [waitFault, latchTrap, hl', deliverLatch, hlm, hmeets, hd, decide_true, Bool.not_false, Bool.and_self, if_true]
  rfl

/-- The hart's wait changes no group where its group does not wait. -/
theorem endWait_of_not_waiting {s : State} (h : ∀ g x, s.groupOf s.cur = some (g, x) → x.st ≠ .waiting) :
    endWait s = s := by
  unfold endWait endWaitOf
  split
  · next g x hg => exact if_neg (h g x hg)
  · rfl

/-- The instructions that give a mask register or a scalar, and the wait. -/
theorem maskRegistersRule : MaskRegistersRule := by
  unfold MaskRegistersRule
  intro f s hs hepr md a b set named all
  have hset : set = setBits (s.me.mask f.va.toNat) s.me.len := rfl
  refine ⟨fun hmd => ⟨_, rfl, maskWrites_maskOp hs hepr hmd fun i _ => BitVec.getLsbD_and⟩,
    fun hmd => ⟨_, rfl, maskWrites_maskOp hs hepr hmd fun i _ => BitVec.getLsbD_or⟩,
    fun hmd => ⟨_, rfl, maskWrites_maskOp hs hepr hmd fun i _ => BitVec.getLsbD_xor⟩,
    fun hmd => ⟨_, rfl, maskWrites_maskOp hs hepr hmd fun i hi => by simp [a, b, hi]⟩,
    fun hmd => ⟨_, rfl, maskWrites_maskOp hs hepr hmd fun i hi => by simp [a, hi]⟩,
    ⟨_, congrArg Host.Outcome.next (pastEnd_of_ready hepr), vecWrites_retireVec f.vd _ hs⟩,
    ⟨_, congrArg Host.Outcome.next (pastEnd_of_ready hepr), ?first⟩, fun hmd hsx hfits => exec_mset hs hepr hmd hsx hfits,
    fun _ hall => ?set, fun hall hl hb hc hp => ?waits, fun hall hu l c hl hlm hd hw hcause hg => ?latched,
    fun h hwait hsteps hbits => ?complete⟩
  case first =>
    rw [hset]
    exact vecWrites_retireVec f.vd _ hs
  case set =>
    obtain ⟨gs, hdone, hruns⟩ := mwait_of_set (f := f) hs fun i h1 h2 h3 =>
      List.all_eq_true.1 hall i (List.mem_filter.2 ⟨List.mem_range.2 h1, decide_eq_true ⟨h2, h3⟩⟩)
    refine ⟨_, rfl, ?_, ?_, hruns⟩
    · rw [hdone]
      exact State.me_setMe s _
    · rw [hdone]
      exact onlyHart_setMe s _
  case waits =>
    obtain ⟨i, l, hclear⟩ := clearBits_eq_cons (m := s.me.mask f.vd.toNat) hall
    refine ⟨waitAt (.mwait f) s, ?_, waits_waitAt _ hp⟩
    simp only [exec, execMwait, mwait, hclear, waitFault_eq_none _ _ hl hb hc]
  case latched =>
    obtain ⟨i, l', hclear⟩ := clearBits_eq_cons (m := s.me.mask f.vd.toNat) hall
    let h : Hart := { s.me with latches := [{ l with delivered := true }] }
    let s1 := s.setMe h
    let t : Trap := { Trap.vector .stream l.tval with code := l.cause }
    have hend : endWait s1 = s1 := endWait_of_not_waiting fun g x hx =>
      hg g x ((State.groupOf_setMe (x := h) rfl).symm.trans hx)
    have hme : s1.me = h := State.me_setMe s h
    have hlevel : s1.me.level = .u := (congrArg Hart.level hme).trans hu
    have hpc : s1.me.pc = s.me.pc := (congrArg Hart.pc hme).trans rfl
    refine ⟨takeTrap t s1, ?_, ?_⟩
    · simp only [exec, execMwait, mwait, hclear, waitFault_of_latch (md := f.vd.toNat) _ hl hlm hd hw]
      exact congrArg (fun u => Host.Outcome.next (takeTrap t u)) hend
    · rw [takeTrap_at_u _ _ hlevel, ← hpc]
      exact entersHandler_enterHandler (t := t) hcause s1
  case complete =>
    obtain ⟨gs, hdone, -⟩ := mwait_of_set (f := f) (s := { s with cur := h }) hsteps hbits
    refine ⟨_, rfl, ?_⟩
    simp only [hwait]
    rw [hdone]
    exact ⟨rfl, State.me_setMe { s with cur := h } _, fun j hj => State.hart_setMe_other { s with cur := h } _ hj⟩

/-! ## MGET -/

/-- A mask instruction that writes units of a vector register and completes. -/
theorem maskEnd_setUnits {s : State} (hs : s.me.steps = false) (vd : Nat) (td : Tag) (i : Nat)
    (outs : List (Option Nat)) : maskEnd s.me.len (s.modMe fun h => h.setUnits vd td i outs) =
      s.setMe (s.me.vecDone vd td i outs 0 id) := by
  have hrest := Hart.setUnits_rest vd td i outs s.me
  have hsteps : (Hart.setUnits vd td i outs s.me).steps = s.me.steps := (congrArg Hart.steps hrest :)
  rw [State.modMe, maskEnd_of_len (hsteps.trans hs) (congrArg Hart.vl hrest :), Hart.vecDone]
  simp only [id_eq, show ∀ x : Flags, x ||| 0 = x from fun _ => BitVec.or_zero]

theorem maskToVectorRule : MaskToVectorRule := by
  unfold MaskToVectorRule
  intro f s td hready hfits hsx hkx hepr
  have h0 : s.me.epr.toNat = 0 := by simp [hepr]
  have hcap : capCheck s [(td, 0)] = none := capCheck_none _ _ (by simpa [VecFits] using hfits)
  have hpacked : td.packed = false := Tag.packed_eq_false ⟨hsx, hkx⟩
  have hresult := vecResult_vecDone (s := s) (fl := 0) f.vd.isLt hready.wf hsx hready.epr_le (outs :=
    (List.range s.me.len).map fun e =>
      some (if (s.me.mask f.va.toNat).getLsbD e then (td.write .rne false 0 (.int 1)).1 else 0)) (by simp [h0])
  rw [h0] at hresult
  refine ⟨_, congrArg Host.Outcome.next (pastEnd_of_ready (.inl hepr)), ?_⟩
  dsimp only
  simp only [td] at *
  simp only [hpacked, hcap, Bool.false_eq_true, if_false, firstTrap, Hart.window_of_not_steps _ hready.not_steps, h0,
    Nat.sub_zero, Nat.zero_add]
  rw [maskEnd_setUnits hready.not_steps]
  exact hresult.congr (fun e _ he => by rw [Nat.sub_zero, getD_map_range _ _ he]) fun b => by simp

/-- Settles O20, from the rules of the masks and of `MGET`. -/
theorem maskInstructions : Obligations.MaskInstructions := ⟨maskRegistersRule, maskToVectorRule⟩

end Sys2Proof.Machine
end

section
/-!
PROOFS. Vector length, first lanes and tags (R115, R116, R207 to R209, R211).
-/
namespace Sys2Proof.Machine
open Sys2Proof

/-! ## Lane groups as sets -/

theorem popCount_eq_length {w : Nat} (x : BitVec w) : popCount x = (setBits x w).length := by
  have hfold (l : List Nat) (n : Nat) :
      l.foldl (fun n i => n + b2n (x.getLsbD i)) n = n + (l.filter fun i => x.getLsbD i).length := by
    induction l generalizing n with
    | nil => rfl
    | cons i l ih =>
      rw [List.foldl_cons, ih]
      cases hi : x.getLsbD i
      · simp [hi, b2n]
      · simp only [hi, b2n, List.filter_cons_of_pos, List.length_cons, if_true]
        omega
  exact (hfold _ 0).trans (Nat.zero_add _)

theorem getLsbD_foldl_setBit_mem {w : Nat} (l : List Nat) (r : BitVec w) (j : Nat) :
    (l.foldl (fun r i => setBit r i true) r).getLsbD j = (r.getLsbD j || decide (j < w ∧ j ∈ l)) := by
  induction l generalizing r with
  | nil => simp
  | cons i l ih =>
    rw [List.foldl_cons, ih, getLsbD_setBit_true, Bool.or_assoc, ← Bool.decide_or]
    exact congrArg _ (decide_eq_decide.2 (by rw [List.mem_cons]; tauto))

theorem mem_setBits {w n i : Nat} {x : BitVec w} : i ∈ setBits x n ↔ i < n ∧ x.getLsbD i = true := by
  simp [setBits]

theorem getLsbD_lowest (q : BitVec 8) (n j : Nat) : (lowest q n).getLsbD j = decide (j ∈ (setBits q 8).take n) := by
  rw [lowest, getLsbD_foldl_setBit_mem]
  have hlt (h : j ∈ (setBits q 8).take n) : j < 8 := (mem_setBits.1 (List.mem_of_mem_take h)).1
  simp only [BitVec.ofNat_eq_ofNat, BitVec.getLsbD_zero, Bool.false_or]
  exact decide_eq_decide.2 ⟨fun h => h.2, fun h => ⟨hlt h, h⟩⟩

/-- The lowest lane groups of a set are among the set. -/
theorem lowest_and_not (q : BitVec 8) (n : Nat) : lowest q n &&& ~~~q = 0 := by
  refine BitVec.eq_of_getLsbD_eq fun j hj => ?_
  rw [BitVec.getLsbD_and, BitVec.getLsbD_not, getLsbD_lowest]
  by_cases hmem : j ∈ (setBits q 8).take n
  · have hq := (mem_setBits.1 (List.mem_of_mem_take hmem)).2
    simp [hq]
  · simp [hmem]

theorem popCount_lowest (q : BitVec 8) (n : Nat) : popCount (lowest q n) = min n (popCount q) := by
  have hnodup : (setBits q 8).Nodup := List.nodup_range.filter _
  have hperm : (setBits (lowest q n) 8).Perm ((setBits q 8).take n) := by
    refine (List.perm_ext_iff_of_nodup (List.nodup_range.filter _) (hnodup.sublist (List.take_sublist ..))).2 fun j => ?_
    refine mem_setBits.trans ?_
    rw [getLsbD_lowest, decide_eq_true_eq]
    exact ⟨fun h => h.2, fun h => ⟨(mem_setBits.1 (List.mem_of_mem_take h)).1, h⟩⟩
  rw [popCount_eq_length, popCount_eq_length, hperm.length_eq, List.length_take]

/-! ## Taking lanes -/

/-- Nothing changes but the counts of accesses. -/
def CountsOnly (s t : State) : Prop := ∃ m, t = { s with hot := m }

theorem CountsOnly.refl (s : State) : CountsOnly s s := ⟨s.hot, rfl⟩

theorem CountsOnly.trans {s t u : State} : CountsOnly s t → CountsOnly t u → CountsOnly s u := by
  rintro ⟨_, rfl⟩ ⟨m, rfl⟩
  exact ⟨m, rfl⟩

theorem CountsOnly.foldl {α : Type} {f : State → α → State} (hf : ∀ s a, CountsOnly s (f s a)) (l : List α) (s : State) :
    CountsOnly s (l.foldl f s) := by
  induction l generalizing s with
  | nil => exact .refl s
  | cons a l ih => exact (hf s a).trans (ih (f s a))

theorem countsOnly_countHot (asid : Nat) (va : Option Nat) (pa : Nat) (s : State) :
    CountsOnly s (countHot asid va pa s) := by
  unfold countHot countHotBy
  split
  · exact ⟨_, rfl⟩
  · exact .refl s

theorem countsOnly_countRefill (g : Nat) (s : State) : CountsOnly s (countRefill g s) := by
  unfold countRefill
  split
  · exact .refl s
  · exact .foldl (fun _ _ => .foldl (fun _ _ => .foldl (fun _ _ => countsOnly_countHot ..) _ _) _ _) _ _

theorem State.groupOf_eq_some_iff {s : State} {h g : Nat} {x : Group} :
    s.groupOf h = some (g, x) ↔ (s.hart h).group = some g ∧ s.group? g = some x := by
  unfold State.groupOf
  cases (s.hart h).group with
  | none => simp
  | some j =>
    rw [Option.some_inj]
    simp only [Option.map_eq_some_iff, Prod.mk.injEq]
    constructor
    · rintro ⟨y, hy, rfl, rfl⟩
      exact ⟨rfl, hy⟩
    · rintro ⟨rfl, hy⟩
      exact ⟨x, hy, rfl, rfl⟩

theorem refillBolts_spec {g : Nat} {s : State} {y : Group} (hy : s.group? g = some y) :
    ∃ m b, refillBolts g s = State.setGroup { s with hot := m } g { y with bolts := b } := by
  obtain ⟨m, hm⟩ := countsOnly_countRefill g s
  have hg : State.group? { s with hot := m } g = some y := hy
  rw [refillBolts, hm, State.modGroup]
  simp only [hg]
  exact ⟨m, _, rfl⟩

/-- A group that takes lane groups holds them, and no hart changes. -/
theorem takeQuads_spec {g : Nat} {q : BitVec 8} {s : State} {x : Group} (hx : s.myGroup = some (g, x)) :
    (takeQuads g q s).me = s.me ∧ ∃ b, (takeQuads g q s).myGroup = some (g, { x with quads := q, bolts := b }) := by
  obtain ⟨hmine, hgx⟩ := State.groupOf_eq_some_iff.1 hx
  unfold takeQuads
  simp only [hgx]
  obtain ⟨m, b, hb⟩ := refillBolts_spec (s := (s.setCore x.core _).setGroup g { x with quads := q }) (g := g)
    ((smGet?_smPut ..).trans (if_pos rfl))
  rw [hb]
  exact ⟨rfl, b, State.groupOf_eq_some_iff.2 ⟨hmine, (smGet?_smPut ..).trans (if_pos rfl)⟩⟩

/-- A READY group that runs again keeps its lanes, and no hart changes. -/
theorem leaveReady_spec {g : Nat} {s : State} {x : Group} (hx : s.myGroup = some (g, x)) :
    (leaveReady s).me = s.me ∧ ∃ y, (leaveReady s).group? g = some y ∧ y.quads = x.quads := by
  unfold leaveReady
  simp only [hx]
  split
  · refine ⟨rfl, { x with st := .running }, ?_, rfl⟩
    rw [State.group?, State.setGroup_groups, smGet?_smPut, if_pos rfl]
  · exact ⟨rfl, x, State.group?_of_groupOf hx, rfl⟩

/-! ## SETVL -/

theorem retireVec_setvl {s : State} (hs : s.me.steps = false) (sd : BitVec 6) (v : Word) (vl : BitVec 15) :
    retireVec ((s.setSr sd v).modMe fun h => { h with vl := vl, vw := false }) = s.setMe { s.me.set sd v with
      vl := vl, vw := false, epr := 0, kept := s.me.others, pc := s.me.pc + 8, wait := none } := by
  rw [retireVec_of_not_steps _ (by rw [State.me_modMe, State.me_setSr]; exact (Hart.set_steps ..).trans hs),
    State.me_modMe, State.me_setSr, State.modMe, State.setSr, State.modMe, State.setMe_setMe, State.setMe_setMe]
  simp only [Hart.others, Hart.set_kept, Hart.set_level, Hart.set_pc]

/-- The scalar that `SETVL` writes, with the length put back. -/
theorem vecWrites_setvl {s : State} (hs : s.me.steps = false) (sd : BitVec 6) (v : Word) (vl : BitVec 15) :
    let t := retireVec ((s.setSr sd v).modMe fun h => { h with vl := vl, vw := false })
    t.me.vl = vl ∧ t.me.vw = false ∧ VecWrites sd v s (t.setMe { t.me with vl := s.me.vl, vw := s.me.vw }) := by
  intro t
  have ht : t = s.setMe _ := retireVec_setvl hs sd v vl
  rw [ht, State.me_setMe]
  refine ⟨rfl, rfl, ?_⟩
  have hvl : (s.me.set sd v).vl = s.me.vl := by simp
  have hvw : (s.me.set sd v).vw = s.me.vw := by
    unfold Hart.set
    split
    · rfl
    · split <;> rfl
  have hback : (s.setMe { s.me.set sd v with
      vl := vl, vw := false, epr := 0, kept := s.me.others, pc := s.me.pc + 8, wait := none }).setMe { s.me.set sd v with
      vl := s.me.vl, vw := s.me.vw, epr := 0, kept := s.me.others, pc := s.me.pc + 8, wait := none } =
      retireVec (s.setSr sd v) := by
    rw [State.setMe_setMe, retireVec_of_not_steps _ (by simpa using hs), State.me_setSr, State.setSr, State.modMe,
      State.setMe_setMe, Hart.others, Hart.others, Hart.set_kept, Hart.set_level, Hart.set_pc, ← hvl, ← hvw]
  exact hback ▸ vecWrites_retireVec sd v hs

theorem setvlStops_eq_false {s : State} {g : Nat} {x : Group} (hx : s.myGroup = some (g, x)) (hpre : x.pre = false) :
    setvlStops s = false := by
  simp [setvlStops, hx, hpre]

theorem grantLanes_of_grant {s : State} {g : Nat} {x : Group} (hx : s.myGroup = some (g, x)) (hq : x.quads ≠ 0)
    (hrcl : x.rcl = false) : grantLanes s = some s := by
  have hown : ownOffer g x s = s := if_neg fun h => hq h.1
  simp only [grantLanes, hx, hown, if_neg hq, hrcl, Bool.false_eq_true, if_false, ite_self]

/-- A group without lanes takes the lowest free lane groups, where they are enough (R211). -/
theorem grantLanes_of_free {s : State} {g : Nat} {x : Group} (hx : s.myGroup = some (g, x)) (hq : x.quads = 0)
    (hgrow : x.growing = false) (hmatrix : ∀ h ∈ x.harts, (s.hart h).matrix = false)
    (hfree : x.lmin ≤ popCount (freeQuads s x.core)) : grantLanes s =
      some (takeQuads g (lowest (freeQuads s x.core) (min x.lmax (popCount (freeQuads s x.core)))) s) := by
  have hany : (x.harts.any fun h => (s.hart h).matrix) = false := by simpa using hmatrix
  have hown : ownOffer g x s = s := if_neg fun h => Bool.false_ne_true (hgrow.symm.trans h.2)
  simp only [grantLanes, hx, hown, hany, if_pos hq, if_neg (Nat.not_lt.2 hfree), if_pos hfree, Bool.false_eq_true,
    if_false]

/-! ## Tags -/

theorem Tag.ofCode_code (t : Tag) : Tag.ofCode t.code = t := by cases t <;> rfl

theorem Tag.code_lt (t : Tag) : t.code < 2 ^ 4 := by cases t <;> decide

theorem nbits_putBits_same {acc p w x : Nat} (hx : x < 2 ^ w) : nbits (putBits acc p w x) p w = x := by
  refine Nat.eq_of_testBit_eq fun i => ?_
  rw [testBit_nbits, testBit_putBits hx]
  by_cases hi : i < w
  · simp [hi]
  · have hbig : x < 2 ^ i := hx.trans_le (Nat.pow_le_pow_right (by decide) (by omega))
    simp [hi, Nat.testBit_lt_two_pow hbig]

theorem nbits_putBits_other {acc p q w n x : Nat} (hx : x < 2 ^ w) (h : q + n ≤ p ∨ p + w ≤ q) :
    nbits (putBits acc p w x) q n = nbits acc q n := by
  refine Nat.eq_of_testBit_eq fun i => ?_
  rw [testBit_nbits, testBit_nbits, testBit_putBits hx]
  by_cases hi : i < n
  · rw [if_neg (by omega)]
  · simp [hi]

theorem Hart.tagOf_setTag {h : Hart} {v : Nat} (hv : v < 64) (t : Tag) (u : Nat) :
    (h.setTag v t).tagOf u = if u = v then t else h.tagOf u := by
  have hput : (wd (putBits (h.tagtab[v / 16]!).toNat (4 * (v % 16)) 4 t.code)).toNat =
      putBits (h.tagtab[v / 16]!).toNat (4 * (v % 16)) 4 t.code % 2 ^ 64 := BitVec.toNat_ofNat ..
  have hset : (h.setTag v t).tagtab = h.tagtab.set! (v / 16)
      (wd (putBits (h.tagtab[v / 16]!).toNat (4 * (v % 16)) 4 t.code)) := rfl
  rw [Hart.tagOf, hset, vector_get_set _ _ _ _ (by omega)]
  by_cases hw : u / 16 = v / 16
  · rw [if_pos hw, fld, hput, nbits_mod (by omega)]
    by_cases huv : u = v
    · rw [if_pos huv, huv, nbits_putBits_same t.code_lt, Tag.ofCode_code]
    · rw [if_neg huv, nbits_putBits_other t.code_lt (by omega), Hart.tagOf, hw, fld]
  · rw [if_neg hw, if_neg (fun huv => hw (by rw [huv]))]
    rfl

/-- Setting tags changes the tag table alone. -/
theorem Hart.foldl_setTag_rest (l : List Nat) (t : Tag) (h : Hart) :
    { l.foldl (fun h v => h.setTag v t) h with tagtab := h.tagtab } = h := by
  induction l generalizing h with
  | nil => rfl
  | cons v l ih =>
    have h1 := ih (h.setTag v t)
    have h2 := congrArg (fun x : Hart => { x with tagtab := h.tagtab }) h1
    exact h2

theorem Hart.tagOf_foldl_setTag {l : List Nat} (hl : ∀ v ∈ l, v < 64) (t : Tag) (h : Hart) (u : Nat) :
    (l.foldl (fun h v => h.setTag v t) h).tagOf u = if u ∈ l then t else h.tagOf u := by
  induction l generalizing h with
  | nil => simp
  | cons v l ih =>
    rw [List.foldl_cons, ih (fun w hw => hl w (List.mem_cons_of_mem _ hw)),
      Hart.tagOf_setTag (hl v List.mem_cons_self) t u]
    by_cases hmem : u ∈ l
    · simp [hmem]
    · simp [hmem]

/-- The registers that `SETTAG` names (R115). -/
theorem mem_tagRegs {vd vc v : Nat} : v ∈ (List.range (vc + 1)).map (fun i => vd + i) ↔ vd ≤ v ∧ v ≤ vd + vc := by
  simp only [List.mem_map, List.mem_range]
  exact ⟨fun ⟨i, hi, h⟩ => by omega, fun h => ⟨v - vd, by omega, by omega⟩⟩

/-- The first register that is bound among those that `SETTAG` names. -/
theorem find_tagRegs {vd vc v : Nat} {p : Nat → Bool} (h1 : vd ≤ v) (h2 : v ≤ vd + vc) (hv : p v = true)
    (hp : ∀ w, vd ≤ w → w < v → p w = false) : ((List.range (vc + 1)).map fun i => vd + i).find? p = some v := by
  have hfind : (List.range (vc + 1)).find? (p ∘ fun i => vd + i) = some (v - vd) := by
    refine List.find?_range_eq_some.2 ⟨?_, List.mem_range.2 (by omega), fun j hj => ?_⟩
    · simpa [Nat.add_sub_cancel' h1] using hv
    · simpa using hp (vd + j) (by omega) (by omega)
  rw [List.find?_map, hfind, Option.map_some, Nat.add_sub_cancel' h1]

/-- Settles O21: the grant that `SETVL` finds, and the tags that `SETTAG` sets in turn. -/
theorem lengthAndTags : Obligations.LengthAndTags := by
  unfold Obligations.LengthAndTags
  refine ⟨?grant, ?first, ?tags, ?bound⟩
  case grant =>
    intro f s g x hs hx hpre hq hrcl hst tag req avl cap vl
    have hmvl : s.mvl tag = if tag.isSx then cap / 16 * 16 else cap := by
      rw [State.mvl, hx]
      rfl
    have havl : avlOf tag req = avl := by simp only [avlOf, roundUp, avl, Nat.add_sub_assoc, Nat.reduceLeDiff]
    have hready : leaveReady s = s := by simp [leaveReady, hx, hst]
    have hexec : exec (.setvl f) s = .next (retireVec ((s.setSr f.vd (BitVec.ofNat 64 vl)).modMe fun h =>
        { h with vl := BitVec.ofNat 15 vl, vw := false })) := by
      simp only [exec, execSetvl, setvlStops_eq_false hx hpre, grantLanes_of_grant hx hq hrcl, hready,
        Bool.false_eq_true, if_false]
      simp only [vl, ← hmvl, ← havl]
      rfl
    exact ⟨_, hexec, vecWrites_setvl hs f.vd _ _⟩
  case first =>
    intro f s g x hs hx hpre hq hgrow hmatrix hfree
    let q := lowest (freeQuads s x.core) (min x.lmax (popCount (freeQuads s x.core)))
    obtain ⟨hme, b, hmy⟩ := takeQuads_spec (q := q) hx
    obtain ⟨hme', y, hy, hquads⟩ := leaveReady_spec hmy
    have hsteps : (leaveReady (takeQuads g q s)).me.steps = false := by rw [hme', hme, hs]
    obtain ⟨v, vl, hexec⟩ : ∃ v vl, exec (.setvl f) s = .next (retireVec
        (((leaveReady (takeQuads g q s)).setSr f.vd v).modMe fun h => { h with vl := vl, vw := false })) := by
      simp only [exec, execSetvl, setvlStops_eq_false hx hpre, grantLanes_of_free hx hq hgrow hmatrix hfree,
        Bool.false_eq_true, if_false]
      exact ⟨_, _, rfl⟩
    rw [retireVec_setvl hsteps] at hexec
    refine ⟨_, y, hexec, hy, ?_, ?_, ?_⟩
    · rw [hquads]
      exact lowest_and_not _ _
    · rw [hquads]
      exact (popCount_lowest _ _).trans (min_eq_left (min_le_right _ _))
    · rw [State.me_setMe, hme', hme]
      exact ⟨rfl, rfl, rfl⟩
  case tags =>
    intro f s hs hvc hunbound
    have hregs : ∀ v ∈ (List.range (f.vc.toNat + 1)).map (f.vd.toNat + ·), v < 64 := fun v hv => by
      have := mem_tagRegs.1 hv
      omega
    have hnone : ((List.range (f.vc.toNat + 1)).map (f.vd.toNat + ·)).find? (fun v => (s.me.binding? v).isSome) = none :=
      List.find?_eq_none.2 fun v hv => by
        obtain ⟨h1, h2⟩ := mem_tagRegs.1 hv
        simp [hunbound v h1 h2]
    let h := ((List.range (f.vc.toNat + 1)).map (f.vd.toNat + ·)).foldl
      (fun h v => h.setTag v (Tag.ofCode f.vb.toNat)) s.me
    have hrest : { h with tagtab := s.me.tagtab } = s.me := Hart.foldl_setTag_rest ..
    have hsteps : h.steps = false := (congrArg Hart.steps hrest).trans hs
    have hothers : h.others = s.me.others := (congrArg Hart.others hrest :)
    have hpc : h.pc = s.me.pc := (congrArg Hart.pc hrest :)
    have hexec : exec (.settag f) s =
        .next (s.setMe { h with epr := 0, kept := s.me.others, pc := s.me.pc + 8, wait := none }) := by
      simp only [exec, execSettag, hnone]
      rw [retireVec_of_not_steps _ (by rw [State.me_modMe]; exact hsteps), State.me_modMe, State.modMe, State.setMe_setMe,
        ← hothers, ← hpc]
    refine ⟨_, hexec, fun v hv => ?_, ?_, ?_, onlyHart_setMe _ _⟩
    · rw [State.me_setMe]
      exact (Hart.tagOf_foldl_setTag hregs _ _ v).trans (if_congr mem_tagRegs rfl rfl)
    · unfold VecDone
      rw [State.me_setMe]
      exact ⟨rfl, rfl, rfl, rfl⟩
    · rw [State.me_setMe]
      exact congrArg (fun x : Hart =>
        { x with pc := s.me.pc, epr := s.me.epr, kept := s.me.kept, wait := s.me.wait }) hrest
  case bound =>
    intro f s v hu h1 h2 hbound hfirst
    have hfind := find_tagRegs (p := fun v => (s.me.binding? v).isSome) h1 h2 (Option.isSome_iff_ne_none.2 hbound)
      fun w hw hlt => by simp [hfirst w hw hlt]
    refine ⟨takeTrap (bindTrap v 0) s, ?_, ?_⟩
    · simp only [exec, execSettag, hfind]
    · rw [takeTrap_at_u _ _ hu]
      exact entersHandler_enterHandler (t := bindTrap v 0) rfl s

end Sys2Proof.Machine
end

section
/-!
PROOFS. What translations, and reads and writes at virtual addresses, leave unchanged (R98, R150, R364 to R367), and which
translations stand whatever is written to memory.
-/
namespace Sys2Proof.Machine
open Sys2Proof

/-! ## Harts, groups and transfers stay -/

/-- The harts, their groups and the tile copies of two states are the same. -/
structure SameUnits (s t : State) : Prop where
  harts  : t.harts = s.harts
  groups : t.groups = s.groups
  copies : t.copies = s.copies

theorem SameUnits.refl (s : State) : SameUnits s s := ⟨rfl, rfl, rfl⟩

theorem SameUnits.trans {s t u : State} (h : SameUnits s t) (k : SameUnits t u) : SameUnits s u :=
  ⟨k.harts.trans h.harts, k.groups.trans h.groups, k.copies.trans h.copies⟩

/-- The state that an operation answers. -/
theorem SameUnits.fst {α : Type} {s t : State} {a : α} {r : State × α} (h : SameUnits s r.1) (e : r = (t, a)) :
    SameUnits s t := by
  rw [e] at h
  exact h

theorem SameUnits.foldl {α : Type} {f : State → α → State} (hf : ∀ s a, SameUnits s (f s a)) (l : List α) (s : State) :
    SameUnits s (l.foldl f s) := by
  induction l generalizing s with
  | nil => exact .refl s
  | cons a l ih => exact (hf s a).trans (ih (f s a))

theorem SameUnits.loopFrom {τ : Type} {f : Nat → State → State × Option τ} (hf : ∀ i s, SameUnits s (f i s).1)
    (n i : Nat) (s : State) : SameUnits s (loopFrom f n i s).1 := by
  induction n generalizing i s with
  | zero => exact .refl s
  | succ n ih =>
    have h1 := hf i s
    unfold Machine.loopFrom
    split
    · next e => exact (h1.fst e).trans (ih _ _)
    · next e => exact h1.fst e

theorem CountsOnly.sameUnits {s t : State} (h : CountsOnly s t) : SameUnits s t := by
  obtain ⟨m, rfl⟩ := h
  exact ⟨rfl, rfl, rfl⟩

theorem MemoryOnly.sameUnits {s t : State} (h : MemoryOnly s t) : SameUnits s t := by
  obtain ⟨m, l, f, x, hm, pm, c, k, rfl⟩ := h
  exact ⟨rfl, rfl, rfl⟩

theorem sameUnits_tlbFill (t : TlbAt) (l : Leaf) (s : State) : SameUnits s (tlbFill t l s) := ⟨rfl, rfl, rfl⟩

theorem countsOnly_countWalk (asid va : Nat) (s : State) : CountsOnly s (countWalk asid va s) :=
  .foldl (fun _ _ => countsOnly_countHot ..) _ _

theorem sameUnits_lookUp (w : Who) (acc : Access) (va : Nat) (s : State) : SameUnits s (lookUp w acc va s).1 := by
  unfold lookUp leafOf
  have hwalk := (countsOnly_countWalk w.asid va s).sameUnits
  split
  · exact .refl s
  · split
    · exact .refl s
    · split
      · exact .refl s
      · dsimp only
        split
        · exact .refl s
        · split
          · split
            · exact sameUnits_tlbFill ..
            · exact .refl s
          · split
            · exact hwalk
            · dsimp only
              split
              · split
                · exact hwalk.trans ((sameUnits_tlbFill ..).trans (sameUnits_tlbFill ..))
                · exact hwalk.trans (sameUnits_tlbFill ..)
              · exact hwalk

theorem sameUnits_granted (w : Who) (acc : Access) (va n : Nat) (l : Leaf) (s : State) :
    SameUnits s (granted w acc va n l s).1 := by
  unfold granted placeOf
  dsimp only
  repeat' split
  all_goals exact ⟨rfl, rfl, rfl⟩

theorem sameUnits_translate (w : Who) (acc : Access) (va n : Nat) (s : State) : SameUnits s (translate w acc va n s).1 := by
  have h := sameUnits_lookUp w acc va s
  unfold translate
  split
  · next e => exact h.fst e
  · next e => exact (h.fst e).trans (sameUnits_granted ..)

theorem sameUnits_lookUpAll (w : Who) (acc : Access) (ps : List (Nat × Nat)) (s : State) :
    SameUnits s (lookUpAll w acc ps s).1 := by
  induction ps generalizing s with
  | nil => exact .refl s
  | cons p ps ih =>
    have h1 := sameUnits_lookUp w acc p.1 s
    unfold lookUpAll
    split
    · next e => exact h1.fst e
    · next s1 _ e =>
      have h2 := (h1.fst e).trans (ih s1)
      split
      · next e2 => exact h2.fst e2
      · next e2 => exact h2.fst e2

theorem sameUnits_grantedAll (w : Who) (acc : Access) (ps : List ((Nat × Nat) × Leaf)) (s : State) :
    SameUnits s (grantedAll w acc ps s).1 := by
  induction ps generalizing s with
  | nil => exact .refl s
  | cons p ps ih =>
    have h1 := sameUnits_granted w acc p.1.1 p.1.2 p.2 s
    unfold grantedAll
    split
    · next e => exact h1.fst e
    · next s1 _ e =>
      have h2 := (h1.fst e).trans (ih s1)
      split
      · next e2 => exact h2.fst e2
      · next e2 => exact h2.fst e2

theorem sameUnits_translateAll (w : Who) (acc : Access) (ps : List (Nat × Nat)) (s : State) :
    SameUnits s (translateAll w acc ps s).1 := by
  have h := sameUnits_lookUpAll w acc ps s
  unfold translateAll
  split
  · next e => exact h.fst e
  · next e => exact (h.fst e).trans (sameUnits_grantedAll ..)

theorem sameUnits_placeFault (p : Place) (s : State) : SameUnits s (placeFault p s).1 := by
  unfold placeFault
  repeat' split
  all_goals exact ⟨rfl, rfl, rfl⟩

theorem sameUnits_placesFault (ps : List Place) (s : State) : SameUnits s (placesFault ps s).1 := by
  induction ps generalizing s with
  | nil => exact .refl s
  | cons p ps ih => exact (sameUnits_placeFault p s).trans (ih _)

theorem sameUnits_countPlaces (w : Who) (ps : List Place) (s : State) : SameUnits s (countPlaces w ps s) := by
  obtain ⟨k, p, q, f, h⟩ := countPlaces_only w ps s
  rw [h]
  exact ⟨rfl, rfl, rfl⟩

theorem sameUnits_vread (w : Who) (acc : Access) (va n : Nat) (s : State) : SameUnits s (vread w acc va n s).1 := by
  have h1 := sameUnits_translateAll w acc (piecesOf va n) s
  unfold vread
  split
  · next e => exact h1.fst e
  · next s1 ps e =>
    have h2 := (h1.fst e).trans (sameUnits_placesFault ps s1)
    split
    · exact h1.fst e
    · split
      · next e2 => exact h2.fst e2
      · next e2 => exact (h2.fst e2).trans (sameUnits_countPlaces ..)

theorem sameUnits_vwriteCheck (w : Who) (va n : Nat) (s : State) : SameUnits s (vwriteCheck w va n s).1 := by
  have h := sameUnits_translateAll w .store (piecesOf va n) s
  unfold vwriteCheck
  split
  · next e => exact h.fst e
  · next e =>
    repeat' split
    all_goals exact h.fst e

/-! ## Translations that stand -/

theorem leaf_covers_of_walk {s : State} {asid va : Nat} {l : Leaf} (h : walk s asid va = .ok l) :
    l.covers asid va = true := by
  simp only [walk, bind, Except.bind] at h
  repeat' split at h
  all_goals cases h
  all_goals
    simp only [Leaf.covers, decide_eq_true_eq, true_and]
    omega

/-- A translation of an agent without a lane slice that found its leaf and changed nothing: the leaf stands in a bolted entry
or in the second-level TLB, for a walk would have filled it there. -/
theorem leafOf_standing {w : Who} {acc : Access} {va : Nat} {s : State} {l : Leaf} (hw : w.slices = none)
    (hp : permits l acc w.sup = true) (h : leafOf w acc va s = (s, .ok l)) :
    boltedLeaf s w va = some l ∨
      (boltedLeaf s w va = none ∧ boltOf s w va = none ∧ tlbFind s (.second w.cluster) w.asid va = some l) := by
  have hsl : sliceOf w va = none := by simp only [sliceOf, hw]
  simp only [leafOf, hsl, Option.bind_none] at h
  split at h
  · next hb => cases h; exact .inl hb
  · next hb =>
    split at h
    · cases h
    · next hr =>
      refine .inr ⟨hb, by simpa using hr, ?_⟩
      split at h
      · next hf => cases h; exact hf
      · next hf =>
        split at h
        · simp at h
        · next l' hl =>
          obtain ⟨hs, rfl⟩ : _ ∧ l' = l := by simpa using h
          rw [if_pos hp] at hs
          have hfind : tlbFind s (.second w.cluster) w.asid va = some l' := by
            rw [← hs]
            simp [tlbFind, tlbFill, leaf_covers_of_walk hl]
          rw [hf] at hfind
          cases hfind

/-- A state in which tile copies have moved bytes: other memories, metadata of lines, and counts of accesses. -/
def State.copied (s : State) (mem : ByteStore) (lines : Sparse Line) (cores : Sparse Core)
    (hot : Sparse (Nat × Option Nat × Nat)) : State :=
  { s with mem := mem, lines := lines, cores := cores, hot := hot }

section
variable {w : Who} {acc : Access} {va n pa : Nat} {s : State} {p : Place}

theorem lookUp_copied {l : Leaf} (hw : w.slices = none) (hp : permits l acc w.sup = true)
    (h : lookUp w acc va s = (s, .ok l)) (mem : ByteStore) (lines : Sparse Line) (cores : Sparse Core)
    (hot : Sparse (Nat × Option Nat × Nat)) :
    lookUp w acc va (s.copied mem lines cores hot) = (s.copied mem lines cores hot, .ok l) := by
  unfold lookUp at h ⊢
  split at h
  · cases h
  · next hva =>
    have hsl : sliceOf w va = none := by simp only [sliceOf, hw]
    rw [if_neg hva, leafOf]
    rcases leafOf_standing hw hp h with hb | ⟨hb, hr, hf⟩
    · rw [show boltedLeaf (s.copied mem lines cores hot) w va = some l from hb]
    · simp only [show boltedLeaf (s.copied mem lines cores hot) w va = none from hb,
        show boltOf (s.copied mem lines cores hot) w va = none from hr, hsl,
        show tlbFind (s.copied mem lines cores hot) (.second w.cluster) w.asid va = some l from hf]
      rfl

/-- A place in device memory: nothing changed, and the leaf gives it whatever memory holds. -/
theorem placeOf_dev {l : Leaf} {s1 : State} (h : placeOf w acc va n l s1 = (s, .ok p)) (hp : p.loc = .dev pa) :
    s1 = s ∧ pa % 64 = va % 64 ∧ ∀ mem lines cores hot,
      placeOf w acc va n l (s.copied mem lines cores hot) = (s.copied mem lines cores hot, .ok p) := by
  dsimp only [placeOf] at h
  split at h
  · cases h
  · next m hm =>
    split at h
    · cases h
    · next hperm =>
      split at h
      · next hin =>
        cases h
        dsimp only at hp
        split at hp
        · cases hp
        · next hhs =>
          cases hp
          refine ⟨rfl, by simp only [Leaf.pa]; omega, fun mem lines cores hot => ?_⟩
          have hm' : (if fld l.leaf 16 12 ≤ ((s.copied mem lines cores hot).ctx w.asid).nbuf then
            modeOf (s.copied mem lines cores hot) w (fld l.leaf 16 12) else none) = some m := hm
          simp only [placeOf, hm', if_neg hperm, if_pos hin]
      · split at h
        · cases h
        · split at h
          · cases h
          · cases h
            cases hp

/-- A translation to device memory that changed nothing stands in every state in which tile copies have moved bytes. -/
theorem translate_copied (hw : w.slices = none) (h : translate w acc va n s = (s, .ok p)) (hp : p.loc = .dev pa)
    (mem : ByteStore) (lines : Sparse Line) (cores : Sparse Core) (hot : Sparse (Nat × Option Nat × Nat)) :
    translate w acc va n (s.copied mem lines cores hot) = (s.copied mem lines cores hot, .ok p) := by
  unfold translate at h ⊢
  split at h
  · cases h
  · next s1 l hl =>
    unfold granted at h
    split at h
    · next hperm =>
      obtain ⟨rfl, -, hplace⟩ := placeOf_dev h hp
      rw [lookUp_copied hw hperm hl]
      simp only [granted, if_pos hperm, hplace]
    · cases h

/-- A translation keeps the offset in the line. -/
theorem translate_line (h : translate w acc va n s = (s, .ok p)) (hp : p.loc = .dev pa) : pa % 64 = va % 64 := by
  unfold translate at h
  split at h
  · cases h
  · unfold granted at h
    split at h
    · exact (placeOf_dev h hp).2.1
    · cases h

end

end Sys2Proof.Machine
end

section
/-!
PROOFS. Tile copies (R162 to R164, R447): what `CPY` hands to its engine, what a chunk copies, and what a fault latches.
-/
namespace Sys2Proof.Machine
open Sys2Proof

/-! ## CPY -/

section
variable {f : FmtVM} {s0 s : State} {g k off : Nat} {x : Group}

/-- The transfer that `CPY` hands to its core's engine (R162). -/
def handedCopy (f : FmtVM) (s : State) (core off : Nat) : Copy :=
  { id := s.nextId, hart := some (s.cur, f.vd.toNat), queue := none, asid := s.asidOf s.cur, cluster := clusterOf s.myCore
    engine := s.myCore % 96 % 2, dirOut := f.imm.toNat / 2 ^ 16 = 1, main := s.sr f.sa, core := core, off := off
    dst := s.sr (f.sa + 1), len := (s.sr f.sb).toNat, chunk := 2 ^ (f.imm.toNat / 4096 % 16 + 8), next := 0
    sup := s.me.level = .s, stopped := false }

/-- The state with one transfer more in its engine. -/
def State.withCopy (s : State) (c : Copy) : State := { s with copies := s.copies ++ [c], nextId := s.nextId + 1 }

/-- What `CPY` does whose addresses and length are aligned and whose range keeps R143. -/
theorem exec_cpy (hs : s = settleAll s0.cur s0) (hmain : (s.sr f.sa).toNat % 64 = 0) (hlen : (s.sr f.sb).toNat % 64 = 0)
    (hchunk : (if f.sp = 1 then (s.sr (f.sa + 1)).toNat else (s.sr (f.sa + 1)).toNat % 2 ^ 19) %
      2 ^ (f.imm.toNat / 4096 % 16 + 8) = 0)
    (hrange : cpyRange s f.sp.toNat (s.sr (f.sa + 1)) (s.sr f.sb).toNat = (k, off, true)) :
    exec (.cpy f) s0 = .next (
      if (s.sr f.sb).toNat = 0 then retireVec s
      else if 64 ≤ engineLoad s (clusterOf s.myCore) (s.myCore % 96 % 2) then s
      else retireVec (s.withCopy (handedCopy f s k off))) := by
  subst hs
  simp only [exec, execCpy, hrange, hmain, hlen, hchunk, ne_eq, not_true_eq_false, if_false, if_true, firstTrap]
  rfl

theorem cpyRange_of_empty (hg : s.myGroup = some (g, x)) (sp : Nat) (a : Word) :
    ∃ k off, cpyRange s sp a 0 = (k, off, true) := by
  unfold cpyRange
  split
  · simp [hg]
  · simp

/-- The range that `CPY` names lies in the group's scratchpad, or in allocations of its context (R143, R162). -/
theorem cpyRange_of_copySource {sp : BitVec 3} {a : Word} {n : Nat} (hg : s.myGroup = some (g, x))
    (h : copySource s x sp a n = some (k, off)) : cpyRange s sp.toNat a n = (k, off, true) := by
  unfold copySource at h
  dsimp only at h
  split at h
  · next hsp =>
    obtain ⟨rfl, hfit⟩ := hsp
    cases h
    simp [cpyRange, hg, hfit, State.myCore, coreOf]
  · split at h
    · next hsp =>
      obtain ⟨rfl, hidx, hfit, halloc⟩ := hsp
      cases h
      have hk : nbits a.toNat 19 7 = a.toNat / 2 ^ 19 := Nat.mod_eq_of_lt (by omega)
      have ha : a.toNat < 2 ^ 26 := by omega
      simp only [cpyRange, State.myCore, coreOf, clusterOf, hk, ha, hidx, hfit, halloc]
      simp
    · cases h

/-- What completing an instruction leaves of the hart. -/
theorem me_retireVec (hs : s.me.steps = false) :
    (retireVec s).me = { s.me with pc := s.me.pc + 8, epr := 0, kept := s.me.others, wait := none } := by
  rw [retireVec_of_not_steps _ hs, State.me_setMe]

theorem onlyHart_retireVec (hs : s.me.steps = false) : OnlyHart s (retireVec s) := by
  rw [retireVec_of_not_steps _ hs]
  exact onlyHart_setMe ..

theorem onlyHart_retireVec_withCopy (hs : s.me.steps = false) (c : Copy) :
    (retireVec (s.withCopy c)).copies = s.copies ++ [c] ∧
      OnlyHart s { retireVec (s.withCopy c) with copies := s.copies, nextId := s.nextId } := by
  rw [retireVec_of_not_steps (s.withCopy c) hs]
  exact ⟨rfl, onlyHart_setMe s _⟩

end

/-! ## Ends of chunks -/

section
variable {s s1 : State} {i h md b : Nat} {c : Copy}

theorem id_of_copy? (hc : s.copy? i = some c) : c.id = i := by simpa using List.find?_some hc

theorem copy?_dropCopy : (s.dropCopy i).copy? i = none := by simp [State.copy?, State.dropCopy]

/-- A transfer that is replaced stands where it stood. -/
theorem copy?_setCopy {c' : Copy} (hc : s.copy? i = some c) (hid : c'.id = c.id) : (s.setCopy c').copy? i = some c' := by
  rw [id_of_copy? hc] at hid
  unfold State.copy? State.setCopy at *
  dsimp only
  generalize s.copies = l at *
  induction l with
  | nil => cases hc
  | cons x l ih =>
    by_cases hx : x.id = i
    · simp [hx, hid]
    · rw [List.find?_cons_of_neg (by simpa using hx)] at hc
      rw [List.map_cons, if_neg (by rwa [hid]), List.find?_cons_of_neg (by simpa using hx)]
      exact ih hc

/-- No save waits for the end of a copy where no hart of the group stands saved (R164). -/
theorem afterCopy_of_notSaving (h0 : NotSaving s h) : afterCopy h s = s := by
  unfold afterCopy
  split
  · next g hg =>
    unfold finishSave
    split
    · rfl
    · next x hx =>
      have hany : (x.harts.any fun j => (s.hart j).saved) = false := by simpa using h0 g x hg hx
      simp [hany]
  · rfl

/-- A change of one hart that keeps its group and whether it stands saved. -/
theorem NotSaving.modHart (h0 : NotSaving s h) {j : Nat} {f : Hart → Hart}
    (hf : (f (s.hart j)).group = (s.hart j).group ∧ (f (s.hart j)).saved = (s.hart j).saved) :
    NotSaving (s.modHart j f) h := by
  have hsame (k : Nat) : ((s.modHart j f).hart k).group = (s.hart k).group ∧
      ((s.modHart j f).hart k).saved = (s.hart k).saved := by
    rw [State.modHart, State.hart_setHart]
    split
    · next hk => exact hk ▸ hf
    · exact ⟨rfl, rfl⟩
  intro g x hg hx k hk
  rw [(hsame k).2]
  exact h0 g x ((hsame h).1 ▸ hg) hx k hk

/-- The hart with a bit of a mask register set by an engine (R163). -/
def Hart.setLouver (x : Hart) (md b : Nat) : Hart := { x with mreg := x.mreg.set! md (setBit (x.mreg[md]!) b true) }

theorem mask_setLouver (x : Hart) (h0 : md ≠ 0) (hmd : md < 16) (n : Nat) (hb : b < 16384) :
    ((x.setLouver md n).mask md).getLsbD b = (decide (b = n) || (x.mask md).getLsbD b) := by
  simp only [Hart.mask, if_neg h0, Hart.setLouver, vector_get_set _ _ _ _ hmd, if_true, getLsbD_setBit_true, hb, true_and]
  exact Bool.or_comm ..

/-- What stands of a transfer after its next chunk (R163). -/
def Copy.after (c : Copy) : Option Copy := if c.len ≤ (c.next + 1) * c.chunk then none else some { c with next := c.next + 1 }

/-- The bit of a transfer's next chunk in its mask register (R163). -/
def Copy.bit (c : Copy) : Nat := c.dst.toNat % 2 ^ 19 / c.chunk + c.next

/-- A chunk that was copied: its bit is set, the transfer goes on or ends, and nothing else changes (R163). -/
theorem exec_tileCopyChunkDone (hc : s.copy? i = some c) (hh : c.hart = some (h, md)) (hst : c.stopped = false)
    (hrun : copyChunk c s = (s1, none)) (hc1 : s1.copies = s.copies) (hns : NotSaving s1 h) :
    ∃ l, exec (.tileCopyChunkDone i) s = .next { s1.modHart h (·.setLouver md c.bit) with copies := l } ∧
      State.copy? { s1.modHart h (·.setLouver md c.bit) with copies := l } i = c.after := by
  have hns2 : NotSaving (s1.modHart h (·.setLouver md c.bit)) h := hns.modHart ⟨rfl, rfl⟩
  have hexec : exec (.tileCopyChunkDone i) s = .next (
      if c.len ≤ (c.next + 1) * c.chunk then afterCopy h ((s1.modHart h (·.setLouver md c.bit)).dropCopy i)
      else (s1.modHart h (·.setLouver md c.bit)).setCopy { c with next := c.next + 1 }) := by
    simp only [exec, execTileCopyChunkDone, hc, hh, hst, hrun, Bool.false_eq_true, if_false]
    rfl
  have hc2 : (s1.modHart h (·.setLouver md c.bit)).copy? i = some c := by rw [State.copy?, State.modHart_copies, hc1]; exact hc
  unfold Copy.after
  split
  · next hend =>
    have hns3 : NotSaving ((s1.modHart h (·.setLouver md c.bit)).dropCopy i) h := hns2
    rw [if_pos hend, afterCopy_of_notSaving hns3] at hexec
    exact ⟨_, hexec, copy?_dropCopy⟩
  · next hend =>
    rw [if_neg hend] at hexec
    exact ⟨_, hexec, copy?_setCopy hc2 rfl⟩

/-- The latch of a transfer that met a fault (R164, R447). -/
def copyLatch (i md : Nat) (x : Trap) : Latch :=
  { lm := md, cause := x.code, tval := x.tval, work := .copy i, delivered := false }

/-- A chunk that met a fault: the transfer stops, and the cause is latched for its mask register (R164, R447). -/
theorem exec_tileCopyFault {x : Trap} (hc : s.copy? i = some c) (hh : c.hart = some (h, md)) (hst : c.stopped = false)
    (hrun : copyChunk c s = (s1, some (.trap x))) (hc1 : s1.copies = s.copies) (hns : NotSaving s1 h) :
    ∃ l, exec (.tileCopyFault i) s = .next { addLatch h (copyLatch i md x) s1 with copies := l } ∧
      State.copy? { s1 with copies := l } i = some { c with stopped := true } := by
  have hc2 : s1.copy? i = some c := by rw [State.copy?, hc1]; exact hc
  have hns2 : NotSaving (addLatch h (copyLatch i md x) (s1.setCopy { c with stopped := true })) h :=
    NotSaving.modHart (s := s1.setCopy _) hns ⟨rfl, rfl⟩
  have hexec : exec (.tileCopyFault i) s =
      .next (afterCopy h (addLatch h (copyLatch i md x) (s1.setCopy { c with stopped := true }))) := by
    simp only [exec, execTileCopyFault, hc, hh, hst, hrun, Bool.false_eq_true, if_false, copyLatch]
  rw [afterCopy_of_notSaving hns2] at hexec
  exact ⟨(s1.setCopy { c with stopped := true }).copies, hexec, copy?_setCopy hc2 rfl⟩

end

/-! ## What copying leaves -/

theorem sameUnits_markLine (p : Place) (s : State) : SameUnits s (markLine p s) := by
  unfold markLine
  split
  all_goals exact ⟨rfl, rfl, rfl⟩

theorem sameUnits_copyLineIn (c : Copy) (o : Nat) (s : State) : SameUnits s (copyLineIn c o s).1 := by
  have h := sameUnits_vread (copyWho s c) .load (c.main + wd o).toNat 64 s
  unfold copyLineIn
  split
  · next s1 d e =>
    have hw := (writeLoc_only (.spad c.core (c.off + o)) Cry.ovune d s1).sameUnits
    exact (h.fst e).trans hw
  · next e =>
    split
    · exact (h.fst e).trans ⟨rfl, rfl, rfl⟩
    · exact h.fst e
  · next e => exact h.fst e

theorem sameUnits_copyLineOut (c : Copy) (o : Nat) (s : State) : SameUnits s (copyLineOut c o s).1 := by
  have h := sameUnits_vwriteCheck (copyWho s c) (c.main + wd o).toNat 64 s
  unfold copyLineOut
  dsimp only
  split
  · next e => exact h.fst e
  · next s1 ps e =>
    have h2 := ((h.fst e).trans (performAll_only ..).sameUnits).trans (sameUnits_countPlaces (copyWho s c) ps
      (performAll (storesOf ps (readLoc s1 (.spad c.core (c.off + o)) 64)) s1))
    dsimp only
    split
    · exact h2.trans (.foldl (fun _ _ => sameUnits_markLine ..) ..)
    · exact h2

theorem sameUnits_copyChunk (c : Copy) (s : State) : SameUnits s (copyChunk c s).1 := by
  refine SameUnits.loopFrom (fun j t => ?_) _ _ s
  split
  · exact sameUnits_copyLineOut ..
  · exact sameUnits_copyLineIn ..

/-! ## The lines of a chunk -/

/-- The offset in the transfer of line `i` of its next chunk. -/
def Copy.line (c : Copy) (i : Nat) : Nat := c.next * c.chunk + 64 * i

/-- The lines of a transfer's next chunk. -/
def Copy.lines (c : Copy) : Nat := (min ((c.next + 1) * c.chunk) c.len - c.next * c.chunk) / 64

theorem chunkLines_eq (c : Copy) : chunkLines c = (List.range c.lines).map c.line := rfl

theorem mem_chunkLines {c : Copy} {i : Nat} (hi : i < c.lines) : c.line i ∈ chunkLines c :=
  List.mem_map.2 ⟨i, List.mem_range.2 hi, rfl⟩

theorem forall_chunkLines {c : Copy} {P : Nat → Prop} :
    (∀ o ∈ chunkLines c, P o) ↔ ∀ i, i < c.lines → P (c.line i) := by
  simp [chunkLines_eq]

theorem copyChunk_eq (c : Copy) (s : State) : copyChunk c s =
    loopFrom (fun i s => if c.dirOut then copyLineOut c (c.line i) s else copyLineIn c (c.line i) s) c.lines 0 s := by
  rw [Copy.lines, Nat.succ_mul]
  rfl

/-- A loop in which no step stops, each taking what holds before it to what holds before the next. -/
theorem loopFrom_invariant {σ τ : Type} {f : Nat → σ → σ × Option τ} {P : Nat → σ → Prop} {n i : Nat}
    (hf : ∀ j s, j < i + n → P j s → ∃ s', f j s = (s', none) ∧ P (j + 1) s') {s : σ} (h0 : P i s) :
    ∃ s', loopFrom f n i s = (s', none) ∧ P (i + n) s' := by
  induction n generalizing i s with
  | zero => exact ⟨s, rfl, h0⟩
  | succ n ih =>
    obtain ⟨s1, h1, hp⟩ := hf i s (by omega) h0
    obtain ⟨s2, h2, hp2⟩ := ih (i := i + 1) (fun j t hj => hf j t (by omega)) hp
    refine ⟨s2, ?_, by rwa [show i + (n + 1) = i + 1 + n by omega]⟩
    rw [loopFrom, h1]
    exact h2

/-! ## One line -/

section
variable {s : State} {c : Copy} {o pa : Nat} {p : Place}

theorem copyWho_slices (s : State) (c : Copy) : (copyWho s c).slices = none := by
  unfold copyWho
  split <;> rfl

theorem countPlaces_copied (w : Who) (hp : p.loc = .dev pa) (mem : ByteStore) (lines : Sparse Line) (cores : Sparse Core)
    (hot : Sparse (Nat × Option Nat × Nat)) : ∃ hot', countPlaces w [p] (s.copied mem lines cores hot) =
      s.copied mem lines cores hot' := by
  obtain ⟨hot', h⟩ := countsOnly_countHot w.asid (some p.va) pa (s.copied mem lines cores hot)
  refine ⟨hot', ?_⟩
  simp only [countPlaces, List.foldl_cons, List.foldl_nil, hp]
  exact h

/-- A line that translates and verifies comes into the scratchpad (R164), in a state in which only scratchpads have changed. -/
theorem copyLineIn_copied (ht : translate (copyWho s c) .load (c.main + wd o).toNat 64 s = (s, .ok p))
    (hp : p.loc = .dev pa) (hpa : pa % 64 = 0) (hfar : p.far = false) (hfault : placeFault p s = (s, none))
    (cores : Sparse Core) (hot : Sparse (Nat × Option Nat × Nat)) :
    ∃ hot', copyLineIn c o (s.copied s.mem s.lines cores hot) =
      (writeLoc (.spad c.core (c.off + o)) Cry.ovune (readLoc s (.dev pa) 64) (s.copied s.mem s.lines cores hot'), none) := by
  have hline := translate_line ht hp
  have htr : translate (copyWho s c) .load (c.main + wd o).toNat 64 (s.copied s.mem s.lines cores hot) = _ :=
    translate_copied (copyWho_slices s c) ht hp s.mem s.lines cores hot
  have hclean : placeFault p (s.copied s.mem s.lines cores hot) = (s.copied s.mem s.lines cores hot, none) := by
    unfold placeFault at hfault ⊢
    simp only [hp] at hfault ⊢
    rw [show lineFault (s.copied s.mem s.lines cores hot) p.cry pa = lineFault s p.cry pa from rfl]
    split at hfault
    · cases hfault
    · cases hfault
    · rfl
  obtain ⟨hot', hcount⟩ := countPlaces_copied (s := s) (copyWho s c) hp s.mem s.lines cores hot
  refine ⟨hot', ?_⟩
  have hread := vread_within_line (by decide) (by omega) htr hfar hclean
  rw [hcount, hp] at hread
  rw [copyLineIn, show copyWho (s.copied s.mem s.lines cores hot) c = copyWho s c from rfl, hread]
  rfl

/-- A whole line that an access of a kernel writes (R173). -/
theorem writeLine_whole {k : Cry} {d : List Byte} (hk : k.mode ≠ .none) (hd : d.length = 64) (s : State) :
    ∃ l, writeLine k pa d s = s.copied (bsWrite s.mem pa d) (smPut s.lines (pa / 64) l) s.cores s.hot := by
  refine ⟨writtenLine s k (s.line (pa / 64)) true, ?_⟩
  rw [writeLine, if_neg fun h => hk h.1, putLine]
  cases (s.line (pa / 64)).key <;> simp [hd, State.setLine, State.copied]

theorem cntFull_copied {mem : ByteStore} {lines : Sparse Line} {cores : Sparse Core}
    {hot : Sparse (Nat × Option Nat × Nat)} (k : Cry) (h : smGet Line.fresh lines (pa / 64) = s.line (pa / 64)) :
    cntFull (s.copied mem lines cores hot) [] k pa = cntFull s [] k pa := by
  unfold cntFull
  rw [show (s.copied mem lines cores hot).line (pa / 64) = s.line (pa / 64) from h]
  rfl

/-- A line of the scratchpad without a poisoned word goes out to a line that can take it (R164), in a state in which only
lines of memory have changed, and not that one. -/
theorem copyLineOut_copied (ht : translate (copyWho s c) .store (c.main + wd o).toNat 64 s = (s, .ok p))
    (hown : OwnLine s p pa) (hpa : pa % 64 = 0) (hmark : (s.core c.core).marked .spad (c.off + o) 64 = false)
    {mem : ByteStore} {lines : Sparse Line} (hsame : smGet Line.fresh lines (pa / 64) = s.line (pa / 64))
    (hot : Sparse (Nat × Option Nat × Nat)) :
    ∃ l hot', copyLineOut c o (s.copied mem lines s.cores hot) =
      (s.copied (bsWrite mem pa (readLoc s (.spad c.core (c.off + o)) 64)) (smPut lines (pa / 64) l) s.cores hot', none) := by
  obtain ⟨hp, -, hmig, hfar, hmode, hfull, -, -⟩ := hown
  have hline := translate_line ht hp
  have htr : translate (copyWho s c) .store (c.main + wd o).toNat 64 (s.copied mem lines s.cores hot) = _ :=
    translate_copied (copyWho_slices s c) ht hp mem lines s.cores hot
  have hroom : p.full (s.copied mem lines s.cores hot) = false := by
    simp only [Place.full, hp, cntFull_copied p.cry hsame, hfull]
  have hcheck : vwriteCheck (copyWho s c) (c.main + wd o).toNat 64 (s.copied mem lines s.cores hot) =
      (s.copied mem lines s.cores hot, .ok [p]) := by
    rw [vwriteCheck, piecesOf_within_line (by decide) (by omega), translateAll_single htr]
    simp [hmig, hfar, hroom]
  have hdata : (readLoc s (.spad c.core (c.off + o)) 64).take p.n = readLoc s (.spad c.core (c.off + o)) 64 := by
    rw [translate_length ht, List.take_of_length_le (by simp)]
  obtain ⟨l, hwrite⟩ := writeLine_whole (pa := pa) hmode (readLoc_length s (.spad c.core (c.off + o)) 64)
    (s.copied mem lines s.cores hot)
  obtain ⟨hot', hcount⟩ := countPlaces_copied (s := s) (copyWho s c) hp
    (bsWrite mem pa (readLoc s (.spad c.core (c.off + o)) 64)) (smPut lines (pa / 64) l) s.cores hot
  refine ⟨l, hot', ?_⟩
  have hperform : performAll (storesOf [p] (readLoc s (.spad c.core (c.off + o)) 64)) (s.copied mem lines s.cores hot) =
      s.copied (bsWrite mem pa (readLoc s (.spad c.core (c.off + o)) 64)) (smPut lines (pa / 64) l) s.cores hot := by
    simp only [storesOf, performAll, List.foldl_cons, List.foldl_nil, perform, hp, hdata]
    exact hwrite
  simp only [copyLineOut, show copyWho (s.copied mem lines s.cores hot) c = copyWho s c from rfl, hcheck]
  rw [show (s.copied mem lines s.cores hot).core c.core = s.core c.core from rfl, hmark,
    show readLoc (s.copied mem lines s.cores hot) (.spad c.core (c.off + o)) 64 = readLoc s (.spad c.core (c.off + o)) 64
      from rfl, hperform, hcount]
  rfl

/-! ## Bytes of the scratchpad after a write -/

variable {k off : Nat} {d : List Byte}

theorem spad_writeLoc (k off : Nat) (a : Cry) (d : List Byte) (s : State) :
    ((writeLoc (.spad k off) a d s).core k).spad = bsWrite (s.core k).spad off d := by
  simp [writeLoc, State.core]

theorem readLoc_writeLoc_spad (a : Cry) (hw : Memory.wf (s.core k).spad = true) :
    readLoc (writeLoc (.spad k off) a d s) (.spad k off) d.length = d := by
  simp only [readLoc, spad_writeLoc]
  exact bsRead_bsWrite _ _ _ hw

theorem readLoc_writeLoc_spad_apart {off' n : Nat} (a : Cry) (hw : Memory.wf (s.core k).spad = true)
    (h : off' + n ≤ off ∨ off + d.length ≤ off') :
    readLoc (writeLoc (.spad k off) a d s) (.spad k off') n = readLoc s (.spad k off') n := by
  simp only [readLoc, spad_writeLoc]
  exact bsRead_bsWrite_apart _ _ _ _ _ hw h

end

/-! ## A chunk -/

/-- The first `n` lines of a chunk have come into the scratchpad, and no other part of the state has changed. -/
def CopiedIn (c : Copy) (s : State) (pa : Nat → Nat) (n : Nat) (u : State) : Prop :=
  (∃ cores hot, u = s.copied s.mem s.lines cores hot) ∧ Memory.wf (u.core c.core).spad = true ∧
  ∀ i, i < n → readLoc u (.spad c.core (c.off + c.line i)) 64 = readLoc s (.dev (pa (c.line i))) 64

/-- The first `n` lines of a chunk have gone out, the lines of the others stand as they did, and no other part of the state has
changed. -/
def CopiedOut (c : Copy) (s : State) (pa : Nat → Nat) (n : Nat) (u : State) : Prop :=
  ∃ mem lines hot, u = s.copied mem lines s.cores hot ∧ (Memory.wf s.mem = true → Memory.wf mem = true) ∧
    (∀ i, n ≤ i → i < c.lines → smGet Line.fresh lines (pa (c.line i) / 64) = s.line (pa (c.line i) / 64)) ∧
    ∀ i, i < n → bsRead mem (pa (c.line i)) 64 = readLoc s (.spad c.core (c.off + c.line i)) 64

section
variable {s : State} {c : Copy} {pa : Nat → Nat}

theorem copyChunk_in (hdir : c.dirOut = false) (hw : Memory.wf (s.core c.core).spad = true)
    (hlines : ∀ i, i < c.lines → ∃ p,
      translate (copyWho s c) .load (c.main + wd (c.line i)).toNat 64 s = (s, .ok p) ∧ p.loc = .dev (pa (c.line i)) ∧
      pa (c.line i) % 64 = 0 ∧ p.far = false ∧ placeFault p s = (s, none)) :
    ∃ u, copyChunk c s = (u, none) ∧ CopiedIn c s pa c.lines u := by
  have hstep : ∀ i u, i < 0 + c.lines → CopiedIn c s pa i u →
      ∃ u', copyLineIn c (c.line i) u = (u', none) ∧ CopiedIn c s pa (i + 1) u' := by
    rintro i _ hi ⟨⟨cores, hot, rfl⟩, hwf, hdone⟩
    obtain ⟨p, ht, hp, hpa, hfar, hfault⟩ := hlines i (by omega)
    obtain ⟨hot', hline⟩ := copyLineIn_copied ht hp hpa hfar hfault cores hot
    have hwf' : Memory.wf ((s.copied s.mem s.lines cores hot').core c.core).spad = true := hwf
    refine ⟨_, hline, ⟨_, hot', rfl⟩, ?_, fun j hj => ?_⟩
    · rw [spad_writeLoc]
      exact bsWrite_wf _ _ _ hwf
    · rcases Nat.lt_succ_iff_lt_or_eq.1 hj with hlt | rfl
      · refine (readLoc_writeLoc_spad_apart _ hwf' ?_).trans (hdone j hlt)
        rw [readLoc_length]
        simp only [Copy.line]
        omega
      · have h := readLoc_writeLoc_spad (off := c.off + c.line j) (d := readLoc s (.dev (pa (c.line j))) 64)
          Cry.ovune hwf'
        rwa [readLoc_length] at h
  have h0 : CopiedIn c s pa 0 s := ⟨⟨s.cores, s.hot, rfl⟩, hw, nofun⟩
  rw [copyChunk_eq]
  simpa [hdir] using loopFrom_invariant hstep h0

theorem copyChunk_out (hdir : c.dirOut = true)
    (hlines : ∀ i, i < c.lines → ∃ p,
      translate (copyWho s c) .store (c.main + wd (c.line i)).toNat 64 s = (s, .ok p) ∧ pa (c.line i) % 64 = 0 ∧
      OwnLine s p (pa (c.line i)))
    (hinj : ∀ i j, i < c.lines → j < c.lines → pa (c.line i) = pa (c.line j) → i = j)
    (hclean : ∀ i, i < c.lines → (s.core c.core).marked .spad (c.off + c.line i) 64 = false) :
    ∃ u, copyChunk c s = (u, none) ∧ CopiedOut c s pa c.lines u := by
  have hstep : ∀ i u, i < 0 + c.lines → CopiedOut c s pa i u →
      ∃ u', copyLineOut c (c.line i) u = (u', none) ∧ CopiedOut c s pa (i + 1) u' := by
    rintro i _ hi ⟨mem, lines, hot, rfl, hwf, hsame, hdone⟩
    have hi' : i < c.lines := by omega
    obtain ⟨p, ht, hpa, hown⟩ := hlines i hi'
    obtain ⟨l, hot', hline⟩ := copyLineOut_copied ht hown hpa (hclean i hi') (mem := mem) (hsame i le_rfl hi') hot
    have hmem : Memory.wf mem = true := hwf (by obtain ⟨-, -, -, -, -, -, -, h⟩ := hown; exact h)
    have hapart : ∀ j, j < c.lines → j ≠ i →
        pa (c.line j) + 64 ≤ pa (c.line i) ∨ pa (c.line i) + 64 ≤ pa (c.line j) := by
      intro j hj hne
      obtain ⟨-, -, hpj, -⟩ := hlines j hj
      have hne' : pa (c.line j) ≠ pa (c.line i) := fun h => hne (hinj j i hj hi' h)
      omega
    refine ⟨_, hline, _, _, hot', rfl, fun _ => bsWrite_wf _ _ _ hmem, fun j h1 h2 => ?_, fun j hj => ?_⟩
    · obtain ⟨-, -, hpj, -⟩ := hlines j h2
      have := hapart j h2 (by omega)
      rw [smGet_smPut_other _ _ _ (by omega)]
      exact hsame j (by omega) h2
    · rcases Nat.lt_succ_iff_lt_or_eq.1 hj with hlt | rfl
      · have := hapart j (by omega) (by omega)
        rw [bsRead_bsWrite_apart _ _ _ _ _ hmem (by rwa [readLoc_length])]
        exact hdone j hlt
      · have h := bsRead_bsWrite mem (pa (c.line j)) (readLoc s (.spad c.core (c.off + c.line j)) 64) hmem
        rwa [readLoc_length] at h
  have h0 : CopiedOut c s pa 0 s := ⟨s.mem, s.lines, s.hot, rfl, id, fun _ _ _ => rfl, nofun⟩
  rw [copyChunk_eq]
  simpa [hdir] using loopFrom_invariant hstep h0

/-- A line that does not translate stops its copy, with the cause at the line's address. -/
theorem translateAll_single_error {w : Who} {acc : Access} {va n : Nat} {s1 : State} {k : Cause}
    (h : translate w acc va n s = (s1, .error k)) : translateAll w acc [(va, n)] s = (s1, .error (accTrap k va)) := by
  unfold translate at h
  unfold translateAll lookUpAll
  split at h
  · cases h
    rfl
  · simp only [lookUpAll, List.zip_cons_cons, List.zip_nil_right, grantedAll, h]

theorem Cause.code_poison {k : Cause} (h : k.code = Cause.poison.code) : k = .poison := by
  revert h
  cases k <;> decide

theorem copyLine_fault {s1 : State} {k : Cause} {o : Nat} (hk : k ≠ .poison) (hline : (c.main + wd o).toNat % 64 = 0)
    (ht : translate (copyWho s c) (if c.dirOut then .store else .load) (c.main + wd o).toNat 64 s = (s1, .error k)) :
    (if c.dirOut then copyLineOut c o s else copyLineIn c o s) = (s1, some (.trap (Trap.vector k (c.main + wd o)))) := by
  have hall := translateAll_single_error ht
  rw [← piecesOf_within_line (by decide) (by omega)] at hall
  have hwd : wd (c.main + wd o).toNat = c.main + wd o := (BitVec.ofNat_toNat 64 _).trans (BitVec.setWidth_eq _)
  have hcode : k.code ≠ Cause.poison.code := fun h => hk (Cause.code_poison h)
  cases hdir : c.dirOut
  · simp only [hdir, Bool.false_eq_true, if_false] at hall ⊢
    simp only [copyLineIn, vread, hall, accTrap, hwd]
    exact if_neg hcode
  · simp only [hdir, if_true] at hall ⊢
    simp only [copyLineOut, vwriteCheck, hall, accTrap, hwd]

/-- A chunk whose first line does not translate stops there, with the cause at that line's address. -/
theorem copyChunk_fault {s1 : State} {k : Cause} (hk : k ≠ .poison) (hpos : 0 < c.lines)
    (hline : (c.main + wd (c.line 0)).toNat % 64 = 0)
    (ht : translate (copyWho s c) (if c.dirOut then .store else .load) (c.main + wd (c.line 0)).toNat 64 s =
      (s1, .error k)) : copyChunk c s = (s1, some (.trap (Trap.vector k (c.main + wd (c.line 0))))) := by
  obtain ⟨n, hn⟩ := Nat.exists_eq_succ_of_ne_zero hpos.ne'
  rw [copyChunk_eq, hn, loopFrom, copyLine_fault hk hline ht]

end

/-! ## The rules of tile copies -/

section
variable {s : State} {c : Copy}

/-- What setting a bit of a mask register leaves of the state (R163). -/
theorem setLouver_frame (s : State) (l : List Copy) (h md n : Nat) (h0 : md ≠ 0) (hmd : md < 16) :
    let t : State := { s.modHart h (·.setLouver md n) with copies := l }
    (∀ b, b < 16384 → ((t.hart h).mask md).getLsbD b = (decide (b = n) || ((s.hart h).mask md).getLsbD b)) ∧
      (∀ j, j ≠ h → t.hart j = s.hart j) ∧ { t.hart h with mreg := (s.hart h).mreg } = s.hart h := by
  intro t
  have hsame : t.hart h = (s.hart h).setLouver md n := State.hart_setHart_same ..
  refine ⟨fun b hb => ?_, fun j hj => ?_, ?_⟩
  · rw [hsame, mask_setLouver _ h0 hmd _ hb]
  · exact (State.hart_setHart ..).trans (if_neg hj)
  · rw [hsame]
    rfl

/-- `CPY` hands its transfer to its core's engine, or waits while that is full (R162). -/
theorem exec_cpy_spec {f : FmtVM} {s0 : State} {g : Nat} {x : Group} (hs : s = settleAll s0.cur s0)
    (hg : s.myGroup = some (g, x)) (hmain : (s.sr f.sa).toNat % 64 = 0)
    (hlen : (s.sr f.sb).toNat % 64 = 0)
    (hchunk : (if f.sp = 1 then (s.sr (f.sa + 1)).toNat else (s.sr (f.sa + 1)).toNat % 2 ^ 19) %
      2 ^ (f.imm.toNat / 4096 % 16 + 8) = 0) :
    ((s.sr f.sb).toNat = 0 → exec (.cpy f) s0 = .next (retireVec s)) ∧
    ∀ k off, 0 < (s.sr f.sb).toNat → copySource s x f.sp (s.sr (f.sa + 1)) (s.sr f.sb).toNat = some (k, off) →
      (engineLoad s (clusterOf s.myCore) (s.myCore % 96 % 2) < 64 →
        exec (.cpy f) s0 = .next (retireVec (s.withCopy (handedCopy f s k off)))) ∧
      (64 ≤ engineLoad s (clusterOf s.myCore) (s.myCore % 96 % 2) → exec (.cpy f) s0 = .next s) := by
  refine ⟨fun hn => ?_, fun k off hn hsrc => ?_⟩
  · obtain ⟨k, off, hrange⟩ := cpyRange_of_empty hg f.sp.toNat (s.sr (f.sa + 1))
    rw [exec_cpy hs hmain hlen hchunk (hn ▸ hrange), if_pos hn]
  · rw [exec_cpy hs hmain hlen hchunk (cpyRange_of_copySource hg hsrc), if_neg hn.ne']
    exact ⟨fun hload => by rw [if_neg hload.not_ge], fun hload => by rw [if_pos hload]⟩

/-- A chunk all of whose lines translate and verify is copied, and its lines' bytes stand at the other end (R164). -/
theorem copyChunk_spec {pa : Nat → Nat} (hw : Memory.wf (s.core c.core).spad = true)
    (hlines : ∀ o ∈ chunkLines c, ∃ p,
      translate (copyWho s c) (if c.dirOut then .store else .load) (c.main + BitVec.ofNat 64 o).toNat 64 s = (s, .ok p) ∧
      p.loc = .dev (pa o) ∧ pa o % 64 = 0 ∧ p.far = false ∧
      (if c.dirOut then OwnLine s p (pa o) else p.hs = false ∧ placeFault p s = (s, none)))
    (hout : c.dirOut = true → (∀ o ∈ chunkLines c, ∀ o' ∈ chunkLines c, pa o = pa o' → o = o') ∧
      ∀ o ∈ chunkLines c, (s.core c.core).marked .spad (c.off + o) 64 = false) :
    ∃ mem lines cores hot, copyChunk c s = (s.copied mem lines cores hot, none) ∧
      ∀ o ∈ chunkLines c,
        if c.dirOut then readLoc (s.copied mem lines cores hot) (.dev (pa o)) 64 = readLoc s (.spad c.core (c.off + o)) 64
        else readLoc (s.copied mem lines cores hot) (.spad c.core (c.off + o)) 64 = readLoc s (.dev (pa o)) 64 := by
  rw [forall_chunkLines] at hlines
  cases hdir : c.dirOut
  · simp only [hdir, Bool.false_eq_true, if_false] at hlines ⊢
    obtain ⟨u, hrun, ⟨cores, hot, rfl⟩, -, hbytes⟩ := copyChunk_in (pa := pa) hdir hw fun i hi => by
      obtain ⟨p, ht, hp, hpa, hfar, -, hfault⟩ := hlines i hi
      exact ⟨p, ht, hp, hpa, hfar, hfault⟩
    exact ⟨_, _, _, _, hrun, forall_chunkLines.2 hbytes⟩
  · obtain ⟨hinj, hmarks⟩ := hout hdir
    simp only [hdir, if_true] at hlines ⊢
    have hinj' : ∀ i j, i < c.lines → j < c.lines → pa (c.line i) = pa (c.line j) → i = j := fun i j hi hj e => by
      have := hinj _ (mem_chunkLines hi) _ (mem_chunkLines hj) e
      simp only [Copy.line] at this
      omega
    obtain ⟨u, hrun, mem, lines, hot, rfl, -, -, hbytes⟩ := copyChunk_out (pa := pa) hdir
      (fun i hi => by
        obtain ⟨p, ht, -, hpa, -, hown⟩ := hlines i hi
        exact ⟨p, ht, hpa, hown⟩)
      hinj' (forall_chunkLines.1 hmarks)
    exact ⟨_, _, _, _, hrun, forall_chunkLines.2 hbytes⟩

end

/-- Settles O26: `CPY` clause by clause of its checks, a chunk line by line with an invariant on the lines already copied
(`CopiedIn`, `CopiedOut`) over translations that stand whatever a copy writes (`translate_copied`), and a fault at the chunk's
first line. -/
theorem tileCopies : Obligations.TileCopies := by
  refine ⟨?cpy, ?done, ?lines, ?fault⟩
  case cpy =>
    intro f s0 g x s main sp n chunk engine load done hsteps hg hmain hlen hchunk
    obtain ⟨hempty, hcopy⟩ := exec_cpy_spec (s := s) rfl hg hmain hlen hchunk
    refine ⟨fun hn => ⟨_, hempty hn, me_retireVec hsteps, onlyHart_retireVec hsteps⟩, fun k off hn hsrc => ?_⟩
    obtain ⟨hroom, hfull⟩ := hcopy k off hn hsrc
    obtain ⟨hcopies, honly⟩ := onlyHart_retireVec_withCopy hsteps (handedCopy f s k off)
    exact ⟨fun hload => ⟨_, _, hroom hload, hcopies, rfl, rfl, rfl, rfl, rfl, rfl, rfl, rfl, rfl, rfl, rfl, rfl,
      me_retireVec (s := s.withCopy _) hsteps, honly⟩, hfull⟩
  case done =>
    intro i h md c s s1 hc hh h0 hmd hst hrun hns
    obtain ⟨l, hexec, hcopy⟩ := exec_tileCopyChunkDone hc hh hst hrun ((sameUnits_copyChunk c s).fst hrun).copies hns
    obtain ⟨hbits, -, -⟩ := setLouver_frame s1 l h md c.bit h0 hmd
    exact ⟨_, hexec, hcopy, hbits, rfl⟩
  case lines =>
    intro i h md c s pa hc hh h0 hmd hst hmain hns hw hlines hout
    obtain ⟨mem, lines, cores, hot, hrun, hbytes⟩ := copyChunk_spec hw hlines hout
    obtain ⟨l, hexec, hcopy⟩ := exec_tileCopyChunkDone hc hh hst hrun rfl hns
    obtain ⟨hbits, hothers, hmine⟩ := setLouver_frame (s.copied mem lines cores hot) l h md c.bit h0 hmd
    exact ⟨_, hexec, hbytes, hcopy, hbits, hothers, hmine, rfl⟩
  case fault =>
    intro i h md c s s1 k hc hh hst hmain hne hns hk a hlo ht
    have hpos : 0 < c.lines := by
      rw [chunkLines_eq] at hne
      exact Nat.pos_of_ne_zero fun hz => hne (by rw [hz]; rfl)
    have hline : (c.main + wd (c.line 0)).toNat % 64 = 0 := by
      simp only [wd, Copy.line, BitVec.toNat_add, BitVec.toNat_ofNat]
      omega
    obtain ⟨hharts, hgroups, hcopies⟩ := (sameUnits_translate ..).fst ht
    have hhart (j : Nat) : s1.hart j = s.hart j := by rw [State.hart, hharts]; rfl
    have hns1 : NotSaving s1 h := by
      intro g x hg hx j hj
      rw [hhart] at hg ⊢
      exact hns g x hg (by rwa [State.group?, hgroups] at hx) j hj
    obtain ⟨l, hexec, hcopy⟩ := exec_tileCopyFault hc hh hst (copyChunk_fault hk hpos hline ht) hcopies hns1
    refine ⟨_, hexec, hcopy, ?_, fun j hj => ?_, ?_⟩
    · rw [← hhart h]
      exact State.hart_setHart_same ..
    · rw [← hhart j]
      exact (State.hart_setHart ..).trans (if_neg hj)
    · rw [← hharts, ← hcopies]
      rfl

end Sys2Proof.Machine
end

section
/-!
PROOFS. Vector memory: two statements that do not hold as they stand, each for want of a bound that R143 or R154 gives.
-/
namespace Sys2Proof.Machine
open Sys2Proof

/-! ## Blocks at addresses that wrap (R143, R152) -/

/-- A group of one hart with four lanes and a scratchpad allocation of more than 2^64 bytes. -/
def vastGroup : Group :=
  { serial := 0, asid := 0, num := 0, core := 0, slots := [0], quads := 1, next := 0, pre := false, rcl := false,
    lmin := 0, lmax := 0, prio := 0, spadBase := 0, spadSize := 2 ^ 65, frame := 0, lstate := .idle, lgen := 0, lcount := 0,
    bolts := [], st := .running, saveKind := .full, saveQuads := 0, saveLp := [], saveAcc := none }

/-- Its hart, with VL 32, every register under sx2, and the last even address in `s1`. -/
def vastHart : Hart :=
  { Hart.reset with
    sreg := (Vector.replicate 64 0).set! 1 (-2), vl := 32, tagtab := Vector.replicate 4 0xCCCCCCCCCCCCCCCC, group := some 0 }

/-- The state with that hart alone, where byte 6 of the scratchpad holds 1 and every other byte 0. -/
def vastState : State :=
  { State.reset with
    harts := [(0, vastHart)], groups := [(0, vastGroup)], cores := [(0, { Core.reset with spad := [(6, 1)] })] }

/-- `VLD v0, [s1]` of the scratchpad: two blocks of 8 bytes. -/
def loadLast : FmtVM :=
  { vd := 0, sa := 1, sb := 0, msk := 0, e := 0, o := 0, ff := 0, ch := 0, sp := 1, ovr := 0, imm := 0 }

theorem vastState_noPoison : NoPoison vastState := fun k =>
  smGet_all (P := fun x : Core => x.poison = []) rfl (by simp [vastState, Core.reset]) k

theorem vastState_vecFits : VecFits vastState [.sx2] := by
  simp only [VecFits, List.mem_singleton, forall_eq]
  decide +kernel

/-- The model takes the second block of `loadLast` from byte 6, where its address wraps. -/
theorem loadLast_block : (vmemRun true .unit loadLast vastState).me.block 0 .sx2 1 = 1 := by
  decide +kernel

/-- Refutes O23: `VectorBlockLoadsRule` lacks the bound of R143, by which a range ends far below 2^64. In a group whose allocation
holds more bytes than an address can name, the address of a later block wraps, and the block that the rule names stands beyond
the wrap: at byte 2^64 + 6 of the scratchpad, which is 0, where the model reads byte 6. -/
theorem not_vectorLoads : ¬ Obligations.VectorLoads := by
  intro h
  obtain ⟨-, hloads⟩ := h
  obtain ⟨hblocks, -⟩ := hloads loadLast vastState 0 vastGroup rfl (by decide +kernel) Hart.reset_vecWf rfl rfl
    vastState_vecFits
  obtain ⟨hsame, -⟩ := hblocks (by decide +kernel) rfl (by decide +kernel) (by decide +kernel) (by decide +kernel)
    vastState_noPoison (by decide +kernel) (by decide +kernel)
  obtain ⟨t, ht, hblock, -⟩ := hsame (by decide +kernel) rfl
  have hrun : exec (.vld loadLast) vastState = .next (vmemRun true .unit loadLast vastState) := rfl
  obtain rfl : vmemRun true .unit loadLast vastState = t := Host.Outcome.next.inj (hrun.symm.trans ht)
  have hlast : (vmemRun true .unit loadLast vastState).me.block 0 .sx2 1 =
      leNat (readLoc vastState (.spad 0 (2 ^ 64 + 6)) 8) := hblock 1 (by decide +kernel)
  exact absurd (loadLast_block.symm.trans hlast) (by decide +kernel)

/-! ## More rows than a tile has (R154) -/

/-- A hart with VL 0 and nine rows, whose `v8` is bound to a MEM stream that it writes (KIND 1, DIR 1). -/
def nineRows : Hart :=
  { Hart.reset with rowcnt := 9, binds := [newBinding 8 0 0 (1 + 2 ^ 8) false] }

/-- The state with that hart alone. -/
def nineRowsState : State := { State.reset with harts := [(0, nineRows)] }

/-- `VSTT v0, [s0]` to the scratchpad. -/
def storeTile : FmtVM :=
  { vd := 0, sa := 0, sb := 0, msk := 0, e := 0, o := 0, ff := 0, ch := 0, sp := 1, ovr := 0, imm := 0 }

theorem nineRowsState_memReady : MemReady .tile storeTile nineRowsState nineRowsState.me.rowcnt.toNat :=
  ⟨by decide +kernel, Hart.reset_vecWf, by decide +kernel, by decide +kernel, by decide +kernel, nofun⟩

/-- `storeTile` enters the handler at level S: a register that its stream alone writes is no source. -/
theorem storeTile_level : (vmemRun false .tile storeTile nineRowsState).me.level = .s := by
  decide +kernel

/-- Refutes O25: `ElementAccessRule` lacks the bound ROWS ≤ 8 of R154. `MemReady` leaves `v0` to `v7` unbound, and of nine rows
the last is `v8`: bound to a stream that it writes, it traps BIND, also with VL 0. -/
theorem not_vectorElementAccess : ¬ Obligations.VectorElementAccess := by
  intro h
  obtain ⟨⟨hempty, -⟩, -⟩ := h
  obtain ⟨t, ht, -, hme⟩ := hempty storeTile nineRowsState (.tile, .vstt storeTile, 1) (by simp [memForms, storeTile])
    nineRowsState_memReady rfl rfl
  have hrun : exec (.vstt storeTile) nineRowsState = .next (vmemRun false .tile storeTile nineRowsState) := rfl
  obtain rfl : vmemRun false .tile storeTile nineRowsState = t := Host.Outcome.next.inj (hrun.symm.trans ht)
  exact absurd (storeTile_level.symm.trans (congrArg Hart.level hme)) (by decide +kernel)

end Sys2Proof.Machine
end

section
/-!
PROOFS. What accesses to memory leave of the harts, device registers, migrations, kernels and groups of a state.
-/
namespace Sys2Proof.Machine
open Sys2Proof

/-- What accesses to memory leave alone of what a context has in hand. -/
structure WorkParts where
  harts   : Sparse Hart
  cur     : Nat
  regs    : Regs
  migs    : List Mig
  kernels : Sparse Kernel
  groups  : Sparse Group

/-- The harts, device registers, migrations, kernels and groups of a state. -/
def State.work (s : State) : WorkParts := ⟨s.harts, s.cur, s.regs, s.migs, s.kernels, s.groups⟩

theorem work_foldl {α : Type} {f : State → α → State} {l : List α} {s : State}
    (hf : ∀ t : State, ∀ a ∈ l, (f t a).work = t.work) : (l.foldl f s).work = s.work :=
  foldl_keeps_mem (P := fun t => t.work = s.work) rfl fun t a ha ht => (hf t a ha).trans ht

theorem MemoryOnly.work {s t : State} (h : MemoryOnly s t) : t.work = s.work := by
  obtain ⟨m, l, f, x, hm, pm, c, k, rfl⟩ := h
  rfl

theorem CountsOnly.work {s t : State} (h : CountsOnly s t) : t.work = s.work := by
  obtain ⟨m, rfl⟩ := h
  rfl

theorem work_lookUp (w : Who) (acc : Access) (va : Nat) (s : State) : (lookUp w acc va s).1.work = s.work := by
  have hwalk := (countsOnly_countWalk w.asid va s).work
  have hfill (t : TlbAt) (l : Leaf) (u : State) : (tlbFill t l u).work = u.work := rfl
  unfold lookUp leafOf
  grind
grind_pattern work_lookUp => lookUp w acc va s

theorem work_granted (w : Who) (acc : Access) (va n : Nat) (l : Leaf) (s : State) :
    (granted w acc va n l s).1.work = s.work := by
  have hb (s : State) : s.bump.work = s.work := rfl
  unfold granted placeOf
  grind
grind_pattern work_granted => granted w acc va n l s

theorem work_translate (w : Who) (acc : Access) (va n : Nat) (s : State) :
    (translate w acc va n s).1.work = s.work := by
  unfold translate
  grind
grind_pattern work_translate => translate w acc va n s

theorem work_lookUpAll (w : Who) (acc : Access) (ps : List (Nat × Nat)) (s : State) :
    (lookUpAll w acc ps s).1.work = s.work := by
  fun_induction lookUpAll w acc ps s <;> grind
grind_pattern work_lookUpAll => lookUpAll w acc ps s

theorem work_grantedAll (w : Who) (acc : Access) (ps : List ((Nat × Nat) × Leaf)) (s : State) :
    (grantedAll w acc ps s).1.work = s.work := by
  fun_induction grantedAll w acc ps s <;> grind
grind_pattern work_grantedAll => grantedAll w acc ps s

theorem work_translateAll (w : Who) (acc : Access) (ps : List (Nat × Nat)) (s : State) :
    (translateAll w acc ps s).1.work = s.work := by
  unfold translateAll
  grind
grind_pattern work_translateAll => translateAll w acc ps s

theorem work_placeFault (p : Place) (s : State) : (placeFault p s).1.work = s.work := by
  have hb : s.bump.work = s.work := rfl
  unfold placeFault
  grind
grind_pattern work_placeFault => placeFault p s

theorem work_placesFault (ps : List Place) (s : State) : (placesFault ps s).1.work = s.work := by
  fun_induction placesFault ps s <;> grind
grind_pattern work_placesFault => placesFault ps s

theorem work_countPlaces (w : Who) (ps : List Place) (s : State) : (countPlaces w ps s).work = s.work := by
  obtain ⟨k, p, q, f, h⟩ := countPlaces_only w ps s
  rw [h]
  rfl
grind_pattern work_countPlaces => countPlaces w ps s

theorem work_vread (w : Who) (acc : Access) (va n : Nat) (s : State) : (vread w acc va n s).1.work = s.work := by
  unfold vread
  grind

theorem work_vreadNat (w : Who) (va n : Nat) (s : State) : (vreadNat w va n s).1.work = s.work := by
  have h := work_vread w .load va n s
  unfold vreadNat
  grind
grind_pattern work_vreadNat => vreadNat w va n s

theorem work_vwriteCheck (w : Who) (va n : Nat) (s : State) : (vwriteCheck w va n s).1.work = s.work := by
  unfold vwriteCheck
  grind
grind_pattern work_vwriteCheck => vwriteCheck w va n s

theorem work_vwrite (w : Who) (va : Nat) (d : List Byte) (s : State) : (vwrite w va d s).1.work = s.work := by
  have hp (l : List PStore) (s : State) : (performAll l s).work = s.work := (performAll_only l s).work
  unfold vwrite
  grind
grind_pattern work_vwrite => vwrite w va d s

theorem work_vamoAt (w : Who) (aop va n v e : Nat) (s : State) : (vamoAt w aop va n v e s).1.work = s.work := by
  have hw (l : Loc) (c : Cry) (d : List Byte) (s : State) : (writeLoc l c d s).work = s.work :=
    (writeLoc_only l c d s).work
  have hb (s : State) : s.bump.work = s.work := rfl
  unfold vamoAt
  grind
grind_pattern work_vamoAt => vamoAt w aop va n v e s

theorem work_ringPost (a : Nat) (e : BitVec 512) (s : State) : (ringPost a e s).1.work = s.work := by
  have hm (v : Nat) (s : State) : (raiseMsix v s).work = s.work := rfl
  unfold ringPost
  split
  · rfl
  · dsimp only
    repeat' split
    all_goals grind
grind_pattern work_ringPost => ringPost a e s

end Sys2Proof.Machine
end

section
/-!
PROOFS. What the operations of kernels leave unchanged: buffer holds (R173 to R175), and the completion of nodes, levels
and kernels (R200).
-/
namespace Sys2Proof.Machine
open Sys2Proof

/-! ## Finite maps and parts of the state -/

theorem smGet?_smDel {α : Type} (m : Sparse α) (k j : Nat) :
    smGet? (smDel m k) j = if j = k then none else smGet? m j := by
  induction m with
  | nil => simp [smDel, smGet?]
  | cons p m ih =>
    rw [smDel] at ih ⊢
    rw [List.filter_cons]
    grind [smGet?]

theorem smGet?_map {α β : Type} (f : α → β) (m : Sparse α) (j : Nat) :
    smGet? (m.map fun p => (p.1, f p.2)) j = (smGet? m j).map f := by
  induction m with
  | nil => rfl
  | cons p m ih =>
    simp only [List.map_cons, smGet?, ih]
    split <;> rfl

theorem State.kernel?_setKernel (s : State) (k j : Nat) (x : Kernel) :
    (s.setKernel k x).kernel? j = if j = k then some x else s.kernel? j := smGet?_smPut ..

@[simp] theorem State.kernel?_setKernel_same (s : State) (k : Nat) (x : Kernel) :
    (s.setKernel k x).kernel? k = some x := by
  rw [State.kernel?_setKernel, if_pos rfl]

theorem State.group?_setGroup (s : State) (g j : Nat) (x : Group) :
    (s.setGroup g x).group? j = if j = g then some x else s.group? j := smGet?_smPut ..

theorem State.ctx_setCtx (s : State) (a b : Nat) (x : Ctx) :
    (s.setCtx a x).ctx b = if b = a then x else s.ctx b := smGet_smPut ..

theorem State.ctx_modCtx (s : State) (a b : Nat) (f : Ctx → Ctx) :
    (s.modCtx a f).ctx b = if b = a then f (s.ctx a) else s.ctx b := State.ctx_setCtx ..

theorem State.hart_modHart (s : State) (h j : Nat) (f : Hart → Hart) :
    (s.modHart h f).hart j = if j = h then f (s.hart h) else s.hart j := State.hart_setHart ..

theorem mem_groups_of_group? {s : State} {g : Nat} {x : Group} (h : s.group? g = some x) : (g, x) ∈ s.groups :=
  mem_of_smGet? h

/-- A key that is listed has a value. -/
theorem smGet?_isSome_of_mem {α : Type} {m : Sparse α} {p : Nat × α} (h : p ∈ m) : (smGet? m p.1).isSome := by
  induction m with
  | nil => cases h
  | cons q m ih =>
    simp only [smGet?]
    split
    · rfl
    · next hne =>
      rcases List.mem_cons.1 h with rfl | hm
      · exact absurd rfl hne
      · exact ih hm

/-! ## Buffer holds (R173 to R175) -/

/-- Nothing changes but device memory, its lines' metadata and the count of free values. -/
def LinesOnly (s t : State) : Prop := ∃ m l f, t = { s with mem := m, lines := l, fresh := f }

theorem LinesOnly.refl (s : State) : LinesOnly s s := ⟨s.mem, s.lines, s.fresh, rfl⟩

theorem LinesOnly.trans {s t u : State} : LinesOnly s t → LinesOnly t u → LinesOnly s u := by
  rintro ⟨_, _, _, rfl⟩ ⟨m, l, f, rfl⟩
  exact ⟨m, l, f, rfl⟩

theorem LinesOnly.parts {s t : State} : LinesOnly s t →
    t.harts = s.harts ∧ t.groups = s.groups ∧ t.kernels = s.kernels ∧ t.ctxs = s.ctxs := by
  rintro ⟨m, l, f, rfl⟩
  exact ⟨rfl, rfl, rfl, rfl⟩

theorem linesOnly_foldl {α : Type} {f : State → α → State} (hf : ∀ s a, LinesOnly s (f s a)) (l : List α) (s : State) :
    LinesOnly s (l.foldl f s) :=
  foldl_keeps (P := LinesOnly s) (fun t a ht => ht.trans (hf t a)) l (.refl s)

theorem linesOnly_storeBuf (a b : Nat) (s : State) : LinesOnly s (storeBuf a b s) := by
  unfold storeBuf
  dsimp only
  split
  · exact ⟨_, _, _, rfl⟩
  · exact .refl s

theorem linesOnly_changeHolds (f : Nat → Buf → Buf) (x : Kernel) (s : State) :
    LinesOnly (s.modCtx x.asid (overDecls f x.decls)) (changeHolds f x s) := by
  refine linesOnly_foldl (fun t d => ?_) _ _
  split
  · exact .refl t
  · exact linesOnly_storeBuf ..

theorem Ctx.buf_of_ne {b : Nat} (hb : b ≠ 0) (x : Ctx) : x.buf b = smGet Buf.free x.bufs b := if_neg hb

theorem Ctx.buf_congr {x y : Ctx} (h : x.bufs = y.bufs) (b : Nat) : x.buf b = y.buf b := by
  rw [Ctx.buf, Ctx.buf, h]

/-- Changing the buffers of declarations that name each buffer once changes each declared buffer once, and no other. -/
theorem buf_overDecls {f : Nat → Buf → Buf} {decls : List (Nat × Nat)} (hd : (decls.map Prod.snd).Nodup) {b : Nat}
    (hb : b ≠ 0) (x : Ctx) :
    (overDecls f decls x).buf b = (decls.find? fun d => d.2 == b).elim (x.buf b) fun d => f d.1 (x.buf b) := by
  induction decls generalizing x with
  | nil => rfl
  | cons d decls ih =>
    rw [List.map_cons, List.nodup_cons] at hd
    obtain ⟨hmem, hd⟩ := hd
    rw [overDecls, List.foldl_cons, ← overDecls, ih hd, List.find?_cons]
    by_cases hdb : d.2 = b
    · have hrest : decls.find? (fun d => d.2 == b) = none :=
        List.find?_eq_none.2 fun e he hb => hmem (List.mem_map.2 ⟨e, he, (beq_iff_eq.1 hb).trans hdb.symm⟩)
      rw [hrest, hdb, if_neg hb, beq_self_eq_true]
      exact (Ctx.buf_of_ne hb _).trans (smGet_smPut_same ..)
    · have hbuf : (if d.2 = 0 then x else { x with bufs := smPut x.bufs d.2 (f d.1 (x.buf d.2)) }).buf b = x.buf b := by
        split
        · rfl
        · rw [Ctx.buf_of_ne hb, Ctx.buf_of_ne hb]
          exact smGet_smPut_other _ _ _ (Ne.symm hdb)
      rw [hbuf, beq_eq_false_iff_ne.2 hdb]

/-! ## The transom tree (R200) -/

/-- Nothing changes but the waiting events of contexts and the interrupts raised. -/
def PostsOnly (s t : State) : Prop :=
  ∃ c m, t = { s with ctxs := c, msix := m } ∧ ∀ a, (t.ctx a).bufs = (s.ctx a).bufs

theorem PostsOnly.refl (s : State) : PostsOnly s s := ⟨s.ctxs, s.msix, rfl, fun _ => rfl⟩

theorem PostsOnly.trans {s t u : State} : PostsOnly s t → PostsOnly t u → PostsOnly s u := by
  rintro ⟨_, _, rfl, ht⟩ ⟨c, m, rfl, hu⟩
  exact ⟨c, m, rfl, fun a => (hu a).trans (ht a)⟩

theorem postsOnly_foldl {α : Type} {f : State → α → State} (hf : ∀ s a, PostsOnly s (f s a)) (l : List α) (s : State) :
    PostsOnly s (l.foldl f s) :=
  foldl_keeps (P := PostsOnly s) (fun t a ht => ht.trans (hf t a)) l (.refl s)

theorem postsOnly_queueEvent (a : Nat) (e : BitVec 512) (s : State) : PostsOnly s (queueEvent a e s) := by
  refine ⟨_, _, rfl, fun b => ?_⟩
  rw [queueEvent, State.ctx_modCtx]
  split
  · next h => rw [h]
  · rfl

theorem postsOnly_raiseMsix (v : Nat) (s : State) : PostsOnly s (raiseMsix v s) := ⟨_, _, rfl, fun _ => rfl⟩

theorem postsOnly_levelDone (serial : Nat) (x : Kernel) (level unit : Nat) (cause tval : Word) (s : State) :
    PostsOnly s (levelDone serial x level unit cause tval s) := by
  unfold levelDone
  extract_lets code e s1
  have h1 : PostsOnly s s1 := by
    unfold s1
    split
    · exact postsOnly_queueEvent ..
    · exact .refl s
  split
  · exact h1.trans (postsOnly_raiseMsix ..)
  · exact h1

theorem PostsOnly.work {s t : State} : PostsOnly s t → t.work = s.work := by
  rintro ⟨c, m, rfl, -⟩
  rfl

theorem PostsOnly.parts {s t : State} : PostsOnly s t →
    t.harts = s.harts ∧ t.groups = s.groups ∧ t.kernels = s.kernels ∧ ∀ a, (t.ctx a).bufs = (s.ctx a).bufs := by
  rintro ⟨c, m, rfl, h⟩
  exact ⟨rfl, rfl, rfl, h⟩

/-- Kernel `y` is `x` but for what of it has completed. -/
def Kernel.SameButDone (x y : Kernel) : Prop :=
  { y with
    doneCores := x.doneCores, doneClusters := x.doneClusters, doneDies := x.doneDies
    finished := x.finished } = x

theorem Kernel.SameButDone.parts {x y : Kernel} (h : x.SameButDone y) :
    y.asid = x.asid ∧ y.st = x.st ∧ y.next = x.next ∧ y.retired = x.retired := by
  unfold Kernel.SameButDone at h
  exact ⟨(congrArg Kernel.asid h :), (congrArg Kernel.st h :), (congrArg Kernel.next h :),
    (congrArg Kernel.retired h :)⟩

/-- Of the kernels, `k` differs from `x` in no more than what of it has completed, and no other differs. -/
def Completes (k : Nat) (x : Kernel) (ms ks : Sparse Kernel) : Prop :=
  (∃ y, smGet? ks k = some y ∧ x.SameButDone y) ∧ ∀ j, j ≠ k → smGet? ks j = smGet? ms j

theorem completes_refl {k : Nat} {x : Kernel} {ms : Sparse Kernel} (hx : smGet? ms k = some x) : Completes k x ms ms :=
  ⟨⟨x, hx, rfl⟩, fun _ _ => rfl⟩

theorem completes_smPut {k : Nat} {x y : Kernel} (ms : Sparse Kernel) (h : x.SameButDone y) :
    Completes k x ms (smPut ms k y) :=
  ⟨⟨y, (smGet?_smPut ..).trans (if_pos rfl), h⟩, fun _ hj => (smGet?_smPut ..).trans (if_neg hj)⟩

section
variable {s : State} {k : Nat} {x : Kernel}

/-- The nodes that are due complete, with their events and interrupts. -/
theorem nodesDone_spec (hx : s.kernel? k = some x) :
    PostsOnly { s with kernels := (nodesDone k s).kernels } (nodesDone k s) ∧
    Completes k x s.kernels (nodesDone k s).kernels := by
  unfold nodesDone
  split
  · next h => cases hx.symm.trans h
  next y hy =>
  obtain rfl : x = y := Option.some.inj (hx.symm.trans hy)
  split
  · exact ⟨.refl s, completes_refl hx⟩
  · extract_lets ab used cores allCores clusters allClusters dies s1 s2 s3
    have h2 : PostsOnly s1 s2 := postsOnly_foldl (fun _ _ => postsOnly_levelDone ..) _ _
    have h3 : PostsOnly s2 s3 := postsOnly_foldl (fun _ _ => postsOnly_levelDone ..) _ _
    have hall := h2.trans (h3.trans (postsOnly_foldl (fun _ n => postsOnly_levelDone k x 2 n 0 0 _) dies s3))
    have hk : (dies.foldl (fun s n => levelDone k x 2 n 0 0 s) s3).kernels = s1.kernels :=
      congrArg WorkParts.kernels hall.work
    rw [hk]
    exact ⟨hall, completes_smPut s.kernels rfl⟩

/-- The last levels of a kernel without a counter complete at once. -/
theorem finishKernel_of_no_counter (hx : s.kernel? k = some x) (hc : x.ctr = 0) (last : Bool) :
    PostsOnly (s.setKernel k { x with finished := true }) (finishKernel last k s) := by
  unfold finishKernel
  simp only [hx, if_pos hc]
  exact (postsOnly_levelDone ..).trans (postsOnly_levelDone ..)

/-- The last levels of a kernel complete, or wait and leave it as it was. -/
theorem finishKernel_spec (hx : s.kernel? k = some x) (last : Bool) :
    (finishKernel last k s).work = { s.work with kernels := (finishKernel last k s).kernels } ∧
    Completes k x s.kernels (finishKernel last k s).kernels := by
  have hlevel (n : Nat) (c v : Word) (u : State) : (levelDone k x n 0 c v u).work = u.work :=
    (postsOnly_levelDone ..).work
  have hdone (u : State) (hu : u.work = (s.setKernel k { x with finished := true }).work) :
      u.work = { s.work with kernels := u.kernels } ∧ Completes k x s.kernels u.kernels := by
    have hk : u.kernels = (s.setKernel k { x with finished := true }).kernels := congrArg WorkParts.kernels hu
    rw [hk]
    exact ⟨hu, completes_smPut s.kernels rfl⟩
  unfold finishKernel
  split
  · next h => cases hx.symm.trans h
  next y hy =>
  obtain rfl : x = y := Option.some.inj (hx.symm.trans hy)
  extract_lets s0
  have h0 : s0.work = (s.setKernel k { x with finished := true }).work := hlevel ..
  split
  · exact hdone _ ((hlevel ..).trans h0)
  · have hamo := work_vamoAt (ctxWho x.asid (x.lastCl.getD 0)) 0 x.ctr.toNat 8 (2 ^ 64 - 1) 0 s0
    split
    · next e => exact hdone _ ((hlevel ..).trans ((congrArg (·.1.work) e).symm.trans (hamo.trans h0)))
    · next e => exact hdone _ ((hlevel ..).trans ((congrArg (·.1.work) e).symm.trans (hamo.trans h0)))
    · next e =>
      split
      · exact hdone _ ((hlevel ..).trans ((congrArg (·.1.work) e).symm.trans (hamo.trans h0)))
      · exact ⟨rfl, completes_refl hx⟩

end

end Sys2Proof.Machine
end

section
/-!
PROOFS. Kernels from dispatch to retirement (R174, R175, R197 to R200).
-/
namespace Sys2Proof.Machine
open Sys2Proof

/-! ## Dispatch and retirement (R174, R175, R197, R200) -/

section
variable {s : State} {k : Nat} {x : Kernel}

theorem exec_kernelDispatch_of_free (hx : s.kernel? k = some x) (hq : x.st = .queued)
    (hdis : s.dispatches x.asid = true) (hfree : ∀ d ∈ x.decls, declConflict (s.ctx x.asid) d = false) :
    exec (.kernelDispatch k) s = .next ((changeHolds takeHold x s).setKernel k { x with st := .dispatching }) := by
  have hany : x.decls.any (declConflict (s.ctx x.asid)) = false :=
    List.any_eq_false.2 fun d hd => by rw [hfree d hd]; exact Bool.false_ne_true
  simp only [exec, execKernelDispatch, hx]
  rw [if_pos ⟨hq, hdis, hany⟩]

theorem exec_kernelDispatch_of_conflict (hx : s.kernel? k = some x)
    (h : s.dispatches x.asid = false ∨ ∃ d ∈ x.decls, declConflict (s.ctx x.asid) d = true) :
    exec (.kernelDispatch k) s = .next s := by
  simp only [exec, execKernelDispatch, hx]
  rw [if_neg]
  rintro ⟨-, hdis, hany⟩
  rcases h with h | ⟨d, hd, hc⟩
  · exact Bool.false_ne_true (h.symm.trans hdis)
  · exact List.any_eq_false.1 hany d hd hc

theorem exec_kernelRetire_of_not_resident (hx : s.kernel? k = some x) (hr : (s.ctx x.asid).st ≠ .resident) :
    exec (.kernelRetire k) s = .next s := by
  simp only [exec, execKernelRetire, hx]
  rw [if_pos hr]

/-- A drained kernel without a counter retires, and its last levels complete at once. -/
theorem exec_kernelRetire_of_drained (hx : s.kernel? k = some x) (hd : x.st = .draining)
    (hr : (s.ctx x.asid).st = .resident) (hc : x.ctr = 0) : ∃ t, exec (.kernelRetire k) s = .next t ∧
    PostsOnly ((changeHolds leaveHold x s).setKernel k { x with st := .retired, finished := true }) t := by
  let s1 := (changeHolds leaveHold x s).setKernel k { x with st := .retired }
  have hposts := finishKernel_of_no_counter (s := s1) (State.kernel?_setKernel_same ..) hc false
  have hs1 : s1.setKernel k { x with st := .retired, finished := true } =
      (changeHolds leaveHold x s).setKernel k { x with st := .retired, finished := true } := by
    simp only [s1, State.setKernel, smPut_smPut]
  have hk : (finishKernel false k s1).kernel? k = some { x with st := .retired, finished := true } := by
    rw [State.kernel?, show (finishKernel false k s1).kernels = _ from congrArg WorkParts.kernels hposts.work]
    exact State.kernel?_setKernel_same ..
  refine ⟨finishKernel false k s1, ?_, hs1 ▸ hposts⟩
  simp only [exec, execKernelRetire, hx]
  rw [if_neg (not_not.2 hr), if_pos hd]
  show Host.Outcome.next (match (finishKernel false k s1).kernel? k with
    | some y => if y.finished then finishKernel false k s1 else s
    | none => s) = _
  rw [hk]
  rfl

/-- The buffers of a kernel's context after its holds changed. -/
theorem buf_changeHolds (f : Nat → Buf → Buf) (hd : (x.decls.map Prod.snd).Nodup) {b : Nat} (hb : b ≠ 0) :
    ((changeHolds f x s).ctx x.asid).buf b =
      (x.decls.find? fun d => d.2 == b).elim ((s.ctx x.asid).buf b) fun d => f d.1 ((s.ctx x.asid).buf b) := by
  obtain ⟨m, l, n, h⟩ := linesOnly_changeHolds f x s
  rw [h]
  show ((s.modCtx x.asid (overDecls f x.decls)).ctx x.asid).buf b = _
  rw [State.ctx_modCtx, if_pos rfl, buf_overDecls hd hb]

end

/-! ## Placement (R198, R199) -/

/-- A DISPATCHING kernel of a context that dispatches (R198). -/
def Offered (s : State) (k : Kernel) : Prop := k.st = .dispatching ∧ s.dispatches k.asid = true

/-- The choice among some kernels: one that is offered and has a place, of the highest priority of those. -/
def Chosen (s : State) (l : Sparse Kernel) (b : Option (Nat × Kernel × Nat × Nat × Nat)) : Prop :=
  (∀ q, b = some q → Offered s q.2.1 ∧ placeFor s q.2.1 = some q.2.2) ∧
  ∀ p ∈ l, Offered s p.2 → placeFor s p.2 ≠ none → ∃ q, b = some q ∧ p.2.prio ≤ q.2.1.prio

theorem chosen_append {s : State} {l : Sparse Kernel} {b b' : Option (Nat × Kernel × Nat × Nat × Nat)}
    {p : Nat × Kernel}
    (h : Chosen s l b) (hb : ∀ q, b' = some q → Offered s q.2.1 ∧ placeFor s q.2.1 = some q.2.2)
    (hle : ∀ q, b = some q → ∃ q', b' = some q' ∧ q.2.1.prio ≤ q'.2.1.prio)
    (hp : Offered s p.2 → placeFor s p.2 ≠ none → ∃ q, b' = some q ∧ p.2.prio ≤ q.2.1.prio) :
    Chosen s (l ++ [p]) b' := by
  refine ⟨hb, fun r hr ho hpl => ?_⟩
  rcases List.mem_append.1 hr with hr | hr
  · obtain ⟨q, hq, hrq⟩ := h.2 r hr ho hpl
    obtain ⟨q', hq', hqq⟩ := hle q hq
    exact ⟨q', hq', hrq.trans hqq⟩
  · obtain rfl := List.mem_singleton.1 hr
    exact hp ho hpl

theorem chosen_nextPlacement (s : State) : Chosen s s.kernels (nextPlacement s) := by
  unfold nextPlacement
  induction s.kernels using List.reverseRecOn with
  | nil => exact ⟨nofun, nofun⟩
  | append_singleton l p ih =>
    rw [List.foldl_concat]
    generalize List.foldl _ none l = b at ih ⊢
    have hstay : ∀ q, b = some q → ∃ q', b = some q' ∧ q.2.1.prio ≤ q'.2.1.prio := fun q hq => ⟨q, hq, le_rfl⟩
    dsimp only
    split
    · next hno => exact chosen_append ih ih.1 hstay fun ho _ => absurd hno (by rw [ho.1, ho.2]; simp)
    · next hyes =>
      have hoff : Offered s p.2 := by simpa [Offered] using hyes
      have hskip (hnone : placeFor s p.2 = none) : Chosen s (l ++ [p]) b :=
        chosen_append ih ih.1 hstay fun _ h => absurd hnone h
      have htake (x : Nat × Nat × Nat) (hx : placeFor s p.2 = some x) (hlt : ∀ q, b = some q → q.2.1.prio < p.2.prio) :
          Chosen s (l ++ [p]) (some (p.1, p.2, x)) := by
        refine chosen_append ih ?_ (fun q hq => ⟨_, rfl, (hlt q hq).le⟩) fun _ _ => ⟨_, rfl, le_rfl⟩
        rintro _ ⟨⟩
        exact ⟨hoff, hx⟩
      cases b with
      | none =>
        rw [if_pos rfl]
        split
        · next x hx => exact htake x hx nofun
        · next hnone => exact hskip hnone
      | some q =>
        dsimp only
        split
        · next hlt =>
          split
          · next x hx => exact htake x hx fun _ hq => Option.some.inj hq ▸ of_decide_eq_true hlt
          · next hnone => exact hskip hnone
        · next hge => exact chosen_append ih ih.1 hstay fun _ _ => ⟨q, rfl, by simpa using hge⟩

theorem mem_clusterOrder {k : Kernel} {c : Nat} (h : c ∈ clusterOrder k) : c < 16 ∧ k.affinity.getLsbD c = true := by
  unfold clusterOrder at h
  split at h
  · exact mem_setBits.1 h
  · rcases List.mem_append.1 h with h | h
    · exact mem_setBits.1 (List.mem_of_mem_filter h)
    · exact mem_setBits.1 (List.mem_of_mem_filter h)

theorem placeFor_eq_some {s : State} {k : Kernel} {core base frame : Nat}
    (h : placeFor s k = some (core, base, frame)) :
    freeFrame s k.asid = some frame ∧ core / 96 ∈ clusterOrder k ∧ coreTakes s k core = some base := by
  unfold placeFor at h
  split at h
  · cases h
  · next f hf =>
    obtain ⟨c, hc, h⟩ := List.exists_of_findSome?_eq_some h
    obtain ⟨i, hi, h⟩ := List.exists_of_findSome?_eq_some h
    obtain ⟨b, hb, h⟩ := Option.map_eq_some_iff.1 h
    cases h
    have hdiv : (96 * c + i) / 96 = c := by
      have := List.mem_range.1 hi
      omega
    exact ⟨hf, hdiv.symm ▸ hc, hb⟩

theorem coreTakes_eq_some {s : State} {k : Kernel} {core base : Nat} (h : coreTakes s k core = some base) :
    k.hpg + 1 ≤ (freeSlots s core).length ∧ (coreGroups s core).foldl (fun n p => n + p.2.lmin) 0 + k.lmin ≤ 8 ∧
    freeSpad s core (4096 * k.spad) = some base := by
  unfold coreTakes at h
  split at h
  · next hc => exact ⟨hc.1, hc.2, h⟩
  · cases h

theorem freeSpad_eq_some {s : State} {core n base : Nat} (h : freeSpad s core n = some base) :
    base % 4096 = 0 ∧ (n = 0 ∧ base = 0 ∨ base + n ≤ 2 ^ 19) := by
  unfold freeSpad at h
  split at h
  · next h0 =>
    cases h
    exact ⟨rfl, .inl ⟨h0, rfl⟩⟩
  · have hmem := List.mem_of_find?_eq_some h
    have hp := List.find?_some h
    simp only [Bool.and_eq_true, decide_eq_true_eq] at hp
    obtain ⟨i, -, rfl⟩ := List.mem_map.1 hmem
    exact ⟨Nat.mul_mod_right .., .inr hp.1⟩

theorem freeFrame_lt {s : State} {asid f : Nat} (h : freeFrame s asid = some f) : f < (s.ctx asid).nframe :=
  List.mem_range.1 (List.mem_of_find?_eq_some h)

theorem mem_freeSlots {s : State} {core i : Nat} : i ∈ freeSlots s core ↔
    i < 4 ∧ ∀ p ∈ s.groups, p.2.core = core → i ∉ p.2.slots := by
  have h4 : i ∈ [0, 1, 2, 3] ↔ i < 4 := by
    rw [show [0, 1, 2, 3] = List.range 4 from rfl, List.mem_range]
  rw [freeSlots, List.mem_filter, h4, coreGroups]
  simp only [Bool.not_eq_true', List.any_eq_false, List.mem_filter, decide_eq_true_eq, List.contains_iff_mem]
  exact ⟨fun h => ⟨h.1, fun p hp hc => h.2 p ⟨hp, hc⟩⟩, fun h => ⟨h.1, fun p hp => h.2 p hp.1 hp.2⟩⟩

theorem nodup_freeSlots (s : State) (core : Nat) : (freeSlots s core).Nodup :=
  List.Nodup.filter _ (by decide)

/-- The harts that start in a list of slots of a core, each with its place in the list. -/
theorem hart_foldl_zipIdx {f : Nat → Hart → Hart} {core : Nat} {slots : List Nat} (hn : slots.Nodup) (s : State) :
    (∀ i, i < slots.length → (slots.zipIdx.foldl (fun s p => s.modHart (4 * core + p.1) (f p.2)) s).hart
      (4 * core + slots[i]!) = f i (s.hart (4 * core + slots[i]!))) ∧
    ∀ j, j ∉ slots.map (fun i => 4 * core + i) →
      (slots.zipIdx.foldl (fun s p => s.modHart (4 * core + p.1) (f p.2)) s).hart j = s.hart j := by
  induction slots using List.reverseRecOn with
  | nil => exact ⟨nofun, fun _ _ => rfl⟩
  | append_singleton l a ih =>
    rw [List.nodup_append] at hn
    obtain ⟨hl, -, hne⟩ := hn
    obtain ⟨hstart, hrest⟩ := ih hl
    rw [List.zipIdx_append, List.foldl_append]
    simp only [List.zipIdx_singleton, List.foldl_cons, List.foldl_nil, Nat.zero_add, State.hart_modHart]
    refine ⟨fun i hi => ?_, fun j hj => ?_⟩
    · rcases Nat.lt_or_ge i l.length with h | h
      · have hget : (l ++ [a])[i]! = l[i]! := by
          rw [List.getElem!_eq_getElem?_getD, List.getElem!_eq_getElem?_getD, List.getElem?_append_left h]
        have hmem : l[i]! ∈ l := by
          rw [getElem!_pos l i h]
          exact List.getElem_mem h
        have hlia := hne _ hmem a (List.mem_singleton_self a)
        rw [hget, if_neg (by omega), hstart i h]
      · have hia : i = l.length := by
          rw [List.length_append, List.length_singleton] at hi
          omega
        have hget : (l ++ [a])[i]! = a := by simp [hia]
        rw [hget, if_pos rfl, hia, hrest]
        intro hmem
        obtain ⟨b, hb, hba⟩ := List.mem_map.1 hmem
        exact hne b hb a (List.mem_singleton_self a) (by omega)
    · rw [List.map_append, List.mem_append, not_or] at hj
      rw [if_neg (fun h => hj.2 (by simp [h])), hrest j hj.1]
/-- A scalar register of a hart as its group starts it. -/
theorem startHart_get (k : Kernel) (num g i : Nat) (old : Hart) (r : BitVec 6) :
    (startHart k num g i old).get r = if r = 0 then 0 else if r = 1 then k.args else if r = 2 then wd num
      else if r = 3 then wd k.ngroups else if r = 4 then wd i else 0 := by
  have hlt := r.isLt
  have heq (n : Nat) (hn : n < 64) : r.toNat = n ↔ r = BitVec.ofNat 6 n := by
    rw [← BitVec.toNat_inj, BitVec.toNat_ofNat, Nat.mod_eq_of_lt hn]
  have hreset : Hart.reset.sreg[r.toNat]! = 0 := by
    rw [getElem!_pos Hart.reset.sreg r.toNat hlt]
    exact Vector.getElem_replicate _
  rw [Hart.get]
  refine if_congr Iff.rfl rfl ?_
  rw [if_neg (by rintro ⟨h, -⟩; cases h)]
  simp only [startHart]
  rw [vector_get_set _ _ _ _ (by decide), vector_get_set _ _ _ _ (by decide), vector_get_set _ _ _ _ (by decide),
    vector_get_set _ _ _ _ (by decide), hreset]
  simp only [heq 1 (by decide), heq 2 (by decide), heq 3 (by decide), heq 4 (by decide)]
  grind

theorem startHart_starts (k : Kernel) (g i : Nat) (old : Hart) : HartStarts k g i (startHart k k.next g i old) := by
  refine ⟨rfl, rfl, rfl, rfl, rfl, startHart_get .., startHart_get .., startHart_get .., startHart_get ..,
    fun r hr => ?_⟩
  have h1 : r ≠ 1 ∧ r ≠ 2 ∧ r ≠ 3 ∧ r ≠ 4 := by
    refine ⟨?_, ?_, ?_, ?_⟩ <;> rintro rfl <;> simp at hr
  rw [startHart_get, if_neg h1.1, if_neg h1.2.1, if_neg h1.2.2.1, if_neg h1.2.2.2]
  exact ite_self 0

section
variable {s : State} {serial core base frame : Nat} {k : Kernel}

/-- What the dispatchers serve next (R198). -/
theorem nextPlacement_eq_some (h : nextPlacement s = some (serial, k, core, base, frame)) :
    Offered s k ∧ placeFor s k = some (core, base, frame) ∧
    ∀ p ∈ s.kernels, Offered s p.2 → placeFor s p.2 ≠ none → p.2.prio ≤ k.prio := by
  obtain ⟨hb, hl⟩ := chosen_nextPlacement s
  obtain ⟨hoff, hplace⟩ := hb _ h
  refine ⟨hoff, hplace, fun p hp ho hpl => ?_⟩
  obtain ⟨q, hq, hle⟩ := hl p hp ho hpl
  cases h.symm.trans hq
  exact hle

theorem rotateLeft_perm {α : Type} (l : List α) (n : Nat) : (l.rotateLeft n).Perm l := by
  unfold List.rotateLeft
  dsimp only
  split
  · exact .refl l
  · exact List.perm_append_comm.trans (.of_eq (List.take_append_drop ..))

/-- The slots that a group takes: as many as it has harts, all of them free (R198). -/
theorem freeSlots_take {n : Nat} (hn : n ≤ (freeSlots s core).length) (r : Nat) :
    let slots := ((freeSlots s core).rotateLeft r).take n
    slots.Nodup ∧ slots.length = n ∧ ∀ i ∈ slots, i < 4 ∧ ∀ y ∈ s.groups, y.2.core = core → i ∉ y.2.slots := by
  have hrot := rotateLeft_perm (freeSlots s core) r
  refine ⟨?_, ?_, fun i hi => mem_freeSlots.1 (hrot.mem_iff.1 (List.mem_of_mem_take hi))⟩
  · exact (hrot.nodup_iff.2 (nodup_freeSlots s core)).sublist (List.take_sublist ..)
  · rw [List.length_take, hrot.length_eq, Nat.min_eq_left hn]

end

/-- R174, R175, R197 to R200: dispatch, retirement and placement. -/
theorem kernelLifeRule : KernelLifeRule := by
  refine ⟨fun s k x hx hd => ⟨fun hq hdis hfree => ?dispatch, fun _ h => exec_kernelDispatch_of_conflict hx h,
    fun _ hr => exec_kernelRetire_of_not_resident hx hr, fun hdr hr hc => ?retire⟩,
    fun s serial core base frame k hnext hk hid => ?place, fun s serial core base frame k hnext => ?chosen⟩
  case dispatch =>
    obtain ⟨hharts, hgroups, hkernels, -⟩ := (linesOnly_changeHolds takeHold x s).parts
    refine ⟨_, exec_kernelDispatch_of_free hx hq hdis hfree, State.kernel?_setKernel_same .., fun j hj => ?_, hharts,
      hgroups, fun b hb => (buf_changeHolds takeHold hd hb).trans ?_⟩
    · rw [State.kernel?_setKernel, if_neg hj, State.kernel?, hkernels]
      rfl
    · generalize x.decls.find? (fun d => d.2 == b) = o
      rcases o with _ | ⟨_ | _ | m, c⟩
      all_goals rfl
  case retire =>
    obtain ⟨t, ht, hposts⟩ := exec_kernelRetire_of_drained hx hdr hr hc
    obtain ⟨hharts, hgroups, hkernels, hbufs⟩ := hposts.parts
    obtain ⟨hharts', hgroups', -, -⟩ := (linesOnly_changeHolds leaveHold x s).parts
    refine ⟨t, ht, ?_, hharts.trans hharts', hgroups.trans hgroups', fun b hb => ?_⟩
    · rw [State.kernel?, hkernels]
      exact State.kernel?_setKernel_same ..
    · refine ((Ctx.buf_congr (hbufs _) b).trans (buf_changeHolds leaveHold hd hb)).trans ?_
      generalize x.decls.find? (fun d => d.2 == b) = o
      rcases o with _ | ⟨_ | _ | _ | m, c⟩
      all_goals rfl
  case place =>
    obtain ⟨⟨hdispatching, -⟩, hplace, -⟩ := nextPlacement_eq_some hnext
    obtain ⟨-, -, htakes⟩ := placeFor_eq_some hplace
    obtain ⟨hslots, -, -⟩ := coreTakes_eq_some htakes
    obtain ⟨hnodup, hlen, hfree⟩ := freeSlots_take hslots (Config.slotOrder s.fresh)
    have hexec : exec .groupPlace s = .next (placeGroup serial k core base frame s) := by
      simp only [exec, execGroupPlace, hnext]
    unfold placeGroup at hexec
    extract_lets g slots x s1 s2 n all k' at hexec
    obtain ⟨hposts, ⟨y, hy, hsame⟩, -⟩ := nodesDone_spec (State.kernel?_setKernel_same s2 serial k')
    obtain ⟨hharts, hgroups, hkernels, -⟩ := hposts.parts
    obtain ⟨-, hst, hnext', -⟩ := Kernel.SameButDone.parts hsame
    obtain ⟨hstart, hrest⟩ := hart_foldl_zipIdx (f := startHart k k.next g) hnodup s1
    have hs2 : s2.groups = s1.groups := by
      refine foldl_keeps (P := fun u : State => u.groups = s1.groups) (fun u p hu => ?_) _ rfl
      exact hu
    have hgroup (j : Nat) : (nodesDone serial (s2.setKernel serial k')).group? j =
        if j = g then some x else s.group? j := by
      rw [State.group?, hgroups]
      exact (congrArg (smGet? · j) hs2).trans (smGet?_smPut ..)
    have hhart (j : Nat) : (nodesDone serial (s2.setKernel serial k')).hart j = s2.hart j := by
      rw [State.hart, hharts]
      rfl
    refine ⟨_, g, x, hexec, rfl, (hgroup g).trans (if_pos rfl), fun j hj => (hgroup j).trans (if_neg hj), rfl, rfl, rfl,
      rfl, hnodup, hlen, hfree, rfl, rfl, rfl, rfl, rfl, rfl, rfl, rfl, fun i hi => ?_, fun j hj => ?_, y, hy, ?_, ?_⟩
    · rw [hhart, hstart i hi]
      exact startHart_starts ..
    · rw [hhart, hrest j hj]
      rfl
    · exact hnext'
    · rw [hst]
      simp only [k', all, decide_eq_true_eq, hdispatching]
  case chosen =>
    obtain ⟨⟨hst, hdis⟩, hplace, hbest⟩ := nextPlacement_eq_some hnext
    obtain ⟨hframe, hcluster, htakes⟩ := placeFor_eq_some hplace
    obtain ⟨hc, haff⟩ := mem_clusterOrder hcluster
    obtain ⟨-, hlanes, hspad⟩ := coreTakes_eq_some htakes
    obtain ⟨halign, hroom⟩ := freeSpad_eq_some hspad
    exact ⟨hst, hdis, by omega, haff, halign, by omega, freeFrame_lt hframe, hlanes,
      fun p hp h1 h2 h3 => hbest p hp ⟨h1, h2⟩ h3⟩

end Sys2Proof.Machine
end

section
/-!
PROOFS. `LAUNCH` (R193 to R197, R201) and `CWAIT` (R203).
-/
namespace Sys2Proof.Machine
open Sys2Proof

/-! ## LAUNCH (R193 to R197, R201) -/

theorem checkRecord_of_bounds {r k : Nat} (h : recordBounds r = some k) (asid cluster : Nat) (s : State) :
    checkRecord asid cluster r s = (s, .bad k) := by
  simp only [checkRecord, h]

theorem wd_nbits (r lo : Nat) : wd (nbits r lo 64) = BitVec.ofNat 64 (r / 2 ^ lo) :=
  BitVec.eq_of_toNat_eq (by simp [wd, nbits])

theorem kernelFrom_kernelOf (r asid : Nat) (decls : List (Nat × Nat)) (queue : Option Nat) (prio : Nat) (dev : Bool)
    (x : Ctx) : KernelFrom r asid decls prio x (kernelOf asid r decls queue prio dev x) := by
  have hbits (lo n : Nat) : (BitVec.ofNat n (nbits r lo n)).toNat = r / 2 ^ lo % 2 ^ n := by simp [nbits]
  refine ⟨rfl, (wd_nbits r 0).trans (by rw [pow_zero, Nat.div_one]), wd_nbits r 64, wd_nbits r 128, rfl, rfl, rfl, rfl,
    rfl, hbits 256 16, hbits 272 10, rfl, rfl, rfl, rfl, rfl, rfl⟩

/-- A new kernel is queued, and its serial written. -/
theorem writes_addKernel (k : Kernel) (sd : BitVec 6) (v : Word) {s : State} (hs : s.me.steps = false) :
    Writes sd v (s.me.pc + 8) s
      { retire ((addKernel k s).setSr sd v) with kernels := s.kernels, serial := s.serial } ∧
    (retire ((addKernel k s).setSr sd v)).kernels = smPut s.kernels s.serial k ∧
    (retire ((addKernel k s).setSr sd v)).serial = s.serial + 1 := by
  have hsr : ((addKernel k s).setSr sd v).me.steps = false := by
    rw [State.me_setSr, Hart.set_steps]
    exact hs
  have hw := writeSd_spec sd v s hs
  rw [writeSd, retire_of_not_steps _ (by rw [State.me_setSr, Hart.set_steps]; exact hs)] at hw
  rw [retire_of_not_steps _ hsr]
  exact ⟨hw, rfl, rfl⟩

section
variable {f : FmtY} {s s1 s2 s3 : State} {d : List Byte}

theorem exec_launch_good {decls : List (Nat × Nat)} (ha : (s.sr f.sa).toNat % 128 = 0)
    (hgate : releaseGate s.cur s = .ok s1)
    (hread : readRange (vecWho s1 s1.cur) s1.cur 0 (s.sr f.sa) 128 s1 = (s2, .ok d))
    (hrec : checkRecord (s2.asidOf s2.cur) (clusterOf s2.myCore) (leNat d) s2 = (s3, .good decls))
    (hroom : (s3.kernels.filter fun p =>
      decide (p.2.asid = s2.asidOf s2.cur ∧ p.2.st = .queued) && p.2.devMade).length < 256) :
    exec (.launch f) s = .next (retire ((addKernel (kernelOf (s2.asidOf s2.cur) (leNat d) decls none
      (((s3.kernel? (s3.serialOf s3.cur)).map fun k => k.prio).getD 0) true (s3.ctx (s2.asidOf s2.cur))) s3).setSr f.sd
      (wd s3.serial))) := by
  simp only [exec, execLaunch, if_neg (not_not.2 ha), hgate, hread, hrec, if_neg (Nat.not_le.2 hroom)]

theorem exec_launch_bad {k : Nat} (ha : (s.sr f.sa).toNat % 128 = 0) (hgate : releaseGate s.cur s = .ok s1)
    (hread : readRange (vecWho s1 s1.cur) s1.cur 0 (s.sr f.sa) 128 s1 = (s2, .ok d))
    (hrec : checkRecord (s2.asidOf s2.cur) (clusterOf s2.myCore) (leNat d) s2 = (s3, .bad k)) :
    exec (.launch f) s = .next (takeTrap (Trap.vector .launch (wd k)) s3) := by
  simp only [exec, execLaunch, if_neg (not_not.2 ha), hgate, hread, hrec]

end

/-! ## CWAIT (R203) -/

theorem me_settleSome (s : State) : ∃ l, (settleSome s.cur s).me = { s.me with pend := l } ∧
    (settleSome s.cur s).cur = s.cur ∧ (settleSome s.cur s).groups = s.groups := by
  unfold settleSome
  split
  · exact ⟨s.me.pend, rfl, rfl, rfl⟩
  · let l := (s.hart s.cur).pend.take (Config.settled s.fresh)
    have hcur : (performAll l s.bump).cur = s.cur := performAll_cur ..
    refine ⟨s.me.pend.drop (Config.settled s.fresh), ?_, hcur, performAll_groups ..⟩
    show (((performAll l s.bump).modHart s.cur fun x => { x with pend := x.pend.drop _ }).hart
      (performAll l s.bump).cur) = _
    rw [hcur, State.modHart, State.hart_setHart_same, performAll_hart]
    rfl

theorem sr_settleSome (s : State) (r : BitVec 6) : (settleSome s.cur s).sr r = s.sr r := by
  obtain ⟨l, hme, -, -⟩ := me_settleSome s
  rw [State.sr, hme]
  rfl

theorem plainAddress_settleSome {s : State} {a : Word} {n : Nat} {ld st : Bool} (h : PlainAddress s a n ld st) :
    PlainAddress (settleSome s.cur s) a n ld st := by
  obtain ⟨l, hme, -, -⟩ := me_settleSome s
  unfold PlainAddress
  rw [hme]
  exact h

section
variable {s : State} {a : Word} {n : Nat}

theorem watchCheck_of_plain {ld st : Bool} (h : PlainAddress s a n ld st) : watchCheck s a n ld st = none := by
  rw [watchCheck, h.1]
  rfl

theorem eaCheck_of_plain {ld st : Bool} (h : PlainAddress s a n ld st) : eaCheck a n = none := by
  obtain ⟨-, hlt, halign⟩ := h
  rw [eaCheck, if_neg (Nat.not_le.2 hlt), if_neg (not_not.2 halign)]

theorem inWindow_iff : inWindow a.toNat = true ↔ InDataWindow a := by
  rw [inWindow, decide_eq_true_iff, InDataWindow, windowBase]
  omega

theorem windowPoison_of_clean (h : CleanData s (a.toNat - 0x007FFFFFFFFFC000) n) : windowPoison a n s = none := by
  have hmarked : (s.core s.myCore).marked .sdata (a.toNat - windowBase) n = false :=
    List.any_eq_false.2 fun w hw hd => by
      obtain ⟨hm, hover⟩ := of_decide_eq_true hd
      exact h w.2 (hm ▸ hw) hover
  rw [windowPoison, hmarked]
  rfl

/-- A scalar load in the data window (R99). -/
theorem loadScalar_in_window (hplain : PlainAddress s a n true false) (hin : InDataWindow a)
    (hclean : CleanData s (a.toNat - 0x007FFFFFFFFFC000) n) :
    loadScalar a n s = (s, .ok (leNat (readLoc s (.sdata (s.cur / 4) (a.toNat - 0x007FFFFFFFFFC000)) n))) := by
  simp only [loadScalar, watchCheck_of_plain hplain, eaCheck_of_plain hplain, inWindow_iff.2 hin,
    windowPoison_of_clean hclean, if_true]
  rfl

/-- A scalar load of an aligned word through a translation (R98, R100). -/
theorem loadScalar_of_translate {s1 s2 : State} {p : Place} (hplain : PlainAddress s a 8 true false)
    (hout : ¬ InDataWindow a) (htr : translate (hartWho s s.cur) .load a.toNat 8 s = (s1, .ok p)) (hfar : p.far = false)
    (hp : placeFault p s1 = (s2, none)) :
    loadScalar a 8 s = (countPlaces (hartWho s s.cur) [p] s2, .ok (leNat (readLoc s2 p.loc 8))) := by
  obtain ⟨-, -, halign⟩ := id hplain
  have hread := vread_within_line (by decide) (by omega) htr hfar hp
  simp only [loadScalar, watchCheck_of_plain hplain, eaCheck_of_plain hplain, if_neg (inWindow_iff.not.2 hout),
    vreadNat, hread]

end

/-- The comparison of `CWAIT` on the counter's bytes. -/
theorem cwaitHolds_iff (c : Nat) {d : List Byte} (hd : d.length = 8) (b : Word) :
    cwaitHolds c (wd (leNat d)) b = true ↔
      (c = 0 ∧ b.toNat ≤ leNat d) ∨ (c = 1 ∧ leNat d ≤ b.toNat) ∨ (2 ≤ c ∧ leNat d = b.toNat) := by
  have hlt := leNat_lt d
  rw [hd] at hlt
  have hv : (wd (leNat d)).toNat = leNat d := by
    rw [wd, BitVec.toNat_ofNat, Nat.mod_eq_of_lt hlt]
  rcases c with _ | _ | c
  · simp [cwaitHolds, hv]
  · simp [cwaitHolds, hv]
  · simp [cwaitHolds, ← BitVec.toNat_inj, hv]

section
variable {f : FmtY} {s s1 : State}

/-- `CWAIT` once its counter is read: it completes or waits. -/
theorem exec_cwait_of_load {v : Nat} (hplain : PlainAddress s (s.sr f.sa) 8 true false)
    (hload : loadScalar (s.sr f.sa) 8 (settleSome s.cur s) = (s1, .ok v)) :
    exec (.cwait f) s = .next (if cwaitHolds (f.imm.toNat % 4) (wd v) (s1.sr f.sb) then
      retire (endWait (s1.setSr f.sd (wd v))) else waitAt (.cwait f) s1) := by
  obtain ⟨-, -, halign⟩ := id hplain
  simp only [exec, execCwait, sr_settleSome, watchCheck_of_plain (plainAddress_settleSome hplain), hload,
    if_neg (not_not.2 halign)]

theorem exec_cwaitRecheck (hw : s.me.wait = some (.cwait f)) : exec (.cwaitRecheck s.cur) s = exec (.cwait f) s := by
  have hw' : (s.hart s.cur).wait = some (.cwait f) := hw
  simp only [exec, execCwaitRecheck, hw']

end

/-- R203: `CWAIT`, at first and at a recheck. -/
theorem cwaitRule (f : FmtY) (s s1 : State) (d : List Byte) (hs : s.me.steps = false)
    (hplain : PlainAddress s (s.sr f.sa) 8 true false)
    (hload : loadScalar (s.sr f.sa) 8 (settleSome s.cur s) = (s1, .ok (leNat d)))
    (hwork : s1.work = (settleSome s.cur s).work) (i : Instr)
    (hi : i = .cwait f ∨ (s.me.wait = some (.cwait f) ∧ i = .cwaitRecheck s.cur)) :
    (cwaitHolds (f.imm.toNat % 4) (wd (leNat d)) (s.sr f.sb) = true → ∃ t, exec i s = .next t ∧ GroupRuns s1 t ∧
      Writes f.sd (BitVec.ofNat 64 (leNat d)) (s1.me.pc + 8) s1 { t with groups := s1.groups }) ∧
    (cwaitHolds (f.imm.toNat % 4) (wd (leNat d)) (s.sr f.sb) = false → NoPreempt s1 → ∃ t, exec i s = .next t ∧
      Waits (.cwait f) s1 t) := by
  obtain ⟨l, hme, -, -⟩ := me_settleSome s
  have hme1 : s1.me = { s.me with pend := l } := by
    rw [← hme, State.me, State.hart, show s1.harts = _ from congrArg WorkParts.harts hwork,
      show s1.cur = _ from congrArg WorkParts.cur hwork]
    rfl
  have hsteps : s1.me.steps = false := by
    rw [hme1]
    exact hs
  have hsb : s1.sr f.sb = s.sr f.sb := by
    rw [State.sr, hme1]
    rfl
  have hexec : exec i s = exec (.cwait f) s := by
    rcases hi with rfl | ⟨hw, rfl⟩
    · rfl
    · exact exec_cwaitRecheck hw
  rw [hexec, exec_cwait_of_load hplain hload, hsb]
  refine ⟨fun h => ⟨_, congrArg Host.Outcome.next (if_pos h), ?_⟩, fun h hp => ⟨_, congrArg Host.Outcome.next
    (if_neg (ne_true_of_eq_false h)), waits_waitAt _ hp⟩⟩
  obtain ⟨hw, hr⟩ := writes_endWait f.sd (wd (leNat d)) s1 hsteps
  exact ⟨hr, hw⟩

end Sys2Proof.Machine
end

section
/-!
PROOFS. Groups that leave their core, ABORTED kernels, and `KEXIT` (R197, R202).
-/
namespace Sys2Proof.Machine
open Sys2Proof

/-! ## Groups that leave their core (R202, R215) -/

theorem hart_settleAll (h j : Nat) (s : State) :
    (settleAll h s).hart j = if j = h then { s.hart h with pend := [] } else s.hart j := by
  unfold settleAll
  split
  · next hp =>
    split
    · next hj => rw [hj, ← hp]
    · rfl
  · rw [State.hart_modHart]
    split
    · rw [show ∀ l : List PStore, l.foldl (fun s p => perform p s) s = performAll l s from fun _ => rfl,
        performAll_hart]
    · exact performAll_hart ..

theorem settleAll_of_idle {h : Nat} {s : State} (hp : (s.hart h).pend = []) : settleAll h s = s := by
  simp only [settleAll, hp]

theorem settleAll_parts (h : Nat) (s : State) : (settleAll h s).regs = s.regs ∧ (settleAll h s).migs = s.migs ∧
    (settleAll h s).kernels = s.kernels ∧ (settleAll h s).groups = s.groups := by
  have hp (l : List PStore) : (performAll l s).work = s.work := (performAll_only l s).work
  unfold settleAll
  split
  · exact ⟨rfl, rfl, rfl, rfl⟩
  · have hw := hp (s.hart h).pend
    exact ⟨(congrArg WorkParts.regs hw :), (congrArg WorkParts.migs hw :), (congrArg WorkParts.kernels hw :),
      (congrArg WorkParts.groups hw :)⟩

/-- Nothing that a context has in hand changes but its groups. -/
structure GroupsMove (s t : State) : Prop where
  regs    : t.regs = s.regs
  migs    : t.migs = s.migs
  kernels : t.kernels = s.kernels

theorem GroupsMove.refl (s : State) : GroupsMove s s := ⟨rfl, rfl, rfl⟩

theorem GroupsMove.trans {s t u : State} (h : GroupsMove s t) (k : GroupsMove t u) : GroupsMove s u :=
  ⟨k.regs.trans h.regs, k.migs.trans h.migs, k.kernels.trans h.kernels⟩

/-- The hart as its group leaves the core. -/
def Hart.leaves (x : Hart) : Hart := { x with group := none, binds := [], latches := [], wait := none, matrix := false }

theorem leaves_foldl (l : List Nat) (s : State) :
    let t := l.foldl (fun s h => (settleAll h s).modHart h Hart.leaves) s
    GroupsMove s t ∧ t.groups = s.groups ∧ ∀ h, (h ∈ l ∨ (s.hart h).group = none) → (t.hart h).group = none := by
  induction l generalizing s with
  | nil => exact ⟨.refl s, rfl, fun h hh => by simpa using hh⟩
  | cons a l ih =>
    obtain ⟨hmove, hgroups, hnone⟩ := ih ((settleAll a s).modHart a Hart.leaves)
    obtain ⟨hr, hm, hk, hg⟩ := settleAll_parts a s
    refine ⟨.trans (t := (settleAll a s).modHart a Hart.leaves) ⟨hr, hm, hk⟩ hmove, hgroups.trans hg,
      fun h hh => hnone h ?_⟩
    rw [State.hart_modHart, hart_settleAll, hart_settleAll]
    grind [Hart.leaves]

/-- A group leaves its core: no other changes, and each of its harts is free. -/
theorem dropGroup_spec (g : Nat) (s : State) : GroupsMove s (dropGroup g s) ∧
    (∀ j, (dropGroup g s).group? j = if j = g then none else s.group? j) ∧
    ∀ x, s.group? g = some x → ∀ h ∈ x.harts, ((dropGroup g s).hart h).group = none := by
  unfold dropGroup
  split
  · next hg =>
    refine ⟨.refl s, fun j => ?_, fun x hx => by cases hg.symm.trans hx⟩
    split
    · next hj => rw [hj, hg]
    · rfl
  · next x hx =>
    extract_lets c s1 s2
    have h1 : GroupsMove s s1 ∧ s1.groups = s.groups := by
      unfold s1
      split
      · exact ⟨⟨rfl, rfl, rfl⟩, rfl⟩
      · exact ⟨.refl s, rfl⟩
    obtain ⟨hmove, hgroups, hnone⟩ := leaves_foldl x.harts s1
    refine ⟨h1.1.trans ⟨hmove.regs, hmove.migs, hmove.kernels⟩, fun j => ?_, fun y hy h hh => ?_⟩
    · rw [State.group?, smGet?_smDel]
      exact if_congr Iff.rfl rfl (congrArg (smGet? · j) (hgroups.trans h1.2))
    · cases hx.symm.trans hy
      exact hnone h (.inl hh)

theorem dropGroups_spec (gs : List Nat) (s : State) : let t := gs.foldl (fun s g => dropGroup g s) s
    GroupsMove s t ∧ ∀ j, t.group? j = if j ∈ gs then none else s.group? j := by
  induction gs generalizing s with
  | nil => exact ⟨.refl s, fun _ => rfl⟩
  | cons g gs ih =>
    obtain ⟨hmove, hgroup, -⟩ := dropGroup_spec g s
    obtain ⟨hmoves, hgroups⟩ := ih (dropGroup g s)
    refine ⟨hmove.trans hmoves, fun j => (hgroups j).trans ?_⟩
    rw [hgroup]
    grind

/-! ## ABORTED kernels (R197) -/

/-- What an abort of a kernel leaves of the state: it is ABORTED, no group of it is placed, and no other kernel or group
changes. -/
structure Aborts (k : Nat) (s t : State) : Prop where
  regs    : t.regs = s.regs
  migs    : t.migs = s.migs
  kernel  : ∃ y, t.kernel? k = some y ∧ y.st = .aborted
  others  : ∀ j, j ≠ k → t.kernel? j = s.kernel? j
  groups  : ∀ j y, t.group? j = some y → s.group? j = some y ∧ y.serial ≠ k

theorem work_changeHolds (f : Nat → Buf → Buf) (x : Kernel) (s : State) : (changeHolds f x s).work = s.work := by
  obtain ⟨m, l, n, h⟩ := linesOnly_changeHolds f x s
  rw [h]
  rfl

/-- Of what a context has in hand no more than its kernels changes. -/
structure KernelsMove (s t : State) : Prop where
  harts  : t.harts = s.harts
  cur    : t.cur = s.cur
  regs   : t.regs = s.regs
  migs   : t.migs = s.migs
  groups : t.groups = s.groups

theorem KernelsMove.of_work {s t : State} {ks : Sparse Kernel} (h : t.work = { s.work with kernels := ks }) :
    KernelsMove s t :=
  ⟨(congrArg WorkParts.harts h :), (congrArg WorkParts.cur h :), (congrArg WorkParts.regs h :),
    (congrArg WorkParts.migs h :), (congrArg WorkParts.groups h :)⟩

theorem KernelsMove.trans {s t u : State} (h : KernelsMove s t) (k : KernelsMove t u) : KernelsMove s u :=
  ⟨k.harts.trans h.harts, k.cur.trans h.cur, k.regs.trans h.regs, k.migs.trans h.migs, k.groups.trans h.groups⟩

theorem kernelsMove_setKernel (s : State) (k : Nat) (x : Kernel) : KernelsMove s (s.setKernel k x) :=
  ⟨rfl, rfl, rfl, rfl, rfl⟩

theorem kernelsMove_nodesDone {k : Nat} {s : State} {x : Kernel} (hx : s.kernel? k = some x) :
    KernelsMove s (nodesDone k s) := .of_work (nodesDone_spec hx).1.work

theorem abortKernel_spec {k : Nat} {s : State} {x : Kernel} (hx : s.kernel? k = some x)
    (hst : ¬ (x.st = .retired ∨ x.st = .aborted)) : Aborts k s (abortKernel k s) := by
  unfold abortKernel
  split
  · next h => cases hx.symm.trans h
  next y hy =>
  obtain rfl : x = y := Option.some.inj (hx.symm.trans hy)
  rw [if_neg hst]
  extract_lets gs harts s1 s2 s3
  obtain ⟨hmove, hgroups⟩ := dropGroups_spec gs s
  have h3 : s3.work = s1.work := by
    unfold s3
    split
    · rfl
    · exact work_changeHolds ..
  have hx3 : ∀ j, (s3.setKernel k { x with st := .aborted }).kernel? j =
      if j = k then some { x with st := .aborted } else s.kernel? j := fun j => by
    rw [State.kernel?_setKernel]
    exact if_congr Iff.rfl rfl (congrArg (smGet? · j) ((congrArg WorkParts.kernels h3).trans hmove.kernels))
  have hk3 := (hx3 k).trans (if_pos rfl)
  obtain ⟨-, ⟨y, hy, hsame⟩, hothers⟩ := nodesDone_spec hk3
  obtain ⟨hfin, ⟨z, hz, hsame'⟩, hothers'⟩ := finishKernel_spec hy false
  obtain ⟨-, hst, -, -⟩ := hsame.parts
  obtain ⟨-, hst', -, -⟩ := hsame'.parts
  have hall : KernelsMove s1 (finishKernel false k (nodesDone k (s3.setKernel k { x with st := .aborted }))) :=
    (KernelsMove.of_work (ks := s1.kernels) h3).trans ((kernelsMove_setKernel s3 k _).trans
      ((kernelsMove_nodesDone hk3).trans (.of_work hfin)))
  refine ⟨hall.regs.trans hmove.regs, hall.migs.trans hmove.migs, ⟨z, hz, hst'.trans hst⟩, fun j hj => ?_,
    fun j y hj => ?_⟩
  · calc _ = _ := hothers' j hj
      _ = _ := hothers j hj
      _ = _ := hx3 j
      _ = s.kernel? j := if_neg hj
  · have hj' : s1.group? j = some y := (congrArg (smGet? · j) hall.groups).symm.trans hj
    have hnot : j ∉ gs := fun h => by cases (hj'.symm.trans (hgroups j)).trans (if_pos h)
    have hs : s.group? j = some y := ((hgroups j).trans (if_neg hnot)).symm.trans hj'
    exact ⟨hs, fun he => hnot (List.mem_map.2 ⟨(j, y),
      List.mem_filter.2 ⟨mem_groups_of_group? hs, decide_eq_true he⟩, rfl⟩)⟩

/-! ## KEXIT and KEXIT.ABORT (R202) -/

/-- The hart as its `KEXIT` leaves it, with no accesses or bindings of its own. -/
def Hart.stopped (x : Hart) : Hart :=
  { x with
    exited := true, wait := none, level := .u, sbank := Vector.replicate 8 0, matrix := false, saveDue := false
    latches := [], unacked := [], dropped := [] }

/-- The hart has nothing of its own in hand (R202): no accesses, no bindings, no engine work. -/
structure Idle (s : State) : Prop where
  binds   : s.me.binds = []
  pend    : s.me.pend = []
  copies  : s.copies = []
  calls   : s.calls = []
  runs    : s.runs = []
  queries : s.queries = []

section
variable {s : State} (hi : Idle s)
include hi

theorem Idle.exitEnds : exitEnds s.cur s = some s := by
  simp only [Machine.exitEnds, hi.runs, hi.queries, List.filter_nil, List.foldl_nil]

theorem Idle.exitBusy (h : Nat) : exitBusy s h = false := by
  simp only [Machine.exitBusy, hi.copies, hi.calls, hi.runs, hi.queries, List.any_nil, Bool.or_false]

theorem Idle.stopHart : stopHart s.cur s = s.modHart s.cur Hart.stopped := by
  have hb : (s.hart s.cur).binds = [] := hi.binds
  simp only [Machine.stopHart, settleAll_of_idle hi.pend, hb, List.foldl_nil, hi.copies, hi.calls,
    List.filter_nil, List.map_nil]
  rw [← hi.copies, ← hi.calls]
  rfl

theorem exitHart_of_dropped {r : Remote} {l : List Remote} (hd : s.me.dropped = r :: l) (abort : Bool) :
    exitHart abort s = takeTrap (Trap.scalar .prot r.va) s := by
  simp only [exitHart, hi.exitEnds, hi.exitBusy, releaseGate_of_dropped hd, stopAt]
  rfl

theorem exitHart_of_unacked (hd : s.me.dropped = []) (hu : s.me.unacked ≠ []) (abort : Bool) :
    exitHart abort s = s := by
  simp only [exitHart, hi.exitEnds, hi.exitBusy, releaseGate_of_unacked hd hu, stopAt]
  rfl

theorem exitHart_of_open (hd : s.me.dropped = []) (hu : s.me.unacked = []) (abort : Bool) :
    exitHart abort s = leaveGroup abort s := by
  have hopen : releaseGate s.cur s = .ok s := by
    have hd' : (s.hart s.cur).dropped = [] := hd
    have hu' : (s.hart s.cur).unacked = [] := hu
    rw [releaseGate, remoteGate_open (by simp [hd']) (by simp [hu']), settleAll_of_idle hi.pend]
  simp only [exitHart, hi.exitEnds, hi.exitBusy, hopen]
  rfl

end

/-- The state once the hart at hand has stopped. -/
def State.stopped (s : State) : State := giveUpArray (s.modHart s.cur Hart.stopped)

/-- Giving up the matrix array changes no more than the core that holds it. -/
theorem giveUpArray_cores (s : State) : ∃ c, giveUpArray s = { s with cores := c } := by
  unfold giveUpArray
  split
  · exact ⟨_, rfl⟩
  · dsimp only
    split
    · exact ⟨_, rfl⟩
    · exact ⟨_, rfl⟩

theorem stopped_cores (s : State) : ∃ c, s.stopped = { s.modHart s.cur Hart.stopped with cores := c } :=
  giveUpArray_cores _

theorem hart_stopped (s : State) (j : Nat) : s.stopped.hart j = if j = s.cur then s.me.stopped else s.hart j := by
  obtain ⟨c, h⟩ := stopped_cores s
  rw [h]
  exact State.hart_modHart ..

/-- All harts of the group have exited where no other than this one has been left. -/
theorem all_exited_stopped (s : State) (x : Group) :
    (x.harts.all fun h => (s.stopped.hart h).exited) = true ↔
      (x.harts.filter fun h => decide (h ≠ s.cur) && !(s.hart h).exited) = [] := by
  rw [List.all_eq_true, List.filter_eq_nil_iff]
  refine forall₂_congr fun h _ => ?_
  rw [hart_stopped]
  by_cases hh : h = s.cur <;> simp [hh, Hart.stopped]

theorem kernel?_stopped (s : State) (k : Nat) : s.stopped.kernel? k = s.kernel? k := by
  obtain ⟨c, hc⟩ := stopped_cores s
  rw [hc]
  rfl

theorem group?_stopped (s : State) (g : Nat) : s.stopped.group? g = s.group? g := by
  obtain ⟨c, hc⟩ := stopped_cores s
  rw [hc]
  rfl

section
variable {s : State} {g : Nat} {x : Group} (hi : Idle s) (hg : s.myGroup = some (g, x))
include hi hg

/-- A `KEXIT` that aborts no kernel ends in the retirement of the group, or leaves it on its core. -/
theorem leaveGroup_of_no_abort {abort : Bool}
    (hrun : abort = true → ∀ k, s.kernel? x.serial = some k → k.st ≠ .dispatching ∧ k.st ≠ .running) :
    leaveGroup abort s = if (x.harts.filter fun h => decide (h ≠ s.cur) && !(s.hart h).exited) = [] then
      retireGroup g s.stopped else afterExit g s.stopped := by
  simp only [leaveGroup, hg, hi.stopHart, ← all_exited_stopped s x]
  rw [← State.stopped, kernel?_stopped, if_neg]
  cases abort with
  | false => simp
  | true =>
    split
    · next k hk => simp [hrun rfl k hk]
    · simp

theorem leaveGroup_of_abort {k : Kernel} (hk : s.kernel? x.serial = some k)
    (hrun : k.st = .dispatching ∨ k.st = .running) : leaveGroup true s = abortKernel x.serial s.stopped := by
  simp only [leaveGroup, hg, hi.stopHart]
  rw [← State.stopped, kernel?_stopped, hk, if_pos]
  simpa using hrun

end

theorem latchLower_keeps (n : Nat) (x : Group) :
    (latchLower n x).pre = x.pre ∧ (latchLower n x).slots = x.slots ∧ (latchLower n x).core = x.core := by
  unfold latchLower
  split <;> exact ⟨rfl, rfl, rfl⟩

/-- A group with a hart that runs on and is not to be preempted has no save to finish or to meet. -/
theorem afterExit_of_live {s : State} {g h : Nat} {x : Group} (hg : s.group? g = some x) (hpre : x.pre = false)
    (hh : h ∈ x.harts) (he : (s.hart h).exited = false) (hs : (s.hart h).saved = false) :
    ∃ y, afterExit g s = s.setGroup g y := by
  obtain ⟨hlpre, hlslots, hlcore⟩ := latchLower_keeps (latchTarget s x) x
  unfold afterExit
  split
  · next h => cases hg.symm.trans h
  next z hz =>
  obtain rfl : x = z := Option.some.inj (hg.symm.trans hz)
  extract_lets l y
  have hy : y.pre = false ∧ y.harts = x.harts := by
    unfold y Group.harts
    split <;> exact ⟨hlpre.trans hpre, by rw [← hlslots, ← hlcore]⟩
  have hput : (s.setGroup g y).group? g = some y := (State.group?_setGroup ..).trans (if_pos rfl)
  have hsave : finishSave g (s.setGroup g y) = s.setGroup g y := by
    unfold finishSave
    simp only [hput]
    refine if_neg fun hall => ?_
    obtain ⟨-, -, -, hall, -⟩ := hall
    have hlive := List.all_eq_true.1 hall h (hy.2 ▸ hh)
    rw [show (s.setGroup g y).hart h = s.hart h from rfl, he, hs] at hlive
    cases hlive
  refine ⟨y, ?_⟩
  rw [hsave, meetPreempt_of_no_request]
  intro z hz
  cases hput.symm.trans hz
  exact hy.1

/-- The kernel after a group of it on a core retires (R197, R200). -/
def Kernel.groupRetired (core : Nat) (k : Kernel) : Kernel :=
  let n := smGet (0, 0) k.cores core
  { k with
    retired := k.retired + 1, cores := smPut k.cores core (n.1, n.2 + 1)
    st := if k.ngroups ≤ k.retired + 1 ∧ (k.st = .running ∨ k.st = .dispatching) then .draining else k.st }

/-- A group's retirement counts in its kernel, which drains after its last group (R197, R202). -/
theorem retireGroup_spec {s : State} {g : Nat} {x : Group} {k : Kernel} (hg : s.group? g = some x)
    (hk : s.kernel? x.serial = some k) :
    (∀ j, (retireGroup g s).group? j = if j = g then none else s.group? j) ∧
    (∀ h ∈ x.harts, ((retireGroup g s).hart h).group = none) ∧
    ∃ k', (retireGroup g s).kernel? x.serial = some k' ∧ k'.retired = k.retired + 1 ∧
      k'.st = if k.ngroups ≤ k.retired + 1 ∧ (k.st = .running ∨ k.st = .dispatching) then .draining else k.st := by
  obtain ⟨hmove, hgroups, hnone⟩ := dropGroup_spec g s
  have hk1 : (dropGroup g s).kernel? x.serial = some k := (congrArg (smGet? · x.serial) hmove.kernels).trans hk
  have hput := State.kernel?_setKernel_same (dropGroup g s) x.serial (k.groupRetired x.core)
  have hret : retireGroup g s = nodesDone x.serial ((dropGroup g s).setKernel x.serial (k.groupRetired x.core)) := by
    simp only [retireGroup, hg, hk1]
    rfl
  obtain ⟨-, ⟨z, hz, hsame⟩, -⟩ := nodesDone_spec hput
  obtain ⟨-, hst, -, hcount⟩ := hsame.parts
  have hall := (kernelsMove_setKernel (dropGroup g s) x.serial (k.groupRetired x.core)).trans
    (kernelsMove_nodesDone hput)
  rw [hret]
  refine ⟨fun j => ?_, fun h hh => ?_, z, hz, hcount, hst⟩
  · exact (congrArg (smGet? · j) hall.groups).trans (hgroups j)
  · rw [State.hart, hall.harts]
    exact hnone x hg h hh

/-- A hart whose group runs on has stopped, and no more. -/
theorem exits_of_stopped (s : State) (g : Nat) (y : Group) : let t := s.stopped.setGroup g y
    t.me = s.me.stopped ∧ (∀ j, j ≠ s.cur → t.hart j = s.hart j) ∧ t.mem = s.mem ∧ t.kernels = s.kernels := by
  obtain ⟨c, hc⟩ := stopped_cores s
  refine ⟨?_, fun j hj => (hart_stopped s j).trans (if_neg hj), ?_, ?_⟩
  · have hcur : (s.stopped.setGroup g y).cur = s.cur := by
      rw [hc]
      rfl
    rw [State.me, hcur]
    exact (hart_stopped s s.cur).trans (if_pos rfl)
  · rw [hc]
    rfl
  · rw [hc]
    rfl

section
variable {s : State} {g : Nat} {x : Group} (hi : Idle s) (hg : s.myGroup = some (g, x)) (hd : s.me.dropped = [])
  (hu : s.me.unacked = [])
include hi hg hd hu

/-- Where another hart of the group runs on, the group stays on its core. -/
theorem exitHart_of_live {abort : Bool} {h : Nat}
    (hh : h ∈ x.harts.filter fun h => decide (h ≠ s.cur) && !(s.hart h).exited) (hpre : x.pre = false)
    (hsaved : (s.hart h).saved = false)
    (hrun : abort = true → ∀ k, s.kernel? x.serial = some k → k.st ≠ .dispatching ∧ k.st ≠ .running) :
    ∃ y, exitHart abort s = s.stopped.setGroup g y := by
  obtain ⟨hx, hlive⟩ := List.mem_filter.1 hh
  obtain ⟨hne, hexit⟩ := Bool.and_eq_true_iff.1 hlive
  have hother : s.stopped.hart h = s.hart h := (hart_stopped s h).trans (if_neg (of_decide_eq_true hne))
  rw [exitHart_of_open hi hd hu, leaveGroup_of_no_abort hi hg hrun, if_neg (List.ne_nil_of_mem hh)]
  refine afterExit_of_live ((group?_stopped s g).trans (State.group?_of_groupOf hg)) hpre hx ?_ ?_
  · rw [hother]
    simpa using hexit
  · rw [hother]
    exact hsaved

theorem exitHart_of_last (hrest : (x.harts.filter fun h => decide (h ≠ s.cur) && !(s.hart h).exited) = []) :
    exitHart false s = retireGroup g s.stopped := by
  rw [exitHart_of_open hi hd hu, leaveGroup_of_no_abort (abort := false) hi hg (fun h => nomatch h), if_pos hrest]

theorem exitHart_of_abort {k : Kernel} (hk : s.kernel? x.serial = some k)
    (hrun : k.st = .running ∨ k.st = .dispatching) : exitHart true s = abortKernel x.serial s.stopped :=
  (exitHart_of_open hi hd hu true).trans (leaveGroup_of_abort hi hg hk hrun.symm)

end

theorem exec_kexits {f : FmtY} {s : State} {i : Instr} (h : i ∈ [Instr.kexit f, .kexitAbort f]) :
    ∃ abort, exec i s = .next (exitHart abort s) ∧ (abort = true → i = .kexitAbort f) := by
  simp only [List.mem_cons, List.not_mem_nil, or_false] at h
  rcases h with rfl | rfl
  · exact ⟨false, rfl, nofun⟩
  · exact ⟨true, rfl, fun _ => rfl⟩

end Sys2Proof.Machine
end

section
/-!
PROOFS. The instructions of kernels (R196, R201 to R203).
-/
namespace Sys2Proof.Machine
open Sys2Proof

/-- The comparison of `CWAIT` as R203 states it, on the counter as a number. -/
theorem cwaitHolds_iff_match (c : Nat) {d : List Byte} (hd : d.length = 8) (b : Word) :
    cwaitHolds c (wd (leNat d)) b = true ↔ (match c with
      | 0 => b.toNat ≤ leNat d
      | 1 => leNat d ≤ b.toNat
      | _ => leNat d = b.toNat) := by
  rw [cwaitHolds_iff c hd]
  rcases c with _ | _ | c <;> simp

/-- R196, R201 to R203: the instructions of kernels. -/
theorem kernelInstructionsRule : KernelInstructionsRule := by
  refine ⟨?_, ?_, ?_, ?_⟩
  · intro f s s1 s2 s3 d a asid ha hgate hread
    refine ⟨fun decls hrec hs hroom => ?_, fun k hrec hu => ?_⟩
    · obtain ⟨hwrites, hkernels, hserial⟩ := writes_addKernel (kernelOf asid (leNat d) decls none
        (((s3.kernel? (s3.serialOf s3.cur)).map fun k => k.prio).getD 0) true (s3.ctx asid)) f.sd (wd s3.serial) hs
      refine ⟨_, _, exec_launch_good ha hgate hread hrec hroom, (?_ : _ = some (kernelOf asid (leNat d) decls none
        (((s3.kernel? (s3.serialOf s3.cur)).map fun k => k.prio).getD 0) true (s3.ctx asid))), hserial, rfl,
        kernelFrom_kernelOf .., fun j hj => ?_,
        hwrites⟩
      · rw [State.kernel?, hkernels, smGet?_smPut, if_pos rfl]
      · rw [State.kernel?, hkernels, smGet?_smPut, if_neg hj]
        rfl
    · refine ⟨_, exec_launch_bad ha hgate hread hrec, ?_⟩
      rw [takeTrap_at_u _ _ hu]
      exact entersHandler_enterHandler rfl s3
  · intro f s g x hg hbinds hpend hcopies hcalls hruns hqueries _ _
    have hi : Idle s := ⟨hbinds, hpend, hcopies, hcalls, hruns, hqueries⟩
    refine ⟨fun r l hd hu i h => ?_, fun hd hu i h => ?_, fun hd hu => ?_⟩
    · obtain ⟨abort, he, -⟩ := exec_kexits h
      rw [he, exitHart_of_dropped hi hd]
      exact ⟨_, rfl, trapsScalar_takeTrap hu ..⟩
    · obtain ⟨abort, he, -⟩ := exec_kexits h
      rw [he, exitHart_of_unacked hi hd hu]
    intro rest
    refine ⟨fun hrest hpre hsaved i h hrun => ?_, fun k hrest hk => ?_, fun k hk hrun => ?_⟩
    · obtain ⟨abort, he, ha⟩ := exec_kexits h
      obtain ⟨h, hh⟩ := List.exists_mem_of_ne_nil _ hrest
      obtain ⟨y, hy⟩ := exitHart_of_live hi hg hd hu hh hpre (hsaved h hh) fun h => hrun (ha h)
      obtain ⟨hme, hharts, hmem, hkernels⟩ := exits_of_stopped s g y
      refine ⟨_, he.trans (congrArg Host.Outcome.next hy), ?_⟩
      rw [hme]
      exact ⟨rfl, rfl, rfl, rfl, rfl, rfl, (State.groupOf_eq_some_iff.1 hg).1, rfl, rfl, hharts, hmem, hkernels⟩
    · obtain ⟨hgroups, hnone, k', hk', hret, hst⟩ := retireGroup_spec
        ((group?_stopped s g).trans (State.group?_of_groupOf hg)) ((kernel?_stopped s x.serial).trans hk)
      exact ⟨_, k', congrArg Host.Outcome.next (exitHart_of_last hi hg hd hu hrest), (hgroups g).trans (if_pos rfl),
        fun j hj => ((hgroups j).trans (if_neg hj)).trans (group?_stopped s j), hnone, hk', hret, hst⟩
    · obtain ⟨-, -, ⟨k', hk', hst⟩, -, hgroups⟩ := abortKernel_spec ((kernel?_stopped s x.serial).trans hk) (by grind)
      exact ⟨_, k', congrArg Host.Outcome.next (exitHart_of_abort hi hg hd hu hk hrun), hk', hst,
        fun j y hj => (hgroups j y hj).2⟩
  · intro f s a s0 b holds answers hs hplain
    have hplain0 : PlainAddress s0 a 8 true false := plainAddress_settleSome hplain
    have hcur : s0.cur = s.cur := (me_settleSome s).choose_spec.2.1
    have hanswers (d : List Byte) (s1 : State) (hd : d.length = 8)
        (hload : loadScalar a 8 s0 = (s1, .ok (leNat d))) (hwork : s1.work = s0.work) : answers d s1 := fun i hi => by
      obtain ⟨hyes, hno⟩ := cwaitRule f s s1 d hs hplain hload hwork i hi
      exact ⟨fun h => hyes ((cwaitHolds_iff_match _ hd _).2 h), fun h =>
        hno (eq_false_of_ne_true fun ht => h ((cwaitHolds_iff_match _ hd _).1 ht))⟩
    refine ⟨fun hin hclean => ?_, fun hout s1 s2 p htr hfar hp => ?_⟩
    · refine hanswers _ _ (readLoc_length ..) ?_ rfl
      rw [← hcur]
      exact loadScalar_in_window hplain0 hin hclean
    · refine hanswers _ _ (readLoc_length ..) (loadScalar_of_translate hplain0 hout htr hfar hp) ?_
      calc (countPlaces (hartWho s0 s0.cur) [p] s2).work = s2.work := work_countPlaces ..
        _ = s1.work := (congrArg (·.1.work) hp).symm.trans (work_placeFault p s1)
        _ = s0.work := (congrArg (·.1.work) htr).symm.trans (work_translate ..)
  · intro r asid cluster s bad ng lmin lmax
    have hcode {k : Nat} (h : recordBounds r = some k) : bad k := checkRecord_of_bounds h asid cluster s
    refine ⟨fun h => hcode (if_pos h), fun hng h => hcode ?_, fun hng hl hlm hmax => ⟨fun h => hcode ?_,
      fun hs h => hcode ?_⟩⟩
    · exact (if_neg hng).trans (if_pos h)
    all_goals
      have hbounds : ¬ (lmin = 0 ∨ lmax < lmin ∨ 8 < lmax) := by omega
      refine (if_neg hng).trans ((if_neg hbounds).trans ?_)
    · exact if_pos h
    · exact (if_neg (Nat.not_lt.2 hs)).trans (if_pos h)

/-- Settles O45: kernels from dispatch to retirement (`kernelLifeRule`), and `LAUNCH`, `KEXIT`, `KEXIT.ABORT` and
`CWAIT` (`kernelInstructionsRule`). -/
theorem kernels : Obligations.Kernels := ⟨kernelLifeRule, kernelInstructionsRule⟩

end Sys2Proof.Machine
end

section
/-!
PROOFS. Migrations and kernels that end with their context, and `TEARDOWN` (R169, R197, R374).
-/
namespace Sys2Proof.Machine
open Sys2Proof

/-! ## Migrations that end (R374) -/

theorem work_casLeaf (asid pa old new : Nat) (s : State) : (casLeaf asid pa old new s).work = s.work := by
  have hcount : (countHot asid none pa s).work = s.work := (countsOnly_countHot asid none pa s).work
  unfold casLeaf
  dsimp only
  split
  · exact (writeLoc_only ..).work.trans hcount
  · exact hcount

theorem work_tryHeld (w : HeldWrite) (s : State) : (tryHeld w s).work = s.work := by
  have hwrite := work_vwrite w.who w.va w.data s
  unfold tryHeld
  split
  · next e => exact (congrArg (·.1.work) e).symm.trans hwrite
  · next s1 r _ e =>
    have h1 : s1.work = s.work := (congrArg (·.1.work) e).symm.trans hwrite
    clear e hwrite
    split
    · exact h1
    · extract_lets s2
      have h2 : s2.work = s1.work := by
        unfold s2
        split <;> rfl
      split
      · exact h2.trans h1
      · exact h2.trans h1

theorem work_flushHeld (s : State) : (flushHeld s).work = s.work := work_foldl fun t w _ => work_tryHeld w t

theorem work_tryHost (w : HostWrite) (s : State) : (tryHost w s).work = s.work := by
  unfold tryHost
  split
  · rfl
  · refine work_foldl fun t p _ => ?_
    split
    · rfl
    · exact (writeLine_only ..).work

theorem work_retryHost (l : List HostWrite) (s : State) : (retryHost l s).work = s.work :=
  work_foldl fun t w _ => work_tryHost w t

/-- Each group is one of before, but for bolted entries of the groups of a context. -/
def BoltsDrop (a : Nat) (s t : State) : Prop :=
  ∀ j y, t.group? j = some y → ∃ x, s.group? j = some x ∧ (x.asid ≠ a → y = x) ∧ { y with bolts := x.bolts } = x

theorem BoltsDrop.of_eq {a : Nat} {s t : State} (h : t.groups = s.groups) : BoltsDrop a s t := fun j y hy =>
  ⟨y, (congrArg (smGet? · j) h).symm.trans hy, fun _ => rfl, rfl⟩

theorem BoltsDrop.trans {a : Nat} {s t u : State} (h : BoltsDrop a s t) (k : BoltsDrop a t u) : BoltsDrop a s u := by
  intro j z hz
  obtain ⟨y, hy, hzy, hzb⟩ := k j z hz
  obtain ⟨x, hx, hyx, hyb⟩ := h j y hy
  have hasid : y.asid = x.asid := (congrArg Group.asid hyb :)
  refine ⟨x, hx, fun hne => (hzy (hasid.trans_ne hne)).trans (hyx hne), ?_⟩
  rw [← hyb, ← hzb]

/-- A group of a context loses the bolted entries that a test picks, where its cluster is picked (R369). -/
def Group.dropBolts (a : Nat) (p : Leaf → Bool) (f : Nat → Bool) (x : Group) : Group :=
  if x.asid = a ∧ f (clusterOf x.core) = true then
    { x with bolts := x.bolts.map fun b => { b with entries := b.entries.filter fun l => !(p l) } }
  else x

theorem groups_dropEntries (a : Nat) (p : Leaf → Bool) (f : Nat → Bool) (s : State) :
    (dropEntries a p f s).groups = s.groups.map fun e => (e.1, e.2.dropBolts a p f) :=
  List.map_congr_left fun e _ => by
    unfold Group.dropBolts
    split <;> rfl

theorem boltsDrop_dropEntries (a : Nat) (p : Leaf → Bool) (f : Nat → Bool) (s : State) :
    BoltsDrop a s (dropEntries a p f s) := by
  intro j y hy
  rw [State.group?, groups_dropEntries, smGet?_map, Option.map_eq_some_iff] at hy
  obtain ⟨x, hx, rfl⟩ := hy
  refine ⟨x, hx, fun hne => if_neg fun h => hne h.1, ?_⟩
  unfold Group.dropBolts
  split <;> rfl

/-- The context's migrations are gone, its bolted entries may be fewer, and nothing else that a context has in hand
changes. -/
structure EndsMigs (a : Nat) (s t : State) : Prop where
  regs    : t.regs = s.regs
  kernels : t.kernels = s.kernels
  groups  : BoltsDrop a s t
  migs    : ∀ m ∈ t.migs, m.asid ≠ a

theorem clearMig_spec (m : Mig) (s : State) : (clearMig m s).regs = s.regs ∧ (clearMig m s).kernels = s.kernels ∧
    BoltsDrop m.asid s (clearMig m s) := by
  have hleaves : (m.leaves.foldl (fun s l => casLeaf m.asid l.1 (l.2.toNat + 2 ^ 15) l.2.toNat s) s).work = s.work :=
    work_foldl fun t l _ => work_casLeaf ..
  have hgroups := BoltsDrop.of_eq (a := m.asid) (congrArg WorkParts.groups hleaves)
  exact ⟨(congrArg WorkParts.regs hleaves :), (congrArg WorkParts.kernels hleaves :),
    hgroups.trans (boltsDrop_dropEntries m.asid _ _ _)⟩

theorem endMigs_spec (a : Nat) (s : State) : EndsMigs a s (endMigs a s) := by
  unfold endMigs
  extract_lets mine s1 s2
  have hmine : ∀ m ∈ mine, m.asid = a := fun m hm => of_decide_eq_true (List.mem_filter.1 hm).2
  split
  · next hnone =>
    refine ⟨rfl, rfl, .of_eq rfl, fun m hm ha => ?_⟩
    exact of_decide_eq_false (Bool.not_eq_true _ ▸ List.filter_eq_nil_iff.1 hnone m hm) ha
  · obtain ⟨hregs, hkernels, hgroups⟩ : s1.regs = s.regs ∧ s1.kernels = s.kernels ∧ BoltsDrop a s s1 := by
      refine foldl_keeps_mem (P := fun t => t.regs = s.regs ∧ t.kernels = s.kernels ∧ BoltsDrop a s t)
        ⟨rfl, rfl, .of_eq rfl⟩ fun t m hm ht => ?_
      obtain ⟨hr, hk, hg⟩ := clearMig_spec m t
      exact ⟨hr.trans ht.1, hk.trans ht.2.1, ht.2.2.trans (hmine m hm ▸ hg)⟩
    have hwork : (retryHost s2.heldHost s2).work = { s1.work with migs := s1.migs.filter fun m => m.asid ≠ a } :=
      (work_retryHost ..).trans (work_flushHeld _)
    refine ⟨(congrArg WorkParts.regs hwork :).trans hregs, (congrArg WorkParts.kernels hwork :).trans hkernels,
      hgroups.trans (.of_eq (congrArg WorkParts.groups hwork)), fun m hm => ?_⟩
    have hmigs : (retryHost s2.heldHost s2).migs = s1.migs.filter fun m => m.asid ≠ a :=
      congrArg WorkParts.migs hwork
    rw [hmigs] at hm
    exact of_decide_eq_true (List.mem_filter.1 hm).2

/-! ## The kernels of a context that is torn down (R169, R197) -/

/-- A kernel is over: it has RETIRED or is ABORTED, or there is none. -/
def KernelOver (k : Nat) (s : State) : Prop := ∀ z, s.kernel? k = some z → z.st = .retired ∨ z.st = .aborted

/-- The kernels `ks` are over and no group of one that was not is placed; nothing else that a context has in hand
changes. -/
structure EndsKernels (ks : List Nat) (s t : State) : Prop where
  regs   : t.regs = s.regs
  migs   : t.migs = s.migs
  ended  : ∀ k ∈ ks, KernelOver k t
  others : ∀ k, k ∉ ks → t.kernel? k = s.kernel? k
  groups : ∀ j y, t.group? j = some y → s.group? j = some y ∧ (y.serial ∈ ks → KernelOver y.serial s)

theorem abortKernel_of_over {k : Nat} {s : State} (h : KernelOver k s) : abortKernel k s = s := by
  unfold abortKernel
  split
  · rfl
  · next x hx => exact if_pos (h x hx)

theorem endsKernels_abortKernel (k : Nat) (s : State) : EndsKernels [k] s (abortKernel k s) := by
  by_cases hover : KernelOver k s
  · rw [abortKernel_of_over hover]
    exact ⟨rfl, rfl, fun j hj => by simpa [List.mem_singleton.1 hj] using hover, fun _ _ => rfl,
      fun j y hy => ⟨hy, fun hk => by simpa [List.mem_singleton.1 hk] using hover⟩⟩
  · obtain ⟨x, hx, hst⟩ : ∃ x, s.kernel? k = some x ∧ ¬ (x.st = .retired ∨ x.st = .aborted) := by
      simpa [KernelOver] using hover
    obtain ⟨hregs, hmigs, ⟨y, hy, hab⟩, hothers, hgroups⟩ := abortKernel_spec hx hst
    refine ⟨hregs, hmigs, fun j hj z hz => ?_, fun j hj => hothers j (by simpa using hj), fun j z hz => ?_⟩
    · rw [List.mem_singleton.1 hj, hy] at hz
      exact .inr (Option.some.inj hz ▸ hab)
    · obtain ⟨hs, hne⟩ := hgroups j z hz
      exact ⟨hs, fun hk => absurd (List.mem_singleton.1 hk) hne⟩

theorem EndsKernels.trans {ks ls : List Nat} {s t u : State} (h : EndsKernels ks s t) (k : EndsKernels ls t u) :
    EndsKernels (ks ++ ls) s u := by
  refine ⟨k.regs.trans h.regs, k.migs.trans h.migs, fun j hj => ?_, fun j hj => ?_, fun j y hy => ?_⟩
  · by_cases hl : j ∈ ls
    · exact k.ended j hl
    · rw [KernelOver, k.others j hl]
      exact h.ended j ((List.mem_append.1 hj).resolve_right hl)
  · rw [List.mem_append, not_or] at hj
    exact (k.others j hj.2).trans (h.others j hj.1)
  · obtain ⟨ht, hover⟩ := k.groups j y hy
    obtain ⟨hs, hover'⟩ := h.groups j y ht
    refine ⟨hs, fun hmem => ?_⟩
    by_cases hk : y.serial ∈ ks
    · exact hover' hk
    · rw [KernelOver, ← h.others _ hk]
      exact hover ((List.mem_append.1 hmem).resolve_left hk)

theorem endsKernels_finishLast {k : Nat} {s : State} (h : KernelOver k s) : EndsKernels [k] s (finishLast k s) := by
  have hself : EndsKernels [k] s s := ⟨rfl, rfl, fun j hj => by simpa [List.mem_singleton.1 hj] using h, fun _ _ => rfl,
    fun j y hy => ⟨hy, fun hk => by simpa [List.mem_singleton.1 hk] using h⟩⟩
  unfold finishLast
  split
  · exact hself
  next x hx =>
  split
  · obtain ⟨hwork, ⟨y, hy, hsame⟩, hothers⟩ := finishKernel_spec hx true
    obtain ⟨-, hst, -, -⟩ := hsame.parts
    have hmove := KernelsMove.of_work hwork
    refine ⟨hmove.regs, hmove.migs, fun j hj z hz => ?_, fun j hj => hothers j (by simpa using hj), fun j z hz => ?_⟩
    · rw [List.mem_singleton.1 hj] at hz
      rw [← Option.some.inj (hy.symm.trans hz), hst]
      exact h x hx
    · exact hself.groups j z ((congrArg (smGet? · j) hmove.groups).symm.trans hz)
  · exact hself

theorem endsKernels_foldl (ks : List Nat) (s : State) :
    EndsKernels ks s (ks.foldl (fun s k => finishLast k (abortKernel k s)) s) := by
  induction ks generalizing s with
  | nil => exact ⟨rfl, rfl, nofun, fun _ _ => rfl, fun j y hy => ⟨hy, nofun⟩⟩
  | cons k ks ih =>
    have habort := endsKernels_abortKernel k s
    have hfirst := habort.trans (endsKernels_finishLast (habort.ended k (List.mem_singleton_self k)))
    have hall := hfirst.trans (ih (finishLast k (abortKernel k s)))
    refine ⟨hall.regs, hall.migs, fun j hj => hall.ended j ?_, fun j hj => hall.others j ?_, fun j y hy => ?_⟩
    · simpa using hj
    · simpa using hj
    · obtain ⟨hs, hover⟩ := hall.groups j y hy
      exact ⟨hs, fun hk => hover (by simpa using hk)⟩

/-! ## TEARDOWN (R169) -/

theorem work_postEvents (a : Nat) (l : List (BitVec 512)) (s : State) : (postEvents a l s).work = s.work := by
  fun_induction postEvents a l s with
  | case1 s => rfl
  | case2 e l s s1 i h ih => exact ih.trans ((congrArg (·.1.work) h).symm.trans (work_ringPost a e s))
  | case3 => rfl

theorem linesOnly_storeTable (a : Nat) (s : State) : LinesOnly s (storeTable a s) :=
  linesOnly_foldl (fun t b => linesOnly_storeBuf a b t) _ s

/-- The kernels of a context, by key. -/
def kernelsOf (a : Nat) (s : State) : List Nat := (s.kernels.filter fun p => p.2.asid = a).map Prod.fst

theorem mem_kernelsOf {a k : Nat} {s : State} {z : Kernel} (hz : s.kernel? k = some z) (ha : z.asid = a) :
    k ∈ kernelsOf a s :=
  List.mem_map.2 ⟨(k, z), List.mem_filter.2 ⟨mem_of_smGet? hz, decide_eq_true ha⟩, rfl⟩

/-- The state once the migrations and kernels of a context have ended. -/
def endWork (a : Nat) (s : State) : State :=
  (kernelsOf a s).foldl (fun s k => finishLast k (abortKernel k s)) (endMigs a s)

/-- The state once what the device holds of a context is dropped. -/
def dropContext (a : Nat) (s : State) : State :=
  { detachQueues a s with
    tlb := s.tlb.filter fun p => p.2.asid ≠ a
    copies := s.copies.filter fun c => c.asid ≠ a
    tables := s.tables.filter fun t => t.asid ≠ a
    chq := s.chq.map fun (p : Nat × List ChItem) => (p.1, p.2.filter fun
      | .table t => decide (t.asid ≠ a)
      | .run _ => true)
    held := s.held.filter fun w => w.who.asid ≠ a
    calls := s.calls.filter fun c => c.asid ≠ a }.modCtx a fun x =>
      { x with st := .tornDown, held := false, bufs := [], events := [] }

/-- A TEARDOWN ends the context's work, posts its events and drops what the device holds of it. -/
theorem teardown_spec (a : Nat) (s : State) :
    ∃ u, u.work = (endWork a s).work ∧ LinesOnly (dropContext a u) (teardown a s) := by
  refine ⟨if ((endWork a s).ctx a).ringBad then endWork a s else
    postEvents a ((endWork a s).ctx a).events (endWork a s), ?_, linesOnly_storeTable ..⟩
  split
  · rfl
  · exact work_postEvents ..

/-- What is left of a context's migrations, kernels and groups. -/
theorem endWork_spec (a : Nat) (s : State) : let t := endWork a s
    t.regs = s.regs ∧ (∀ m ∈ t.migs, m.asid ≠ a) ∧
    (∀ k z, t.kernel? k = some z → z.asid = a → z.st = .retired ∨ z.st = .aborted) ∧
    ∀ j y, t.group? j = some y → ∃ x, s.group? j = some x ∧ (x.asid ≠ a → y = x) ∧ { y with bolts := x.bolts } = x ∧
      ∀ z, s.kernel? y.serial = some z → z.asid ≠ a ∨ z.st = .retired ∨ z.st = .aborted := by
  obtain ⟨hregs, hkernels, hgroups, hmigs⟩ := endMigs_spec a s
  obtain ⟨hregs', hmigs', hended, hothers, hgroups'⟩ := endsKernels_foldl (kernelsOf a s) (endMigs a s)
  have hk (k : Nat) : (endMigs a s).kernel? k = s.kernel? k := congrArg (smGet? · k) hkernels
  refine ⟨hregs'.trans hregs, fun m hm => hmigs m (hmigs' ▸ hm), fun k z hz ha => ?_, fun j y hy => ?_⟩
  · by_cases hmem : k ∈ kernelsOf a s
    · exact hended k hmem z hz
    · exact absurd (mem_kernelsOf (((hothers k hmem).trans (hk k)).symm.trans hz) ha) hmem
  · obtain ⟨hy', hover⟩ := hgroups' j y hy
    obtain ⟨x, hx, hsame, hbolts⟩ := hgroups j y hy'
    refine ⟨x, hx, hsame, hbolts, fun z hz => ?_⟩
    by_cases ha : z.asid = a
    · exact .inr (hover (mem_kernelsOf hz ha) z ((hk _).trans hz))
    · exact .inl ha

theorem ctx_dropContext (a : Nat) (s : State) : let x := (dropContext a s).ctx a
    x.st = .tornDown ∧ x.bufs = [] ∧ x.events = [] := by
  unfold dropContext
  dsimp only
  rw [State.ctx_modCtx, if_pos rfl]
  exact ⟨rfl, rfl, rfl⟩

/-- A queue of a context that is left is another's. -/
theorem asid_of_queue?_dropContext {a q : Nat} {s : State} {x : Queue} (h : (dropContext a s).queue? q = some x) :
    x.asid ≠ a :=
  of_decide_eq_true (List.mem_filter.1 (mem_of_smGet? h)).2

/-- A table that waits on a channel is another context's. -/
theorem asid_of_mem_chq_dropContext {a : Nat} {s : State} {p : Nat × List ChItem} (hp : p ∈ (dropContext a s).chq)
    {t : Table} (ht : .table t ∈ p.2) : t.asid ≠ a := by
  obtain ⟨q, -, rfl⟩ := List.mem_map.1 hp
  exact of_decide_eq_true (List.mem_filter.1 ht).2

end Sys2Proof.Machine
end

section
/-!
PROOFS. The commands of CTXCMD and how they complete (R166 to R171), and the measurement chain (R441).
-/
namespace Sys2Proof.Machine
open Sys2Proof

/-! ## Digests (R441) -/

theorem length_flatMap_beBytes (l : List (BitVec 32)) :
    (l.flatMap fun w => beBytes 4 w.toNat).length = 4 * l.length := by
  induction l with
  | nil => rfl
  | cons w l ih =>
    rw [List.flatMap_cons, List.length_append, ih, beBytes, List.length_reverse, leBytes_length, List.length_cons]
    omega

theorem length_shaBlock {h : List (BitVec 32)} (hh : h.length = 8) (b : List Byte) : (shaBlock h b).length = 8 := by
  simp [shaBlock, hh]

theorem length_shaBlocks {h : List (BitVec 32)} (hh : h.length = 8) (n : Nat) (l : List Byte) :
    (shaBlocks n h l).length = 8 := by
  induction n generalizing h l with
  | zero => exact hh
  | succ n ih =>
    rw [shaBlocks]
    split
    · exact hh
    · exact ih (length_shaBlock hh _) _

theorem length_shaH0 : shaH0.length = 8 := by
  rw [shaH0, List.length_map]
  decide

theorem length_sha256 (l : List Byte) : (sha256 l).length = 32 := by
  rw [sha256, length_flatMap_beBytes, length_shaBlocks length_shaH0]

/-- Bytes are what is read of the number that they are. -/
theorem leBytes_leNat (l : List Byte) : leBytes l.length (leNat l) = l := by
  induction l with
  | nil => rfl
  | cons b l ih =>
    have hb := b.isLt
    have hdiv : leNat (b :: l) / 256 = leNat l := by
      rw [leNat]
      omega
    have hmod : BitVec.ofNat 8 (leNat (b :: l)) = b := BitVec.eq_of_toNat_eq (by
      rw [BitVec.toNat_ofNat, leNat]
      omega)
    rw [List.length_cons, leBytes, hdiv, hmod, ih]

theorem chainBytes_measure (image : List Byte) (s : State) :
    chainBytes (measure image s) = sha256 (chainBytes s ++ sha256 image) := by
  have hlen := length_sha256 (chainBytes s ++ sha256 image)
  have hlt := leNat_lt (sha256 (chainBytes s ++ sha256 image))
  rw [hlen] at hlt
  have hnat : (BitVec.ofNat 256 (leNat (sha256 (chainBytes s ++ sha256 image)))).toNat =
      leNat (sha256 (chainBytes s ++ sha256 image)) := by
    rw [BitVec.toNat_ofNat]
    exact Nat.mod_eq_of_lt hlt
  have hbytes := leBytes_leNat (sha256 (chainBytes s ++ sha256 image))
  rw [hlen] at hbytes
  exact (congrArg (leBytes 32) hnat).trans hbytes

/-! ## Commands of CTXCMD (R168) -/

theorem ctxRuns_ctxCmd (op a st : Nat) {s t : State} (h : t.regs = s.regs) : CtxRuns op a st s (ctxCmd op a st t) := by
  rw [CtxRuns, ← h]
  rfl

theorem ctxRefused_ctxCmd (op a st : Nat) (s : State) : CtxRefused op a st s (ctxCmd op a st s) := ⟨rfl, rfl⟩

theorem forceSaveAll_of_no_group {a : Nat} {s : State} (h : ∀ p ∈ s.groups, p.2.asid ≠ a) : forceSaveAll a s = s := by
  have hnone : groupsOf a s = [] := by
    rw [groupsOf, List.map_eq_nil_iff, List.filter_eq_nil_iff]
    exact fun p hp hd => h p hp (of_decide_eq_true hd)
  rw [forceSaveAll, hnone]
  rfl

theorem queuesOf_of_no_queue {s : State} (h : s.queues = []) (a : Nat) : queuesOf a s = [] := by
  rw [queuesOf, h]
  rfl

theorem switchOutQueues_of_no_queue {s : State} (h : s.queues = []) (a : Nat) : switchOutQueues a s = s := by
  rw [switchOutQueues, queuesOf_of_no_queue h]
  rfl

theorem switchInQueues_of_no_queue {s : State} (h : s.queues = []) (a : Nat) : switchInQueues a s = s := by
  rw [switchInQueues, queuesOf_of_no_queue h]
  rfl

theorem recallQueues_of_no_queue {s : State} (h : s.queues = []) (a : Nat) : recallQueues a s = s := by
  rw [recallQueues, queuesOf_of_no_queue h]
  rfl

section
variable {s : State} {a : Nat} (ha : a < 2048)

theorem exec_ctxCommand_of_running (hgo : s.regs.ctxGo = true) {i : Instr}
    (hi : i ∈ [Instr.create a, .switchOut a, .switchIn a, .teardown a, .resume a, .badOp 0 a]) :
    exec i s = .next s := by
  simp only [List.mem_cons, List.not_mem_nil, or_false] at hi
  rcases hi with rfl | rfl | rfl | rfl | rfl | rfl
  all_goals exact congrArg Host.Outcome.next (if_pos (.inl hgo))

variable (hgo : s.regs.ctxGo = false)
include ha hgo

theorem not_running_of_idle : ¬ (s.regs.ctxGo = true ∨ 2048 ≤ a) := by
  rw [hgo, not_or, Nat.not_le]
  exact ⟨Bool.false_ne_true, ha⟩

/-- `CREATE` of an ASID that is taken (R168). -/
theorem exec_create_of_taken (hst : (s.ctx a).st ≠ .absent) : exec (.create a) s = .next (ctxCmd 1 a 2 s) :=
  congrArg Host.Outcome.next ((if_neg (not_running_of_idle ha hgo)).trans (if_pos hst))

theorem exec_create_of_no_record (hst : (s.ctx a).st = .absent) (hr : ctxRecord s = none) :
    exec (.create a) s = .next (ctxCmd 1 a 1 s) := by
  simp only [exec, execCreate, if_neg (not_running_of_idle ha hgo), if_neg (not_not.2 hst), hr]

/-- The state once the context of a record is CREATED, its buffer table stored (R166, R169). -/
def createdState (a r : Nat) (s : State) : State :=
  storeTable a ({ s with keyGen := s.keyGen + 1 }.setCtx a (ctxOf r (s.keyGen + 1)))

omit ha hgo in
theorem createdState_parts (a r : Nat) (s : State) : (createdState a r s).regs = s.regs ∧
    (createdState a r s).keyGen = s.keyGen + 1 ∧
    ∀ b, (createdState a r s).ctx b = if b = a then ctxOf r (s.keyGen + 1) else s.ctx b := by
  obtain ⟨m, l, f, hu⟩ := linesOnly_storeTable a ({ s with keyGen := s.keyGen + 1 }.setCtx a (ctxOf r (s.keyGen + 1)))
  rw [← createdState] at hu
  rw [hu]
  exact ⟨rfl, rfl, fun b => State.ctx_setCtx ..⟩

theorem exec_create_of_record {r : Nat} (hst : (s.ctx a).st = .absent) (hr : ctxRecord s = some r)
    (hok : ctxRecordBad r = false) : exec (.create a) s = .next (ctxCmd 1 a 0
      (measure (Config.runtimeImage (createdState a r s).fresh) (createdState a r s).bump)) := by
  simp only [exec, execCreate, if_neg (not_running_of_idle ha hgo), if_neg (not_not.2 hst), hr, hok,
    if_neg Bool.false_ne_true]
  rfl

theorem exec_switchOut_of_refused (hst : (s.ctx a).st ≠ .resident) : exec (.switchOut a) s = .next (ctxCmd 2 a 3 s) :=
  congrArg Host.Outcome.next ((if_neg (not_running_of_idle ha hgo)).trans (if_neg hst))

theorem exec_switchOut_of_resident (hst : (s.ctx a).st = .resident) (hgroups : ∀ p ∈ s.groups, p.2.asid ≠ a)
    (hqueues : s.queues = []) : exec (.switchOut a) s = .next (ctxCmd 2 a 0 s) := by
  have hforce : forceSaveAll a (ctxCmd 2 a 0 s) = ctxCmd 2 a 0 s := forceSaveAll_of_no_group hgroups
  simp only [exec, execSwitchOut, if_neg (not_running_of_idle ha hgo), if_pos hst, hforce]
  exact congrArg Host.Outcome.next (switchOutQueues_of_no_queue (s := ctxCmd 2 a 0 s) hqueues a)

theorem exec_switchIn_of_refused (hst : (s.ctx a).st ≠ .switchedOut) :
    exec (.switchIn a) s = .next (ctxCmd 3 a 3 s) :=
  congrArg Host.Outcome.next ((if_neg (not_running_of_idle ha hgo)).trans (if_pos hst))

/-- `SWITCH_IN`, to FAULTED where a fault was held (R169, R170). -/
theorem exec_switchIn (hst : (s.ctx a).st = .switchedOut) (hqueues : (s.ctx a).held = false → s.queues = []) :
    exec (.switchIn a) s = .next (ctxCmd 3 a 0 (s.setCtx a (if (s.ctx a).held then
      { s.ctx a with st := .faulted, held := false } else { s.ctx a with st := .resident }))) := by
  refine congrArg Host.Outcome.next ((if_neg (not_running_of_idle ha hgo)).trans ((if_neg (not_not.2 hst)).trans ?_))
  by_cases hh : (s.ctx a).held = true
  · simp only [hh, if_true]
  · have hin := switchInQueues_of_no_queue (s := s.setCtx a { s.ctx a with st := .resident })
      (hqueues (eq_false_of_ne_true hh)) a
    simp only [if_neg hh, hin]

theorem exec_teardown_of_refused (hst : (s.ctx a).st = .absent ∨ (s.ctx a).st = .tornDown) :
    exec (.teardown a) s = .next (ctxCmd 4 a 3 s) :=
  congrArg Host.Outcome.next ((if_neg (not_running_of_idle ha hgo)).trans (if_pos hst))

theorem exec_teardown (hst : ¬ ((s.ctx a).st = .absent ∨ (s.ctx a).st = .tornDown)) :
    exec (.teardown a) s = .next (ctxCmd 4 a 0 (teardown a s)) :=
  congrArg Host.Outcome.next ((if_neg (not_running_of_idle ha hgo)).trans (if_neg hst))

theorem exec_resume_of_refused (hst : (s.ctx a).st ≠ .faulted) : exec (.resume a) s = .next (ctxCmd 5 a 3 s) :=
  congrArg Host.Outcome.next ((if_neg (not_running_of_idle ha hgo)).trans (if_pos hst))

theorem exec_badOp {op : Nat} (hop : op = 0 ∨ op = 6 ∨ op = 7) : exec (.badOp op a) s = .next (ctxCmd op a 4 s) := by
  refine congrArg Host.Outcome.next (if_neg ?_)
  have := not_running_of_idle ha hgo
  grind

end

/-! ## RESUME (R171) -/

/-- A hart that faulted its context enters SENTRY again at level S. -/
def Hart.reentered (sentry : Word) (x : Hart) : Hart :=
  if x.fs then { x with fs := false, level := .s, pc := sentry, wait := none, sbank := Vector.replicate 8 0 } else x

theorem Hart.reentered_of_fs {x : Hart} (h : x.fs = true) (sentry : Word) : x.reentered sentry =
    { x with fs := false, level := .s, pc := sentry, wait := none, sbank := Vector.replicate 8 0 } := if_pos h

theorem Hart.reentered_reentered (sentry : Word) (x : Hart) :
    (x.reentered sentry).reentered sentry = x.reentered sentry := by
  cases hfs : x.fs <;> simp [Hart.reentered, hfs]

/-- Nothing changes but that harts enter SENTRY again, those of a list among them. -/
def Reenters (sentry : Word) (l : List Nat) (s t : State) : Prop :=
  { t with harts := s.harts } = s ∧ ∀ h, t.hart h = if h ∈ l then (s.hart h).reentered sentry else s.hart h

theorem Reenters.parts {sentry : Word} {l : List Nat} {s t : State} (h : Reenters sentry l s t) :
    t.groups = s.groups ∧ t.ctxs = s.ctxs ∧ t.queues = s.queues ∧ t.regs = s.regs := by
  have hs := h.1
  exact ⟨(congrArg State.groups hs :), (congrArg State.ctxs hs :), (congrArg State.queues hs :),
    (congrArg State.regs hs :)⟩

theorem Reenters.trans {sentry : Word} {k l : List Nat} {s t u : State} (h : Reenters sentry k s t)
    (h' : Reenters sentry l t u) : Reenters sentry (k ++ l) s u := by
  obtain ⟨hs, ht⟩ := h
  obtain ⟨hs', hu⟩ := h'
  refine ⟨?_, fun j => ?_⟩
  · rw [← hs, ← hs']
  · rw [hu, ht]
    by_cases hk : j ∈ k <;> by_cases hl : j ∈ l <;> simp [hk, hl, Hart.reentered_reentered]

theorem reenters_foldl (sentry : Word) (l : List Nat) (s : State) :
    Reenters sentry l s (l.foldl (fun s h => s.modHart h (Hart.reentered sentry)) s) := by
  induction l generalizing s with
  | nil => exact ⟨rfl, fun _ => rfl⟩
  | cons a l ih =>
    refine Reenters.trans (k := [a]) (t := s.modHart a (Hart.reentered sentry)) ⟨rfl, fun h => ?_⟩ (ih _)
    rw [State.hart_modHart]
    by_cases hh : h = a
    · rw [if_pos hh, if_pos (List.mem_singleton.2 hh), hh]
    · rw [if_neg hh, if_neg (mt List.mem_singleton.1 hh)]

/-- The harts of a group that faulted their context enter SENTRY again. -/
def reenterGroup (sentry : Word) (s : State) (g : Nat) : State :=
  match s.group? g with
  | none => s
  | some x => x.harts.foldl (fun s h => s.modHart h (Hart.reentered sentry)) s

/-- The harts of a group, by its key. -/
def State.hartsOf (s : State) (g : Nat) : List Nat := (s.group? g).elim [] Group.harts

theorem reenters_reenterGroup (sentry : Word) (g : Nat) (s : State) :
    Reenters sentry (s.hartsOf g) s (reenterGroup sentry s g) := by
  unfold State.hartsOf reenterGroup
  cases s.group? g with
  | none => exact ⟨rfl, fun _ => rfl⟩
  | some x => exact reenters_foldl sentry x.harts s

theorem reenters_groups (sentry : Word) (gs : List Nat) (s : State) :
    Reenters sentry (gs.flatMap s.hartsOf) s (gs.foldl (reenterGroup sentry) s) := by
  induction gs generalizing s with
  | nil => exact ⟨rfl, fun _ => rfl⟩
  | cons g gs ih =>
    have hfirst := reenters_reenterGroup sentry g s
    obtain ⟨hgroups, -⟩ := hfirst.parts
    have hharts : (reenterGroup sentry s g).hartsOf = s.hartsOf := by
      unfold State.hartsOf State.group?
      rw [hgroups]
    have hrest := ih (reenterGroup sentry s g)
    rw [hharts] at hrest
    exact hfirst.trans hrest

theorem reenters_reenter (a : Nat) (s : State) :
    Reenters (s.ctx a).sentry ((groupsOf a s).flatMap s.hartsOf) s (reenter a s) :=
  reenters_groups ..

theorem mem_hartsOf_groupsOf {s : State} {a g h : Nat} {x : Group} (hg : s.group? g = some x) (ha : x.asid = a)
    (hh : h ∈ x.harts) : h ∈ (groupsOf a s).flatMap s.hartsOf := by
  refine List.mem_flatMap.2 ⟨g, List.mem_map.2 ⟨(g, x), ?_, rfl⟩, ?_⟩
  · exact List.mem_filter.2 ⟨mem_groups_of_group? hg, decide_eq_true ha⟩
  · rw [State.hartsOf, hg]
    exact hh

/-- The context once RESUME has made it RESIDENT. -/
def Ctx.resumed (x : Ctx) : Ctx := { x with st := .resident, ringBad := false }

/-- `RESUME` of a context without queues. -/
theorem exec_resume {s : State} {a : Nat} (ha : a < 2048) (hgo : s.regs.ctxGo = false) (hst : (s.ctx a).st = .faulted)
    (hqueues : s.queues = []) : ∃ u, exec (.resume a) s = .next (ctxCmd 5 a 0 u) ∧
      Reenters (s.ctx a).sentry ((groupsOf a s).flatMap s.hartsOf) (s.modCtx a Ctx.resumed) u := by
  have hre := reenters_reenter a (s.modCtx a Ctx.resumed)
  have hsentry : ((s.modCtx a Ctx.resumed).ctx a).sentry = (s.ctx a).sentry := by
    rw [State.ctx_modCtx, if_pos rfl]
    rfl
  rw [hsentry] at hre
  obtain ⟨-, -, hq, -⟩ := hre.parts
  refine ⟨reenter a (s.modCtx a Ctx.resumed), ?_, hre⟩
  have hrecall := recallQueues_of_no_queue (hq.trans hqueues) a
  simp only [exec, execResume, if_neg (not_running_of_idle ha hgo), if_neg (not_not.2 hst)]
  exact congrArg (fun u => Host.Outcome.next (ctxCmd 5 a 0 u)) hrecall

/-! ## Completion (R168) -/

theorem State.ctx_smDel (s : State) (a b : Nat) :
    ({ s with ctxs := smDel s.ctxs a } : State).ctx b = if b = a then Ctx.absent else s.ctx b := by
  rw [State.ctx, smGet, smGet?_smDel]
  split
  · rfl
  · rfl


section
variable {s : State} (hgo : s.regs.ctxGo = true)
include hgo

theorem exec_contextCommandComplete_of_done (hout : s.switchingOut s.regs.ctxAsid.toNat = false)
    (htear : ¬ (s.regs.ctxOp = 4 ∧ s.regs.ctxStatus = 0 ∧ (s.ctx s.regs.ctxAsid.toNat).st = .tornDown)) :
    exec .contextCommandComplete s = .next (ctxDone s) := by
  simp only [exec, execContextCommandComplete, hgo, hout, if_neg htear]
  rfl

theorem exec_contextCommandComplete_of_still (hout : s.switchingOut s.regs.ctxAsid.toNat = true)
    (hstill : standsStill s.regs.ctxAsid.toNat s = true) :
    exec .contextCommandComplete s = .next (ctxDone (leaveResident s.regs.ctxAsid.toNat s)) := by
  simp only [exec, execContextCommandComplete, hgo, hout, hstill]
  rfl

end

/-- The context commands (R166 to R171, R441). -/
theorem ctxCommandsRule : CtxCommandsRule := by
  intro s a ha
  refine ⟨fun hgo i hi => exec_ctxCommand_of_running hgo hi, fun hgo => ?_, fun hst => ?_, fun hgo hasid => ?_⟩
  · intro x
    refine ⟨fun hst => ⟨_, exec_create_of_taken ha hgo hst, ctxRefused_ctxCmd ..⟩,
      fun hst hr => ⟨_, exec_create_of_no_record ha hgo hst hr, ctxRefused_ctxCmd ..⟩, fun r hst hr hok => ?_,
      fun hst => ⟨_, exec_switchOut_of_refused ha hgo hst, ctxRefused_ctxCmd ..⟩,
      fun hst hg hq => ⟨_, exec_switchOut_of_resident ha hgo hst hg hq, ctxRefused_ctxCmd ..⟩,
      fun hst => ⟨_, exec_switchIn_of_refused ha hgo hst, ctxRefused_ctxCmd ..⟩,
      fun hst hq => ⟨_, exec_switchIn ha hgo hst hq, ctxRuns_ctxCmd _ _ _ rfl, ?_⟩,
      fun hst => ⟨_, exec_teardown_of_refused ha hgo hst, ctxRefused_ctxCmd ..⟩, fun hst hst' => ?_,
      fun hst => ⟨_, exec_resume_of_refused ha hgo hst, ctxRefused_ctxCmd ..⟩, fun hst hq => ?_,
      fun op hop => ⟨_, exec_badOp ha hgo hop, ctxRefused_ctxCmd ..⟩, s, ?_, rfl⟩
    · have he := exec_create_of_record ha hgo hst hr hok
      obtain ⟨hregs, hkey, hctx⟩ := createdState_parts a r s
      generalize createdState a r s = u at he hregs hkey hctx
      refine ⟨_, ctxOf r (s.keyGen + 1), Config.runtimeImage u.fresh, he, (hctx a).trans (if_pos rfl), rfl, rfl,
        (congrArg (· % 2 ^ 64) (Nat.div_one r) :), rfl, rfl, wd_nbits r 192, rfl, rfl, rfl, rfl, rfl, rfl, rfl,
        hkey.symm, hkey, fun b hb => (hctx b).trans (if_neg hb), rfl, rfl, (chainBytes_measure ..).trans ?_⟩
      rw [chainBytes, show u.bump.regs = s.regs from hregs]
    · exact (State.ctx_setCtx ..).trans (if_pos rfl)
    · obtain ⟨u, hwork, m, l, f, ht⟩ := teardown_spec a s
      obtain ⟨hregs, hmigs, hkernels, hgroups⟩ := endWork_spec a s
      obtain ⟨htorn, hbufs, hevents⟩ := ctx_dropContext a u
      have hk : u.kernels = (endWork a s).kernels := congrArg WorkParts.kernels hwork
      have hg : u.groups = (endWork a s).groups := congrArg WorkParts.groups hwork
      have hm : u.migs = (endWork a s).migs := congrArg WorkParts.migs hwork
      have hr : u.regs = (endWork a s).regs := congrArg WorkParts.regs hwork
      refine ⟨_, exec_teardown ha hgo (not_or.2 ⟨hst, hst'⟩), ?_⟩
      rw [ht]
      exact ⟨ctxRuns_ctxCmd _ _ _ (hr.trans hregs), htorn, hbufs, hevents,
        fun k z hz => hkernels k z ((congrArg (smGet? · k) hk).symm.trans hz),
        fun g y hy => hgroups g y ((congrArg (smGet? · g) hg).symm.trans hy),
        fun q y hy => asid_of_queue?_dropContext hy, fun e he => of_decide_eq_true (List.mem_filter.1 he).2,
        fun c hc => of_decide_eq_true (List.mem_filter.1 hc).2, fun n hn => hmigs n (hm ▸ hn),
        fun c hc => of_decide_eq_true (List.mem_filter.1 hc).2, fun v hv => of_decide_eq_true (List.mem_filter.1 hv).2,
        fun w hw => of_decide_eq_true (List.mem_filter.1 hw).2, fun p hp v hv => asid_of_mem_chq_dropContext hp hv⟩
    · obtain ⟨u, he, hre⟩ := exec_resume ha hgo hst hq
      obtain ⟨-, hctxs, -, hregs⟩ := hre.parts
      refine ⟨_, he, ctxRuns_ctxCmd _ _ _ hregs, ?_, fun g y h hg hy hh hfs => ?_⟩
      · exact (congrArg (smGet Ctx.absent · a) hctxs).trans ((State.ctx_modCtx ..).trans (if_pos rfl))
      · have hu : (ctxCmd 5 a 0 u).hart h = (s.hart h).reentered x.sentry :=
          (hre.2 h).trans (if_pos (mem_hartsOf_groupsOf hg hy hh))
        rw [hu, Hart.reentered_of_fs hfs]
        exact ⟨rfl, rfl, rfl, rfl, rfl⟩
    · simp only [exec, execContextCommandComplete, hgo]
      rfl
  · exact ⟨_, congrArg Host.Outcome.next (if_pos hst), (State.ctx_smDel s a a).trans (if_pos rfl),
      fun b hb => (State.ctx_smDel s a b).trans (if_neg hb), rfl⟩
  · subst hasid
    intro x
    refine ⟨fun hout htear => ⟨_, exec_contextCommandComplete_of_done hgo hout htear, rfl, rfl, rfl⟩,
      fun hout hstill hq => ⟨_, exec_contextCommandComplete_of_still hgo hout hstill, ?_⟩⟩
    have hctx : (leaveResident s.regs.ctxAsid.toNat s).ctx s.regs.ctxAsid.toNat = { x with st := .switchedOut } := by
      rw [leaveResident, switchOutQueues_of_no_queue hq, State.ctx_modCtx, if_pos rfl]
      rfl
    rw [leaveResident, switchOutQueues_of_no_queue hq] at hctx ⊢
    exact ⟨rfl, rfl, hctx, fun e he => of_decide_eq_true (List.mem_filter.1 he).2, rfl, rfl⟩

end Sys2Proof.Machine
end

section
/-!
PROOFS. Event rings (R236, R238, R446) and the debug registers.
-/
namespace Sys2Proof.Machine
open Sys2Proof

/-! ## Event rings (R238, R446) -/

/-- The kind, cause and trap value of an event record. -/
theorem fields_eventRec (kind flags level err unit serial : Nat) (cause tval epc epr source time : Word) :
    let e := (eventRec kind flags level err unit serial cause tval epc epr source time).toNat
    e % 2 ^ 8 = kind % 256 ∧ e / 2 ^ 128 % 2 ^ 64 = cause.toNat ∧ e / 2 ^ 192 % 2 ^ 64 = tval.toNat := by
  have hc := cause.isLt
  have hv := tval.isLt
  have hp := epc.isLt
  have hr := epr.isLt
  have hs := source.isLt
  have ht := time.isLt
  have hnat : (eventRec kind flags level err unit serial cause tval epc epr source time).toNat =
      kind % 256 + flags % 256 * 2 ^ 8 + level % 256 * 2 ^ 16 + err % 256 * 2 ^ 24 + unit % 2 ^ 32 * 2 ^ 32
        + serial % 2 ^ 48 * 2 ^ 64 + cause.toNat * 2 ^ 128 + tval.toNat * 2 ^ 192 + epc.toNat * 2 ^ 256
        + epr.toNat * 2 ^ 320 + source.toNat * 2 ^ 384 + time.toNat * 2 ^ 448 :=
    (BitVec.toNat_ofNat ..).trans (Nat.mod_eq_of_lt (by omega))
  rw [hnat]
  omega

theorem markFaulted_of_no_group {a : Nat} {s : State} (hst : (s.ctx a).st = .resident) (hout : s.switchingOut a = false)
    (hgroups : ∀ p ∈ s.groups, p.2.asid ≠ a) : markFaulted a s = s.setCtx a { s.ctx a with st := .faulted } := by
  simp only [markFaulted, hst, hout, if_neg Bool.false_ne_true]
  exact forceSaveAll_of_no_group hgroups

theorem switchingOut_congr {a : Nat} {s t : State} (hr : t.regs = s.regs) (hst : (t.ctx a).st = (s.ctx a).st) :
    t.switchingOut a = s.switchingOut a := by
  rw [State.switchingOut, State.switchingOut, hr, hst]

theorem ctx_queueEvent (a : Nat) (e : BitVec 512) (s : State) :
    (queueEvent a e s).ctx a = { s.ctx a with events := (s.ctx a).events ++ [e] } :=
  (State.ctx_modCtx ..).trans (if_pos rfl)

/-- A context whose ring has failed faults. -/
theorem markFaulted_of_bad_ring {a : Nat} {s : State} (hst : (s.ctx a).st = .resident)
    (hout : s.switchingOut a = false) (hgroups : ∀ p ∈ s.groups, p.2.asid ≠ a) :
    let t := markFaulted a (s.modCtx a fun y => { y with ringBad := true })
    t.ctx a = { s.ctx a with st := .faulted, ringBad := true } ∧ t.msix = s.msix := by
  have hctx : (s.modCtx a fun y => { y with ringBad := true }).ctx a = { s.ctx a with ringBad := true } :=
    (State.ctx_modCtx ..).trans (if_pos rfl)
  have hst' : ((s.modCtx a fun y => { y with ringBad := true }).ctx a).st = .resident := by
    rw [hctx]
    exact hst
  have hout' : (s.modCtx a fun y => { y with ringBad := true }).switchingOut a = false := by
    refine (switchingOut_congr (s := s) ?_ (hst'.trans hst.symm)).trans hout
    rfl
  rw [markFaulted_of_no_group hst' hout' hgroups, hctx]
  exact ⟨(State.ctx_setCtx ..).trans (if_pos rfl), rfl⟩

section
variable {s s1 : State} {a : Nat} {e : BitVec 512} {rest : List (BitVec 512)} (he : (s.ctx a).events = e :: rest)
  (hring : (s.ctx a).ringBad = false) (habs : (s.ctx a).st ≠ .absent) (htorn : (s.ctx a).st ≠ .tornDown)
include he hring habs htorn

omit he in
theorem posts_of_ring : ¬ ((s.ctx a).ringBad = true ∨ (s.ctx a).st = .absent ∨ (s.ctx a).st = .tornDown) := by
  simp [hring, habs, htorn]

theorem exec_eventPost_of_room {i : Word} (h : ringPost a e s = (s1, .at i)) :
    exec (.eventPost a) s = .next (s1.modCtx a fun y => { y with events := rest }) := by
  simp only [exec, execEventPost, if_neg (posts_of_ring hring habs htorn), he, h]

theorem exec_eventPost_of_full (h : ringPost a e s = (s1, .full)) : exec (.eventPost a) s = .next s := by
  simp only [exec, execEventPost, if_neg (posts_of_ring hring habs htorn), he, h]

theorem exec_eventPost_of_fault {f : Trap} (h : ringPost a e s = (s1, .fault f)) :
    exec (.eventPost a) s = .next (raiseMsix 0 (queueEvent a (eventRec 4 0 0 0 0 0 (wd f.code.toNat) f.tval 0 0
      (wd (s.ctx a).evq) s.time) (markFaulted a (s1.modCtx a fun y => { y with ringBad := true })))) := by
  simp only [exec, execEventPost, if_neg (posts_of_ring hring habs htorn), he, h]

end

/-! ## Debug registers (R236) -/

theorem wd_fld_low (v : Word) : wd (fld v 0 6) = v &&& 0x3F := by
  refine BitVec.eq_of_toNat_eq ?_
  rw [BitVec.toNat_and, show (0x3F : Word).toNat = 2 ^ 6 - 1 from rfl, Nat.and_two_pow_sub_one_eq_mod, wd, fld, nbits,
    pow_zero, Nat.div_one, BitVec.toNat_ofNat]
  omega

/-- The host's write of a debug register of a hart changes that register alone. -/
theorem debugWrite_spec (s : State) (h : Nat) (f : Dbg → Dbg) :
    let t := s.modHart h fun x => { x with dbgReg := f x.dbgReg }
    (∀ j, j ≠ h → t.hart j = s.hart j) ∧ { t with harts := s.harts } = s ∧
    { t.hart h with dbgReg := (s.hart h).dbgReg } = s.hart h ∧ (t.hart h).dbgReg = f (s.hart h).dbgReg := by
  have hself : (s.modHart h fun x => { x with dbgReg := f x.dbgReg }).hart h =
      { s.hart h with dbgReg := f (s.hart h).dbgReg } := (State.hart_modHart ..).trans (if_pos rfl)
  refine ⟨fun j hj => (State.hart_modHart ..).trans (if_neg hj), rfl, ?_, congrArg Hart.dbgReg hself⟩
  rw [hself]

/-- Events of a context (R238, R446), and the debug registers (R236). -/
theorem eventsPostedRule : EventsPostedRule := by
  refine ⟨?_, fun s h off v hh => ?_⟩
  · intro s a e rest x he hring habs htorn
    refine ⟨fun s1 i h => ?_, fun s1 h => ?_, fun s1 f h hst hout hev hgroups => ?_⟩
    · exact ⟨_, exec_eventPost_of_room he hring habs htorn h, (State.ctx_modCtx ..).trans (if_pos rfl),
        fun b hb => (State.ctx_modCtx ..).trans (if_neg hb), rfl⟩
    · exact exec_eventPost_of_full he hring habs htorn h
    · obtain ⟨hkind, hcause, htval⟩ :=
        fields_eventRec 4 0 0 0 0 0 (wd f.code.toNat) f.tval 0 0 (wd (s.ctx a).evq) s.time
      obtain ⟨hctx, hmsix⟩ := markFaulted_of_bad_ring hst hout hgroups
      refine ⟨_, _, exec_eventPost_of_fault he hring habs htorn h, ?_, ?_, ?_, hkind, hcause.trans ?_, htval,
        congrArg (· ++ [0]) hmsix⟩
      · exact (congrArg Ctx.st (ctx_queueEvent ..)).trans (congrArg Ctx.st hctx)
      · exact (congrArg Ctx.ringBad (ctx_queueEvent ..)).trans (congrArg Ctx.ringBad hctx)
      · refine (congrArg Ctx.events (ctx_queueEvent ..)).trans (congrArg (· ++ [_]) ?_)
        exact (congrArg Ctx.events hctx).trans hev
      · rw [wd, BitVec.toNat_ofNat]
        omega
  · refine ⟨_, congrArg Host.Outcome.next (if_neg (Nat.not_le.2 hh)), ?_⟩
    split
    · obtain ⟨hothers, hs, hd, hreg⟩ := debugWrite_spec s h fun d => { d with ctl := wd (fld v 0 6) }
      exact ⟨hothers, hs, hd, hreg.trans (by rw [if_pos rfl, wd_fld_low])⟩
    · exact debugWrite_spec s h fun d => { d with watch0 := wd (fld v 6 49 * 64) }
    · exact debugWrite_spec s h fun d => { d with watch1 := wd (fld v 6 49 * 64) }
    · next h0 h8 h16 =>
      exact ⟨fun _ _ => rfl, rfl, rfl, by rw [if_neg h0, if_neg h8, if_neg h16]⟩

/-- Settles O48: the commands of CTXCMD (`ctxCommandsRule`), and events and debug registers (`eventsPostedRule`). -/
theorem contextCommands : Obligations.ContextCommands := ⟨ctxCommandsRule, eventsPostedRule⟩

end Sys2Proof.Machine
end
